-- ==== Sys2Proof/Syntax.lean ====
section
/-! DEFINITION. The commands of the block: one constructor per row of the operation table, with the operands the
row's rule names. A tile command names its tile only; its 128-bit word is the one that has reached decode there. -/

namespace Sys2Proof

/-- The four engines of a tile whose queues carry commands (Table 3.3; SIG's ENG 1 to 4, R107). -/
inductive Engine where
  | array | selector | vector | move
deriving DecidableEq, Repr, Inhabited

/-- The HBM cache hint of an access (Table 6.3). -/
inductive Hint where
  | normal | stream | keep | last
deriving DecidableEq, Repr, Inhabited

/-- Who issued an access: it fixes the regulated master (Table 7.1) and who answers for a failure (R240, R241). -/
inductive Requester where
  | tile (t : Nat)
  | mover (job idx : Nat)
  | host
  | fabric (port : Nat)
  | fetch (t : Nat)
  | none
deriving DecidableEq, Repr, Inhabited

/-- The Catalogue transports (R419, Table 14.7); a Fragor message carries its source address (R322). -/
inductive Transport where
  | cons | mgmt | mctp | mailbox
  | fragor (src : Nat)
deriving DecidableEq, Repr, Inhabited

/-- Symbol errors that storage or a link has put into a word since it was written: symbol and error value. -/
abbrev Upset := List (Nat × Byte)

/-- What befalls a word that is read: errors in its stored codeword and on its way, and an error inside its home (R31, R234,
R274). -/
structure ReadUpset where
  stored : Upset
  transit : Upset
  internal : Bool
deriving DecidableEq, Repr, Inhabited

/-- A word sent to its home: the data, and errors on its way (R31). -/
structure SentWord where
  data : BitVec 512
  transit : Upset
deriving DecidableEq, Repr, Inhabited

/-- What befalls a sector that is read: errors in its stored codeword, and whether the stack's on-die ECC reports one (R232). -/
structure SectorUpset where
  stored : Upset
  ecc : Bool
deriving DecidableEq, Repr, Inhabited

/-- What the checks at an engine found in the words that it has received, or taken from its registers and queues, since they
were last reported (R31, R235 to R237): how many words it corrected, and the address of one that was lost. -/
structure Received where
  fixed : Nat
  lost : Option Nat
deriving DecidableEq, Repr, Inhabited

/-- The place of an entry in its engine's queue, whether the engine meets an error of its own, and what it received (R84,
R235, R274). -/
structure EntryEnd where
  pos : Nat
  internal : Bool
  got : Received := { fixed := 0, lost := none }
deriving DecidableEq, Repr, Inhabited

/-- A channel and the command parity errors it reports (R184). -/
structure ParityErrors where
  ch : Nat
  n : Nat
deriving DecidableEq, Repr, Inhabited

/-- A master and the engine of it that makes a request (R214, R220). -/
structure PartSource where
  m : Nat
  eng : Nat
deriving DecidableEq, Repr, Inhabited

/-- An offset in BAR0 or in BAR2 (R257). -/
structure BarOffset where
  bar0 : Bool
  off : Nat
deriving DecidableEq, Repr, Inhabited

/-- The tag of a host read, the ns until it is completed, and errors in the first word on its way (R235, R257). -/
structure ReadTag where
  tag : Nat
  ns : Nat
  transit : Upset := []
deriving DecidableEq, Repr, Inhabited

/-- Bytes that the host writes, and errors that the packet buffer has put into the first 64 of them (R235). -/
structure SentBytes where
  bytes : List Byte
  upset : Upset := []
deriving DecidableEq, Repr, Inhabited

/-- A descriptor in a job's mover list that completes, and what its mover received (R235, R277). -/
structure MoverEnd where
  i : Nat
  got : Received := { fixed := 0, lost := none }
deriving DecidableEq, Repr, Inhabited

/-- What the check of a die-to-die flit found: whether its CRC passes, and the lanes on which it was damaged (R336, R338). -/
structure FlitCheck where
  ok : Bool
  lanes : List Nat := []
deriving DecidableEq, Repr, Inhabited

/-- What the self-tests of step 13 find: defective units by C-die, and bond groups with the bonds of each that fail (R396). -/
structure TileTests where
  units : List (Nat × BitVec 32)
  bonds : List (Nat × Nat × Nat)
deriving DecidableEq, Repr, Inhabited

/-- What the other end of a Fragor link reports while it trains: its unique id and INCARN, and whether it has been reset since the
link last ran (R297). -/
structure LinkPeer where
  uid : Nat
  incarn : Nat
  wasReset : Bool
deriving DecidableEq, Repr, Inhabited

/-- A fabric packet: its 32-byte header (Table 10.4) and the payload that follows, and errors that a packet buffer of this part
has put into the first 64 bytes of the payload (R235). -/
structure Packet where
  hdr : BitVec 256
  payload : List Byte
  upset : Upset := []
deriving DecidableEq, Repr, Inhabited

/-- The data fields of a Catalogue request header (Table 14.3) but OP, which the command fixes, with the ns until its response
is sent (R423) and its data. -/
structure CatReq where
  tag : BitVec 8
  index : BitVec 16
  sub : BitVec 8
  status : BitVec 8
  length : BitVec 16
  offset : BitVec 32
  rsv : BitVec 32
  ns : Nat
  data : List Byte
deriving DecidableEq, Repr, Inhabited

/-- A write to the mailbox doorbell, and the ns until its request is answered (R423). -/
structure Doorbell where
  v : BitVec 32
  ns : Nat
deriving DecidableEq, Repr, Inhabited

/-- What a regulated request part targets (R216), with what Table 7.2 needs to charge it. -/
inductive PartTarget where
  | vault (addr words : Nat)
  | hbmBulkRead (addr lines : Nat)
  | hbmNarrowRead (addr : Nat)
  | hbmWrite (addr whole parts : Nat)
  | hbmReduce (addr lines : Nat)
  | hostMem (bytes : Nat)
  | remote (bytes : Nat)
deriving DecidableEq, Repr, Inhabited

/-- What the function's capabilities let be read (Table 9.1): power state with No_Soft_Reset, the size of the MSI-X table and
the places of table and pending bits, AER, the ATS, PASID and PRI capabilities with their controls, the AtomicOps it
completes, the sizes of its BARs, whether they are 64-bit and prefetchable, the greatest rate and width of the link, and the
rates it can take. -/
inductive Cap where
  | powerState | msixControl | msixTable | msixPba | aer | ats | atsControl | pasid | pasidControl
  | priCapacity | priAlloc | priControl | atomicOps | bar0Size | bar2Sizes | bar2Size | bar0Type | bar2Type
  | linkMost | linkRates
deriving DecidableEq, Repr, Inhabited

/-- A request to the function's configuration space (Table 9.1). -/
inductive ConfigOp where
  | readIds
  | readClass
  | readSerial
  | readCap (c : Cap)
  | setPasid (on : Bool)
  | setAts (on : Bool)
  | setPri (on : Bool)
  | setPriAlloc (n : Nat)
  | setPriStopped (on : Bool)
  | setBar2Log (n : Nat)
deriving DecidableEq, Repr, Inhabited

/-- One page of a translation completion: IOVA page, granted read and write, translated page. -/
structure PageGrant where
  page : Nat
  read : Bool
  write : Bool
  host : Nat
deriving DecidableEq, Repr, Inhabited

/-- The Provenance record of one die as its fuses give it (R393): the bytes of both copies, in fuse order. -/
structure ProvRecord where
  bdie : Bool
  die : Nat
  first : List Byte
  second : List Byte
deriving DecidableEq, Repr, Inhabited

/-- A C-die at wake-up (R331): the slot it stands in, which its B-die drives on five bonds, those bonds and the position of
the B-die as the C-die receives them, and the die type of its Provenance record. -/
structure CdieReport where
  slot : Bool
  bonds : BitVec 5
  pos : Nat
  kind : Nat
deriving DecidableEq, Repr, Inhabited

/-- What one B-die site reports at wake-up (R330 to R332). -/
structure BdieReport where
  pos : Nat
  posp : Bool
  linked : List Nat
  cdies : List CdieReport
deriving DecidableEq, Repr, Inhabited

/-- The commands: one constructor per row of the table of operations. -/
inductive Instr where
  -- tile programs
  | lds (t : Nat) | mma (t : Nat) | conv (t : Nat) | pqs (t : Nat) | bds (t : Nat)
  | topkOpen (t : Nat) | topkLoad (t : Nat) | topkEmit (t : Nat) | topkClose (t : Nat)
  | vecMov (t : Nat) | vecAdd (t : Nat) | vecSub (t : Nat) | vecMul (t : Nat) | vecFma (t : Nat)
  | vecMin (t : Nat) | vecMax (t : Nat) | vecExp2 (t : Nat) | vecLog2 (t : Nat) | vecRcp (t : Nat)
  | vecRsqrt (t : Nat) | vecRsum (t : Nat) | vecRmin (t : Nat) | vecRmax (t : Nat) | vecMxq (t : Nat)
  | move (t : Nat) | movex (t : Nat) | gather (t : Nat) | scatteradd (t : Nat)
  | sig (t : Nat) | wait (t : Nat) | waitp (t : Nat) | bar (t : Nat) | fence (t : Nat)
  | agenBase (t : Nat) | agenBounds (t : Nat) | agenLoop (t : Nat) | endCmd (t : Nat)
  | programFetch (t : Nat)
  | engineCommandComplete (t : Nat) (eng : Engine) (pos : EntryEnd)
  | arrayPassDrain (t : Nat)
  -- flags and loans
  | flagSignal (t f : Nat) (n : BitVec 16)
  | waitWatchdog (t : Nat)
  | tileQuiet (t : Nat)
  | loanDecision (b : Nat)
  | borrowerConfirm (borrower lender : Nat) (ns : Nat)
  -- homes and reductions
  | homeRead (rq : Requester) (a : Nat) (hint : Hint) (upset : ReadUpset)
  | homeWrite (rq : Requester) (a : Nat) (hint : Hint) (data : SentWord)
  | homeSubwordWrite (rq : Requester) (a : Nat) (hint : Hint) (data : List Byte)
  | redInt32Add (rq : Requester) (a : Nat) (data : BitVec 512)
  | redInt64Add (rq : Requester) (a : Nat) (data : BitVec 512)
  | redWidePartialAdd (rq : Requester) (a : Nat) (data : BitVec 512)
  | redBf16Add (rq : Requester) (a : Nat) (data : BitVec 512)
  | redFp32Add (rq : Requester) (a : Nat) (data : BitVec 512)
  | redFp32OrderedAdd (rq : Requester) (a cid : Nat) (data : BitVec 512)
  | redInt32Min (rq : Requester) (a : Nat) (data : BitVec 512)
  | redInt32Max (rq : Requester) (a : Nat) (data : BitVec 512)
  | redFp32Min (rq : Requester) (a : Nat) (data : BitVec 512)
  | redFp32Max (rq : Requester) (a : Nat) (data : BitVec 512)
  | compareAndSwap (rq : Requester) (a : Nat) (wide : Bool) (cmp swap : BitVec 64)
  | fetchAdd (rq : Requester) (a : Nat) (wide : Bool) (v : BitVec 64)
  -- HBM channels and scrubbers
  | hbmLineFill (b line : Nat) (upset : SectorUpset)
  | hbmRefresh (ch : Nat)
  | hbmParityTrigger (e : ParityErrors)
  | retrainStart (ch : Nat)
  | retrainEnd (ch : Nat) (ok : Bool) (ns : Nat)
  | hbmSelfRefreshIdle (m : Nat)
  | vaultScrubAccess (b site : Nat) (upset : Upset)
  | hbmScrubAccess (ch : Nat) (upset : SectorUpset)
  | scrubLapAlarm (vault : Bool) (n : Nat)
  | discardEnd (us : Nat)
  -- regulation
  | regWindowBoundary
  | requestPartAdmit (m : PartSource) (p : PartTarget)
  | hostIngressForcedAdmit
  -- host interface
  | sqTailDoorbell (q : Nat) (v : BitVec 32)
  | cqHeadDoorbell (q : Nat) (v : BitVec 32)
  | queueEnable (q : Nat) (v : BitVec 64)
  | queueDisable (q : Nat) (v : BitVec 64)
  | registerWrite (off size : Nat) (v : BitVec 64)
  | discardReq (v : BitVec 32)
  | apertureBaseWrite (i : Nat) (v : BitVec 64)
  | bar2Read (off : BarOffset) (len : Nat) (tag : ReadTag)
  | bar2Write (off : Nat) (data : SentBytes)
  | flagWordWrite (a : Nat) (data : List Byte)
  | reductionContextWrite (a : Nat) (data : List Byte)
  | bar2AtomicFetchadd (off : Nat) (wide : Bool) (v : BitVec 64) (tag : Nat)
  | bar2AtomicCas (off : Nat) (wide : Bool) (cmp swap : BitVec 64) (tag : Nat)
  | bar2AtomicUnsupported (off tag : Nat)
  | configRequest (op : ConfigOp) (tag : Nat)
  | descriptorFetch (q : Nat) (desc : BitVec 512)
  | jobAdmit
  | jobComplete (j : Nat)
  | completionEntryWrite (q : Nat)
  | msixHoldoffEnd (q : Nat)
  | moverDescriptorStart (j i : Nat)
  | moverCopy (j i : Nat)
  | moverFill (j i : Nat)
  | moverBcast (j i : Nat)
  | moverReduce (j i : Nat)
  | moverCas (j i : Nat)
  | moverDescriptorComplete (j : Nat) (i : MoverEnd)
  | atsTranslationCompletion (x : Nat) (pages : List PageGrant)
  | prgResponse (prg : Nat) (success : Bool)
  | priTimeout (prg : Nat)
  | atsInvalidate (pasid : Option Nat) (page pages : Nat) (ns : Nat)
  | hostReadCompletion (tag : Nat) (ok : Bool) (data : List Byte)
  | hostCompletionTimeout (tag : Nat)
  -- resets, link and power
  | perstNAssert | perstNRelease | hotReset | linkDisable | dlDown | functionLevelReset
  | linkRecoveryEntry | linkL0Entry
  | d3hotTransition (into : Bool)
  | l12Entry | l12Exit
  | resettingEnd | faultedResetStart
  -- fabric
  | flitReceive (p : Nat) (fecOk : Bool) (flit : BitVec 2048)
  | portBerWindow (p lane errs bits : Nat)
  | portLossOfSignal (p : Nat)
  | portTrainingDone (p : Nat) (lanes : List (Nat × Nat)) (peer : LinkPeer)
  | portTrainRetry (p : Nat)
  | helloSend (p : Nat)
  | hello (p : Nat) (pk : Packet)
  | packetForward (p : Nat) (pk : Packet) (us : Nat)
  | holdExpiry (n : Nat)
  | fabWrite (p : Nat) (pk : Packet)
  | fabRead (p : Nat) (pk : Packet)
  | fabReduce (p : Nat) (pk : Packet)
  | fabSignal (p : Nat) (pk : Packet)
  | mgmtReq (p : Nat) (pk : Packet)
  | mgmtResp (p : Nat) (pk : Packet)
  | ack (p : Nat) (pk : Packet)
  | readData (p : Nat) (pk : Packet)
  | fabResyncResend (dst : Nat)
  | fabReqTimeout (tag : Nat)
  -- package links and clocks
  | d2dFlitReceive (pair dir chan : Nat) (crcOk : FlitCheck) (seq : Nat)
  | d2dLaneLoss (pair dir lane : Nat)
  | d2dMarginWindow (pair dir lane : Nat)
  | d2dReplayAlarm (pair dir : Nat)
  | pllLockLoss (die source : Nat)
  | opticalSiteLinkDown (p : Nat)
  | hostSiteLinkLost
  | guestResetRequest (site : Nat)
  | standbySupplyApplied | standbySupplyRemoved
  | fallbackSettled (us : Nat)
  | fallbackSettleTimeout | fallbackStop
  | clockMonitorWindow (ppm : Int) (fallbackOk : Bool)
  | refEdgeTimeout
  | housekeepingRound (readings : List (Nat × Int))
  | stepMachineTick
  | hbmCattripAssert (m : Nat)
  -- bring-up
  | bringupWaitEvent
  | halfWaveStart (w : Nat)
  | tileRelease (h : Nat)
  | laneQualWindowEnd (errors : List (Nat × Nat × Nat × Nat))
  | inventoryBuild
  | bringupTimeLimit
  -- Ledger and Catalogue
  | ledgerScan
  | ledgerRecordWrite (ok : Bool)
  | ledgerCompaction
  | catalogueRead (tr : Transport) (r : CatReq)
  | catalogueWrite (tr : Transport) (r : CatReq)
  | readStaged (tr : Transport) (r : CatReq)
  | describe (tr : Transport) (r : CatReq)
  | stagedEntryWrite (tr : Transport) (r : CatReq)
  | consEntryWrite (tr : Transport) (r : CatReq)
  | commit (tr : Transport) (tag v : BitVec 8)
  | abort (tr : Transport) (tag v : BitVec 8)
  | stageContextExpiry (tr : Transport)
  | resetCmd (tr : Transport) (tag : BitVec 8) (v : BitVec 32)
  | persistClear (tr : Transport) (tag : BitVec 8) (v : BitVec 32)
  | powerReqRun (tr : Transport) (tag : BitVec 8)
  | powerReqSleep (tr : Transport) (tag : BitVec 8)
  | powerReqDeep (tr : Transport) (tag : BitVec 8)
  | fabTransitReq (tr : Transport) (tag v : BitVec 8)
  | keepRelease (tr : Transport) (tag v : BitVec 8)
  | retrainReq (tr : Transport) (tag : BitVec 8) (v : BitVec 16)
  | shutdownClear (tr : Transport) (tag v : BitVec 8)
  | mbxDoorbell (d : Doorbell)
  | setEndpointId (port : Nat) (eid : BitVec 8)
  | getEndpointId (port : Nat)
  | getEndpointUuid (port : Nat)
  | getMctpVersionSupport (port : Nat)
  | getMessageTypeSupport (port : Nat)
  | getVendorDefinedMsgSupport (port : Nat)
  | mctpUnsupportedCmd (port : Nat) (cmd : BitVec 8)
  | setdasa (static addr : Nat)
  | entdaa (port addr : Nat)
  -- rejected structures and the rest of bring-up
  | reservedOpcode (t : Nat)
  | hcrcOrReservedOpPacket (p : Nat) (pk : Packet)
  | catalogueReservedOp (tr : Transport) (op : BitVec 8) (r : CatReq)
  | routerOrMeshLinkFailed (cdie : Bool) (die row col link : Nat)
  | resetByCommandStart
  | packageRailGood | packageRailTimeout
  | provenanceReadDone (recs : List ProvRecord)
  | bdieWakeDone (locked : Bool) (reports : List BdieReport)
  | vaultSelfTestDone (fails : List (Nat × BitVec 32))
  | dieToDieTrainingDone (pair dir : Nat) (fails : List Nat)
  | guestSiteTrainingDone (site : Nat) (desc : BitVec 128) (rate : Nat)
  | hbmChannelTrainingDone (ch : Nat) (trained tested : Bool) (stackBytes : Nat) (unrepaired : List Nat)
  | tileSelfTestDone (fails : TileTests)
deriving DecidableEq, Repr, Inhabited

end Sys2Proof
end

