-- ==== Sys2Proof/Config.lean ====
section
/-! DEFINITION. What one build of the part fixes and the manual leaves open: constants without a body, so that no
proof can see a value of one. Each is named in the assumption log. -/

namespace Sys2Proof.Config

/-- A value the manual leaves open: free value number `n` of a run, as bits; the user truncates it. -/
opaque freeValue : Nat → BitVec 1024

/-- The bits an implementation's exp2 gives; kept only where they meet the bound of Table 2.13. -/
opaque exp2Choice : BitVec 32 → BitVec 32
/-- The bits an implementation's log2 gives; kept only where they meet the bound of Table 2.13. -/
opaque log2Choice : BitVec 32 → BitVec 32
/-- The bits an implementation's reciprocal gives; kept only where they meet the bound of Table 2.13. -/
opaque rcpChoice : BitVec 32 → BitVec 32
/-- The bits an implementation's reciprocal square root gives; kept only where they meet Table 2.13. -/
opaque rsqrtChoice : BitVec 32 → BitVec 32

/-- The E8M0 scale that an MX quantisation to a format gives a block which Table 2.13 gives none: no non-zero value in
it, an infinity or a NaN. It depends on the operands alone (R69, R78). -/
opaque mxScaleChoice : Nat → List (BitVec 32) → BitVec 8

/-- What an element of a copy takes whose source or destination meets another destination, where the manual lets the overlap
but states no result: MOVEX and a mover's COPY. It depends on the operands alone: the destination, the width, the value read
(R34, R104, R275). -/
opaque overlapChoice : Nat → Nat → Nat → BitVec 1024

/-- Vendor ID, Device ID and ROM revision that the part's maker assigns (R478). -/
opaque vendorId : BitVec 16
opaque deviceId : BitVec 16
opaque romRev : BitVec 16

/-- The manufacturer ID that MIPI has assigned to the part's maker (R420, R478). -/
opaque mipiId : BitVec 15

/-- UNIQUE_ID in the fuses, as an I3C port sends it before any bring-up has read it (R420). -/
opaque unreadUid : BitVec 64

/-- The UUID of each MCTP endpoint, the version that Get MCTP Version Support reports, and the command set version of
the vendor-defined messages (R419). -/
opaque endpointUuid : Nat → BitVec 128
opaque mctpVersion : BitVec 32
opaque vdmVersion : BitVec 16

/-- The side of its B-die, columns 16 to 31 or not, at which a master that is no tile group enters the mesh. -/
opaque masterSide : Nat → Bool

/-- The side of its B-die on which a request from the first B-die and side crosses the row cut to the second. -/
opaque rowCutSide : Nat → Bool → Nat → Bool → Bool

/-- Which four of B-die 0's sensors lie in the Conservator partition (R370): sensor number `n` of the four. -/
opaque consSensor : Nat → Nat

/-- Byte `i` of the copy of Ledger record `seq` that failed its read-back for the `n`-th time. -/
opaque failedCopy : Nat → Nat → Nat → BitVec 8

end Sys2Proof.Config
end

