-- ==== Sys2Proof/Machine/Entries.lean ====
section
/-! DEFINITION. The table of Catalogue entries (Catalogue entry reference, Tables 15.2 to 15.16): type, access class,
default and keep code of every entry. -/

namespace Sys2Proof.Machine

/-- Access classes (Table 0.3). -/
inductive Acc where
  | ro | rw | rws | wo | cons
deriving DecidableEq, Repr, Inhabited

/-- Keep codes (Table 15.1). -/
inductive Keep where
  | v | p | c | cp
deriving DecidableEq, Repr, Inhabited

/-- One row of the entry tables: the indices and subindices it covers, type code of Table 14.2, access, default, keep,
and whether it is a counter or running maximum (R447). -/
structure EntRow where
  lo : Nat
  hi : Nat
  slo : Nat
  shi : Nat
  ty : Nat
  acc : Acc
  dflt : Nat
  keep : Keep
  counter : Bool
deriving DecidableEq, Repr, Inhabited


/-- Entries of range 0x1000. -/
def rowsIdentity : List EntRow := [
  -- VENDOR_ID
  ⟨0x1000, 0x1000, 1, 1, 2, .ro, 0, .v, false⟩,
  -- DEVICE_ID
  ⟨0x1000, 0x1000, 2, 2, 2, .ro, 0, .v, false⟩,
  -- UNIQUE_ID
  ⟨0x1000, 0x1000, 3, 3, 4, .ro, 0, .v, false⟩,
  -- CAT_FORMAT
  ⟨0x1000, 0x1000, 4, 4, 2, .ro, 1, .v, false⟩,
  -- ROM_REV
  ⟨0x1000, 0x1000, 5, 5, 2, .ro, 0, .v, false⟩,
  -- ASSET_TAG
  ⟨0x1000, 0x1000, 6, 6, 8, .rw, 0, .p, false⟩]

/-- Entries of range 0x2000. -/
def rowsInventory : List EntRow := [
  -- INV_VARIANT
  ⟨0x2000, 0x2000, 1, 1, 1, .ro, 0, .v, false⟩,
  -- INV_ORDER_CODE
  ⟨0x2000, 0x2000, 2, 2, 8, .ro, 0x36314C2D383637482D32314A4D, .v, false⟩,
  -- INV_DIGEST
  ⟨0x2000, 0x2000, 3, 3, 3, .ro, 0, .v, false⟩,
  -- INV_STATUS
  ⟨0x2000, 0x2000, 4, 4, 7, .ro, 0, .v, false⟩,
  -- INV_TILES
  ⟨0x2010, 0x2010, 1, 1, 2, .ro, 0xC00, .v, false⟩,
  -- INV_TILES_MIN
  ⟨0x2010, 0x2010, 2, 2, 2, .ro, 0xC00, .v, false⟩,
  -- INV_TILES_FENCED
  ⟨0x2010, 0x2010, 3, 3, 2, .ro, 0, .v, false⟩,
  -- INV_HALF_TILES
  ⟨0x2011, 0x2011, 1, 0x18, 1, .ro, 0x80, .v, false⟩,
  -- INV_HALF_FIRST_LTILE
  ⟨0x2012, 0x2012, 1, 1, 2, .ro, 0, .v, false⟩,
  -- INV_HALF_FIRST_LTILE
  ⟨0x2012, 0x2012, 2, 2, 2, .ro, 0x80, .v, false⟩,
  -- INV_HALF_FIRST_LTILE
  ⟨0x2012, 0x2012, 3, 3, 2, .ro, 0x100, .v, false⟩,
  -- INV_HALF_FIRST_LTILE
  ⟨0x2012, 0x2012, 4, 4, 2, .ro, 0x180, .v, false⟩,
  -- INV_HALF_FIRST_LTILE
  ⟨0x2012, 0x2012, 5, 5, 2, .ro, 0x200, .v, false⟩,
  -- INV_HALF_FIRST_LTILE
  ⟨0x2012, 0x2012, 6, 6, 2, .ro, 0x280, .v, false⟩,
  -- INV_HALF_FIRST_LTILE
  ⟨0x2012, 0x2012, 7, 7, 2, .ro, 0x300, .v, false⟩,
  -- INV_HALF_FIRST_LTILE
  ⟨0x2012, 0x2012, 8, 8, 2, .ro, 0x380, .v, false⟩,
  -- INV_HALF_FIRST_LTILE
  ⟨0x2012, 0x2012, 9, 9, 2, .ro, 0x400, .v, false⟩,
  -- INV_HALF_FIRST_LTILE
  ⟨0x2012, 0x2012, 0xA, 0xA, 2, .ro, 0x480, .v, false⟩,
  -- INV_HALF_FIRST_LTILE
  ⟨0x2012, 0x2012, 0xB, 0xB, 2, .ro, 0x500, .v, false⟩,
  -- INV_HALF_FIRST_LTILE
  ⟨0x2012, 0x2012, 0xC, 0xC, 2, .ro, 0x580, .v, false⟩,
  -- INV_HALF_FIRST_LTILE
  ⟨0x2012, 0x2012, 0xD, 0xD, 2, .ro, 0x600, .v, false⟩,
  -- INV_HALF_FIRST_LTILE
  ⟨0x2012, 0x2012, 0xE, 0xE, 2, .ro, 0x680, .v, false⟩,
  -- INV_HALF_FIRST_LTILE
  ⟨0x2012, 0x2012, 0xF, 0xF, 2, .ro, 0x700, .v, false⟩,
  -- INV_HALF_FIRST_LTILE
  ⟨0x2012, 0x2012, 0x10, 0x10, 2, .ro, 0x780, .v, false⟩]

/-- Entries of range 0x2000. -/
def rowsInventory2 : List EntRow := [
  -- INV_HALF_FIRST_LTILE
  ⟨0x2012, 0x2012, 0x11, 0x11, 2, .ro, 0x800, .v, false⟩,
  -- INV_HALF_FIRST_LTILE
  ⟨0x2012, 0x2012, 0x12, 0x12, 2, .ro, 0x880, .v, false⟩,
  -- INV_HALF_FIRST_LTILE
  ⟨0x2012, 0x2012, 0x13, 0x13, 2, .ro, 0x900, .v, false⟩,
  -- INV_HALF_FIRST_LTILE
  ⟨0x2012, 0x2012, 0x14, 0x14, 2, .ro, 0x980, .v, false⟩,
  -- INV_HALF_FIRST_LTILE
  ⟨0x2012, 0x2012, 0x15, 0x15, 2, .ro, 0xA00, .v, false⟩,
  -- INV_HALF_FIRST_LTILE
  ⟨0x2012, 0x2012, 0x16, 0x16, 2, .ro, 0xA80, .v, false⟩,
  -- INV_HALF_FIRST_LTILE
  ⟨0x2012, 0x2012, 0x17, 0x17, 2, .ro, 0xB00, .v, false⟩,
  -- INV_HALF_FIRST_LTILE
  ⟨0x2012, 0x2012, 0x18, 0x18, 2, .ro, 0xB80, .v, false⟩,
  -- INV_LTILE_MAP
  ⟨0x2013, 0x2013, 1, 1, 9, .ro, 0, .v, false⟩,
  -- BRINGUP_STEP
  ⟨0x2020, 0x2020, 1, 1, 1, .ro, 0, .v, false⟩,
  -- BRINGUP_FAULT
  ⟨0x2020, 0x2020, 2, 2, 1, .ro, 0, .c, false⟩,
  -- BRINGUP_LAST_MS
  ⟨0x2020, 0x2020, 3, 3, 3, .ro, 0, .c, false⟩,
  -- BRINGUP_EXCLUSIONS
  ⟨0x2020, 0x2020, 4, 4, 2, .ro, 0, .v, false⟩,
  -- BRINGUP_LIMIT_S
  ⟨0x2020, 0x2020, 5, 5, 1, .ro, 0xA, .v, false⟩,
  -- RESET_SCOPE_REFUSALS
  ⟨0x2020, 0x2020, 6, 6, 3, .ro, 0, .c, true⟩]

/-- Entries of range 0x3000. -/
def rowsHost : List EntRow := [
  -- HOST_QUEUES
  ⟨0x3000, 0x3000, 1, 1, 1, .ro, 0x40, .v, false⟩,
  -- HOST_QUEUE_DEPTH
  ⟨0x3000, 0x3000, 2, 2, 2, .ro, 0x100, .v, false⟩,
  -- HOST_MSIX_VECTORS
  ⟨0x3000, 0x3000, 3, 3, 1, .ro, 0x80, .v, false⟩,
  -- BAR2_BYTES
  ⟨0x3000, 0x3000, 4, 4, 4, .ro, 0x2000000000, .v, false⟩,
  -- MOVER_LIST_MAX
  ⟨0x3000, 0x3000, 5, 5, 2, .ro, 0x1000, .v, false⟩,
  -- HOST_INT_HOLDOFF_US
  ⟨0x3010, 0x3010, 1, 1, 2, .rw, 2, .v, false⟩,
  -- PRI_TIMEOUT_MS
  ⟨0x3010, 0x3010, 2, 2, 3, .rw, 0x3E8, .v, false⟩,
  -- ATC_ENTRIES
  ⟨0x3020, 0x3020, 1, 1, 2, .ro, 0x800, .v, false⟩,
  -- ATS_TRANSLATIONS
  ⟨0x3020, 0x3020, 2, 2, 4, .ro, 0, .v, true⟩,
  -- PRI_REQUESTS
  ⟨0x3020, 0x3020, 3, 3, 4, .ro, 0, .v, true⟩,
  -- PRI_FAILURES
  ⟨0x3020, 0x3020, 4, 4, 3, .ro, 0, .v, true⟩,
  -- ATS_INVAL_MAX_NS
  ⟨0x3020, 0x3020, 5, 5, 3, .ro, 0, .v, true⟩,
  -- JOBS_COMPLETE
  ⟨0x3030, 0x3030, 1, 1, 4, .ro, 0, .v, true⟩,
  -- JOBS_DISCARDED
  ⟨0x3030, 0x3030, 2, 2, 4, .ro, 0, .v, true⟩,
  -- JOBS_REJECTED
  ⟨0x3030, 0x3030, 3, 3, 4, .ro, 0, .v, true⟩,
  -- JOBS_TIMEOUT
  ⟨0x3030, 0x3030, 4, 4, 3, .ro, 0, .v, true⟩,
  -- DISCARDS
  ⟨0x3030, 0x3030, 5, 5, 3, .ro, 0, .v, true⟩,
  -- DISCARD_MAX_US
  ⟨0x3030, 0x3030, 6, 6, 3, .ro, 0, .v, true⟩,
  -- MMIO_READ_MAX_NS
  ⟨0x3030, 0x3030, 7, 7, 3, .ro, 0, .v, true⟩,
  -- Q_CONFIG_DROPS
  ⟨0x3030, 0x3030, 8, 8, 3, .ro, 0, .v, true⟩]

/-- Entries of range 0x4000. -/
def rowsTile : List EntRow := [
  -- ARRAY_ROWS
  ⟨0x4000, 0x4000, 1, 1, 1, .ro, 0x40, .v, false⟩,
  -- ARRAY_COLS
  ⟨0x4000, 0x4000, 2, 2, 1, .ro, 0x40, .v, false⟩,
  -- ACC_SLOTS
  ⟨0x4000, 0x4000, 3, 3, 2, .ro, 0x100, .v, false⟩,
  -- ACC_TERMS_MAX
  ⟨0x4000, 0x4000, 4, 4, 3, .ro, 0x1000000, .v, false⟩,
  -- TOPK_K_MAX
  ⟨0x4000, 0x4000, 5, 5, 2, .ro, 0x100, .v, false⟩,
  -- OPSTORE_BYTES
  ⟨0x4000, 0x4000, 6, 6, 3, .ro, 0x100000, .v, false⟩,
  -- RAMP_BEATS
  ⟨0x4010, 0x4010, 1, 1, 1, .rw, 0x20, .p, false⟩,
  -- PROG_BUF_BYTES
  ⟨0x4020, 0x4020, 1, 1, 2, .ro, 0x1000, .v, false⟩,
  -- ENGINE_QUEUE_DEPTH
  ⟨0x4020, 0x4020, 2, 2, 1, .ro, 8, .v, false⟩,
  -- AGEN_COUNT
  ⟨0x4020, 0x4020, 3, 3, 1, .ro, 8, .v, false⟩,
  -- PF_CAUSE
  ⟨0x4030, 0x4030, 1, 1, 1, .ro, 0, .v, false⟩,
  -- PF_LTILE
  ⟨0x4030, 0x4030, 2, 2, 2, .ro, 0, .v, false⟩,
  -- PF_WORD
  ⟨0x4030, 0x4030, 3, 3, 3, .ro, 0, .v, false⟩]

/-- Entries of range 0x5000. -/
def rowsSync : List EntRow := [
  -- FLAGS_PER_TILE
  ⟨0x5000, 0x5000, 1, 1, 1, .ro, 0x30, .v, false⟩,
  -- FLAG_MAX
  ⟨0x5000, 0x5000, 2, 2, 2, .ro, 0xFFFF, .v, false⟩,
  -- FLAG_SPACE_BASE
  ⟨0x5000, 0x5000, 3, 3, 4, .ro, 0x200000000000, .v, false⟩,
  -- WDOG_DEFAULT_MS
  ⟨0x5010, 0x5010, 1, 1, 3, .rw, 0x7D0, .p, false⟩,
  -- WDOG_FIRES
  ⟨0x5010, 0x5010, 2, 2, 3, .ro, 0, .v, true⟩,
  -- WDOG_LAST_FLAG
  ⟨0x5010, 0x5010, 3, 3, 1, .ro, 0, .v, false⟩,
  -- LOAN_ENABLE
  ⟨0x5020, 0x5020, 1, 1, 1, .rws, 1, .p, false⟩,
  -- LOAN_THRESH_US
  ⟨0x5020, 0x5020, 2, 2, 3, .rws, 0x14, .p, false⟩,
  -- LOAN_MAX_ACTIVE
  ⟨0x5020, 0x5020, 3, 3, 1, .rws, 0x10, .p, false⟩,
  -- LOAN_RETAIN_A
  ⟨0x5020, 0x5020, 4, 4, 2, .cons, 0x69, .cp, false⟩,
  -- HALF_ILIM_CEIL_A
  ⟨0x5020, 0x5020, 5, 5, 2, .cons, 0x14A, .cp, false⟩,
  -- LENDING_MASK
  ⟨0x5030, 0x5030, 1, 1, 7, .ro, 0, .v, false⟩,
  -- BORROWING_MASK
  ⟨0x5030, 0x5030, 2, 2, 7, .ro, 0, .v, false⟩,
  -- RECLAIMS
  ⟨0x5030, 0x5030, 3, 3, 4, .ro, 0, .v, true⟩,
  -- RECLAIM_MAX_NS
  ⟨0x5030, 0x5030, 4, 4, 3, .ro, 0, .v, true⟩,
  -- SIG_DROPPED
  ⟨0x5040, 0x5040, 1, 1, 4, .ro, 0, .v, true⟩,
  -- SIG_SATURATIONS
  ⟨0x5040, 0x5040, 2, 2, 3, .ro, 0, .v, true⟩]

/-- Entries of range 0x6000. -/
def rowsVaultHbm : List EntRow := [
  -- VAULT_SLICE_BYTES
  ⟨0x6000, 0x6000, 1, 1, 3, .ro, 0x400000, .v, false⟩,
  -- VAULT_P
  ⟨0x6000, 0x6000, 2, 2, 2, .ro, 0x200, .v, false⟩,
  -- VAULT_ANNEX_SLICES
  ⟨0x6000, 0x6000, 3, 3, 2, .ro, 0, .v, false⟩,
  -- PART_SHARED
  ⟨0x6010, 0x6010, 1, 1, 1, .rws, 4, .p, false⟩,
  -- PART_DIE
  ⟨0x6010, 0x6010, 2, 2, 1, .rws, 2, .p, false⟩,
  -- PART_SLICE
  ⟨0x6010, 0x6010, 3, 3, 1, .rws, 8, .p, false⟩,
  -- PART_CACHE
  ⟨0x6010, 0x6010, 4, 4, 1, .rws, 2, .p, false⟩,
  -- PART_ACTIVE
  ⟨0x6010, 0x6010, 5, 5, 7, .ro, 0x2020804, .v, false⟩,
  -- SHARED_BYTES
  ⟨0x6018, 0x6018, 1, 1, 4, .ro, 0xC0000000, .v, false⟩,
  -- DIE_BYTES
  ⟨0x6018, 0x6018, 2, 2, 4, .ro, 0x10000000, .v, false⟩,
  -- SLICE_LOCAL_BYTES
  ⟨0x6018, 0x6018, 3, 3, 3, .ro, 0x200000, .v, false⟩,
  -- HBM_CACHE_BYTES
  ⟨0x6018, 0x6018, 4, 4, 4, .ro, 0x10000000, .v, false⟩,
  -- COMBINE_WINDOW_NS
  ⟨0x6020, 0x6020, 1, 1, 2, .ro, 0x20, .v, false⟩,
  -- READS_COMBINED
  ⟨0x6020, 0x6020, 2, 2, 4, .ro, 0, .v, true⟩,
  -- BCAST_READS
  ⟨0x6020, 0x6020, 3, 3, 4, .ro, 0, .v, true⟩,
  -- RED_CONTEXTS
  ⟨0x6030, 0x6030, 1, 1, 1, .ro, 0x40, .v, false⟩,
  -- RED_CONTRIB_MAX
  ⟨0x6030, 0x6030, 2, 2, 2, .ro, 0x400, .v, false⟩,
  -- RED_CONTEXT_BASE
  ⟨0x6030, 0x6030, 3, 3, 4, .ro, 0x200000100000, .v, false⟩,
  -- RED_FAILS
  ⟨0x6030, 0x6030, 4, 4, 3, .ro, 0, .v, true⟩,
  -- ROUTERS_FAULTY
  ⟨0x6040, 0x6040, 1, 1, 2, .ro, 0, .v, true⟩,
  -- ROUTER_FAULT_MAP
  ⟨0x6040, 0x6040, 2, 2, 9, .ro, 0, .v, false⟩,
  -- BDIE_CUT_MIN_LINKS
  ⟨0x6040, 0x6040, 3, 3, 1, .ro, 0x10, .v, false⟩,
  -- SEAM_MIN_LINKS
  ⟨0x6040, 0x6040, 4, 4, 1, .ro, 0x10, .v, false⟩,
  -- SPLIT_FAILS
  ⟨0x6050, 0x6050, 1, 1, 3, .ro, 0, .v, true⟩]

/-- Entries of range 0x6000. -/
def rowsVaultHbm2 : List EntRow := [
  -- UNMAPPED_ACCESSES
  ⟨0x6050, 0x6050, 2, 2, 3, .ro, 0, .v, true⟩,
  -- HBM_STACKS
  ⟨0x6800, 0x6800, 1, 1, 1, .ro, 0xC, .v, false⟩,
  -- HBM_STACK_BYTES
  ⟨0x6800, 0x6800, 2, 2, 4, .ro, 0x1000000000, .v, false⟩,
  -- HBM_CHANNELS
  ⟨0x6800, 0x6800, 3, 3, 2, .ro, 0x180, .v, false⟩,
  -- HBM_CHANNEL_BYTES
  ⟨0x6800, 0x6800, 4, 4, 3, .ro, 0x80000000, .v, false⟩,
  -- HBM_CHANNEL_MAP
  ⟨0x6800, 0x6800, 5, 5, 9, .ro, 0, .v, false⟩,
  -- HBM_PIN_RATE_MBPS
  ⟨0x6800, 0x6800, 6, 6, 2, .rws, 0x1F40, .p, false⟩,
  -- HBM_PIN_RATE_ACTIVE
  ⟨0x6800, 0x6800, 7, 7, 2, .ro, 0x1F40, .v, false⟩,
  -- HBM_RANGE_BYTES
  ⟨0x6808, 0x6808, 1, 6, 4, .ro, 0x2000000000, .v, false⟩,
  -- HBM_CACHE_SETS
  ⟨0x6810, 0x6810, 1, 1, 3, .ro, 0x10000, .v, false⟩,
  -- HBM_CACHE_WAYS
  ⟨0x6810, 0x6810, 2, 2, 1, .ro, 0x10, .v, false⟩,
  -- KEEP_WAYS_MAX
  ⟨0x6810, 0x6810, 3, 3, 1, .rws, 0xC, .p, false⟩,
  -- KEEP_RELEASE
  ⟨0x6810, 0x6810, 4, 4, 1, .wo, 0, .v, false⟩,
  -- HBM_CACHE_HITS
  ⟨0x6810, 0x6810, 5, 5, 4, .ro, 0, .v, true⟩,
  -- HBM_CACHE_MISSES
  ⟨0x6810, 0x6810, 6, 6, 4, .ro, 0, .v, true⟩,
  -- LAST_DIRTY_DROPS
  ⟨0x6810, 0x6810, 7, 7, 4, .ro, 0, .v, true⟩,
  -- PINNED_BYTES
  ⟨0x6810, 0x6810, 8, 8, 3, .ro, 0, .v, false⟩,
  -- KEEP_QUOTA_LINES
  ⟨0x6818, 0x6818, 1, 0x10, 3, .rws, 0x4000, .p, false⟩,
  -- LC_SHARE_PCT
  ⟨0x6820, 0x6820, 1, 1, 1, .rws, 0x19, .p, false⟩,
  -- LC_WAIT_NS
  ⟨0x6820, 0x6820, 2, 2, 2, .ro, 0x4B0, .v, false⟩,
  -- BULK_AGE_US
  ⟨0x6820, 0x6820, 3, 3, 2, .rws, 0x14, .p, false⟩,
  -- NARROW_QUEUE
  ⟨0x6820, 0x6820, 4, 4, 2, .ro, 0x100, .v, false⟩,
  -- LC_OVER_SHARE
  ⟨0x6820, 0x6820, 5, 5, 4, .ro, 0, .v, true⟩,
  -- RETRAIN_PAR_THRESH
  ⟨0x6830, 0x6830, 1, 1, 2, .rws, 0x10, .p, false⟩]

/-- Entries of range 0x6000. -/
def rowsVaultHbm3 : List EntRow := [
  -- RETRAIN_MIN_GAP_MS
  ⟨0x6830, 0x6830, 2, 2, 2, .ro, 0x64, .v, false⟩,
  -- RETRAIN_REQ
  ⟨0x6830, 0x6830, 3, 3, 2, .wo, 0, .v, false⟩,
  -- RETRAINS
  ⟨0x6830, 0x6830, 4, 4, 3, .ro, 0, .v, true⟩,
  -- RETRAIN_MAX_NS
  ⟨0x6830, 0x6830, 5, 5, 3, .ro, 0, .v, true⟩,
  -- RETRAINING_MASK
  ⟨0x6830, 0x6830, 6, 6, 9, .ro, 0, .v, false⟩,
  -- REMAP_ROWS_MAX
  ⟨0x6838, 0x6838, 1, 1, 1, .ro, 0x40, .v, false⟩,
  -- REMAP_ROWS_USED
  ⟨0x6838, 0x6838, 2, 2, 2, .ro, 0, .v, false⟩,
  -- REMAP_FULL_MAP
  ⟨0x6838, 0x6838, 3, 3, 9, .ro, 0, .v, false⟩]

/-- Entries of range 0x7000. -/
def rowsRegProt : List EntRow := [
  -- REG_WINDOW_NS
  ⟨0x7000, 0x7000, 1, 1, 3, .rws, 0x3E8, .p, false⟩,
  -- REG_MASTERS
  ⟨0x7000, 0x7000, 2, 2, 2, .ro, 0xA1, .v, false⟩,
  -- HOSTMEM_CLASS
  ⟨0x7000, 0x7000, 3, 3, 1, .rws, 0xF, .p, false⟩,
  -- REMOTE_CLASS
  ⟨0x7000, 0x7000, 4, 4, 1, .rws, 0xE, .p, false⟩,
  -- GROUP_OF_LTILE
  ⟨0x7000, 0x7000, 5, 5, 9, .ro, 0, .v, false⟩,
  -- RANGE_BASE
  ⟨0x7010, 0x701F, 1, 1, 4, .rws, 0, .p, false⟩,
  -- RANGE_LIMIT
  ⟨0x7010, 0x701F, 2, 2, 4, .rws, 0, .p, false⟩,
  -- RANGE_CLASS
  ⟨0x7010, 0x701F, 3, 3, 1, .rws, 0, .p, false⟩,
  -- RANGE_ENABLE
  ⟨0x7010, 0x701F, 4, 4, 1, .rws, 0, .p, false⟩,
  -- GUAR_BYTES
  ⟨0x7100, 0x71A0, 1, 0x10, 3, .rws, 0, .p, false⟩,
  -- CEIL_BYTES
  ⟨0x7100, 0x71A0, 0x11, 0x20, 3, .rws, 0xFFFFFFFF, .p, false⟩,
  -- CLASS_BYTES_MARKED
  ⟨0x7200, 0x7200, 1, 0x10, 4, .ro, 0, .v, true⟩,
  -- CLASS_BYTES_UNMARKED
  ⟨0x7201, 0x7201, 1, 0x10, 4, .ro, 0, .v, true⟩,
  -- CLASS_CEIL_WINDOWS
  ⟨0x7202, 0x7202, 1, 0x10, 4, .ro, 0, .v, true⟩,
  -- CLASS_LATE_MARKED
  ⟨0x7203, 0x7203, 1, 0x10, 4, .ro, 0, .v, true⟩,
  -- GCAP_SLICE
  ⟨0x7300, 0x7300, 1, 1, 3, .ro, 0x10E00, .v, false⟩,
  -- GCAP_BDIE_CUT
  ⟨0x7300, 0x7300, 2, 2, 3, .ro, 0x2D0000, .v, false⟩,
  -- GCAP_SEAM
  ⟨0x7300, 0x7300, 3, 3, 3, .ro, 0x48000, .v, false⟩,
  -- GCAP_D2D
  ⟨0x7300, 0x7300, 4, 4, 3, .ro, 0x313800, .v, false⟩,
  -- GCAP_HBM_CHANNEL
  ⟨0x7300, 0x7300, 5, 5, 3, .ro, 0x9600, .v, false⟩,
  -- GCAP_FABRIC_PORT
  ⟨0x7300, 0x7300, 6, 6, 3, .ro, 0x2BF20, .v, false⟩,
  -- ADMIT_REFUSALS
  ⟨0x7310, 0x7310, 1, 1, 3, .ro, 0, .v, true⟩,
  -- REFUSED_RESOURCE
  ⟨0x7310, 0x7310, 2, 2, 3, .ro, 0, .v, false⟩,
  -- SCALED_RESOURCES
  ⟨0x7310, 0x7310, 3, 3, 2, .ro, 0, .v, false⟩]

/-- Entries of range 0x7000. -/
def rowsRegProt2 : List EntRow := [
  -- SCALE_EVENTS
  ⟨0x7310, 0x7310, 4, 4, 3, .ro, 0, .v, true⟩,
  -- SCALED_MAP
  ⟨0x7310, 0x7310, 5, 5, 9, .ro, 0, .v, false⟩,
  -- CORR_VAULT
  ⟨0x7800, 0x7800, 1, 1, 4, .ro, 0, .v, true⟩,
  -- CORR_HBM
  ⟨0x7800, 0x7800, 2, 2, 4, .ro, 0, .v, true⟩,
  -- CORR_TRANSIT
  ⟨0x7800, 0x7800, 3, 3, 4, .ro, 0, .v, true⟩,
  -- UNCORR_VAULT
  ⟨0x7800, 0x7800, 4, 4, 3, .ro, 0, .v, true⟩,
  -- UNCORR_HBM
  ⟨0x7800, 0x7800, 5, 5, 3, .ro, 0, .v, true⟩,
  -- UNCORR_TRANSIT
  ⟨0x7800, 0x7800, 6, 6, 3, .ro, 0, .v, true⟩,
  -- POISON_WRITTEN
  ⟨0x7800, 0x7800, 7, 7, 4, .ro, 0, .v, true⟩,
  -- POISON_CONSUMED
  ⟨0x7800, 0x7800, 8, 8, 3, .ro, 0, .v, true⟩,
  -- POISON_HOST_READS
  ⟨0x7800, 0x7800, 9, 9, 3, .ro, 0, .v, true⟩,
  -- CLEAN_REFETCH
  ⟨0x7800, 0x7800, 0xA, 0xA, 3, .ro, 0, .v, true⟩,
  -- ONDIE_ECC_REPORTS
  ⟨0x7800, 0x7800, 0xB, 0xB, 3, .ro, 0, .v, true⟩,
  -- SCRUB_ENABLE
  ⟨0x7810, 0x7810, 1, 1, 1, .rw, 1, .p, false⟩,
  -- SCRUB_VAULT_NS
  ⟨0x7810, 0x7810, 2, 2, 3, .rw, 0x3E8, .p, false⟩,
  -- SCRUB_HBM_NS
  ⟨0x7810, 0x7810, 3, 3, 3, .rw, 0x1F4, .p, false⟩,
  -- SCRUB_LAP_ALARM_S
  ⟨0x7810, 0x7810, 4, 4, 3, .rw, 0x15180, .p, false⟩,
  -- VAULT_LAP_LAST_MS
  ⟨0x7818, 0x7818, 1, 6, 3, .ro, 0, .v, false⟩,
  -- VAULT_LAP_MAX_MS
  ⟨0x7819, 0x7819, 1, 6, 3, .ro, 0, .v, true⟩,
  -- HBM_LAP_LAST_MS
  ⟨0x781A, 0x781A, 1, 1, 9, .ro, 0, .v, true⟩,
  -- HBM_LAP_MAX_MS
  ⟨0x781A, 0x781A, 2, 2, 9, .ro, 0, .v, true⟩,
  -- SCRUB_LAP_ALARMS
  ⟨0x781A, 0x781A, 3, 3, 3, .ro, 0, .v, true⟩,
  -- REPEAT_ENTRIES
  ⟨0x7820, 0x7820, 1, 1, 1, .ro, 0x40, .v, false⟩,
  -- REPEAT_TABLE
  ⟨0x7820, 0x7820, 2, 2, 9, .ro, 0, .v, false⟩]

/-- Entries of range 0x7000. -/
def rowsRegProt3 : List EntRow := [
  -- REPEAT_WRITEBACKS
  ⟨0x7820, 0x7820, 3, 3, 3, .ro, 0, .v, true⟩,
  -- REPEAT_HARD
  ⟨0x7820, 0x7820, 4, 4, 3, .ro, 0, .v, true⟩,
  -- REPEAT_OVERFLOW
  ⟨0x7820, 0x7820, 5, 5, 3, .ro, 0, .v, true⟩,
  -- SPARE_ROWS_USED
  ⟨0x7830, 0x7830, 1, 6, 2, .ro, 0, .v, false⟩,
  -- SPARE_COLS_USED
  ⟨0x7831, 0x7831, 1, 6, 2, .ro, 0, .v, false⟩,
  -- SLICES_NO_SPARE
  ⟨0x7832, 0x7832, 1, 1, 2, .ro, 0, .v, false⟩]

/-- Entries of range 0x8000. -/
def rowsFabric : List EntRow := [
  -- FAB_PORTS
  ⟨0x8000, 0x8000, 1, 1, 1, .ro, 0x10, .v, false⟩,
  -- FAB_PORT_PRESENT
  ⟨0x8000, 0x8000, 2, 2, 7, .ro, 0xFFFF, .v, false⟩,
  -- FAB_PORT_EXPECT
  ⟨0x8000, 0x8000, 3, 3, 7, .rw, 0xFFFF, .p, false⟩,
  -- FAB_PORT_UP
  ⟨0x8000, 0x8000, 4, 4, 7, .ro, 0, .v, false⟩,
  -- FAB_PORT_NARROW
  ⟨0x8000, 0x8000, 5, 5, 7, .ro, 0, .v, false⟩,
  -- FAB_NEIGHBOUR
  ⟨0x8002, 0x8002, 1, 0x10, 9, .ro, 0, .v, false⟩,
  -- FAB_ADDR
  ⟨0x8010, 0x8010, 1, 1, 2, .rws, 0, .v, false⟩,
  -- FAB_ADDR_VALID
  ⟨0x8010, 0x8010, 2, 2, 1, .rws, 0, .v, false⟩,
  -- FAB_FM_ADDR0
  ⟨0x8010, 0x8010, 3, 3, 2, .rws, 0, .v, false⟩,
  -- FAB_FM_ADDR1
  ⟨0x8010, 0x8010, 4, 4, 2, .rws, 0, .v, false⟩,
  -- FAB_MGMT_WRITE_EN
  ⟨0x8010, 0x8010, 5, 5, 1, .cons, 1, .cp, false⟩,
  -- FAB_MGMT_RESET_EN
  ⟨0x8010, 0x8010, 6, 6, 1, .cons, 1, .cp, false⟩,
  -- FAB_GROUP_TABLE
  ⟨0x8020, 0x8020, 1, 0x80, 3, .rws, 0, .v, false⟩,
  -- FAB_MEMBER_TABLE_LO
  ⟨0x8021, 0x8021, 1, 0x80, 3, .rws, 0, .v, false⟩,
  -- FAB_MEMBER_TABLE_HI
  ⟨0x8022, 0x8022, 1, 0x80, 3, .rws, 0, .v, false⟩,
  -- FAB_REQ_TIMEOUT_MS
  ⟨0x8030, 0x8030, 1, 1, 3, .rw, 0x82, .v, false⟩,
  -- FAB_HOLD_MS
  ⟨0x8030, 0x8030, 2, 2, 2, .ro, 0x32, .v, false⟩,
  -- FAB_LIFETIME_US
  ⟨0x8030, 0x8030, 3, 3, 3, .ro, 0xEA60, .v, false⟩,
  -- FAB_HOP_LIMIT
  ⟨0x8030, 0x8030, 4, 4, 1, .ro, 0x3F, .v, false⟩,
  -- FAB_HELLO_MS
  ⟨0x8030, 0x8030, 5, 5, 2, .ro, 0xA, .v, false⟩,
  -- FAB_TRANSIT_REQ
  ⟨0x8040, 0x8040, 1, 1, 1, .wo, 0, .v, false⟩,
  -- FAB_TRANSIT_ON_C
  ⟨0x8040, 0x8040, 2, 2, 1, .rw, 0, .p, false⟩,
  -- FAB_REPLAYS
  ⟨0x8050, 0x8050, 1, 1, 4, .ro, 0, .v, true⟩,
  -- FAB_RETRAINS
  ⟨0x8050, 0x8050, 2, 2, 3, .ro, 0, .v, true⟩]

/-- Entries of range 0x8000. -/
def rowsFabric2 : List EntRow := [
  -- FAB_HCRC_DROPS
  ⟨0x8050, 0x8050, 3, 3, 3, .ro, 0, .v, true⟩,
  -- FAB_SEQ_GAPS
  ⟨0x8050, 0x8050, 4, 4, 3, .ro, 0, .v, true⟩,
  -- FAB_REQ_TIMEOUTS
  ⟨0x8050, 0x8050, 5, 5, 3, .ro, 0, .v, true⟩,
  -- FAB_HOLD_DROPS
  ⟨0x8050, 0x8050, 6, 6, 3, .ro, 0, .v, true⟩,
  -- FAB_AGE_DROPS
  ⟨0x8050, 0x8050, 7, 7, 3, .ro, 0, .v, true⟩,
  -- FAB_NO_ROUTE
  ⟨0x8050, 0x8050, 8, 8, 3, .ro, 0, .v, true⟩,
  -- FAB_IN_REFUSED
  ⟨0x8050, 0x8050, 9, 9, 3, .ro, 0, .v, true⟩,
  -- FAB_MGMT_REFUSED
  ⟨0x8050, 0x8050, 0xA, 0xA, 3, .ro, 0, .v, true⟩,
  -- FAB_MALFORMED
  ⟨0x8050, 0x8050, 0xB, 0xB, 3, .ro, 0, .v, true⟩,
  -- FAB_RESYNCS
  ⟨0x8050, 0x8050, 0xC, 0xC, 3, .ro, 0, .v, true⟩]

/-- Entries of range 0x9000. -/
def rowsLinks : List EntRow := [
  -- PKG_BDIES
  ⟨0x9000, 0x9000, 1, 1, 1, .ro, 6, .v, false⟩,
  -- PKG_CDIE_MAP
  ⟨0x9000, 0x9000, 2, 2, 7, .ro, 0xFFF, .v, false⟩,
  -- PKG_ID_FAULT
  ⟨0x9000, 0x9000, 3, 3, 1, .ro, 0, .c, false⟩,
  -- GUEST_DESC
  ⟨0x9008, 0x9008, 1, 0x11, 9, .ro, 0, .v, false⟩,
  -- GUEST_RATE
  ⟨0x9009, 0x9009, 1, 0x11, 1, .ro, 0x20, .v, false⟩,
  -- D2D_WIDTH
  ⟨0x9010, 0x9010, 1, 7, 2, .ro, 0x100, .v, false⟩,
  -- D2D_SPARES_USED
  ⟨0x9011, 0x9011, 1, 7, 1, .ro, 0, .v, false⟩,
  -- D2D_REPLAYS
  ⟨0x9012, 0x9012, 1, 7, 4, .ro, 0, .v, true⟩,
  -- D2D_MARGINAL
  ⟨0x9013, 0x9013, 1, 1, 2, .ro, 0, .v, false⟩,
  -- D2D_REPLAY_ALARM
  ⟨0x9013, 0x9013, 2, 2, 3, .rw, 0x2710, .p, false⟩,
  -- REF_STATUS
  ⟨0x9020, 0x9020, 1, 1, 1, .ro, 0, .c, false⟩,
  -- TIME_SOURCE
  ⟨0x9020, 0x9020, 2, 2, 1, .ro, 1, .c, false⟩,
  -- REF_DEV_PPM
  ⟨0x9020, 0x9020, 3, 3, 5, .ro, 0, .v, false⟩,
  -- REF_FAILS
  ⟨0x9020, 0x9020, 4, 4, 3, .ro, 0, .c, true⟩,
  -- FALLBACK_SETTLE_US
  ⟨0x9020, 0x9020, 5, 5, 2, .ro, 0, .c, false⟩,
  -- REF_TIME_NS
  ⟨0x9020, 0x9020, 6, 6, 4, .ro, 0, .c, false⟩,
  -- CLK_EN
  ⟨0x9030, 0x9030, 1, 1, 1, .rw, 3, .p, false⟩,
  -- CLK_EN
  ⟨0x9030, 0x9030, 2, 0xD, 1, .rw, 3, .p, false⟩,
  -- CLK_EN
  ⟨0x9030, 0x9030, 0xE, 0x14, 1, .rw, 3, .p, false⟩,
  -- CLK_EN
  ⟨0x9030, 0x9030, 0x15, 0x24, 1, .rw, 3, .p, false⟩,
  -- CLK_EN
  ⟨0x9030, 0x9030, 0x25, 0x25, 1, .rw, 3, .p, false⟩,
  -- CLK_EN
  ⟨0x9030, 0x9030, 0x26, 0x26, 1, .rw, 7, .p, false⟩,
  -- SSC_HBM_DEPTH
  ⟨0x9040, 0x9040, 1, 1, 1, .rws, 0, .p, false⟩,
  -- SSC_D2D_DEPTH
  ⟨0x9040, 0x9040, 3, 3, 1, .rws, 0, .p, false⟩]

/-- Entries of range 0x9000. -/
def rowsLinks2 : List EntRow := [
  -- SSC_HBM_RATE_KHZ
  ⟨0x9040, 0x9040, 2, 2, 1, .rws, 0x1E, .p, false⟩,
  -- SSC_D2D_RATE_KHZ
  ⟨0x9040, 0x9040, 4, 4, 1, .rws, 0x1E, .p, false⟩,
  -- SSC_ACTIVE
  ⟨0x9040, 0x9040, 5, 5, 7, .ro, 0x1E001E00, .v, false⟩,
  -- XING_MAIN_RESET
  ⟨0x9050, 0x9050, 1, 1, 3, .ro, 0, .c, true⟩]

/-- Entries of range 0xA000. -/
def rowsPower : List EntRow := [
  -- CDIE_ILIM_A
  ⟨0xA000, 0xA000, 1, 1, 2, .cons, 0x1E0, .cp, false⟩,
  -- ILIM_STEP_A
  ⟨0xA000, 0xA000, 2, 2, 2, .ro, 0x1E, .v, false⟩,
  -- ILIM_FLOOR_A
  ⟨0xA000, 0xA000, 3, 3, 2, .ro, 0xD2, .v, false⟩,
  -- HALF_VSET_MV
  ⟨0xA000, 0xA000, 4, 4, 2, .cons, 0x352, .cp, false⟩,
  -- CDIE_ILIM_NOW_A
  ⟨0xA008, 0xA008, 1, 0xC, 2, .ro, 0x1E0, .v, false⟩,
  -- THROTTLE_STEPS
  ⟨0xA009, 0xA009, 1, 0xC, 7, .ro, 0, .v, false⟩,
  -- HALF_MV
  ⟨0xA010, 0xA010, 1, 0x18, 2, .ro, 0, .v, false⟩,
  -- HALF_CURRENT_DA
  ⟨0xA011, 0xA011, 1, 0x18, 2, .ro, 0, .v, false⟩,
  -- P_SUST_W
  ⟨0xA020, 0xA020, 1, 1, 2, .cons, 0x1900, .cp, false⟩,
  -- P_PEAK_W
  ⟨0xA020, 0xA020, 2, 2, 2, .cons, 0x1C20, .cp, false⟩,
  -- P_IN_W
  ⟨0xA020, 0xA020, 3, 3, 2, .ro, 0, .v, false⟩,
  -- P_ALLOWED_W
  ⟨0xA020, 0xA020, 4, 4, 2, .ro, 0x1C20, .v, false⟩,
  -- POWER_STATE
  ⟨0xA030, 0xA030, 1, 1, 1, .ro, 0, .v, false⟩,
  -- POWER_REQ
  ⟨0xA030, 0xA030, 2, 2, 1, .wo, 0, .v, false⟩,
  -- POWER_REQ_REFUSALS
  ⟨0xA030, 0xA030, 3, 3, 3, .ro, 0, .v, true⟩,
  -- THROTTLE_STEPS_TOTAL
  ⟨0xA040, 0xA040, 1, 1, 3, .ro, 0, .v, true⟩]

/-- Entries of range 0xB000. -/
def rowsThermal : List EntRow := [
  -- TH_C_WARN_C
  ⟨0xB000, 0xB000, 1, 1, 1, .cons, 0x5F, .cp, false⟩,
  -- TH_C_THROTTLE_C
  ⟨0xB000, 0xB000, 2, 2, 1, .cons, 0x64, .cp, false⟩,
  -- TH_C_TRIP_C
  ⟨0xB000, 0xB000, 3, 3, 1, .cons, 0x73, .cp, false⟩,
  -- TH_B_THROTTLE_C
  ⟨0xB000, 0xB000, 4, 4, 1, .cons, 0x5F, .cp, false⟩,
  -- TH_B_TRIP_C
  ⟨0xB000, 0xB000, 5, 5, 1, .cons, 0x6E, .cp, false⟩,
  -- TH_H_THROTTLE_C
  ⟨0xB000, 0xB000, 6, 6, 1, .cons, 0x5F, .cp, false⟩,
  -- TH_H_TRIP_C
  ⟨0xB000, 0xB000, 7, 7, 1, .cons, 0x69, .cp, false⟩,
  -- TH_HYST_K
  ⟨0xB000, 0xB000, 8, 8, 1, .ro, 3, .v, false⟩,
  -- SHUT_REARM_C
  ⟨0xB000, 0xB000, 9, 9, 1, .cons, 0x32, .cp, false⟩,
  -- COLD_MIN_C
  ⟨0xB010, 0xB010, 1, 1, 1, .ro, 0xA, .v, false⟩,
  -- COLD_WARM_EN
  ⟨0xB010, 0xB010, 2, 2, 1, .rw, 0, .p, false⟩,
  -- INLET_MIN_C
  ⟨0xB010, 0xB010, 3, 3, 1, .ro, 0xF, .v, false⟩,
  -- INLET_MAX_C
  ⟨0xB010, 0xB010, 4, 4, 1, .ro, 0x2D, .v, false⟩,
  -- WARM_ILIM_A
  ⟨0xB010, 0xB010, 5, 5, 2, .ro, 0x78, .v, false⟩,
  -- PLATE_HEAT_J_PER_K
  ⟨0xB020, 0xB020, 1, 1, 3, .cons, 0x708, .cp, false⟩,
  -- LOOP_TAU_S
  ⟨0xB020, 0xB020, 2, 2, 1, .cons, 0x2D, .cp, false⟩,
  -- INLET_SET_C
  ⟨0xB020, 0xB020, 3, 3, 1, .cons, 0x23, .cp, false⟩,
  -- CREDIT_DT_K
  ⟨0xB020, 0xB020, 4, 4, 1, .cons, 5, .cp, false⟩,
  -- FLOW_NOM_DLPM
  ⟨0xB020, 0xB020, 5, 5, 2, .cons, 0x5A, .cp, false⟩,
  -- FLOW_MAX_DLPM
  ⟨0xB020, 0xB020, 6, 6, 2, .cons, 0x78, .cp, false⟩,
  -- CREDIT_J
  ⟨0xB020, 0xB020, 7, 7, 3, .ro, 0, .c, false⟩,
  -- CREDIT_GRANTED
  ⟨0xB020, 0xB020, 8, 8, 1, .ro, 1, .c, false⟩,
  -- COOL_REQ_INLET_C
  ⟨0xB020, 0xB020, 9, 9, 1, .ro, 0x23, .v, false⟩,
  -- COOL_REQ_FLOW_DLPM
  ⟨0xB020, 0xB020, 0xA, 0xA, 2, .ro, 0x5A, .v, false⟩]

/-- Entries of range 0xB000. -/
def rowsThermal2 : List EntRow := [
  -- CDIE_TEMP_DC
  ⟨0xB030, 0xB030, 1, 0xC, 5, .ro, 0, .v, false⟩,
  -- BDIE_TEMP_DC
  ⟨0xB031, 0xB031, 1, 6, 5, .ro, 0, .v, false⟩,
  -- HBM_TEMP_DC
  ⟨0xB032, 0xB032, 1, 0xC, 5, .ro, 0, .v, false⟩,
  -- INLET_TEMP_DC
  ⟨0xB033, 0xB033, 1, 1, 5, .ro, 0, .v, false⟩,
  -- OUTLET_TEMP_DC
  ⟨0xB033, 0xB033, 2, 2, 5, .ro, 0, .v, false⟩,
  -- LEDGER_FLASH_TEMP_DC
  ⟨0xB033, 0xB033, 4, 4, 5, .ro, 0, .v, false⟩,
  -- FLOW_DLPM
  ⟨0xB033, 0xB033, 3, 3, 2, .ro, 0, .v, false⟩,
  -- HK_CHANNELS
  ⟨0xB034, 0xB034, 1, 1, 9, .ro, 0, .v, false⟩,
  -- SENSORS_FAILED
  ⟨0xB034, 0xB034, 2, 2, 2, .ro, 0, .v, true⟩,
  -- SENSOR_FAIL_MAP
  ⟨0xB034, 0xB034, 3, 3, 9, .ro, 0, .v, false⟩,
  -- SHUTDOWN_CAUSE
  ⟨0xB040, 0xB040, 1, 1, 1, .ro, 0, .c, false⟩,
  -- SHUTDOWN_CLEAR
  ⟨0xB040, 0xB040, 2, 2, 1, .cons, 0, .c, false⟩,
  -- SHUTDOWNS
  ⟨0xB040, 0xB040, 3, 3, 3, .ro, 0, .c, true⟩,
  -- WARN_EVENTS
  ⟨0xB040, 0xB040, 4, 4, 3, .ro, 0, .v, true⟩]

/-- Entries of range 0xC000. -/
def rowsConservator : List EntRow := [
  -- MAIN_STATE
  ⟨0xC000, 0xC000, 1, 1, 1, .ro, 1, .c, false⟩,
  -- FAULT_N_STATE
  ⟨0xC000, 0xC000, 2, 2, 1, .ro, 0, .c, false⟩,
  -- RESET_RIGHTS
  ⟨0xC000, 0xC000, 3, 3, 7, .cons, 7, .cp, false⟩,
  -- IBI_MASK
  ⟨0xC000, 0xC000, 4, 4, 7, .cons, 0x1C, .cp, false⟩,
  -- CONS_WRITES
  ⟨0xC000, 0xC000, 5, 5, 3, .ro, 0, .c, true⟩,
  -- CONS_REFUSED
  ⟨0xC000, 0xC000, 6, 6, 3, .ro, 0, .c, true⟩,
  -- CONS_LOAD_FAILS
  ⟨0xC000, 0xC000, 7, 7, 3, .ro, 0, .c, true⟩]

/-- Entries of range 0xD000. -/
def rowsLedger : List EntRow := [
  -- LEDGER_BYTES
  ⟨0xD000, 0xD000, 1, 1, 3, .ro, 0x4000000, .c, false⟩,
  -- LEDGER_GENERATION
  ⟨0xD000, 0xD000, 2, 2, 3, .ro, 0, .c, false⟩,
  -- LEDGER_USED
  ⟨0xD000, 0xD000, 3, 3, 3, .ro, 0, .c, false⟩,
  -- LEDGER_RECORDS
  ⟨0xD000, 0xD000, 4, 4, 3, .ro, 0, .c, true⟩,
  -- LEDGER_READ
  ⟨0xD000, 0xD000, 5, 5, 9, .ro, 0, .c, false⟩,
  -- LEDGER_FAULT
  ⟨0xD000, 0xD000, 6, 6, 1, .ro, 0, .c, false⟩,
  -- LEDGER_COMPACTIONS
  ⟨0xD000, 0xD000, 7, 7, 3, .ro, 0, .c, true⟩,
  -- LEDGER_WIN_MIN_C
  ⟨0xD010, 0xD010, 1, 1, 1, .ro, 0, .c, false⟩,
  -- LEDGER_WIN_MAX_C
  ⟨0xD010, 0xD010, 2, 2, 1, .ro, 0x55, .c, false⟩,
  -- LEDGER_SLOTS
  ⟨0xD010, 0xD010, 3, 3, 1, .ro, 0x20, .c, false⟩,
  -- LEDGER_SLOTS_USED
  ⟨0xD010, 0xD010, 4, 4, 1, .ro, 0, .c, false⟩,
  -- LEDGER_SLOT_DROPS
  ⟨0xD010, 0xD010, 5, 5, 3, .ro, 0, .c, true⟩]

/-- Entries of range 0xE000. -/
def rowsEvents : List EntRow := [
  -- EVENT_LOG
  ⟨0xE000, 0xE000, 1, 1, 9, .ro, 0, .c, false⟩,
  -- EVENT_COUNT
  ⟨0xE000, 0xE000, 2, 2, 3, .ro, 0, .c, true⟩]

/-- Entries of range 0xF000. -/
def rowsCommands : List EntRow := [
  -- COMMIT
  ⟨0xF000, 0xF000, 1, 1, 1, .wo, 0, .v, false⟩,
  -- ABORT
  ⟨0xF000, 0xF000, 2, 2, 1, .wo, 0, .v, false⟩,
  -- COMMIT_STATUS
  ⟨0xF000, 0xF000, 3, 3, 7, .ro, 0, .v, false⟩,
  -- STAGE_TIMEOUT_S
  ⟨0xF000, 0xF000, 4, 4, 2, .rw, 0x3C, .p, false⟩,
  -- RESET_CMD
  ⟨0xF010, 0xF010, 1, 1, 3, .wo, 0, .v, false⟩,
  -- RESET_RIGHTS_REFUSALS
  ⟨0xF010, 0xF010, 2, 2, 3, .ro, 0, .c, true⟩,
  -- PERSIST_CLEAR
  ⟨0xF020, 0xF020, 1, 1, 3, .wo, 0, .v, false⟩]

/-- Every row of the entry tables. -/
def entRows : List EntRow :=
  rowsIdentity ++ rowsInventory ++ rowsInventory2 ++ rowsHost ++ rowsTile ++ rowsSync ++
  rowsVaultHbm ++ rowsVaultHbm2 ++ rowsVaultHbm3 ++ rowsRegProt ++ rowsRegProt2 ++ rowsRegProt3 ++
  rowsFabric ++ rowsFabric2 ++ rowsLinks ++ rowsLinks2 ++ rowsPower ++ rowsThermal ++
  rowsThermal2 ++ rowsConservator ++ rowsLedger ++ rowsEvents ++ rowsCommands

/-- The row of an entry, if the part defines it (R444). -/
def findRow (idx sub : Nat) : Option EntRow :=
  entRows.find? (fun r => decide (r.lo ≤ idx) && decide (idx ≤ r.hi) && decide (r.slo ≤ sub) && decide (sub ≤ r.shi))

/-- The highest subindex defined at an index; 0 where the index holds no entries (R412). -/
def maxSub (idx : Nat) : Nat :=
  entRows.foldl (fun m r => if r.lo ≤ idx ∧ idx ≤ r.hi then max m r.shi else m) 0

/-- The size in bytes of a scalar type of Table 14.2. -/
def tySize (ty : Nat) : Nat :=
  match ty with
  | 1 => 1 | 2 => 2 | 3 => 4 | 4 => 8 | 5 => 4 | 6 => 4 | 7 => 4 | _ => 0

/-- The key of an entry in the sparse stores. -/
def entKey (idx sub : Nat) : Nat := idx * 256 + sub

/-- The default of an entry; 0 where there is none. -/
def entDefault (key : Nat) : Nat :=
  match findRow (key / 256) (key % 256) with
  | some r => r.dflt
  | none => 0

end Sys2Proof.Machine
end

