-- ==== Sys2Proof/Machine/Arith.lean ====
section
/-! DEFINITION. Number formats, exact values, rounding and conversion (The tile array and its arithmetic). -/

namespace Sys2Proof.Machine

/-- A value read from a number format: NaN, an infinity, or sign, magnitude `m` and exponent `e` for m times 2^e. -/
inductive Num where
  | nan
  | inf (neg : Bool)
  | fin (neg : Bool) (m : Nat) (e : Int)
deriving DecidableEq, Repr, Inhabited

/-- What a floating-point format does with its top encodings (Table 2.7). -/
inductive Specials where
  | ieee   -- infinities and NaNs in the top exponent
  | e4m3   -- one NaN mantissa, no infinity
  | none   -- neither
deriving DecidableEq, Repr, Inhabited

/-- A floating-point format of Table 2.7. -/
structure FpFmt where
  ebits : Nat
  mbits : Nat
  bias : Nat
  specials : Specials
deriving DecidableEq, Repr, Inhabited

def fp32 : FpFmt := { ebits := 8, mbits := 23, bias := 127, specials := .ieee }
def bf16 : FpFmt := { ebits := 8, mbits := 7, bias := 127, specials := .ieee }
def fp16 : FpFmt := { ebits := 5, mbits := 10, bias := 15, specials := .ieee }
def e4m3 : FpFmt := { ebits := 4, mbits := 3, bias := 7, specials := .e4m3 }
def e5m2 : FpFmt := { ebits := 5, mbits := 2, bias := 15, specials := .ieee }
def e3m2 : FpFmt := { ebits := 3, mbits := 2, bias := 3, specials := .none }
def e2m3 : FpFmt := { ebits := 2, mbits := 3, bias := 1, specials := .none }
def e2m1 : FpFmt := { ebits := 2, mbits := 1, bias := 1, specials := .none }

/-- The width of a format in bits, its sign included. -/
def FpFmt.width (f : FpFmt) : Nat := 1 + f.ebits + f.mbits

/-- The weight exponent of the least subnormal. -/
def FpFmt.emin (f : FpFmt) : Int := 1 - (f.bias : Int) - (f.mbits : Int)

/-- The magnitude bits of the largest finite value. -/
def FpFmt.maxFinite (f : FpFmt) : Nat :=
  match f.specials with
  | .ieee => (2 ^ f.ebits - 1) * 2 ^ f.mbits - 1
  | .e4m3 => 2 ^ (f.ebits + f.mbits) - 2
  | .none => 2 ^ (f.ebits + f.mbits) - 1

/-- The value of an encoding (Table 2.7); subnormals are honoured (R56). -/
def decodeFp (f : FpFmt) (w : Nat) : Num :=
  let neg := w / 2 ^ (f.ebits + f.mbits) % 2 == 1
  let e := w / 2 ^ f.mbits % 2 ^ f.ebits
  let m := w % 2 ^ f.mbits
  let top := e == 2 ^ f.ebits - 1
  match f.specials with
  | .ieee =>
    if top then (if m = 0 then .inf neg else .nan)
    else if e = 0 then .fin neg m f.emin
    else .fin neg (2 ^ f.mbits + m) (f.emin + (e : Int) - 1)
  | .e4m3 =>
    if top && m == 2 ^ f.mbits - 1 then .nan
    else if e = 0 then .fin neg m f.emin
    else .fin neg (2 ^ f.mbits + m) (f.emin + (e : Int) - 1)
  | .none =>
    if e = 0 then .fin neg m f.emin
    else .fin neg (2 ^ f.mbits + m) (f.emin + (e : Int) - 1)

/-- `m / 2^k` rounded to nearest even. -/
def rneShift (m k : Nat) : Nat :=
  let q := m / 2 ^ k
  let r := m % 2 ^ k
  if 2 * r > 2 ^ k then q + 1
  else if 2 * r = 2 ^ k && q % 2 == 1 then q + 1
  else q

/-- The magnitude bits that m times 2^e rounds to, to nearest even, as if the exponent had no upper bound. -/
def roundMag (f : FpFmt) (m : Nat) (e : Int) : Nat :=
  if m = 0 then 0
  else
    let lg : Int := e + (Nat.log2 m : Int)
    let ue : Int := max (lg - (f.mbits : Int)) f.emin
    let q := if e ≥ ue then m * 2 ^ (e - ue).toNat else rneShift m (ue - e).toNat
    (ue - f.emin).toNat * 2 ^ f.mbits + q

/-- The magnitude bits of infinity in an IEEE format. -/
def FpFmt.infMag (f : FpFmt) : Nat := (2 ^ f.ebits - 1) * 2 ^ f.mbits

/-- The canonical NaN of a format (Table 2.11); +0 where the format has none (Table 2.13). -/
def FpFmt.nanBits (f : FpFmt) : Nat :=
  match f.specials with
  | .ieee => f.infMag + 2 ^ (f.mbits - 1)
  | .e4m3 => 2 ^ (f.ebits + f.mbits) - 1
  | .none => 0

/-- The sign bit of a format. -/
def FpFmt.sign (f : FpFmt) (neg : Bool) : Nat := if neg then 2 ^ (f.ebits + f.mbits) else 0

/-- IEEE conversion: overflow gives an infinity (FP32, BF16, FP16). -/
def encodeIeee (f : FpFmt) (x : Num) : Nat :=
  match x with
  | .nan => f.nanBits
  | .inf neg => f.sign neg + f.infMag
  | .fin neg m e =>
    let b := roundMag f m e
    f.sign neg + (if b > f.maxFinite then f.infMag else b)

/-- Conversion of a small float: finite overflow saturates unless `nanOvf`, infinities as Table 2.11 says, and
saturation to the largest magnitude in the formats without NaN (Table 2.13). -/
def encodeSmall (f : FpFmt) (nanOvf : Bool) (x : Num) : Nat :=
  match x with
  | .nan => f.nanBits
  | .inf neg =>
    match f.specials with
    | .ieee => f.sign neg + f.infMag
    | .e4m3 => if nanOvf then f.nanBits else f.sign neg + f.maxFinite
    | .none => f.sign neg + f.maxFinite
  | .fin neg m e =>
    let b := roundMag f m e
    if b > f.maxFinite then
      (if nanOvf then f.nanBits else f.sign neg + f.maxFinite)
    else f.sign neg + b

/-- The nearest integer to m times 2^e, ties to even. -/
def nearestInt (neg : Bool) (m : Nat) (e : Int) : Int :=
  let q : Nat := if e ≥ 0 then m * 2 ^ e.toNat else rneShift m (-e).toNat
  if neg then -(q : Int) else (q : Int)

/-- Conversion to an integer of `w` bits between `lo` and `hi`; NaN gives 0. The bits are two's complement. -/
def encodeInt (w : Nat) (lo hi : Int) (x : Num) : Nat :=
  let v : Int :=
    match x with
    | .nan => 0
    | .inf neg => if neg then lo else hi
    | .fin neg m e => max lo (min hi (nearestInt neg m e))
  (BitVec.ofInt w v).toNat

/-- A two's-complement field of `w` bits as an integer. -/
def signedOf (w v : Nat) : Int := (BitVec.ofNat w v).toInt

/-- An integer as a value. -/
def Num.ofInt (v : Int) : Num := .fin (decide (v < 0)) v.natAbs 0

/-- An integer times 2^e as a value, +0 for zero. -/
def Num.ofScaled (v : Int) (e : Int) : Num := .fin (decide (v < 0)) v.natAbs e

/-- The signed integer of a finite value. -/
def Num.sig : Num → Int
  | .fin neg m _ => if neg then -(m : Int) else (m : Int)
  | _ => 0

def Num.isNan : Num → Bool
  | .nan => true
  | _ => false

def Num.isInf : Num → Bool
  | .inf _ => true
  | _ => false

def Num.isNeg : Num → Bool
  | .inf n => n
  | .fin n _ _ => n
  | .nan => false

def Num.isZero : Num → Bool
  | .fin _ m _ => m == 0
  | _ => false

def Num.negate : Num → Num
  | .nan => .nan
  | .inf n => .inf (!n)
  | .fin n m e => .fin (!n) m e

/-- The exact product; NaN for infinity by zero. -/
def Num.mul (a b : Num) : Num :=
  match a, b with
  | .nan, _ => .nan
  | _, .nan => .nan
  | .inf n, .inf k => .inf (n != k)
  | .inf n, .fin k m _ => if m = 0 then .nan else .inf (n != k)
  | .fin n m _, .inf k => if m = 0 then .nan else .inf (n != k)
  | .fin n m e, .fin k l f => .fin (n != k) (m * l) (e + f)

/-- The exact sum, with the IEEE 754 sign of a zero sum under round-to-nearest. -/
def Num.add (a b : Num) : Num :=
  match a, b with
  | .nan, _ => .nan
  | _, .nan => .nan
  | .inf n, .inf k => if n = k then .inf n else .nan
  | .inf n, .fin _ _ _ => .inf n
  | .fin _ _ _, .inf k => .inf k
  | .fin n m e, .fin k l f =>
    let lo := min e f
    let x : Int := (m * 2 ^ (e - lo).toNat : Nat)
    let y : Int := (l * 2 ^ (f - lo).toNat : Nat)
    let s : Int := (if n then -x else x) + (if k then -y else y)
    if s = 0 then .fin (if m = 0 && l = 0 then n && k else false) 0 lo
    else .fin (decide (s < 0)) s.natAbs lo

/-- Exact comparison of finite or infinite values: `a < b`. -/
def Num.lt (a b : Num) : Bool :=
  match a, b with
  | .nan, _ => false
  | _, .nan => false
  | .inf n, .inf k => n && !k
  | .inf n, .fin _ _ _ => n
  | .fin _ _ _, .inf k => !k
  | .fin _ _ e, .fin _ _ f =>
    let lo := min e f
    decide (a.sig * (2 ^ (e - lo).toNat : Nat) < b.sig * (2 ^ (f - lo).toNat : Nat))

/-- Equality as values; the zeros are equal. -/
def Num.eqv (a b : Num) : Bool := !a.isNan && !b.isNan && !a.lt b && !b.lt a

/-! ## FP32 operations of the vector unit and of the reduction units (R78, Table 2.13, R169, R170) -/

abbrev F32 := BitVec 32

def f32Nan : F32 := 0x7FC00000#32
def f32Dec (x : F32) : Num := decodeFp fp32 x.toNat
def f32Enc (x : Num) : F32 := BitVec.ofNat 32 (encodeIeee fp32 x)

def f32Add (a b : F32) : F32 := f32Enc ((f32Dec a).add (f32Dec b))
def f32Sub (a b : F32) : F32 := f32Enc ((f32Dec a).add (f32Dec b).negate)
def f32Mul (a b : F32) : F32 := f32Enc ((f32Dec a).mul (f32Dec b))
def f32Fma (a b c : F32) : F32 := f32Enc (((f32Dec a).mul (f32Dec b)).add (f32Dec c))

/-- IEEE 754-2019 minimum: NaN propagates, −0 below +0. -/
def f32Min (a b : F32) : F32 :=
  let x := f32Dec a
  let y := f32Dec b
  if x.isNan || y.isNan then f32Nan
  else if x.lt y then a
  else if y.lt x then b
  else if x.isNeg then a else b

/-- IEEE 754-2019 maximum: NaN propagates, −0 below +0. -/
def f32Max (a b : F32) : F32 :=
  let x := f32Dec a
  let y := f32Dec b
  if x.isNan || y.isNan then f32Nan
  else if x.lt y then b
  else if y.lt x then a
  else if x.isNeg then b else a

/-- BF16 sum formed exactly and rounded once (R170). -/
def bf16Add (a b : BitVec 16) : BitVec 16 :=
  BitVec.ofNat 16 (encodeIeee bf16 ((decodeFp bf16 a.toNat).add (decodeFp bf16 b.toNat)))

/-- The distance of one unit in the last place at an FP32 encoding of a finite value: its exponent. -/
def ulpExp (x : F32) : Int :=
  let e : Nat := x.toNat / 2 ^ 23 % 256
  fp32.emin + (if e = 0 then 0 else (e : Int) - 1)

/-- The integer square root of `n`, by bits from bit `k` down. -/
def isqrtGo (n : Nat) : Nat → Nat → Nat
  | 0, r => r
  | k + 1, r => if (r + 2 ^ k) * (r + 2 ^ k) ≤ n then isqrtGo n k (r + 2 ^ k) else isqrtGo n k r

def isqrt (n : Nat) : Nat := isqrtGo n (Nat.log2 n / 2 + 1) 0

/-- n / d rounded into a value with a sticky last bit, 64 bits below the leading one. -/
def quotNum (neg : Bool) (n d : Nat) (e : Int) : Num :=
  let k := 66 + Nat.log2 d
  let q := n * 2 ^ k / d
  let st : Nat := if n * 2 ^ k % d = 0 then 0 else 1
  .fin neg (2 * q + st) (e - (k : Int) - 1)

/-- Is `y` (finite) within `k` ulp of 1/x? -/
def rcpWithin (k : Nat) (x y : F32) : Bool :=
  match f32Dec x, f32Dec y with
  | .fin nx mx ex, .fin ny my ey =>
    -- |y·x − 1| ≤ k·ulp(y)·|x|, all times 2^s
    let u := ulpExp y
    let s : Int := min (min (ex + ey) 0) (u + ex)
    let p : Int := ((mx * my * 2 ^ (ex + ey - s).toNat : Nat) : Int)
    let one : Int := ((2 ^ (0 - s).toNat : Nat) : Int)
    nx == ny && decide ((p - one).natAbs ≤ k * mx * 2 ^ (u + ex - s).toNat)
  | _, _ => false

/-- Reciprocal: ±Inf at ±0, ±0 at ±Inf, otherwise within 1 ulp (Table 2.13); an implementation's bits where they
meet the bound, else the correctly rounded value. -/
def f32Rcp (x : F32) : F32 :=
  match f32Dec x with
  | .nan => f32Nan
  | .inf n => f32Enc (.fin n 0 0)
  | .fin n m e =>
    if m = 0 then f32Enc (.inf n)
    else
      let c := Config.rcpChoice x
      if rcpWithin 1 x c then c else f32Enc (quotNum n 1 m (-e))

/-- Is `y` (finite, not negative) within `k` ulp of 1/sqrt x? -/
def rsqrtWithin (k : Nat) (x y : F32) : Bool :=
  match f32Dec x, f32Dec y with
  | .fin _ mx ex, .fin ny my ey =>
    -- (y − k·ulp)² x ≤ 1 ≤ (y + k·ulp)² x
    let u := ulpExp y
    let lo := min ey u
    let a : Int := ((my * 2 ^ (ey - lo).toNat : Nat) : Int)
    let d : Int := ((k * 2 ^ (u - lo).toNat : Nat) : Int)
    let t : Int := 2 * lo + ex
    let le1 (v : Int) : Bool :=
      if t ≥ 0 then decide (v * ((2 ^ t.toNat : Nat) : Int) ≤ 1) else decide (v ≤ ((2 ^ (-t).toNat : Nat) : Int))
    let ge1 (v : Int) : Bool :=
      if t ≥ 0 then decide (v * ((2 ^ t.toNat : Nat) : Int) ≥ 1) else decide (v ≥ ((2 ^ (-t).toNat : Nat) : Int))
    !ny && (decide (a ≤ d) || le1 ((a - d) * (a - d) * (mx : Int))) && ge1 ((a + d) * (a + d) * (mx : Int))
  | _, _ => false

/-- Reciprocal square root: +Inf at +0, −Inf at −0, NaN below zero, +0 at +Inf, otherwise within 2 ulp. -/
def f32Rsqrt (x : F32) : F32 :=
  match f32Dec x with
  | .nan => f32Nan
  | .inf n => if n then f32Nan else 0#32
  | .fin n m e =>
    if m = 0 then f32Enc (.inf n)
    else if n then f32Nan
    else
      let c := Config.rsqrtChoice x
      if rsqrtWithin 2 x c then c
      else
        -- 1/sqrt(m 2^e) = sqrt(2^(2k) / (m 2^e')) 2^(-k - e''), e even
        let m2 := if e % 2 = 0 then m else 2 * m
        let e2 : Int := if e % 2 = 0 then e else e - 1
        let k := 66 + Nat.log2 m2
        let q := isqrt (2 ^ (2 * k) / m2)
        f32Enc (.fin false (2 * q + 1) (-(k : Int) - 1 - e2 / 2))

/-- The square root of 2, its square root and so on, each a floor in units of 2^-96. -/
def rootsGo : Nat → Nat → List Nat
  | 0, _ => []
  | n + 1, r =>
    let q := isqrt (r * 2 ^ 96)
    q :: rootsGo n q

def exp2Roots : List Nat := rootsGo 96 (2 * 2 ^ 96)

/-- A lower bound of 2^(f / 2^96) for f below 2^96, in units of 2^-96: the exact value is less than 2^12 units above. -/
def exp2Low (f : Nat) : Nat :=
  exp2Roots.zipIdx.foldl (fun acc p => if f / 2 ^ (95 - p.2) % 2 = 1 then acc * p.1 / 2 ^ 96 else acc) (2 ^ 96)

/-- Bounds of 2^(n / 2^k): L times 2^i at most it, and it at most H times 2^i; equal where n / 2^k is an integer. -/
def exp2Bounds (n : Int) (k : Nat) : Nat × Nat × Int :=
  let f := (n % ((2 ^ k : Nat) : Int)).toNat
  let low := exp2Low (if k ≤ 96 then f * 2 ^ (96 - k) else f / 2 ^ (k - 96))
  (low, if f = 0 then low else low + 2 ^ 12, n / ((2 ^ k : Nat) : Int) - 96)

/-- Is 2^(n / 2^k) at most m times 2^e, for values an FP32 number comes near to? -/
def exp2Le (n : Int) (k m : Nat) (e : Int) : Bool :=
  if n / ((2 ^ k : Nat) : Int) > 400 then false
  else if n / ((2 ^ k : Nat) : Int) < -400 then true
  else
    let b := exp2Bounds n k
    let t : Int := b.2.2 - e
    if t ≥ 0 then decide (b.1 * 2 ^ t.toNat ≤ m) else decide (b.1 ≤ m * 2 ^ (-t).toNat)

/-- Is m times 2^e at most 2^(n / 2^k)? -/
def exp2Ge (n : Int) (k m : Nat) (e : Int) : Bool :=
  if n / ((2 ^ k : Nat) : Int) > 400 then true
  else if n / ((2 ^ k : Nat) : Int) < -400 then m == 0
  else
    let b := exp2Bounds n k
    let t : Int := b.2.2 - e
    if t ≥ 0 then decide (m ≤ b.2.1 * 2 ^ t.toNat) else decide (m * 2 ^ (-t).toNat ≤ b.2.1)

/-- The largest magnitude of `bits` bits, from bit `j` down, whose value is at most 2^(n / 2^k). -/
def exp2Floor (n : Int) (k : Nat) : Nat → Nat → Nat
  | 0, r => r
  | j + 1, r =>
    let c := r + 2 ^ j
    match decodeFp fp32 c with
    | .fin _ m e => if exp2Ge n k m e then exp2Floor n k j c else exp2Floor n k j r
    | _ => exp2Floor n k j r

/-- Is `y` within 2 ulp of 2^(n / 2^k)? -/
def exp2Within (n : Int) (k : Nat) (y : F32) : Bool :=
  match f32Dec y with
  | .fin neg m e =>
    let u := ulpExp y
    let lo := min e u
    let a := m * 2 ^ (e - lo).toNat
    let d := 2 * 2 ^ (u - lo).toNat
    !neg && (decide (a ≤ d) || exp2Ge n k (a - d) lo) && exp2Le n k (a + d) lo
  | _ => false

/-- exp2: exact at integers of [−149, 127], +Inf from 128, +0 to −150, otherwise within 2 ulp (Table 2.13). -/
def f32Exp2 (x : F32) : F32 :=
  match f32Dec x with
  | .nan => f32Nan
  | .inf n => if n then 0#32 else f32Enc (.inf false)
  | .fin n m e =>
    let v : Int := if n then -(m : Int) else (m : Int)
    let ge128 := !n && (Num.lt (.fin n m e) (.fin false 128 0)) == false
    let le150 := (Num.lt (.fin true 150 0) (.fin n m e)) == false
    if ge128 then f32Enc (.inf false)
    else if le150 then 0#32
    else if e ≥ 0 then f32Enc (.fin false 1 (v * ((2 ^ e.toNat : Nat) : Int)))
    else
      let k := (-e).toNat
      if v % ((2 ^ k : Nat) : Int) = 0 then f32Enc (.fin false 1 (v / ((2 ^ k : Nat) : Int)))
      else
        let c := Config.exp2Choice x
        if exp2Within v k c then c else BitVec.ofNat 32 (exp2Floor v k 31 0)

/-- Is log2 of m times 2^e at most a / 2^q? -/
def log2Le (m : Nat) (e : Int) (a : Int) (q : Nat) : Bool := exp2Ge a q m e

/-- Is log2 of m times 2^e at least a / 2^q? -/
def log2Ge (m : Nat) (e : Int) (a : Int) (q : Nat) : Bool := exp2Le a q m e

/-- Is `y` within 2 ulp of log2 of m times 2^e? -/
def log2Within (m : Nat) (e : Int) (y : F32) : Bool :=
  match f32Dec y with
  | .fin neg my ey =>
    let u := ulpExp y
    let lo := min (min ey u) 0
    let a : Int := ((my * 2 ^ (ey - lo).toNat : Nat) : Int)
    let v : Int := if neg then -a else a
    let d : Int := ((2 * 2 ^ (u - lo).toNat : Nat) : Int)
    let q := (-lo).toNat
    log2Ge m e (v - d) q && log2Le m e (v + d) q
  | _ => false

/-- The FP32 encoding nearest below in magnitude to log2 of m times 2^e, found from bit `j` down. -/
def log2Floor (m : Nat) (e : Int) (neg : Bool) : Nat → Nat → Nat
  | 0, r => r
  | j + 1, r =>
    let c := r + 2 ^ j
    match decodeFp fp32 c with
    | .fin _ mc ec =>
      let lo := min ec 0
      let a : Int := ((mc * 2 ^ (ec - lo).toNat : Nat) : Int)
      let q := (-lo).toNat
      let ok := if neg then log2Le m e (-a) q else log2Ge m e a q
      if ok then log2Floor m e neg j c else log2Floor m e neg j r
    | _ => log2Floor m e neg j r

/-- log2: −Inf at ±0, NaN below zero, +Inf at +Inf, otherwise within 2 ulp (Table 2.13). -/
def f32Log2 (x : F32) : F32 :=
  match f32Dec x with
  | .nan => f32Nan
  | .inf n => if n then f32Nan else f32Enc (.inf false)
  | .fin n m e =>
    if m = 0 then f32Enc (.inf true)
    else if n then f32Nan
    else if m = 2 ^ Nat.log2 m && e + (Nat.log2 m : Int) = 0 then 0#32
    else
      let c := Config.log2Choice x
      if log2Within m e c then c
      else
        let neg := decide (e + (Nat.log2 m : Int) < 0)
        BitVec.ofNat 32 (fp32.sign neg + log2Floor m e neg 31 0)

/-! ## Memory and output formats (Tables 2.11, 3.8 and 2.13) -/

/-- The width in bits of a memory or output format code, Table 3.8; 0 for a reserved code. -/
def ofmtWidth (c : Nat) : Nat :=
  match c with
  | 0 => 32 | 1 => 16 | 2 => 16 | 3 => 8 | 4 => 8 | 5 => 8 | 6 => 32 | 7 => 128
  | 8 => 6 | 9 => 6 | 10 => 4 | 11 => 4 | 12 => 8 | _ => 0

/-- The value a memory operand holds (vector sources, R102). -/
def decodeOfmt (c v : Nat) : Num :=
  match c with
  | 0 => decodeFp fp32 v
  | 1 => decodeFp bf16 v
  | 2 => decodeFp fp16 v
  | 3 => decodeFp e4m3 v
  | 4 => decodeFp e5m2 v
  | 5 => Num.ofInt (signedOf 8 v)
  | 6 => Num.ofInt (signedOf 32 v)
  | 8 => decodeFp e2m3 v
  | 9 => decodeFp e3m2 v
  | 10 => decodeFp e2m1 v
  | 11 => Num.ofInt (signedOf 4 v)
  | 12 => Num.ofInt (v % 256)
  | _ => .nan

/-- A value converted to a memory or output format; `nanOvf` is the NANOVF control. -/
def encodeOfmt (c : Nat) (nanOvf : Bool) (x : Num) : Nat :=
  match c with
  | 0 => encodeIeee fp32 x
  | 1 => encodeIeee bf16 x
  | 2 => encodeIeee fp16 x
  | 3 => encodeSmall e4m3 nanOvf x
  | 4 => encodeSmall e5m2 nanOvf x
  | 5 => encodeInt 8 (-128) 127 x
  | 6 => encodeInt 32 (-2147483648) 2147483647 x
  | 8 => encodeSmall e2m3 false x
  | 9 => encodeSmall e3m2 false x
  | 10 => encodeSmall e2m1 false x
  | 11 => encodeInt 4 (-8) 7 x
  | 12 => encodeInt 8 0 255 x
  | _ => 0

/-- Is this conversion of a finite value out of the format's range (R65's saturated results)? -/
def ofmtSaturates (c : Nat) (x : Num) : Bool :=
  match x with
  | .fin neg m e =>
    match c with
    | 0 => decide (roundMag fp32 m e > fp32.maxFinite)
    | 1 => decide (roundMag bf16 m e > bf16.maxFinite)
    | 2 => decide (roundMag fp16 m e > fp16.maxFinite)
    | 3 => decide (roundMag e4m3 m e > e4m3.maxFinite)
    | 4 => decide (roundMag e5m2 m e > e5m2.maxFinite)
    | 5 => let v := nearestInt neg m e; decide (v < -128) || decide (v > 127)
    | 6 => let v := nearestInt neg m e; decide (v < -2147483648) || decide (v > 2147483647)
    | _ => false
  | _ => false

/-- A zero result is +0 in every output format (R65). -/
def dropZeroSign (c v : Nat) : Nat :=
  match c with
  | 0 => if v = 2 ^ 31 then 0 else v
  | 1 => if v = 2 ^ 15 then 0 else v
  | 2 => if v = 2 ^ 15 then 0 else v
  | 3 => if v = 2 ^ 7 then 0 else v
  | 4 => if v = 2 ^ 7 then 0 else v
  | _ => v

/-- Conversion of a slot's value (R64, R65): V × s exactly, one rounding. The pair's second part says whether the
result saturated or came from a flag, which the command status counts: V × s is finite and outside the format's range,
or infinite through the scale in a format without infinities (DEDUCED), or V is a NaN or an infinity, the same in a slot
of FP32 kind (DEDUCED). A NaN that the scale alone makes is neither. DESIGN CHOICE (log 10): where the slot has an
infinity flag and s is negative or zero, the flag's infinity is multiplied by s: the sign turns, and zero gives NaN. -/
def convertSlot (c : Nat) (nanOvf : Bool) (scale : F32) (v : Num) : Nat × Bool :=
  let p := v.mul (f32Dec scale)
  (dropZeroSign c (encodeOfmt c nanOvf p),
    ofmtSaturates c p || (p.isInf && (c == 3 || c == 5 || c == 6)) || v.isNan || v.isInf)

/-! ## Input formats (Table 3.7) -/

/-- The element width in bits of an input format code; 0 for a reserved code. -/
def infmtWidth (c : Nat) : Nat :=
  match c with
  | 0 => 8 | 1 => 8 | 2 => 8 | 3 => 8 | 4 => 4 | 5 => 4 | 6 => 8 | 7 => 8
  | 8 => 6 | 9 => 6 | 10 => 4 | 11 => 8 | 12 => 16 | 13 => 16 | _ => 0

/-- Families of input formats, which Table 2.9 pairs. -/
inductive InClass where
  | fp8 | int8 | int4 | mx | mxfp4 | bf16 | fp16 | bad
deriving DecidableEq, Repr, Inhabited

def infmtClass (c : Nat) : InClass :=
  match c with
  | 0 => .fp8 | 1 => .fp8 | 2 => .int8 | 3 => .int8 | 4 => .int4 | 5 => .int4
  | 6 => .mx | 7 => .mx | 8 => .mx | 9 => .mx | 10 => .mxfp4 | 11 => .mx
  | 12 => .bf16 | 13 => .fp16 | _ => .bad

/-- The value of an input element. -/
def decodeInfmt (c v : Nat) : Num :=
  match c with
  | 0 => decodeFp e4m3 v
  | 1 => decodeFp e5m2 v
  | 2 => Num.ofInt (signedOf 8 v)
  | 3 => Num.ofInt (v % 256)
  | 4 => Num.ofInt (signedOf 4 v)
  | 5 => Num.ofInt (v % 16)
  | 6 => decodeFp e4m3 v
  | 7 => decodeFp e5m2 v
  | 8 => decodeFp e2m3 v
  | 9 => decodeFp e3m2 v
  | 10 => decodeFp e2m1 v
  | 11 => Num.ofScaled (signedOf 8 v) (-6)
  | 12 => decodeFp bf16 v
  | 13 => decodeFp fp16 v
  | _ => .nan

/-- The operand pairs of Table 2.9 (R58). -/
def pairAllowed (a b : Nat) : Bool :=
  match infmtClass a, infmtClass b with
  | .fp8, .fp8 => true
  | .int8, .int8 => true
  | .int4, .int4 => true
  | .int8, .int4 => true
  | .int4, .int8 => true
  | .mx, .mx => true
  | .mx, .mxfp4 => true
  | .mxfp4, .mx => true
  | .mxfp4, .mxfp4 => true
  | .bf16, .bf16 => true
  | .fp16, .fp16 => true
  | _, _ => false

/-- Both operands are 4-bit: two stationary elements in each cell's byte, K doubled. -/
def pairFour (a b : Nat) : Bool :=
  (infmtClass a == .int4 && infmtClass b == .int4) || (infmtClass a == .mxfp4 && infmtClass b == .mxfp4)

def pairMx (a b : Nat) : Bool :=
  (infmtClass a == .mx || infmtClass a == .mxfp4) && (infmtClass b == .mx || infmtClass b == .mxfp4)

def pairHalf (a b : Nat) : Bool :=
  (infmtClass a == .bf16 && infmtClass b == .bf16) || (infmtClass a == .fp16 && infmtClass b == .fp16)

def pairInteger (a b : Nat) : Bool :=
  (infmtClass a == .int8 || infmtClass a == .int4) && (infmtClass b == .int8 || infmtClass b == .int4)

/-- The cell element code LW a stationary format needs (Table 3.12). -/
def lwOfFormat (b : Nat) : Nat :=
  match infmtWidth b with
  | 16 => 1
  | 6 => 3
  | _ => 0

/-! ## Exact slots and wide partials (R59 to R63) -/

/-- The three flags that go with an exact value. -/
structure XFlags where
  nan : Bool
  pinf : Bool
  ninf : Bool
deriving DecidableEq, Repr, Inhabited

def XFlags.clear : XFlags := { nan := false, pinf := false, ninf := false }
def XFlags.any (f : XFlags) : Bool := f.nan || f.pinf || f.ninf
/-- Flags accumulate by OR (R61). -/
def XFlags.or (f g : XFlags) : XFlags := { nan := f.nan || g.nan, pinf := f.pinf || g.pinf, ninf := f.ninf || g.ninf }

/-- An exact accumulator: a 96-bit value with least weight 2^-36, and its flags (R59). -/
structure Exact where
  value : BitVec 96
  flags : XFlags
deriving DecidableEq, Repr, Inhabited

def Exact.zero : Exact := { value := 0#96, flags := .clear }

/-- One contribution added (R59, R61): special values set their flag, finite ones are exact multiples of 2^-36. -/
def Exact.addNum (x : Exact) (c : Num) : Exact :=
  match c with
  | .nan => { x with flags := { x.flags with nan := true } }
  | .inf false => { x with flags := { x.flags with pinf := true } }
  | .inf true => { x with flags := { x.flags with ninf := true } }
  | .fin neg m e =>
    let v : Nat := if e + 36 ≥ 0 then m * 2 ^ (e + 36).toNat else m / 2 ^ (-(e + 36)).toNat
    { x with value := if neg then x.value - BitVec.ofNat 96 v else x.value + BitVec.ofNat 96 v }

def Exact.add (x y : Exact) : Exact := { value := x.value + y.value, flags := x.flags.or y.flags }

/-- What an exact slot converts from: its flag where one is set, its value otherwise (R61). -/
def Exact.num (x : Exact) : Num :=
  if x.flags.nan || (x.flags.pinf && x.flags.ninf) then .nan
  else if x.flags.pinf then .inf false
  else if x.flags.ninf then .inf true
  else Num.ofScaled x.value.toInt (-36)

/-- The canonical wide partial of an exact slot (Table 2.10, R62). -/
def Exact.wide (x : Exact) : BitVec 128 :=
  if x.flags.nan || (x.flags.pinf && x.flags.ninf) then BitVec.ofNat 128 (2 ^ 96)
  else if x.flags.pinf then BitVec.ofNat 128 (2 ^ 97)
  else if x.flags.ninf then BitVec.ofNat 128 (2 ^ 98)
  else x.value.zeroExtend 128

/-- Is a wide partial canonical (R62)? -/
def wideCanonical (w : BitVec 128) : Bool :=
  let top := w.toNat / 2 ^ 99
  let fl := w.toNat / 2 ^ 96 % 8
  top == 0 && (fl == 0 || ((fl == 1 || fl == 2 || fl == 4) && w.toNat % 2 ^ 96 == 0))

/-- The exact value a wide partial stands for; a non-canonical one is NaN (R62). -/
def wideDecode (w : BitVec 128) : Exact :=
  if wideCanonical w then
    { value := BitVec.ofNat 96 (w.toNat % 2 ^ 96),
      flags := { nan := w.getLsbD 96, pinf := w.getLsbD 97, ninf := w.getLsbD 98 } }
  else { value := 0#96, flags := { nan := true, pinf := false, ninf := false } }

/-- Wide-partial add (R169): 96-bit addition, flags combined, overflow stored as NaN, canonical. -/
def wideAdd (a b : BitVec 128) : BitVec 128 :=
  let x := wideDecode a
  let y := wideDecode b
  let f := x.flags.or y.flags
  let s : Int := x.value.toInt + y.value.toInt
  if f.any then Exact.wide { value := 0#96, flags := f }
  else if s < -(2 ^ 95 : Nat) ∨ s ≥ ((2 ^ 95 : Nat) : Int) then BitVec.ofNat 128 (2 ^ 96)
  else Exact.wide { value := BitVec.ofInt 96 s, flags := .clear }

/-! ## MX (R66, R78) -/

/-- The value an E8M0 scale multiplies by: 2^(x − 127), NaN at 0xFF. -/
def e8m0 (x : Nat) : Num := if x = 255 then .nan else .fin false 1 ((x : Int) - 127)

/-- The largest exponent of an MX element format (OCP MX v1.0). -/
def mxEmax (c : Nat) : Option Int :=
  match c with
  | 3 => some 8
  | 4 => some 15
  | 5 => some 0
  | 8 => some 2
  | 9 => some 4
  | 10 => some 2
  | _ => none

/-- One element of an MX block, scaled by 2^-se, to nearest even, saturated (Table 2.13). -/
def mxElem (c : Nat) (se : Int) (x : Num) : Nat :=
  match x with
  | .fin n m e =>
    if c = 5 then encodeInt 8 (-128) 127 (.fin n m (e - se + 6))
    else encodeOfmt c false (.fin n m (e - se))
  | y => encodeOfmt c false y

/-- The scale exponent of a block with largest magnitude m times 2^e, clamped to E8M0: its biased code. -/
def mxScale (emax : Int) (m : Nat) (e : Int) : Nat :=
  let se : Int := e + (Nat.log2 m : Int) - emax
  (max (-127) (min 127 se) + 127).toNat

end Sys2Proof.Machine
end

