-- ==== Sys2Proof/Machine/Codec.lean ====
section
/-! DEFINITION. The check codes: CRC-16 and CRC-32 of R81, and the Reed–Solomon codes of Table 8.1. -/

namespace Sys2Proof.Machine

/-- Bits [hi:lo] of a number. -/
def bits (w hi lo : Nat) : Nat := w / 2 ^ lo % 2 ^ (hi + 1 - lo)

/-- Bit `i` of a number. -/
def bit1 (w i : Nat) : Bool := w / 2 ^ i % 2 == 1

/-- `n` little-endian bytes of a number (R15). -/
def leBytes : Nat → Nat → List Byte
  | 0, _ => []
  | n + 1, v => BitVec.ofNat 8 v :: leBytes n (v / 256)

/-- The number little-endian bytes hold (R15). -/
def leNat : List Byte → Nat
  | [] => 0
  | b :: r => b.toNat + 256 * leNat r

/-- One byte into the CRC-16 with polynomial 0x1021, not reflected. -/
def crc16Step (c : BitVec 16) (b : Byte) : BitVec 16 :=
  let rec go : Nat → BitVec 16 → BitVec 16
    | 0, c => c
    | k + 1, c => go k (if c.getLsbD 15 then (c <<< 1) ^^^ 0x1021#16 else c <<< 1)
  go 8 (c ^^^ (b.zeroExtend 16 <<< 8))

/-- The CRC-16 of R81 over bytes in the order given. -/
def crc16 (bs : List Byte) : BitVec 16 := bs.foldl crc16Step 0xFFFF#16

/-- One byte into the reflected CRC-32 of IEEE 802.3. -/
def crc32Step (c : BitVec 32) (b : Byte) : BitVec 32 :=
  let rec go : Nat → BitVec 32 → BitVec 32
    | 0, c => c
    | k + 1, c => go k (if c.getLsbD 0 then (c >>> 1) ^^^ 0xEDB88320#32 else c >>> 1)
  go 8 (c ^^^ b.zeroExtend 32)

/-- The CRC-32 of R81 over bytes in ascending order. -/
def crc32 (bs : List Byte) : BitVec 32 := bs.foldl crc32Step 0xFFFFFFFF#32 ^^^ 0xFFFFFFFF#32

/-- The CRC-16 a 16-byte structure carries in bytes 1 and 0: over bytes 15 down to 2 (R81, R273). -/
def wordCrc (w : Nat) : Nat := (crc16 ((leBytes 16 w).drop 2).reverse).toNat

/-! ## GF(2^8) and the codes of R231 -/

/-- Multiplication by α in GF(2^8) with polynomial 0x11D. -/
def gfX (a : Byte) : Byte := if a.getLsbD 7 then (a <<< 1) ^^^ 0x1D#8 else a <<< 1

/-- Multiplication in GF(2^8). -/
def gfMul (a b : Byte) : Byte :=
  let rec go : Nat → Byte → Nat → Byte → Byte
    | 0, _, _, acc => acc
    | k + 1, x, y, acc => go k (gfX x) (y / 2) (if y % 2 = 1 then acc ^^^ x else acc)
  go 8 a b.toNat 0#8

/-- α^n. -/
def gfPow : Nat → Byte
  | 0 => 1#8
  | n + 1 => gfX (gfPow n)

/-- The inverse, as the 254th power. -/
def gfInv (a : Byte) : Byte :=
  let a2 := gfMul a a
  let a4 := gfMul a2 a2
  let a8 := gfMul a4 a4
  let a16 := gfMul a8 a8
  let a32 := gfMul a16 a16
  let a64 := gfMul a32 a32
  let a128 := gfMul a64 a64
  gfMul a128 (gfMul a64 (gfMul a32 (gfMul a16 (gfMul a8 (gfMul a4 a2)))))

/-- The generator polynomial with roots α^0 … α^(c−1), highest coefficient first and its leading 1 left out. -/
def rsGen : Nat → List Byte
  | 0 => []
  | c + 1 =>
    let g := rsGen c
    let r := gfPow c
    -- (x^c + g) (x + r)
    let a := g ++ [0#8]
    let b := (1#8 :: g).map (gfMul r)
    List.zipWith (· ^^^ ·) a b

/-- The remainder of the bytes times x^c on division by the generator: the check bytes (R231). -/
def rsCheck (c : Nat) (d : List Byte) : List Byte :=
  let g := rsGen c
  d.foldl (fun st b =>
    let f := b ^^^ st.headD 0#8
    List.zipWith (· ^^^ ·) (st.drop 1 ++ [0#8]) (g.map (gfMul f))) (List.replicate c 0#8)

/-- A codeword of a 64-byte word: the data, then its check bytes. -/
def rsEncode (c : Nat) (d : List Byte) : List Byte := d ++ rsCheck c d

/-- Syndrome i: the received polynomial at α^i. -/
def rsSyn (w : List Byte) (i : Nat) : Byte :=
  let a := gfPow i
  w.foldl (fun acc b => gfMul acc a ^^^ b) 0#8

/-- What a decoder makes of a word (Table 8.2). -/
inductive Decoded where
  | clean (d : List Byte)
  | corrected (d : List Byte) (errs : List (Nat × Byte))
  | poison
  | uncorrectable
deriving DecidableEq, Repr, Inhabited

/-- The poison signature of a code with `c` check bytes (R233). -/
def poisonSig (c : Nat) : List Byte := ([0x50#8, 0x4F#8, 0x49#8, 0x53#8, 0x4F#8, 0x4E#8, 0x45#8, 0x44#8]).take c

/-- The poison word of a code (R233). -/
def poisonWord (c : Nat) : List Byte := List.replicate 64 0#8 ++ poisonSig c

/-- Do the syndromes follow from errors e1 at locator x1 and e2 at locator x2? -/
def rsFits (s : List Byte) (x1 e1 x2 e2 : Byte) : Bool :=
  match s with
  | [] => true
  | t :: r => (e1 ^^^ e2) == t && rsFits r x1 (gfMul e1 x1) x2 (gfMul e2 x2)

/-- A single-symbol error that explains the syndromes, position and value. -/
def rsOne (n : Nat) (s : List Byte) : Option (Nat × Byte) :=
  let e := s.headD 0#8
  if e = 0#8 then none
  else ((List.range n).find? (fun p => rsFits s (gfPow (n - 1 - p)) e 1#8 0#8)).map (fun p => (p, e))

/-- A two-symbol error that explains the syndromes. -/
def rsTwo (n : Nat) (s : List Byte) : Option ((Nat × Byte) × (Nat × Byte)) :=
  let s0 := s.headD 0#8
  let s1 := (s.drop 1).headD 0#8
  let pairs := (List.range n).flatMap (fun p => ((List.range n).filter (fun q => decide (p < q))).map (fun q => (p, q)))
  pairs.findSome? (fun pq =>
    let x1 := gfPow (n - 1 - pq.1)
    let x2 := gfPow (n - 1 - pq.2)
    let e1 := gfMul (s1 ^^^ gfMul s0 x2) (gfInv (x1 ^^^ x2))
    let e2 := s0 ^^^ e1
    if e1 = 0#8 || e2 = 0#8 then none
    else if rsFits s x1 e1 x2 e2 then some ((pq.1, e1), (pq.2, e2)) else none)

/-- A symbol changed by an error value. -/
def xorAt (w : List Byte) (p : Nat) (e : Byte) : List Byte :=
  w.zipIdx.map (fun b => if b.2 = p then b.1 ^^^ e else b.1)

/-- Symbol errors applied to a stored word. -/
def applyUpset (w : List Byte) (u : List (Nat × Byte)) : List Byte := u.foldl (fun w e => xorAt w e.1 e.2) w

/-- The decoder of a word with `c` check bytes (R234): poison is tested for first, at most two symbols are
corrected. -/
def rsDecode (c : Nat) (w : List Byte) : Decoded :=
  if w = poisonWord c then .poison
  else
    let s := (List.range c).map (rsSyn w)
    if s.all (· == 0#8) then .clean (w.take 64)
    else
      match rsOne w.length s with
      | some (p, e) => .corrected ((xorAt w p e).take 64) [(p, e)]
      | none =>
        match rsTwo w.length s with
        | some ((p, e), (q, f)) => .corrected ((xorAt (xorAt w p e) q f).take 64) [(p, e), (q, f)]
        | none => .uncorrectable

end Sys2Proof.Machine
end

