-- ==== Sys2Proof/Machine/State.lean ====
section
/-! DEFINITION. The state of the part: every piece of state the manual names, as plain data, and the state in which
the model starts. Sparse tables list only what differs from the value an absent key reads as. -/

namespace Sys2Proof.Machine

/-- Why a step stops for good. No meaning of this model raises one. -/
inductive Fault where
  /-- Raised by nothing: every fault of the manual is an effect on the state. Safe. -/
  | none
deriving DecidableEq, Repr, Inhabited

/-- Why a step answers no next state. -/
inductive Refusal where
  /-- Raised by the arm of a command that has no meaning yet. Safe. -/
  | notModelled (mnemonic : String)
deriving DecidableEq, Repr, Inhabited

/-! ## Main state (Table 16.1) -/

inductive MainState where
  | off | standby | standbyFault | bringup | coldHold | ready | discarding | faulted | resetting | transit | shutdown
deriving DecidableEq, Repr, Inhabited

/-- The code of Table 9.4. -/
def MainState.code : MainState → Nat
  | .off => 0 | .standby => 1 | .standbyFault => 2 | .bringup => 3 | .coldHold => 4 | .ready => 5
  | .discarding => 6 | .faulted => 7 | .resetting => 8 | .transit => 9 | .shutdown => 10

/-- The power states that overlay READY (R385). -/
inductive PowerState where
  | run | sleep | deep
deriving DecidableEq, Repr, Inhabited

/-! ## Tiles -/

/-- One loop of an address generator (Table 3.6, parts 2 to 6). -/
structure GLoop where
  countM1 : Nat
  stride : Int
  ycoef : Int
  xcoef : Int
deriving DecidableEq, Repr, Inhabited

/-- An address generator (Table 3.6). -/
structure Gen where
  bsel : Nat
  base : Nat
  esz : Nat
  rowmask : Nat
  y0 : Int
  x0 : Int
  pad : Bool
  h : Nat
  w : Nat
  loops : List GLoop
deriving DecidableEq, Repr, Inhabited

def GLoop.reset : GLoop := { countM1 := 0, stride := 0, ycoef := 0, xcoef := 0 }

/-- The default state of a generator at job start (R87, Table 3.6). -/
def Gen.reset : Gen :=
  { bsel := 0, base := 0, esz := 2, rowmask := 0, y0 := 0, x0 := 0, pad := false, h := 0, w := 0,
    loops := [GLoop.reset, GLoop.reset, GLoop.reset, GLoop.reset, GLoop.reset] }

/-- A stationary bank: what LDS recorded and the bytes of its rows and scales (R94). -/
structure Bank where
  loaded : Bool
  lw : Nat
  rows : Nat
  scl : Bool
  cells : List (List Byte)
  scales : List (List Byte)
deriving DecidableEq, Repr, Inhabited

def Bank.empty : Bank := { loaded := false, lw := 0, rows := 0, scl := false, cells := [], scales := [] }

inductive SlotKind where
  | none | exact | fp32
deriving DecidableEq, Repr, Inhabited

/-- An accumulator slot across the 64 columns: its kind, the rows counted, its values (R59, R60, R68). -/
structure Slot where
  kind : SlotKind
  rows : Nat
  exact : List Exact
  fp : List F32
deriving DecidableEq, Repr, Inhabited

def Slot.reset : Slot :=
  { kind := .none, rows := 0, exact := List.replicate 64 Exact.zero, fp := List.replicate 64 0#32 }

/-- The open selection: depth, mode, score format, running index base, candidates per column best first (R74). -/
structure Selection where
  k : Nat
  maximum : Bool
  fp : Bool
  base : Nat
  cands : List (List (F32 × Nat))
deriving DecidableEq, Repr, Inhabited

/-- A command in an engine's queue: its word and word index, the generators it captured at issue (R87), its hazard
ranges, whether its own work is done, and how far it has come while it is not: the repetitions a VEC has made, or one
more than the streamed rows a pass has brought to the column end. A transfer it runs is named by number. A command with a
failed request is stuck: it never completes (R178). -/
structure QCmd where
  word : Nat
  idx : Nat
  gens : List Gen
  reads : List (Nat × Nat)
  writes : List (Nat × Nat)
  done : Bool
  reps : Nat
  xfer : Option Nat
  stuck : Bool
deriving DecidableEq, Repr, Inhabited

/-- What blocks a sequencer: a wait, one phase of a barrier, or a fence; with the time the block began. -/
inductive Block where
  | wait (flag n : Nat)
  | waitp (flag n : Nat)
  | barComplete | barGather | barRelease
  | fence (mask : Nat)
  | finish
deriving DecidableEq, Repr, Inhabited

/-- The barrier descriptor of Table 3.20 with its child entries. -/
structure BarDesc where
  acount : Nat
  aflag : Nat
  rflag : Nat
  root : Bool
  prem : Bool
  pltile : Nat
  pflag : Nat
  pfaddr : Nat
  children : List (Nat × Nat × Bool × Nat)
deriving DecidableEq, Repr, Inhabited

/-- The state of a logical tile that a job holds. `cvtSat` is the count of R65 in each command's status, by word index. -/
structure Tile where
  job : Option Nat
  words : Nat
  progAddr : Nat
  argBase : Nat
  fetched : Nat
  buf : List (Option Nat)
  word : Nat
  running : Bool
  ended : Bool
  gens : List Gen
  banks : List Bank
  slots : SMap Slot
  sel : Option Selection
  regs : SMap (List F32)
  vq : List (List F32)
  qArray : List QCmd
  qSel : List QCmd
  qVec : List QCmd
  qMove : List QCmd
  block : Option Block
  blockIdx : Nat
  blockAt : Nat
  vecAt : Option Nat
  bar : Option BarDesc
  flags : SMap Nat
  saturated : List Nat
  rampActive : Bool
  rampLen : Nat
  cvtSat : SMap Nat
deriving DecidableEq, Repr, Inhabited

/-- A tile that no job holds. -/
def Tile.reset : Tile :=
  { job := none, words := 0, progAddr := 0, argBase := 0, fetched := 0, buf := [], word := 0, running := false,
    ended := false, gens := List.replicate 8 Gen.reset, banks := [Bank.empty, Bank.empty], slots := [], sel := none,
    regs := [], vq := [], qArray := [], qSel := [], qVec := [], qMove := [], block := none, blockIdx := 0,
    blockAt := 0, vecAt := none, bar := none, flags := [], saturated := [], rampActive := false, rampLen := 32,
    cvtSat := [] }

/-! ## Memory side -/

/-- A line held in the HBM cache of a B-die: 4 sectors as RS(70,64) codewords. -/
structure Line where
  b : Nat
  line : Nat
  way : Nat
  dirty : Bool
  prot : Option Nat
  pinned : Bool
  sectors : List (List Byte)
deriving DecidableEq, Repr, Inhabited

/-- What an access asks of a home; `transit` is the symbol errors that the word takes on its way to its receiver. -/
inductive HOp where
  | read (upset transit : Upset)
  | write (data : List Byte) (transit : Upset)
  | sub (data : List Byte)
  | red (rop : Nat) (data : List Byte)
  | ordered (cid : Nat) (data : List Byte)
  | cas (wide : Bool) (cmp swap : Nat)
  | fetchAdd (wide : Bool) (v : Nat)
deriving DecidableEq, Repr, Inhabited

/-- An access at a home. -/
structure HAcc where
  rq : Requester
  a : Nat
  hint : Hint
  op : HOp
deriving DecidableEq, Repr, Inhabited

/-- A request that waits for a line on its way, for the channel that a retrain holds, at its regulator or behind an earlier
request (R164, R190, R202, R203, R220): an access at a home; a host access through BAR2 (a read with when it arrived; a write
with whether its first word was lost), to flag space or to a reduction context; the next block of a transfer or the data that
has arrived for it; a request of another part; the data of a READ; or an engine, with the parts of what it is at. -/
inductive HeldReq where
  | acc (c : HAcc)
  | bar2Read (parts : List (Nat × Nat)) (tag : ReadTag) (at' : Nat)
  | bar2Write (parts : List (Nat × List Byte)) (upset : Upset)
  | bar2Atomic (a : Nat) (wide cas : Bool) (cmp v tag : Nat)
  | start (x : Nat)
  | land (x : Nat)
  | fabric (p : Nat) (pk : Packet)
  | fabricData (x k : Nat) (data : List Byte)
  | context (a : Nat) (data : List Byte)
  | flag (a : Nat) (data : List Byte)
  | engine (parts : List PartTarget)
deriving DecidableEq, Repr, Inhabited

/-- A repeat-table entry (Table 8.5) of B-die `b`, with the lap count when it was last written back and the bit
columns its corrections touched. -/
structure RepEntry where
  b : Nat
  kind : Nat
  state : Nat
  count : Nat
  lastMs : Nat
  loc : Nat
  lap : Nat
  cols : List Nat
deriving DecidableEq, Repr, Inhabited

/-- A reduction context (Table 5.7). What has arrived stands in its hold area in memory. -/
structure RedCtx where
  st : Nat
  doneWords : Nat
  wordsM1 : Nat
  nM1 : Nat
  sigaddr : Nat
  hold : Nat
  target : Nat
deriving DecidableEq, Repr, Inhabited

def RedCtx.reset : RedCtx :=
  { st := 0, doneWords := 0, wordsM1 := 0, nM1 := 0, sigaddr := 0, hold := 0, target := 0 }

/-- One HBM channel: its parity errors since its last trigger, by time, the times of its automatic triggers, the retrain that is pending (0 automatic, 1 on request) or the
start of the one that runs with its trigger, its last start, and the remapped rows. -/
structure Chan where
  parity : List (Nat × Nat)
  triggers : List Nat
  wait : Option Nat
  active : Option Nat
  trig : Nat
  last : Option Nat
  remap : List Nat
  full : Bool
  held : List HeldReq
  selfRefresh : Bool
deriving DecidableEq, Repr, Inhabited

def Chan.reset : Chan :=
  { parity := [], triggers := [], wait := none, active := none, trig := 0, last := none, remap := [], full := false,
    held := [], selfRefresh := false }

/-- A scrubber's place: next word or sector, start of its lap, last access, laps done, the last and longest lap in ms,
whether this lap has raised its alarm. -/
structure Scrub where
  pos : Nat
  started : Nat
  last : Nat
  laps : Nat
  lapMs : Nat
  lapMaxMs : Nat
  alarmed : Bool
deriving DecidableEq, Repr, Inhabited

def Scrub.reset : Scrub := { pos := 0, started := 0, last := 0, laps := 0, lapMs := 0, lapMaxMs := 0, alarmed := false }

/-- The layout bring-up resolved: the slice site beneath each logical tile (b × 528 + site), the enabled slices of
each B-die in ordinal order, the partition in force, the active HBM channels, the present Fragor ports, the fenced
sites, and the links left across the narrowest cuts. -/
structure Layout where
  tiles : List Nat
  slices : List (List Nat)
  ps : Nat
  pd : Nat
  pl : Nat
  pc : Nat
  p : Nat
  chans : List Nat
  ports : List Nat
  halves : List Nat
deriving DecidableEq, Repr, Inhabited

def Layout.none : Layout :=
  { tiles := [], slices := [], ps := 4, pd := 2, pl := 8, pc := 2, p := 512, chans := [], ports := [], halves := [] }

/-! ## Regulation, loans -/

/-- What an access of a regulated master touched, from which its parts are made (R216, Table 7.2): a word of the Vault or of
an operand store, read or written; of the HBM a line on the bulk path, a word on the narrow path, a sector written whole, a
line written in part, a line that a reduction changes; payload of host memory or of another device. -/
inductive Touch where
  | word (write : Bool) (a : Nat)
  | bulk (line : Nat)
  | narrow (a : Nat)
  | sector (a : Nat)
  | part (line : Nat)
  | reduce (line : Nat)
  | host (n : Nat)
  | remote (n : Nat)
deriving DecidableEq, Repr, Inhabited

/-- A part of a request that waits at its master for a window, with the engine of the master that it comes from, and the later
parts of its request; with that request, where it has not been performed (R220). -/
structure RegPart where
  m : Nat
  eng : Nat
  target : PartTarget
  rest : List PartTarget := []
  arrived : Nat
  req : Option HeldReq
deriving DecidableEq, Repr, Inhabited

/-- Units of 15 A lent (R141): lender, borrower, the order in which the unit was lent. -/
structure Loan where
  lender : Nat
  borrower : Nat
  seq : Nat
deriving DecidableEq, Repr, Inhabited

/-- A reclaim (Table 4.6): lender, time opened, the units each borrower has yet to confirm. -/
structure Reclaim where
  lender : Nat
  opened : Nat
  owed : List (Nat × Nat)
deriving DecidableEq, Repr, Inhabited

/-! ## Host interface -/

/-- A queue pair (Tables 9.5 to 9.7). -/
structure Queue where
  sqBase : Nat
  cqBase : Nat
  ctrl : Nat
  enabled : Bool
  disabling : Bool
  cfgErr : Bool
  dbErr : Bool
  sqHead : Nat
  sqTail : Nat
  cqTail : Nat
  cqHead : Nat
  fetched : Nat
  doneSlots : List Nat
  offered : List Nat
  wins : List (Nat × Nat)
  vectorDue : Bool
  holdoff : Option Nat
deriving DecidableEq, Repr, Inhabited

/-- A queue after reset (Tables 9.5 to 9.7). -/
def Queue.reset : Queue :=
  { sqBase := 0, cqBase := 0, ctrl := 0x0001000000000000, enabled := false, disabling := false, cfgErr := false,
    dbErr := false, sqHead := 0, sqTail := 0, cqTail := 0, cqHead := 0, fetched := 0, doneSlots := [],
    offered := [], wins := List.replicate 8 (0, 0), vectorDue := false, holdoff := none }

/-- A completion entry that waits to be written: queue, slot count, JOB_ID, status, cause, tile, word. -/
structure Comp where
  q : Nat
  slot : Nat
  jobId : Nat
  status : Nat
  cause : Nat
  ltile : Nat
  word : Nat
deriving DecidableEq, Repr, Inhabited

/-- Where a mover descriptor of a job stands. -/
inductive MvState where
  | waiting | running (mover : Nat) | worked (mover : Nat) | done
deriving DecidableEq, Repr, Inhabited

/-- A fetched job: its descriptor, its windows fixed at admission, its mover list, whether it runs, and once it has
faulted the completion that it posts when the accesses it has issued have ended (R278). -/
structure Job where
  q : Nat
  slot : Nat
  desc : Nat
  running : Bool
  fault : Option Comp
  owins : List (Nat × Nat × Bool)
  qwins : List (Nat × Nat)
  movers : List (Nat × MvState)
deriving DecidableEq, Repr, Inhabited

/-- Which engine a transfer belongs to. -/
inductive XEng where
  | tile (t seq : Nat)
  | mover (j i : Nat)
deriving DecidableEq, Repr, Inhabited

/-- What a piece of a transfer is: an element; an element whose place another destination element shares, so that what
stands there is left open (R103); or bits of a far byte that no element covers, read first so that they are kept (R57). -/
inductive PieceKind where
  | element | shared | kept
deriving DecidableEq, Repr, Inhabited

/-- One element or word of a transfer: the far side's bit address, the device bit address, the width in bits, the data
once it has arrived, and what it is. -/
structure Piece where
  far : Nat
  dev : Nat
  width : Nat
  data : Option Nat
  kind : PieceKind
deriving DecidableEq, Repr, Inhabited

/-- A 64-byte word of device memory that a command puts together from its elements: its address, the value, the bits
written so far, and whether poison was written into it (R57, R240, R254). -/
structure PendWord where
  addr : Nat
  v : Nat
  m : Nat
  poison : Bool
deriving DecidableEq, Repr, Inhabited

/-- A host or remote transfer: its engine and direction, the fabric address and class of a remote side, the blocks it
has left (R284; for a remote side, the packets), whether it waits for a translation, the page request group it stalls
on, the host reads its first block waits for, whether a zero-length read is still to confirm its writes, the last host
byte it wrote (R128), and the device words that have not wholly arrived. -/
structure Xfer where
  job : Nat
  eng : XEng
  toDev : Bool
  remote : Option (Nat × Nat)
  hint : Hint
  prio : Nat
  rop : Option (Nat × Nat)
  blocks : List (List Piece)
  started : Bool
  ats : Option Nat
  prg : Option Nat
  tags : List Nat
  ack : Bool
  last : Nat
  pend : List PendWord
deriving DecidableEq, Repr, Inhabited

/-- An address translation cache entry (R283). -/
structure Atc where
  pasid : Nat
  page : Nat
  read : Bool
  write : Bool
  host : Nat
deriving DecidableEq, Repr, Inhabited

/-- An open Page Request Group (R286). -/
structure Prg where
  x : Nat
  pages : List Nat
  sent : Nat
  abandoned : Bool
deriving DecidableEq, Repr, Inhabited

/-- An outstanding host read: its job and transfer, the pages and the pieces of its block, whether its data is dropped. -/
structure HostRead where
  job : Nat
  x : Nat
  pages : List Nat
  pieces : List Nat
  dropped : Bool
deriving DecidableEq, Repr, Inhabited

/-! ## The fabric -/

/-- Where a Fragor port stands (R293 to R298). -/
inductive PortPhase where
  | dark | training | up
deriving DecidableEq, Repr, Inhabited

/-- A data flit that has been begun: its sequence number, where the first packet starts in it, in 4-byte units (63 where
none does), and its packet bytes so far (R295). -/
structure TxFlit where
  seq : Nat
  start : Nat
  data : List Byte
deriving DecidableEq, Repr, Inhabited

/-- A packet queued at an egress port until the neighbour has buffer space for it and the replay buffer room: its virtual
channel, the port it came in by (16 for this part), the µs it spent in the part before, since when it waits, and when it was
first held, if it was (R296, R304, R306, R307). -/
structure TxWait where
  vc : Nat
  inp : Nat
  us : Nat
  pk : Packet
  since : Nat
  first : Option Nat := none
deriving DecidableEq, Repr, Inhabited

/-- A Fragor port: phase, lanes in use and whether they are the upper four, the sequence number of the data flit in
which the next byte goes, the replay buffer with the flits sent and not acknowledged, what is queued, the next sequence
number expected, the failures in a row of that flit, the bytes of a packet not yet whole, the last HELLO received,
whether a retrain may resume, credits by virtual channel, when the last notification and HELLO went, the last HELLO
sent, and when training is tried again. -/
structure Port where
  phase : PortPhase
  width : Nat
  upper : Bool
  txSeq : Nat
  replay : List TxFlit
  txWait : List TxWait
  rxSeq : Nat
  failed : Nat
  rxBytes : List Byte
  neighbour : Nat
  resume : Bool
  credits : List Nat
  notified : Option Nat
  helloAt : Option Nat
  helloSent : Nat
  retryAt : Option Nat
deriving DecidableEq, Repr, Inhabited

def Port.reset : Port :=
  { phase := .dark, width := 0, upper := false, txSeq := 0, replay := [], txWait := [], rxSeq := 0, failed := 0, rxBytes := [],
    neighbour := 0, resume := false, credits := [0, 0, 0, 0], notified := none, helloAt := none, helloSent := 0,
    retryAt := none }

/-- A request of this part on the fabric (R314 to R316). -/
structure FReq where
  job : Nat
  x : Option Nat
  t : Nat
  word : Nat
  dst : Nat
  pk : Packet
  sentAt : Nat
  ordered : Bool
  resync : Bool
  abandoned : Bool
  pieces : List Nat
  mover : Option Nat
deriving DecidableEq, Repr, Inhabited

/-- A packet held at an egress, with the port it came in by, the µs it spent in the part before, since when it waits, and when it
was first held (R307, R311). -/
structure HeldPk where
  n : Nat
  port : Nat
  vc : Nat
  inp : Nat
  us : Nat
  pk : Packet
  since : Nat
  first : Nat := since
deriving DecidableEq, Repr, Inhabited

/-! ## What leaves the part -/

/-- Everything the part sends to the outside, newest first in `State.out`. -/
inductive Out where
  /-- A posted write on the host link: whether its address is translated, and its PASID (R261, R283). -/
  | hostWrite (addr : Nat) (at' : Bool) (pasid : Option Nat) (data : List Byte)
  /-- A read request on the host link. -/
  | hostRead (addr : Nat) (at' : Bool) (pasid : Option Nat) (len tag : Nat)
  /-- An MSI-X message. -/
  | msix (vector : Nat)
  /-- A completion of a host read: `ep` is the EP bit. -/
  | cpl (tag : Nat) (ep : Bool) (data : List Byte)
  /-- A completion with Unsupported Request. -/
  | cplUr (tag : Nat)
  /-- A configuration completion, or Request Retry Status. -/
  | cfg (tag : Nat) (v : BitVec 64)
  | cfgRetry (tag : Nat)
  /-- An ATS Translation Request. -/
  | atsRequest (x pasid : Nat) (pages : List Nat) (write : Bool)
  /-- A Page Request Group. -/
  | pageRequest (prg pasid : Nat) (pages : List Nat) (write : Bool)
  /-- An ATS Invalidation Completion. -/
  | invalidated
  /-- A fabric packet leaving on a port. -/
  | packet (port : Nat) (pk : Packet)
  /-- A flit leaving on a port (Table 10.3). -/
  | flit (port : Nat) (f : BitVec 2048)
  /-- The answer of a home to the one that sent the access. -/
  | home (rq : Requester) (a : Nat) (poison ok : Bool) (data : List Byte)
  /-- A Catalogue response (Table 14.3) on a transport; over MCTP the payload of each packet of its message (R419). -/
  | catalogue (tr : Transport) (units : List (List Byte))
  /-- An I3C in-band interrupt with its mandatory data byte. -/
  | ibi (b : Byte)
  /-- A control message response on a management port: MCTP or I3C bytes. -/
  | mctp (port : Nat) (msg : List Byte)
  /-- A replayed die-to-die flit. -/
  | d2dReplay (pair dir chan : Nat)
deriving DecidableEq, Repr, Inhabited

/-- A discard in progress (Table 9.16): when it began, what DISCARD_EPOCH, DISCARD_CAUSE and DEV_EVENTS were before it, to
which a higher event of the same instant returns (R458), the jobs it covers, each with its completion, and the target and
hold ranges of the reduction contexts that were open when it began (R174). -/
structure Discard where
  began : Nat
  prior : Nat × Nat × Nat
  covered : List Comp
  opened : List (Nat × Nat)
deriving DecidableEq, Repr, Inhabited

/-- A line fetch outstanding at a home, with the accesses held behind it in arrival order (R190). -/
structure Fetch where
  b : Nat
  line : Nat
  held : List HeldReq
deriving DecidableEq, Repr, Inhabited

/-- The state of the host link and of the function's configuration space (Table 9.1, R256, R291). -/
structure HostLink where
  l0 : Bool
  everL0 : Bool
  recovery : Bool
  d3hot : Bool
  l12 : Bool
  perst : Bool
  pasid : Bool
  ats : Bool
  pri : Bool
  priStopped : Bool
  priAlloc : Nat
  bar2Log : Nat
  waiting : List Out
  /-- The engines whose writes are among what waits (R84). -/
  waitX : List XEng
deriving DecidableEq, Repr, Inhabited

def HostLink.reset : HostLink :=
  { l0 := false, everL0 := false, recovery := false, d3hot := false, l12 := false, perst := true, pasid := false,
    ats := false, pri := false, priStopped := false, priAlloc := 0, bar2Log := 37, waiting := [], waitX := [] }

/-- The state of the fabric above the ports: ordered streams by destination (next SEQ, whether it carries SYNC) and by
source (expected SEQ, whether the stream has a gap), requests outstanding and kept back, destinations whose stream
failed beside requests answered RESYNC, packets held, and INCARN. -/
structure Fabric where
  tx : SMap (Nat × Bool)
  rx : SMap (Nat × Bool)
  reqs : SMap FReq
  nextTag : Nat
  holdDst : List Nat
  waitReqs : List FReq
  badDst : List Nat
  held : List HeldPk
  nextHeld : Nat
  incarn : Nat
deriving DecidableEq, Repr, Inhabited

def Fabric.reset : Fabric :=
  { tx := [], rx := [], reqs := [], nextTag := 0, holdDst := [], waitReqs := [], badDst := [], held := [], nextHeld := 0, incarn := 0 }

/-- A Ledger record: TYPE of Table 14.9, payload, TIME_MS when queued, and once written its SEQ and BOOT and whether
this copy passed its read-back. -/
structure LRec where
  ty : Nat
  payload : List Byte
  timeMs : Nat
  seq : Nat
  boot : Nat
  good : Bool
deriving DecidableEq, Repr, Inhabited

/-! ## Package links, clocks, power, bring-up -/

/-- One direction of a die-to-die link: for each of its five channels the next sequence number and the failures in a row
of that flit, the replays of the last second by time, whether it has raised its alarm, and the lanes found marginal. -/
structure D2d where
  exp : List Nat
  fails : List Nat
  replays : List (Nat × Nat)
  alarmed : Bool
  marginal : List Nat
deriving DecidableEq, Repr, Inhabited

def D2d.reset : D2d :=
  { exp := [0, 0, 0, 0, 0], fails := [0, 0, 0, 0, 0], replays := [], alarmed := false, marginal := [] }

/-- One input of the step machine of one C-die (R367). -/
structure Step where
  n : Nat
  down : Nat
  up : Nat
deriving DecidableEq, Repr, Inhabited

def Step.zero : Step := { n := 0, down := 0, up := 0 }

/-- The Conservator's own state: the standby supply and the fallback oscillator, the hold of R352, the clock monitor's
window counts, the latest housekeeping readings, failed sensors, the excursion of the inlet, the step machine, H of R379 as a fraction, credit, since when the part has been cool in SHUTDOWN, and the
pin FAULT_N, whether the module input can trip (R470), and when the next round, tick and monitor window end. -/
structure Conservator where
  standby : Bool
  settled : Bool
  held : Bool
  good : Nat
  bad : Nat
  hk : SMap Int
  failed : List Nat
  inletOut : Bool
  steps : SMap Step
  hNum : Nat
  hDen : Nat
  granted : Bool
  coolAt : Option Nat
  faultN : Bool
  armed : Bool
  roundAt : Nat
  tickAt : Nat
  winAt : Nat
  /-- Thresholds written since the last round, with the values still in force (R375). -/
  oldThr : SMap Nat
  /-- The pair of a link, or the host guest's site 16, for which bring-up failed (R339, R343). -/
  faultUnit : Option Nat
  /-- UNIQUE_ID as the Provenance records last gave it, for the I3C ports (R420). -/
  uid : Option Nat
deriving DecidableEq, Repr, Inhabited

def Conservator.reset : Conservator :=
  { standby := false, settled := false, held := false, good := 0, bad := 0, hk := [], failed := [],
    inletOut := false, steps := [], hNum := 0, hDen := 1, granted := true, coolAt := none, faultN := false, armed := false, roundAt := 0,
    tickAt := 0, winAt := 0, oldThr := [], faultUnit := none, uid := none }

/-- A unit a defect entry or self-test names: die type, die, defect entry of Table 13.5. -/
structure DefUnit where
  bdie : Bool
  die : Nat
  entry : Nat
deriving DecidableEq, Repr, Inhabited

/-- Bring-up (Table 13.1): the latest step reached, whether a run (R457) is on and when it and this bring-up began, the
waits so far and before this bring-up, the wait open with the time of its next event, whether it waits for the Ledger's
scan, whether the dies are awake, the unique id and the variant, C-dies taken out whole, the units taken out, how many
of them by self-test alone, which branches are done with what they found, and the lane qualification windows. -/
structure Bringup where
  step : Nat
  inRun : Bool
  runAt : Nat
  startAt : Nat
  waited : Nat
  waitBase : Nat
  waitFrom : Option Nat
  waitDue : Nat
  scanWait : Bool
  awake : Bool
  uid : Nat
  variant : Nat
  badC : List Nat
  units : List DefUnit
  found : Nat
  vault : Bool
  d2d : List Nat
  lanes : SMap (List Nat)
  guests : List Nat
  trained : List Nat
  waves : Nat
  waveAt : List Nat
  released : SMap Nat
  tilesDone : Bool
  qual : Bool
  qualAt : Nat
  /-- The lanes of each direction that a qualification window has run on (R400). -/
  passed : SMap (List Nat)
  rows : SMap (List Nat)
  /-- Does the warming pattern run (R377)? -/
  warm : Bool
deriving DecidableEq, Repr, Inhabited

def Bringup.reset : Bringup :=
  { step := 0, inRun := false, runAt := 0, startAt := 0, waited := 0, waitBase := 0, waitFrom := none, waitDue := 0, scanWait := false, awake := false, uid := 0,
    variant := 0, badC := [], units := [], found := 0, vault := false, d2d := [], lanes := [], guests := [],
    trained := [], waves := 0, waveAt := [], released := [], tilesDone := false, qual := false, qualAt := 0, passed := [], rows := [], warm := false }

/-- A staging context (R424 to R428): staged values, when its timeout counts from, and COMMIT_STATUS. -/
structure Stage where
  vals : SMap Nat
  since : Nat
  status : Nat
deriving DecidableEq, Repr, Inhabited

def Stage.reset : Stage := { vals := [], since := 0, status := 0 }

/-- A bank of the Ledger flash: GENERATION of its header, none where erased, and its records in order. -/
structure LBank where
  gen : Option Nat
  recs : List LRec
deriving DecidableEq, Repr, Inhabited

/-- The Ledger (R434 to R438): its two banks, the next SEQ, BOOT, failures of the record being written, whether this
power-up's scan is done, and whether a PERSIST_CLEAR was queued before it. -/
structure Ledger where
  bank0 : LBank
  bank1 : LBank
  seq : Nat
  boot : Nat
  fails : Nat
  scanned : Bool
  cleared : Bool
deriving DecidableEq, Repr, Inhabited

def Ledger.reset : Ledger :=
  { bank0 := { gen := some 0, recs := [] }, bank1 := { gen := none, recs := [] }, seq := 0, boot := 0, fails := 0, scanned := false, cleared := false }

/-- The mailbox (Table 14.6): the response that it is BUSY with and when that is due, status bit DONE, vector, drops, and the
bytes of its two buffers that are not zero. -/
structure Mailbox where
  busy : Option (Nat × List Byte)
  done : Bool
  vector : Nat
  drops : Nat
  req : SMap Nat
  resp : SMap Nat
deriving DecidableEq, Repr, Inhabited

def Mailbox.reset : Mailbox := { busy := none, done := false, vector := 0, drops := 0, req := [], resp := [] }

/-- The state of the part. -/
structure State where
  /-- The commands that wait, first in, first out. -/
  pending : List Instr
  /-- What the part has sent, newest first. -/
  out : List Out
  /-- The model's own count of free values drawn. -/
  free : Nat
  /-- Reference time in ns (R8, REF_TIME_NS). -/
  time : Nat
  main : MainState
  power : PowerState
  /-- The DEEP enable of the reference PLL, as it stood at the last entry into DEEP (R353). -/
  clkDeep : Bool
  /-- Catalogue entries that differ from their default, but CONS values. -/
  ent : SMap Nat
  /-- CONS entries that hold a value (R30, R431). -/
  cons : SMap Nat
  devEvents : Nat
  discardEpoch : Nat
  discardCause : Nat
  apertures : List Nat
  discard : Option Discard
  lay : Layout
  /-- Device memory: codeword bytes, in canonical form. -/
  mem : List Host.Cell
  /-- Device address ranges whose words are indeterminate until they are written, or first read (R36, R174, R278). -/
  indet : List (Nat × Nat)
  /-- HBM cache lines, most recently used first. -/
  lines : List Line
  fetches : List Fetch
  /-- Reads that homes have performed within the combining window: word, time, who asked (R165). -/
  recent : List (Nat × Nat × Requester)
  /-- The model's own note that an access met a line on its way, or in a channel that a retrain holds: whoever made it
  waits, and nothing of its command has happened (R190, R203). None between commands. -/
  stalled : Option (Nat × Nat)
  /-- The model's own note of what the accesses of the request being done touched, newest first, each with its master and
  the tile it comes from, until its parts are admitted (R216, R220). None between commands. -/
  touched : List ((Nat × Nat) × Touch)
  repeats : List RepEntry
  vscrub : SMap Scrub
  hscrub : SMap Scrub
  ctx : SMap RedCtx
  chans : SMap Chan
  /-- U of R220, key 16 m + k. -/
  regU : SMap Nat
  regWait : List RegPart
  /-- Parts that an engine has had admitted for what it is at, while it waits for a line out of reach, by master and engine
  (R190, R220). -/
  paid : SMap (List PartTarget)
  /-- Requests of the host and of other parts that wait behind an earlier one, in arrival order (R127, R163, R164). -/
  behind : List HeldReq
  /-- Regulation entries whose committed change waits for the next window boundary, with the values still in force
  (R218, R227). -/
  regOld : SMap Nat
  /-- Scale factors s_r below 1 (R225), as a fraction. -/
  scale : SMap (Nat × Nat)
  /-- When the part became READY. -/
  regStart : Nat
  /-- Start of the regulation window that runs (R218). -/
  winStart : Nat
  lcUsed : SMap Nat
  tiles : SMap Tile
  /-- Since when a tile has been armed or outside every tile set (R139). -/
  quiet : SMap (Nat × Bool)
  loans : List Loan
  reclaims : List Reclaim
  loanSeq : Nat
  /-- The loan entries 0x5020:01 to :05 that each B-die's last decision took up (R146), and when it was. -/
  loanVals : SMap (List Nat)
  loanAt : SMap Nat
  queues : SMap Queue
  comps : List Comp
  jobs : SMap Job
  nextJob : Nat
  robin : Nat
  xfers : SMap Xfer
  nextX : Nat
  atc : List Atc
  prgs : SMap Prg
  nextPrg : Nat
  reads : SMap HostRead
  nextTag : Nat
  msixTable : SMap Nat
  msixPba : Nat
  link : HostLink
  ports : SMap Port
  fab : Fabric
  /-- The event log: ring position and record (R440). -/
  events : SMap Nat
  /-- When each class-B code was last summarised, with the events since (R442). -/
  summaries : SMap (Nat × Nat)
  /-- Ledger records that wait in the retention slots, oldest first (R384, R436). -/
  ledgerQ : List LRec
  /-- The live set the Conservator keeps (R437), in queue order. -/
  live : List LRec
  con : Conservator
  bringup : Bringup
  /-- Die-to-die link directions, key 2 pair + direction. -/
  d2d : SMap D2d
  /-- Descriptors read from guest sites (Table 11.3). -/
  guestDesc : SMap Nat
  ledger : Ledger
  /-- HK_CHANNELS: the readings since the last reset of the main domain (R445). -/
  hkShown : SMap Int
  /-- Staging contexts by source: 0 to 3 by transport code, 4 + a for fabric-manager address a, 4 + 2^15 for the one
  Fragor context where none is set. -/
  stages : SMap Stage
  mbx : Mailbox
  /-- When the responses that each transport still owes are due, by transport code (R423). -/
  owed : SMap (List Nat)
  /-- MCTP endpoint IDs and I3C dynamic addresses: 0 Conservator port, 1 management port, 2 PCIe. -/
  eids : SMap Nat
  i3c : SMap Nat
  /-- An accepted RESET_CMD whose reset has not begun, with the time of its response (R429). -/
  resetReq : Option Nat
  /-- What holds RESETTING: 1 PERST_N, 2 Hot Reset, Link Disable or DL_Down, 3 the others (R455). -/
  resetBy : Nat
  /-- When the class-C fault or the reset that runs began (R454, R455). -/
  resetAt : Nat
  /-- A class-C fault outside the forwarding path holds the part in FAULTED (R325). -/
  offPath : Bool
  /-- When TRANSIT was entered (R458). -/
  transitAt : Option Nat
  /-- The part has been READY since the last reset (R260). -/
  everReady : Bool
  /-- A write of 2 to POWER_REQ is pending (R388). -/
  deepPending : Bool
  /-- Stacks woken from self-refresh in SLEEP, with the time of the last access (R354). -/
  woken : SMap Nat
deriving DecidableEq, Repr, Inhabited

/-- The state in which the model starts: the part unpowered in OFF (Table 16.1), nothing listed anywhere, and PERST_N
held low by the module's pull-down (Table 17.2). -/
def State.reset : State :=
  { pending := [], out := [], free := 0, time := 0, main := .off, power := .run, clkDeep := false, ent := [], cons := [], devEvents := 0,
    discardEpoch := 0, discardCause := 0, apertures := List.replicate 8 0, discard := none, lay := Layout.none, mem := [],
    indet := [], lines := [], fetches := [], recent := [], stalled := none, touched := [], repeats := [], vscrub := [], hscrub := [], ctx := [], chans := [], regU := [],
    regWait := [], paid := [], behind := [], regOld := [], scale := [], regStart := 0, winStart := 0, lcUsed := [], tiles := [], quiet := [], loans := [], reclaims := [],
    loanSeq := 0, loanVals := [], loanAt := [], queues := [], comps := [], jobs := [], nextJob := 0, robin := 0, xfers := [], nextX := 0, atc := [],
    prgs := [], nextPrg := 0, reads := [], nextTag := 0, msixTable := [], msixPba := 0, link := HostLink.reset, ports := [],
    fab := Fabric.reset, events := [], summaries := [], ledgerQ := [], live := [], con := Conservator.reset,
    bringup := Bringup.reset, d2d := [], guestDesc := [], ledger := Ledger.reset, hkShown := [], stages := [], mbx := Mailbox.reset, owed := [],
    eids := [], i3c := [], resetReq := none, resetBy := 0, resetAt := 0, offPath := false, transitAt := none, everReady := false,
    deepPending := false, woken := [] }

end Sys2Proof.Machine
end

