-- ==== Sys2Proof/Machine/Ops.lean ====
section
/-! DEFINITION. Shared operations over the state: Catalogue values, events, the host link, faults and discards, the
address map, stored words and their homes. -/

namespace Sys2Proof.Machine

/-- The next state: the only outcome a meaning of this model has. -/
abbrev Res := Host.Outcome State Fault Refusal

/-! ## Catalogue values -/

/-- The value an entry holds. -/
def rd (s : State) (idx sub : Nat) : Nat :=
  match findRow idx sub with
  | some r => if r.acc = .cons then SMap.get s.cons (entKey idx sub) r.dflt else SMap.get s.ent (entKey idx sub) r.dflt
  | none => SMap.get s.ent (entKey idx sub) 0

/-- An entry (not a CONS value) set by the part or by an accepted write. -/
def setEnt (s : State) (idx sub v : Nat) : State := { s with ent := SMap.put s.ent (entKey idx sub) v }

/-- The state with the regulation entries that are in force: a committed change waits for the next window boundary
(R218, R227). -/
def inForce (s : State) : State :=
  if s.regOld.isEmpty then s else { s with ent := s.regOld.foldl (fun m e => SMap.put m e.1 e.2) s.ent }

/-- A counter raised, saturating at the largest value of its type (R447). -/
def bumpBy (s : State) (idx sub n : Nat) : State :=
  let top := match findRow idx sub with
    | some r => 2 ^ (8 * tySize r.ty) - 1
    | none => 2 ^ 64 - 1
  setEnt s idx sub (min top (rd s idx sub + n))

def bump (s : State) (idx sub : Nat) : State := bumpBy s idx sub 1

/-- A running maximum (R447). -/
def raise (s : State) (idx sub v : Nat) : State :=
  let top := match findRow idx sub with
    | some r => 2 ^ (8 * tySize r.ty) - 1
    | none => 2 ^ 64 - 1
  setEnt s idx sub (max (rd s idx sub) (min top v))

/-- A free value, and the state with the next one to draw. -/
def drawFree (s : State) : Nat × State := ((Config.freeValue s.free).toNat, { s with free := s.free + 1 })

/-- The clock moved on to a due time; never back. -/
def advance (s : State) (t : Nat) : State := { s with time := max s.time t }

/-! ## The host link -/

/-- Does the host link carry requests: in L0 and D0, not in Recovery, D3hot or L1.2 (R256, R291)? -/
def linkSends (s : State) : Bool := s.link.l0 && !s.link.d3hot && !s.link.l12

/-- A message handed to the host link: it leaves while the link carries requests, and waits otherwise. -/
def hostSend (s : State) (m : Out) : State :=
  if linkSends s then { s with out := m :: s.out }
  else { s with link := { s.link with waiting := s.link.waiting ++ [m] } }

/-- The messages that waited leave in order. -/
def hostFlush (s : State) : State :=
  if linkSends s then
    { s with out := s.link.waiting.reverse ++ s.out, link := { s.link with waiting := [], waitX := [] } }
  else s

/-- BAR0 answers in these states (Table 9.4), in bring-up from step 8 on (Table 13.1), and not in DEEP (R464). -/
def bar0Answers (s : State) : Bool :=
  (((s.main == .bringup || s.main == .coldHold) && decide (8 ≤ s.bringup.step)) || s.main == .ready || s.main == .discarding || s.main == .faulted ||
    s.main == .transit) && !(s.main == .ready && s.power == .deep)

/-- The MSI-X table entry of a vector as 16 bytes; every vector is masked after reset. -/
def msixEntry (s : State) (v : Nat) : Nat := SMap.get s.msixTable v (2 ^ 96)

/-- An MSI-X vector sent, or left pending while it is masked. -/
def sendVector (s : State) (v : Nat) : State :=
  if bit1 (msixEntry s v) 96 then
    { s with msixPba := if bit1 s.msixPba v then s.msixPba else s.msixPba + 2 ^ v }
  else hostSend s (.msix v)

/-- A bit of DEV_EVENTS set; vector 0 follows a bit that was clear (Table 9.6). -/
def devEvent (s : State) (bit : Nat) : State :=
  if !bar0Answers s then s
  else if bit1 s.devEvents bit then s
  else sendVector { s with devEvents := s.devEvents + 2 ^ bit } 0

/-! ## The mailbox (Table 14.6) -/

/-- Bytes put into a sparse buffer. -/
def putBytes (m : SMap Nat) (o : Nat) : List Byte → SMap Nat
  | [] => m
  | b :: l => putBytes (SMap.set m o b.toNat 0) (o + 1) l

/-- A response put into MBX_RESP: BUSY ends, DONE, and the vector if one is set. -/
def mbxDone (s : State) (msg : List Byte) : State :=
  let s := { s with mbx := { s.mbx with busy := none, done := true, resp := putBytes s.mbx.resp 0 msg } }
  if s.mbx.vector = 0 then s else sendVector s s.mbx.vector

/-- The response of the mailbox, once it is due. -/
def mbxSettle (s : State) : State :=
  match s.mbx.busy with
  | some (t, msg) => if t ≤ s.time then mbxDone s msg else s
  | none => s

/-! ## Events (R440 to R442) -/

/-- The class of an event code (Table 14.14): 0 notice, 1 A, 2 B, 3 C, 4 D. -/
def eventClass (code : Nat) : Nat :=
  if code = 0x3001 || code = 0x5002 || code = 0x7801 || code = 0x8003 then 2
  else if code = 0x2003 || code = 0x6003 || code = 0x6803 || code = 0x9002 || code = 0x9004 || code = 0x9006 then 3
  else if code = 0xB004 || code = 0xC003 then 4
  else if code = 0x2002 || code = 0x6801 || code = 0x6802 || code = 0x6804 || code = 0x7001 || code = 0x8001 ||
    code = 0x8002 || code = 0x8004 || code = 0xC001 || code = 0xF001 || code = 0xF002 then 0
  else 1

/-- The 32-byte event record (Table 14.13) as a number. -/
def eventRecord (time seq code cls : Nat) (detail : List Byte) : Nat :=
  leNat detail % 2 ^ 128 + cls * 2 ^ 141 + code * 2 ^ 144 + (seq % 2 ^ 32) * 2 ^ 160 + (time % 2 ^ 64) * 2 ^ 192

/-- An event written into the log: the record, DEV_EVENTS bit 2, and the in-band interrupt of R432, whose data byte
is the class. -/
def logRecord (s : State) (code : Nat) (detail : List Byte) : State :=
  let e := rd s 0xE000 2
  let cls := eventClass code
  let r := eventRecord s.time e code cls detail
  let s := { s with events := SMap.put s.events (e % 1024) r }
  let s := bump s 0xE000 2
  let s := devEvent s 2
  if bit1 (rd s 0xC000 4) cls then { s with out := .ibi (BitVec.ofNat 8 cls) :: s.out } else s

/-! ## Ledger records queued (R384, R437) -/

/-- The priority of a record in the retention slots (R384). -/
def recPrio (ty : Nat) : Nat :=
  match ty with
  | 1 => 3 | 2 => 2 | 6 => 2 | 3 => 1 | 5 => 1 | _ => 0

/-- The least priority among records. -/
def minPrio (l : List LRec) : Nat := l.foldl (fun m r => min m (recPrio r.ty)) 3

/-- A list without its first element that meets a test, with that element. -/
def takeFirst {α : Type} (p : α → Bool) : List α → Option α × List α
  | [] => (none, [])
  | x :: r => if p x then (some x, r) else
    match takeFirst p r with
    | (y, l) => (y, x :: l)

/-- A record put into the retention slots; of 33, the oldest of the lowest priority is dropped (R384). Failures count for one
record (R436), so they start again where it is the one being written that goes. -/
def slotRecord (s : State) (r : LRec) : State :=
  if s.ledgerQ.length < 32 then { s with ledgerQ := s.ledgerQ ++ [r] }
  else
    let l := s.ledgerQ ++ [r]
    match takeFirst (fun x => recPrio x.ty == minPrio l) l with
    | (some d, keep) =>
      let fails := if s.ledgerQ.head? = some d then 0 else s.ledger.fails
      logRecord (bump { s with ledgerQ := keep, ledger := { s.ledger with fails := fails } } 0xD010 5) 0xD001 (leBytes 1 d.ty)
    | (none, _) => s

/-- The live set without what a later record takes out of it (R437): a persisted value replaces the entry's earlier one, a
PERSIST_CLEAR ends every one, a POWER_UP replaces the last. -/
def pruneLive (l : List LRec) (r : LRec) : List LRec :=
  match r.ty with
  | 3 => l.filter (fun x => !(x.ty == 3 && x.payload.take 3 == r.payload.take 3))
  | 5 => l.filter (fun x => x.ty != 3)
  | 6 => l.filter (fun x => x.ty != 6)
  | _ => l

/-- A record joins the live set, if it is of a kind the set keeps. -/
def joinLive (l : List LRec) (r : LRec) : List LRec :=
  if [1, 2, 3, 6].contains r.ty then pruneLive l r ++ [r] else pruneLive l r

/-- Does a record find no room in the live set, which holds at most 16,384 field defects (R437)? -/
def defectsFull (s : State) (r : LRec) : Bool := r.ty == 2 && decide ((s.live.filter (fun x => x.ty == 2)).length ≥ 16384)

/-- A field defect without room, dropped. -/
def dropDefect (s : State) (r : LRec) : State := logRecord (bump s 0xD010 5) 0xD003 r.payload

/-- A record queued for the Ledger: it joins the live set (R437). A PERSIST_CLEAR before the scan holds for what the scan
finds too. -/
def queueRecord (s : State) (ty : Nat) (payload : List Byte) : State :=
  let r : LRec := { ty := ty, payload := payload, timeMs := s.time / 1000000 % 2 ^ 32, seq := 0, boot := 0, good := true }
  if defectsFull s r then dropDefect s r
  else slotRecord { s with live := joinLive s.live r
                           ledger := if ty = 5 && !s.ledger.scanned then { s.ledger with cleared := true } else s.ledger } r

/-- An EVENT_SUMMARY queued: the event record, then COUNT (Table 14.9). -/
def queueSummary (s : State) (rcd count : Nat) : State :=
  queueRecord s 4 (leBytes 32 rcd ++ leBytes 4 count ++ List.replicate 12 0#8)

/-- An event logged, and summarised for the Ledger where R442 says so. -/
def logEvent (s : State) (code : Nat) (detail : List Byte) : State :=
  let cls := eventClass code
  let rcd := eventRecord s.time (rd s 0xE000 2) code cls detail
  let s := logRecord s code detail
  if cls ≥ 3 then queueSummary s rcd 1
  else if cls = 2 then
    match SMap.find? s.summaries code with
    | none => { queueSummary s rcd 1 with summaries := SMap.put s.summaries code (s.time, 0) }
    | some (t, n) =>
      if s.time ≥ t + 60000000000 then
        { queueSummary s rcd (n + 1) with summaries := SMap.put s.summaries code (s.time, 0) }
      else { s with summaries := SMap.put s.summaries code (t, n + 1) }
  else s

/-- A FIELD_DEFECT payload (Table 14.11). -/
def defectPayload (source dietype die defect : Nat) : List Byte :=
  leBytes 16 (defect + die * 2 ^ 32 + dietype * 2 ^ 36 + source * 2 ^ 40)

/-- The die byte of event details: type in the high half, number in the low. -/
def dieByte (cdie : Bool) (die : Nat) : List Byte := leBytes 1 ((if cdie then 0x20 else 0x10) + die % 16)

/-! ## Reduction contexts (Table 5.7) -/

def RedCtx.contributors (c : RedCtx) : Nat := c.nM1 + 1
def RedCtx.words (c : RedCtx) : Nat := c.wordsM1 + 1
def RedCtx.targetEnd (c : RedCtx) : Nat := c.target + 64 * c.words - 1
def RedCtx.holdEnd (c : RedCtx) : Nat := c.hold + 64 * c.words * (c.contributors + 2) - 1

/-- The target and hold ranges of the open contexts of the part (R174). -/
def openRanges (s : State) : List (Nat × Nat) :=
  (s.ctx.filter (fun c => c.2.st == 1)).flatMap (fun c => [(c.2.target, c.2.targetEnd), (c.2.hold, c.2.holdEnd)])

/-! ## Queues, completions, discards and job faults -/

def queue (s : State) (q : Nat) : Queue := SMap.get s.queues q Queue.reset
def setQueue (s : State) (q : Nat) (v : Queue) : State := { s with queues := SMap.set s.queues q v Queue.reset }

def tile (s : State) (t : Nat) : Tile := SMap.get s.tiles t Tile.reset
def setTile (s : State) (t : Nat) (v : Tile) : State := { s with tiles := SMap.set s.tiles t v Tile.reset }

/-- Fields of a job descriptor (Table 9.8). -/
def jTileFirst (d : Nat) : Nat := bits d 255 240
def jTileCount (d : Nat) : Nat := bits d 271 256
def jobTiles (j : Job) : List Nat := (List.range (jTileCount j.desc)).map (· + jTileFirst j.desc)
def jDomain (d : Nat) : Nat := bits d 239 224
def jRsig (d : Nat) : Bool := bit1 d 223
def jPasidEn (d : Nat) : Bool := bit1 d 222
def jPasid (d : Nat) : Nat := bits d 221 202
def jWdog (d : Nat) : Nat := bits d 199 184
def jId (d : Nat) : Nat := bits d 31 0

/-- A job holds its tiles from its admission until its completion is made ready, one that has faulted too. -/
def Job.holds (j : Job) : Bool := j.running || j.fault.isSome

/-- The device output windows of a job as byte ranges. -/
def deviceWins (j : Job) : List (Nat × Nat) :=
  (j.owins.filter (fun w => !w.2.2)).map (fun w => (w.1, w.1 + w.2.1 - 1))

def opstoreWins (j : Job) : List (Nat × Nat) :=
  [(0x002000000000 + jTileFirst j.desc * 0x100000,
    0x002000000000 + (jTileFirst j.desc + jTileCount j.desc) * 0x100000 - 1)].filter (fun _ => decide (0 < jTileCount j.desc))

/-- What a job that failed may have written is indeterminate (R36, R278): its device output windows and the operand
stores of its tile set. -/
def spoil (s : State) (j : Job) : State := { s with indet := deviceWins j ++ opstoreWins j ++ s.indet }

/-- A completion entry made ready for its queue. -/
def postComp (s : State) (c : Comp) : State := { s with comps := s.comps ++ [c] }

/-- The engines of a job at their regulators: of its tiles, and the movers it runs on. -/
def jobEngine (jb : Job) (m tile : Nat) : Bool :=
  if m < 96 then (jobTiles jb).contains tile
  else jb.movers.any (fun v => match v.2 with
    | .running n => 96 + n == m
    | .worked n => 96 + n == m
    | _ => false)

/-- What an engine or a transfer of a job has at its regulator is not issued: it is forgotten there. -/
def forgetParts (s : State) (j : Nat) (mine : List Nat) : State :=
  match SMap.find? s.jobs j with
  | none => s
  | some jb =>
    let ours (h : HeldReq) (m tile : Nat) : Bool :=
      match h with
      | .engine _ => jobEngine jb m tile
      | .start x => mine.contains x
      | .land x => mine.contains x
      | .fabricData x _ _ => mine.contains x
      | _ => false
    { s with regWait := s.regWait.filter (fun w => !(w.req.any (fun h => ours h w.m (w.eng / 6)))),
             paid := s.paid.filter (fun p => !jobEngine jb (p.1 / 2 ^ 24) (p.1 % 2 ^ 24 / 6)) }

/-- What a job has not issued yet is abandoned: its transfers end, their stalls and the host reads that are out are not
waited for, requests kept back are not sent, and those answered RESYNC do not go again (R278, R288, R310). -/
def stopJob (s : State) (j : Nat) : State :=
  let mine := (s.xfers.filter (fun x => x.2.job == j)).map (·.1)
  { forgetParts s j mine with
    xfers := s.xfers.filter (fun x => x.2.job != j)
    prgs := s.prgs.map (fun p => if mine.contains p.2.x then (p.1, { p.2 with abandoned := true }) else p)
    reads := s.reads.map (fun r => if r.2.job = j then (r.1, { r.2 with dropped := true }) else r)
    fab := { s.fab with waitReqs := s.fab.waitReqs.filter (fun r => r.job != j)
                        reqs := s.fab.reqs.map (fun r => if r.2.job = j && r.2.resync then (r.1, { r.2 with abandoned := true }) else r) } }

/-- Requests a job leaves behind: fabric tags stay out of use until answered (R316). -/
def abandonJob (s : State) (j : Nat) : State :=
  let s := stopJob s j
  { s with fab := { s.fab with reqs := s.fab.reqs.map (fun r => if r.2.job = j then (r.1, { r.2 with abandoned := true }) else r) } }

/-- Tiles that no job runs on count their quiet time from now, unless they do already (R139). -/
def noteIdle (s : State) (ts : List Nat) : State :=
  { s with quiet := ts.foldl (fun m t => if (SMap.find? m t).isSome then m else SMap.put m t (s.time, false)) s.quiet }

/-- The tiles a job held are free again: every flag reads zero and nothing is left of the programs (R118). -/
def freeTiles (s : State) (j : Job) : State :=
  noteIdle ((jobTiles j).foldl (fun s t => setTile s t { Tile.reset with rampLen := (tile s t).rampLen }) s) (jobTiles j)

/-- The tiles of a job that has faulted and whose accesses have not all ended: the programs are gone, the flags stand until the
job ends (R115, R278). -/
def stopTiles (s : State) (j : Nat) (jb : Job) : State :=
  noteIdle ((jobTiles jb).foldl (fun s t =>
    setTile s t { Tile.reset with job := some j, flags := (tile s t).flags, saturated := (tile s t).saturated, rampLen := (tile s t).rampLen }) s)
    (jobTiles jb)

/-- The job gone from the part. -/
def endJob (s : State) (j : Nat) : State :=
  match SMap.find? s.jobs j with
  | none => s
  | some jb => { freeTiles (abandonJob s j) jb with jobs := SMap.erase s.jobs j }

/-- The latest fault of a tile's program, in the entries of R112. -/
def recordFault (s : State) (cause ltile word : Nat) : State :=
  setEnt (setEnt (setEnt s 0x4030 1 cause) 0x4030 2 ltile) 0x4030 3 word

/-- Are accesses that a job issued still to end: host reads and fabric requests (R278)? A request answered RESYNC that does not go
again has ended (R310). -/
def owesAccess (s : State) (j : Nat) : Bool := s.reads.any (fun r => r.2.job == j) || s.fab.reqs.any (fun r => r.2.job == j && !(r.2.resync && r.2.abandoned))

/-- A job that has faulted posts its completion once the accesses it issued have ended (R278). -/
def settleFault (s : State) (j : Nat) : State :=
  match SMap.find? s.jobs j with
  | none => s
  | some jb =>
    match jb.fault with
    | some c => if s.main = .ready && !owesAccess s j then postComp { freeTiles s jb with jobs := SMap.erase s.jobs j } c else s
    | none => s

/-- A job fault (R278): it is confined to its job, which completes as REJECTED with the first cause. A fault of a mover
descriptor names no tile, and is none of those that R112 records. -/
def jobFault (s : State) (j cause ltile word : Nat) : State :=
  match SMap.find? s.jobs j with
  | none => s
  | some jb =>
    if s.main = .ready && jb.running then
      let s := if cause < 0x32 && ltile != 0xFFFF then recordFault s cause ltile word else s
      let s := if cause = 0x32 then bump s 0x3020 4 else s
      let s := if cause = 0x31 then bump s 0x7800 8 else s
      let c : Comp := { q := jb.q, slot := jb.slot, jobId := jId jb.desc, status := 2, cause := cause,
                        ltile := if cause < 0x32 then ltile else 0xFFFF, word := if cause < 0x32 then word else 0 }
      let s := spoil (stopTiles (stopJob s j) j jb) jb
      settleFault { s with jobs := SMap.put s.jobs j { jb with running := false, movers := [], fault := some c } } j
    else s

/-- The slots a queue holds between SQ_HEAD and its tail, as modulo-512 counts. -/
def openSlots (q : Queue) : List Nat :=
  (List.range ((q.sqTail + 512 - q.sqHead) % 512)).map (fun i => (q.sqHead + i) % 512)

/-- The completions a discard owes (R279): for every open slot of every enabled queue whose completion is not made
ready yet. A slot not fetched has a JOB_ID the manual does not give. -/
def coveredOf (s : State) (cause : Nat) : List Comp × State :=
  s.queues.foldl (fun acc q =>
    if !q.2.enabled then acc
    else
      (openSlots q.2).foldl (fun acc n =>
        if q.2.doneSlots.contains n || acc.2.comps.any (fun c => c.q == q.1 && c.slot == n) then acc
        else
          match List.find? (fun (j : Nat × Job) => j.2.q == q.1 && j.2.slot == n) acc.2.jobs with
          | some j => (acc.1 ++ [{ q := q.1, slot := n, jobId := jId j.2.desc, status := 1, cause := cause,
                                   ltile := 0xFFFF, word := 0 }], acc.2)
          | none =>
            let f := drawFree acc.2
            (acc.1 ++ [{ q := q.1, slot := n, jobId := f.1 % 2 ^ 32, status := 1, cause := cause, ltile := 0xFFFF,
                         word := 0 }], f.2)) acc) ([], s)

/-- Steps 1 and 2 of a discard (Table 9.16): translation stalls and fabric requests are abandoned (R288, R316). -/
def startDiscard (s : State) (cause : Nat) : State :=
  let prior := (s.discardEpoch, s.discardCause, s.devEvents)
  let s := { s with discardEpoch := (s.discardEpoch + 1) % 2 ^ 32, discardCause := cause }
  let c := coveredOf s cause
  let s := { c.2 with main := .discarding, discard := some { began := c.2.time, prior := prior, covered := c.1, opened := openRanges c.2 },
                      queues := c.2.queues.map (fun q => (q.1, { q.2 with fetched := q.2.sqTail })),
                      prgs := c.2.prgs.map (fun p => (p.1, { p.2 with abandoned := true })),
                      fab := { c.2.fab with reqs := c.2.fab.reqs.map (fun r => (r.1, { r.2 with abandoned := true })),
                                            waitReqs := [] } }
  let s := noteIdle s (s.jobs.flatMap (fun j => jobTiles j.2))
  let s := bump s 0x3030 5
  let s := devEvent s 1
  let s := { s with devEvents := if bit1 s.devEvents 0 then s.devEvents else s.devEvents + 1 }
  let s := sendVector s 0
  logEvent s 0x3001 (leBytes 1 cause ++ leBytes 4 s.discardEpoch)

/-- A class-B fault with the discard cause it leads to: it begins a discard in READY and joins one that runs
(Table 16.2, R460); none arises in DEEP. -/
def classB (s : State) (cause : Nat) : State :=
  if s.main = .ready && s.power != .deep then startDiscard s cause else s

/-- The main state changed, with DEV_EVENTS bit 1 (Table 9.3). -/
def setMain (s : State) (m : MainState) : State := devEvent { s with main := m } 1

end Sys2Proof.Machine
end

