-- ==== Sys2Proof/Machine/Memory.lean ====
section
/-! DEFINITION. Device memory: the address map and the homes, stored codewords, the HBM cache, the repeat table, and
the accesses a home performs (The Vault and the on-package networks; HBM subsystem; Protection of stored and moving
data). -/

namespace Sys2Proof.Machine

/-! ## Sites and layout -/

/-- The router row and column of a slice site, and whether it is the spare site there (R148). -/
def siteRC (site : Nat) : Nat × Nat × Bool :=
  let pair := site / 66
  let o := site % 66
  if o < 32 then (2 * pair, o, false)
  else
    let x := o - 32
    if x = 0 then (2 * pair + 1, 0, false)
    else if x = 1 then (2 * pair + 1, 0, true)
    else if x = 33 then (2 * pair + 1, 31, true)
    else (2 * pair + 1, x - 1, false)

/-- The half above a slice site of B-die b (R23, R148). -/
def siteHalf (b site : Nat) : Nat :=
  let rc := siteRC site
  2 * (2 * b + rc.2.1 / 16) + rc.1 / 8

/-- The regulation group above a slice site (Table 7.1). -/
def siteGroup (b site : Nat) : Nat := 4 * siteHalf b site + (siteRC site).1 % 8 / 2

/-- The slice site beneath a logical tile: B-die and site. -/
def tileSite (s : State) (t : Nat) : Nat × Nat :=
  let k := s.lay.tiles.getD t 0
  (k / 528, k % 528)

def tileCount (s : State) : Nat := s.lay.tiles.length
def tileHalf (s : State) (t : Nat) : Nat := siteHalf (tileSite s t).1 (tileSite s t).2

/-- The B-die of a Fragor port (Table 1.2). -/
def portDie (p : Nat) : Nat :=
  match p / 4 with
  | 0 => 0 | 1 => 2 | 2 => 3 | _ => 5

/-- The regulated master of a requester (Table 7.1); 0xFFFF for none. -/
def masterOf (s : State) (rq : Requester) : Nat :=
  match rq with
  | .tile t => siteGroup (tileSite s t).1 (tileSite s t).2
  | .fetch t => siteGroup (tileSite s t).1 (tileSite s t).2
  | .mover j i =>
    match SMap.find? s.jobs j with
    | some jb =>
      match jb.movers.getD i (0, .done) with
      | (_, .running m) => 96 + m
      | (_, .worked m) => 96 + m
      | _ => 0xFFFF
    | none => 0xFFFF
  | .host => 144
  | .fabric p => 145 + p
  | .none => 0xFFFF

/-! ## The address map (Table 5.2) -/

/-- Where an address has its home. -/
inductive Loc where
  | vault (b site word : Nat)
  | opstore (t word : Nat)
  | hbm (b line sector : Nat)
  | flag (t off : Nat)
  | ctx (b n off : Nat)
  | unmapped
deriving DecidableEq, Repr, Inhabited

def slice (s : State) (b o : Nat) : Nat := (s.lay.slices.getD b []).getD o 0

def sharedBytes (s : State) : Nat := 6 * s.lay.p * s.lay.ps * 0x40000
def dieBytes (s : State) : Nat := s.lay.p * s.lay.pd * 0x40000
def localBytes (s : State) : Nat := s.lay.pl * 0x40000
def cacheSets (s : State) : Nat := s.lay.p * s.lay.pc * 64

/-- The active channels of B-die b, in ascending order of (n, j) (R188). -/
def dieChans (s : State) (b : Nat) : List Nat :=
  ((List.range 64).map (fun u => 32 * (2 * b + u % 2) + u / 2)).filter (fun c => s.lay.chans.contains c)

/-- The length of a home range (R187). -/
def hbmRange (s : State) (b : Nat) : Nat := (dieChans s b).length * rd s 0x6800 4

/-- The home of a device address (Table 5.2, R153 to R156, R187). -/
def homeOf (s : State) (a : Nat) : Loc :=
  if a < 0x001000000000 then
    if a < sharedBytes s then
      let n := a / 4096
      let q := n / 6
      let off := q / s.lay.p * 4096 + a % 4096
      .vault (n % 6) (slice s (n % 6) (q % s.lay.p)) (off / 64)
    else .unmapped
  else if a < 0x001800000000 then
    let b := (a - 0x001000000000) / 0x100000000
    let e := a % 0x100000000
    if b < 6 ∧ e < dieBytes s then
      let off := e / (256 * s.lay.p) * 256 + e % 256
      .vault b (slice s b (e / 256 % s.lay.p)) ((s.lay.ps * 0x40000 + off) / 64)
    else .unmapped
  else if a < 0x002000000000 then
    let t := (a - 0x001800000000) / 0x400000
    let e := (a - 0x001800000000) % 0x400000
    if t < tileCount s ∧ e < localBytes s then
      let k := tileSite s t
      .vault k.1 k.2 (((s.lay.ps + s.lay.pd) * 0x40000 + e) / 64)
    else .unmapped
  else if a < 0x100000000000 then
    let t := (a - 0x002000000000) / 0x100000
    let e := (a - 0x002000000000) % 0x100000
    if t < tileCount s then .opstore t (e / 64) else .unmapped
  else if a < 0x200000000000 then
    let b := (a - 0x100000000000) / 0x2000000000
    let h := (a - 0x100000000000) % 0x2000000000
    if b < 6 ∧ h < hbmRange s b then .hbm b (h / 256) (h % 256 / 64) else .unmapped
  else if a < 0x200000100000 then
    let t := (a - 0x200000000000) / 0x100
    if t < tileCount s then .flag t (a % 0x100) else .unmapped
  else
    let b := (a - 0x200000100000) / 0x1000
    let o := (a - 0x200000100000) % 0x1000
    if b < 6 ∧ o < 0x800 then .ctx b (o / 32) (o % 32) else .unmapped

/-- The device address range of the Vault pools, the operand stores and HBM (R262): no control space. -/
def Loc.isData : Loc → Bool
  | .vault _ _ _ => true
  | .opstore _ _ => true
  | .hbm _ _ _ => true
  | _ => false

/-- The B-die that homes an address. -/
def homeDie (s : State) (a : Nat) : Nat :=
  match homeOf s a with
  | .vault b _ _ => b
  | .opstore t _ => (tileSite s t).1
  | .hbm b _ _ => b
  | .flag t _ => (tileSite s t).1
  | .ctx b _ _ => b
  | .unmapped => 0

/-! ## Stored words -/

/-- The form of memory: addresses strictly rising, so that equal memories are equal lists. -/
abbrev Memory.wf (m : List Host.Cell) : Prop := m.Pairwise (fun x y => x.1 < y.1)

/-- The bytes stored from `base` up, below the next word's place. -/
def cellsAt (m : List Host.Cell) (base : Nat) : List Host.Cell :=
  m.filter (fun c => decide (base ≤ c.1) && decide (c.1 < base + 128))

/-- A stored word of `n` symbols, if it has been written since reset. -/
def storedAt (m : List Host.Cell) (base n : Nat) : Option (List Byte) :=
  let l := (cellsAt m base).map (·.2)
  if l.length = n then some l else none

/-- The cells of a word. -/
def wordCells (base : Nat) : List Byte → List Host.Cell
  | [] => []
  | b :: r => (base, b) :: wordCells (base + 1) r

/-- A word stored: at most 128 symbols, in its place of the rising order. -/
def storeAt (m : List Host.Cell) (base : Nat) (w : List Byte) : List Host.Cell :=
  m.filter (fun c => decide (c.1 < base)) ++ wordCells base (w.take 128) ++
    m.filter (fun c => decide (base + 128 ≤ c.1))

def vaultKey (b site w : Nat) : Nat := ((b * 528 + site) * 65536 + w) * 128
def opstoreKey (t w : Nat) : Nat := (2 ^ 40 + t * 16384 + w) * 128
def hbmKey (ch sector : Nat) : Nat := (2 ^ 41 + ch * 2 ^ 25 + sector) * 128

/-- The bytes of a free value, for a word nothing has written (R252, R253). -/
def freeWord (s : State) (n : Nat) : List Byte × State :=
  let f := drawFree s
  (leBytes n f.1, f.2)

/-- A stored word as the decoder sees it, with the symbol errors that storage has put into it. -/
def readCode (s : State) (key c : Nat) (u : Upset) : Decoded × State :=
  match storedAt s.mem key (64 + c) with
  | some w =>
    if u.isEmpty then (rsDecode c w, s)
    else
      let v := applyUpset w u
      (rsDecode c v, { s with mem := storeAt s.mem key v })
  | none =>
    let f := freeWord s (64 + c)
    (rsDecode c (applyUpset f.1 u), f.2)

def putCode (s : State) (key : Nat) (w : List Byte) : State := { s with mem := storeAt s.mem key w }

/-- What a read at a home gives (R234, R238, R240). -/
inductive RdRes where
  | data (d : List Byte)
  | poison
  | failed
deriving DecidableEq, Repr, Inhabited

/-- The bytes a consumer is handed: zeros stand for poison. -/
def RdRes.bytes : RdRes → List Byte
  | .data d => d
  | _ => List.replicate 64 0#8

/-! ## The repeat table (R247 to R249) -/

/-- The device address of a Vault word with none, for event records. -/
def locAddr (kind loc : Nat) : Nat := 2 ^ 63 + kind * 2 ^ 56 + loc

/-- The row of a channel that a sector lies in: bank, pseudo-channel and row together, 16 sectors each (R208). -/
def hbmRow (sector : Nat) : Nat := sector / 16

/-- The sub-array and row of a Vault word (R250). -/
def vaultRow (w : Nat) : Nat × Nat := (w / 16384, w % 16384 / 8)

/-- Bit columns of a Vault row that symbol errors touched: word in the row, symbol and bit. -/
def errCols (w : Nat) (errs : List (Nat × Byte)) : List Nat :=
  errs.flatMap (fun e => ((List.range 8).filter (fun i => e.2.getLsbD i)).map (fun i => (w % 8) * 560 + e.1 * 8 + i))

def sameRep (b kind loc : Nat) (r : RepEntry) : Bool := r.b == b && r.kind == kind && r.loc == loc

/-- The oldest SOFT entry of a full table. -/
def oldestSoft (l : List RepEntry) (b : Nat) : Option RepEntry :=
  (l.filter (fun r => r.b == b && r.state == 0)).foldl
    (fun m r => match m with
      | none => some r
      | some x => if r.lastMs < x.lastMs then some r else some x) none

/-- A field defect record for a Vault row, or for the column that two HARD entries of one sub-array share (R249). -/
def vaultDefect (s : State) (b loc : Nat) (cols : List Nat) : State :=
  let site := loc / 65536
  let w := loc % 65536
  let sub := (vaultRow w).1
  let other := s.repeats.find? (fun r => r.b == b && r.kind == 1 && r.state == 2 && r.loc / 65536 == site &&
    (vaultRow (r.loc % 65536)).1 == sub && r.loc != loc && r.cols.any (fun c => cols.contains c))
  let defect := match other with
    | some r => 3 * 2 ^ 28 + site * 2 ^ 15 + sub * 2 ^ 13 + ((cols.filter (fun c => r.cols.contains c)).headD 0)
    | none => 2 * 2 ^ 28 + site * 2 ^ 13 + sub * 2 ^ 11 + (vaultRow w).2
  queueRecord s 2 (defectPayload 2 1 b defect)

/-! ## The HBM cache and the channels behind it (R187 to R195, R208, R209) -/

def lineSet (s : State) (line : Nat) : Nat := line % cacheSets s
def lineChan (s : State) (b line : Nat) : Nat := (dieChans s b).getD (line % (dieChans s b).length) 0
def lineSector (s : State) (b line sec : Nat) : Nat := line / (dieChans s b).length * 4 + sec
def lineKey (s : State) (b line sec : Nat) : Nat := hbmKey (lineChan s b line) (lineSector s b line sec)
def lineAddr (b line sec : Nat) : Nat := 0x100000000000 + b * 0x2000000000 + line * 256 + sec * 64

def chan (s : State) (c : Nat) : Chan := SMap.get s.chans c Chan.reset
def setChan (s : State) (c : Nat) (v : Chan) : State := { s with chans := SMap.set s.chans c v Chan.reset }

def findLine (s : State) (b line : Nat) : Option Line := s.lines.find? (fun l => l.b == b && l.line == line)
def dropLine (s : State) (b line : Nat) : State :=
  { s with lines := s.lines.filter (fun l => !(l.b == b && l.line == line)) }
/-- A line put in front, as the most recently used. -/
def putLine (s : State) (l : Line) : State := { dropLine s l.b l.line with lines := l :: (dropLine s l.b l.line).lines }

/-- The class of a device address (R216). -/
def classOf (s : State) (a : Nat) : Nat :=
  let s := inForce s
  if !(s.ent.any (fun e => e.1 / 0x1000 == 0x701)) then 0
  else match (List.range 16).find? (fun i => decide (rd s (0x7010 + i) 4 = 1) && decide (rd s (0x7010 + i) 1 ≤ a) &&
    decide (a ≤ rd s (0x7010 + i) 2)) with
  | some i => rd s (0x7010 + i) 3
  | none => 0

/-- May class k protect one more line in this set (R192)? -/
def canProtect (s : State) (b line k : Nat) : Bool :=
  decide ((s.lines.filter (fun l => l.b == b && l.prot == some k)).length < rd s 0x6818 (k + 1)) &&
  decide ((s.lines.filter (fun l => l.b == b && lineSet s l.line == lineSet s line && l.prot.isSome)).length
    < rd s 0x6810 3)

/-- The Vault word in the cache share that holds a sector of a line: slice site and word. -/
def lineLoc (s : State) (l : Line) (sec : Nat) : Nat :=
  let set := lineSet s l.line
  slice s l.b (set % s.lay.p) * 65536 + (s.lay.ps + s.lay.pd + s.lay.pl) * 4096 + (set / s.lay.p * 16 + l.way) * 4 + sec

/-- The place of a sector in its channel, as the repeat table names it. -/
def sectorLoc (s : State) (b line sec : Nat) : Nat := lineChan s b line * 2 ^ 25 + lineSector s b line sec

/-- A sector of a cached line replaced in place. -/
def mendLine (s : State) (b line sec : Nat) (w : List Byte) : State :=
  { s with lines := s.lines.map (fun l => if l.b == b && l.line == line then { l with sectors := l.sectors.set sec w } else l) }

/-! ### Corrections and the repeat table (R247 to R249) -/

/-- Replace, or add, a repeat entry. -/
def putRep (s : State) (r : RepEntry) : State :=
  { s with repeats := s.repeats.filter (fun x => !sameRep r.b r.kind r.loc x) ++ [r] }

/-- The state of a repeat-table entry after a correction (R248), and whether the home writes the word back. A two-symbol
correction of a word whose entry is already WRITTEN_BACK or HARD falls under step 3 and step 4 alike: DESIGN CHOICE, step 4 is
taken and nothing is written back; so is nothing for a word that finds no entry (log 31). -/
def repStep (r : RepEntry) (two : Bool) (ms lap : Nat) (cols : List Nat) : RepEntry × Bool :=
  let cols := r.cols ++ cols.filter (fun c => !r.cols.contains c)
  match r.state with
  | 0 =>
    let n := r.count + 1
    if n ≥ 3 || two then ({ r with state := 1, count := 0, lastMs := ms, lap := lap, cols := cols }, true)
    else ({ r with count := n, lastMs := ms, cols := cols }, false)
  | 1 => ({ r with state := 2, count := min 255 (r.count + 1), lastMs := ms, cols := cols }, false)
  | _ => ({ r with count := min 255 (r.count + 1), lastMs := ms, cols := cols }, false)

/-- Laps a scrubber has completed at a location. -/
def lapsAt (s : State) (b kind loc : Nat) : Nat :=
  if kind = 1 then (SMap.get s.vscrub (b * 528 + loc / 65536) Scrub.reset).laps
  else (SMap.get s.hscrub (loc / 2 ^ 25) Scrub.reset).laps

/-- The entry of a word taken out of the table. -/
def dropRep (s : State) (b kind loc : Nat) : State :=
  { s with repeats := s.repeats.filter (fun x => !sameRep b kind loc x) }

/-- The entry of a word that is corrected, made where there is none (R248, step 1). -/
def repEntry (s : State) (b kind loc : Nat) : Option RepEntry × State :=
  let fresh : RepEntry := { b := b, kind := kind, state := 0, count := 0, lastMs := 0, loc := loc, lap := 0, cols := [] }
  match s.repeats.find? (sameRep b kind loc) with
  | some r => (some r, s)
  | none =>
    if (s.repeats.filter (fun r => r.b == b)).length < 64 then (some fresh, s)
    else
      match oldestSoft s.repeats b with
      | some x => (some fresh, dropRep s x.b x.kind x.loc)
      | none => (none, logEvent (bump s 0x7820 5) 0x7804 (leBytes 1 b))

/-- A correction of a stored word put into the repeat table (R248), with the columns of a word that becomes HARD by it;
`rewrite` stores the word with fresh check bytes. -/
def repUpdate (s : State) (b kind loc : Nat) (errs : List (Nat × Byte)) (rewrite : State → State) :
    Option (List Nat) × State :=
  match repEntry s b kind loc with
  | (none, s) => (none, s)
  | (some r, s) =>
    let cols := if kind = 1 then errCols (loc % 65536) errs else []
    let p := repStep r (decide (errs.length ≥ 2)) ((s.time - s.bringup.startAt) / 1000000 % 2 ^ 32) (lapsAt s b kind loc) cols
    let s := putRep s p.1
    let s := if p.2 then bump (rewrite s) 0x7820 3 else s
    if r.state = 1 then (some p.1.cols, bump s 0x7820 4) else (none, s)

/-- A correction of a Vault word recorded; one that becomes HARD is recorded for repair (R249). -/
def noteVault (s : State) (b loc : Nat) (errs : List (Nat × Byte)) (rewrite : State → State) : State :=
  match repUpdate s b 1 loc errs rewrite with
  | (some cols, s) => vaultDefect s b loc cols
  | (none, s) => s

/-- A write frees a SOFT entry of its word (R249). -/
def freeSoft (s : State) (b kind loc : Nat) : State :=
  { s with repeats := s.repeats.filter (fun r => !(sameRep b kind loc r && r.state == 0)) }

/-! ### Lines -/

/-- A sector written to its channel. -/
def chanWrite (s : State) (b line sec : Nat) (w : List Byte) : State :=
  putCode (freeSoft s b 2 (sectorLoc s b line sec)) (lineKey s b line sec) w

/-- A sector of a cached line written back (R236, R239): uncorrectable and poison sectors go as poison. -/
def writeBackSector (s : State) (l : Line) (sw : Nat × List Byte) : State :=
  match rsDecode 6 sw.2 with
  | .clean d => chanWrite s l.b l.line sw.1 (rsEncode 8 d)
  | .corrected d e =>
    chanWrite (noteVault (bump s 0x7800 1) l.b (lineLoc s l sw.1) e (fun s => mendLine s l.b l.line sw.1 (rsEncode 6 d)))
      l.b l.line sw.1 (rsEncode 8 d)
  | .poison => chanWrite s l.b l.line sw.1 (poisonWord 8)
  | .uncorrectable =>
    chanWrite (logEvent (bump (bump s 0x7800 4) 0x7800 7) 0x7802 (leBytes 8 (lineAddr l.b l.line sw.1))) l.b l.line sw.1
      (poisonWord 8)

def writeBack (s : State) (l : Line) : State :=
  (l.sectors.zipIdx.map (fun p => (p.2, p.1))).foldl (fun s sw => writeBackSector s l sw) s

/-- A way for a new line: a free one, or the least recently used that is neither protected nor pinned (R191). -/
def victimWay (s : State) (b line : Nat) : Option (Nat × Option Line) :=
  let set := s.lines.filter (fun l => l.b == b && lineSet s l.line == lineSet s line)
  match (List.range 16).find? (fun w => set.all (fun l => l.way != w)) with
  | some w => some (w, none)
  | none => (set.reverse.find? (fun l => l.prot.isNone && !l.pinned)).map (fun l => (l.way, some l))

/-- A line put into a way: its four Vault words are written whole. -/
def fillWay (s : State) (l : Line) : State :=
  putLine ((List.range 4).foldl (fun s i => freeSoft s l.b 1 (lineLoc s l i)) s) l

/-- A line allocated, a dirty victim written back first; unchanged where no way is eligible. A line that a remap has
pinned in the meantime stays pinned (R208). -/
def allocLine (s : State) (b line : Nat) (sectors : List (List Byte)) (dirty : Bool) (prot : Option Nat)
    (pinned : Bool) : State × Bool :=
  match findLine s b line with
  | some x => (fillWay s { x with sectors := sectors, dirty := x.dirty || dirty, prot := if prot.isSome then prot else x.prot }, true)
  | none =>
    match victimWay s b line with
    | none => (s, false)
    | some (w, v) =>
      let s := match v with
        | some l => dropLine (if l.dirty then writeBack s l else s) l.b l.line
        | none => s
      (fillWay s { b := b, line := line, way := w, dirty := dirty, prot := prot, pinned := pinned, sectors := sectors },
        true)

/-- What the copy of a sector into the cache holds: corrected data, or poison; with the symbols that were corrected. -/
def copySector (s : State) (b line sec : Nat) : List Byte × List Byte × List (Nat × Byte) × State :=
  match readCode s (lineKey s b line sec) 8 [] with
  | (.clean d, s) => (rsEncode 6 d, d, [], s)
  | (.corrected d e, s) => (rsEncode 6 d, d, e, bump s 0x7800 2)
  | (.poison, s) => (poisonWord 6, [], [], s)
  | (.uncorrectable, s) =>
    (poisonWord 6, [], [], logEvent (bump (bump s 0x7800 5) 0x7800 7) 0x7802 (leBytes 8 (lineAddr b line sec)))

/-- A sector of a row that is being remapped copied (R208): an entry of it that becomes HARD by a correction now is freed
with the remap. -/
def pinSector (s : State) (b line sec : Nat) : List Byte × State :=
  match copySector s b line sec with
  | (w, _, [], s) => (w, s)
  | (w, d, e, s) =>
    match repUpdate s b 2 (sectorLoc s b line sec) e (fun s => putCode s (lineKey s b line sec) (rsEncode 8 d)) with
    | (some _, s) => (w, dropRep s b 2 (sectorLoc s b line sec))
    | (none, s) => (w, s)

/-- A line pinned: copied into the cache from its channel if it is not there (R208). -/
def pinLine (s : State) (b l : Nat) : State :=
  match findLine s b l with
  | some x => putLine s { x with pinned := true }
  | none =>
    let c := (List.range 4).foldl (fun acc i =>
      let r := pinSector acc.2 b l i
      (acc.1 ++ [r.1], r.2)) (([] : List (List Byte)), s)
    (allocLine c.2 b l c.1 false none true).1

/-- A row of a channel remapped into four pinned lines, or recorded for repair (R208, R209); `fresh` where no record of the
row stands in the Ledger yet. -/
def remapRow (s : State) (b ch row : Nat) (fresh : Bool) : State :=
  let n := (dieChans s b).length
  let u := (dieChans s b).findIdx (· == ch)
  let ls := (List.range 4).map (fun i => (row * 4 + i) * n + u)
  let full := decide ((chan s ch).remap.length ≥ 64) ||
    ls.any (fun l => decide ((s.lines.filter (fun x => x.b == b && lineSet s x.line == lineSet s l && x.pinned)).length ≥ 4))
  if full then
    let s := setChan s ch { chan s ch with full := true }
    let s := if fresh then queueRecord s 2 (defectPayload 4 1 b (8 * 2 ^ 28 + (ch % 64) * 2 ^ 21 + row)) else s
    logEvent s 0x6805 (leBytes 2 ch ++ leBytes 4 row)
  else
    let s := ls.foldl (fun s l => pinLine s b l) s
    let s := setChan s ch { chan s ch with remap := (chan s ch).remap ++ [row] }
    let s := setEnt s 0x6838 2 (rd s 0x6838 2 + 1)
    let s := setEnt s 0x6810 8 (((s.lines.filter (·.pinned)).length) * 256)
    let s := if fresh then queueRecord s 2 (defectPayload 2 1 b (8 * 2 ^ 28 + (ch % 64) * 2 ^ 21 + row)) else s
    logEvent s 0x6804 (leBytes 2 ch ++ leBytes 4 row)

/-- A correction of a sector of a channel recorded; one that becomes HARD has its row remapped, or recorded (R249). -/
def noteHbm (s : State) (b loc : Nat) (errs : List (Nat × Byte)) (rewrite : State → State) : State :=
  match repUpdate s b 2 loc errs rewrite with
  | (some _, s) => dropRep (remapRow s b (loc / 2 ^ 25) (hbmRow (loc % 2 ^ 25)) true) b 2 loc
  | (none, s) => s

/-- A sector copied into the cache to complete a line (R239). -/
def sectorCopy (s : State) (b line sec : Nat) : List Byte × State :=
  match copySector s b line sec with
  | (w, _, [], s) => (w, s)
  | (w, d, e, s) =>
    (w, noteHbm s b (sectorLoc s b line sec) e (fun s => putCode s (lineKey s b line sec) (rsEncode 8 d)))

/-- A word that a request read is uncorrectable (R176, R177, R238): poison in its place is the caller's, and so is the count
of the requests that fail. -/
def uncorrectableRead (s : State) (rq : Requester) (addr : Nat) (hbm : Bool) : State :=
  let s := bump (bump s 0x7800 (if hbm then 5 else 4)) 0x7800 7
  let s := logEvent s 0x7801 (leBytes 8 addr ++ leBytes 2 (masterOf s rq))
  classB s 0x40

/-! ### Words in transit (R31, R235 to R237) -/

/-- A word has been lost on its way to the one that receives it: it is treated as uncorrectable (R178, R236). -/
def lostWord (s : State) (rq : Requester) (a : Nat) : State :=
  classB (logEvent (bump s 0x7800 6) 0x7801 (leBytes 8 a ++ leBytes 2 (masterOf s rq))) 0x40


/-- A word decoded where it is received, with the errors it took on its way: corrected, or poison in its place. The request
whose word is lost has failed (R178). -/
def received (s : State) (rq : Requester) (a : Nat) (w : List Byte) (transit : Upset) : RdRes × State :=
  match rsDecode 6 (applyUpset w transit) with
  | .clean d => (.data d, s)
  | .corrected d _ => (.data d, bump s 0x7800 3)
  | .poison => (.poison, s)
  | .uncorrectable => (.failed, lostWord s rq a)

/-- Bytes that leave a packet buffer of the part, with the errors that it has put into the first 64 of them (R235): as they
were, or as its check bytes make them; none where they are lost. -/
def fromBuffer (s : State) (rq : Requester) (a : Nat) (d : List Byte) (u : Upset) : Option (List Byte) × State :=
  if u.isEmpty || d.isEmpty then (some d, s)
  else
    match received s rq a (rsEncode 6 (d.take 64 ++ List.replicate (64 - d.length) 0#8)) u with
    | (.data x, s) => (some (x.take d.length ++ d.drop 64), s)
    | (_, s) => (none, s)

/-- What an engine reports of the words that it has received: corrections counted (R237); whether one was lost, a failed
request and a class-B fault (R176, R178). -/
def takeReport (s : State) (rq : Requester) (r : Received) : Bool × State :=
  let s := if r.fixed = 0 then s else bumpBy s 0x7800 3 r.fixed
  match r.lost with
  | none => (false, s)
  | some a => (true, lostWord (bump s 0x6050 1) rq a)

/-! ## Reads and writes at the home (R161, R162, Table 6.3) -/

/-- How an access is made: who asks, the cache hint, the priority, whether it takes the narrow path, whether it is the
write half of an access whose read half was counted (R213), and whether its master's regulator has admitted it before, so
that it is not charged again (R220). -/
structure How where
  rq : Requester
  hint : Hint
  prio : Nat
  narrow : Bool
  half : Bool := false
  free : Bool := false
deriving DecidableEq, Repr, Inhabited

def plain (rq : Requester) : How := { rq := rq, hint := .normal, prio := 0, narrow := false }

/-- The tile a regulated request comes from; none for a master that has one engine, or for what is not regulated (R215). -/
def regSource (rq : Requester) : Option Nat :=
  match rq with
  | .tile t => some t
  | .mover _ _ => some 0
  | .host => some 0
  | .fabric _ => some 0
  | .fetch _ => none
  | .none => none

/-- An access noted for its regulator (R215, R216). -/
def touch (s : State) (how : How) (t : Touch) : State :=
  match regSource how.rq with
  | none => s
  | some e =>
    if how.free || decide (161 ≤ masterOf s how.rq) then s
    else { s with touched := ((masterOf s how.rq, e), t) :: s.touched }

def inHbm (a : Nat) : Bool := decide (0x100000000000 ≤ a)

/-- A read, a whole write and a change of the 64-byte word at `a` noted, as Table 7.2 tells them apart. -/
def touchRead (s : State) (how : How) (a : Nat) : State :=
  touch s how (if !inHbm a then .word false a else if how.narrow then .narrow a else .bulk (a / 256))
def touchWrite (s : State) (how : How) (a : Nat) : State := touch s how (if inHbm a then .sector a else .word true a)
def touchModify (s : State) (how : How) (a : Nat) (reduction : Bool) : State :=
  touch s how (if !inHbm a then .word true a else if reduction then .reduce (a / 256) else .part (a / 256))

/-- A word of a Vault slice or an operand store read at its home. -/
def readVault (s : State) (rq : Requester) (a key b loc : Nat) (tracked : Bool) (u : Upset) : RdRes × State :=
  match readCode s key 6 u with
  | (.clean d, s) => (.data d, s)
  | (.corrected d e, s) =>
    let s := bump s 0x7800 1
    (.data d, if tracked then noteVault s b loc e (fun s => putCode s key (rsEncode 6 d)) else s)
  | (.poison, s) => (.poison, s)
  | (.uncorrectable, s) =>
    (.failed, uncorrectableRead (putCode (if tracked then freeSoft s b 1 loc else s) key (poisonWord 6)) rq a false)

/-- A sector a request reads from its channel. -/
def readChan (s : State) (rq : Requester) (b line sec : Nat) (u : Upset) : RdRes × State :=
  let key := lineKey s b line sec
  match readCode s key 8 u with
  | (.clean d, s) => (.data d, s)
  | (.corrected d e, s) =>
    (.data d, noteHbm (bump s 0x7800 2) b (sectorLoc s b line sec) e (fun s => putCode s key (rsEncode 8 d)))
  | (.poison, s) => (.poison, s)
  | (.uncorrectable, s) =>
    (.failed, uncorrectableRead (chanWrite s b line sec (poisonWord 8)) rq (lineAddr b line sec) true)

/-- The codeword a line holds for what a read gave. -/
def lineCopy : RdRes → List Byte
  | .data d => rsEncode 6 d
  | _ => poisonWord 6

/-- A line fetched for an access that reads sector `sec` (none: only to complete the line, R239). -/
def fetchLine (s : State) (rq : Requester) (b line : Nat) (sec : Option Nat) (u : Upset) :
    RdRes × List (List Byte) × State :=
  (List.range 4).foldl (fun acc i =>
    if sec = some i then
      let r := readChan acc.2.2 rq b line i u
      (r.1, acc.2.1 ++ [lineCopy r.1], r.2)
    else
      let r := sectorCopy acc.2.2 b line i
      (acc.1, acc.2.1 ++ [r.1], r.2)) (.poison, [], s)

/-- Latency-critical reads beyond the channel's share of the window are counted (R200). How many bytes a read counts is in no
rule: DESIGN CHOICE, 64 whether one sector or a whole line is fetched for it (log 31). -/
def lcCharge (s : State) (how : How) (ch : Nat) : State :=
  if how.prio = 1 then
    let used := SMap.get s.lcUsed ch 0 + 64
    if used * 800000 > 64 * rd s 0x6800 7 * rd (inForce s) 0x7000 1 * rd (inForce s) 0x6820 1 then bump s 0x6820 5
    else { s with lcUsed := SMap.put s.lcUsed ch used }
  else s

/-- The protection a KEEP access asks for, where the quota and the set leave room (R192). -/
def keepProt (s : State) (how : How) (b line a : Nat) : Option Nat :=
  if how.hint = .keep && canProtect s b line (classOf s a) then some (classOf s a) else none

/-- A line after an access hit it with a hint: KEEP protects it, LAST drops it (Table 6.3, R194). -/
def afterHit (s : State) (how : How) (a : Nat) (l : Line) (wrote : Bool) : State :=
  match how.hint with
  | .last =>
    if l.pinned then putLine s l
    else if wrote then dropLine (writeBack s l) l.b l.line
    else dropLine (if l.dirty then bump s 0x6810 7 else s) l.b l.line
  | .keep =>
    if l.prot.isNone then putLine s { l with prot := keepProt s how l.b l.line a } else putLine s l
  | _ => putLine s l

/-- A hit or a miss counted, once for an access (R213). -/
def countAt (s : State) (how : How) (sub : Nat) : State := if how.half then s else bump s 0x6810 sub

/-- Is a line on its way from its channel? What comes after waits for it, whether it is in the cache or not (R190). -/
def onItsWay (s : State) (b line : Nat) : Bool := s.fetches.any (fun f => f.b == b && f.line == line)

/-- Is a line that is not in the cache out of reach: on its way, or its channel held by a retrain (R190, R203)? -/
def lineWaits (s : State) (b line : Nat) : Bool := onItsWay s b line || (chan s (lineChan s b line)).active.isSome

/-- An access met a line that it must wait for. -/
def stall (s : State) (b line : Nat) : State :=
  if s.stalled.isSome then s else { s with stalled := some (b, line) }

/-- An HBM read that misses the cache (Table 6.3, R196). -/
def readMiss (s : State) (how : How) (a b line sec : Nat) (u : Upset) : RdRes × State :=
  let s := countAt s how 6
  let s := lcCharge s how (lineChan s b line)
  let allocs := !how.narrow && (how.hint == .normal || how.hint == .keep)
  if allocs && (victimWay s b line).isSome then
    let r := fetchLine s how.rq b line (some sec) u
    (r.1, (allocLine r.2.2 b line r.2.1 false (keepProt r.2.2 how b line a) false).1)
  else readChan s how.rq b line sec u

/-- A clean line with an uncorrectable word, while a request reads it (R239): the line is dropped and fetched again, and
the request is served from it. Its protection stays (R192). -/
def refetch (s : State) (how : How) (a : Nat) (l : Line) (sec : Nat) : RdRes × State :=
  let s := logEvent (bump (bump (dropLine s l.b l.line) 0x7800 0xA) 0x7800 4) 0x7802 (leBytes 8 a)
  let s := lcCharge (countAt s how 6) how (lineChan s l.b l.line)
  let r := fetchLine s how.rq l.b l.line (some sec) []
  let s := (allocLine r.2.2 l.b l.line r.2.1 false l.prot false).1
  (r.1, match findLine s l.b l.line with
    | some x => afterHit s how a x false
    | none => s)

/-- An HBM read at its home slice (R190). -/
def readHbm (s : State) (how : How) (a b line sec : Nat) (u : Upset) : RdRes × State :=
  if onItsWay s b line then (.data (List.replicate 64 0#8), stall s b line)
  else
  match findLine s b line with
  | none => if lineWaits s b line then (.data (List.replicate 64 0#8), stall s b line) else readMiss s how a b line sec u
  | some l =>
    let w := applyUpset (l.sectors.getD sec []) u
    let l := { l with sectors := l.sectors.set sec w }
    match rsDecode 6 w with
    | .clean d => (.data d, afterHit (countAt s how 5) how a l false)
    | .corrected d e =>
      let s := noteVault (bump (countAt (putLine s l) how 5) 0x7800 1) b (lineLoc s l sec) e (fun s => mendLine s b line sec (rsEncode 6 d))
      (.data d, afterHit s how a ((findLine s b line).getD l) false)
    | .poison => (.poison, afterHit (countAt s how 5) how a l false)
    | .uncorrectable =>
      if l.dirty || l.pinned then
        let l := { l with sectors := l.sectors.set sec (poisonWord 6) }
        (.failed, uncorrectableRead (putLine (countAt (freeSoft s b 1 (lineLoc s l sec)) how 5) l) how.rq a false)
      else if lineWaits s b line then (.data (List.replicate 64 0#8), stall s b line)
      else refetch s how a l sec

/-- Ranges without one 64-byte word. -/
def carve (l : List (Nat × Nat)) (a : Nat) : List (Nat × Nat) :=
  l.flatMap (fun r => if r.2 < a || a + 63 < r.1 then [r]
    else (if r.1 < a then [(r.1, a - 1)] else []) ++ (if a + 63 < r.2 then [(a + 64, r.2)] else []))

def indetAt (s : State) (a : Nat) : Bool := s.indet.any (fun r => decide (r.1 ≤ a + 63) && decide (a ≤ r.2))

/-- A word put under the code where an address has it, beneath the order of accesses. -/
def placeCode (s : State) (a : Nat) (d : List Byte) : State :=
  match homeOf s a with
  | .vault b site n => putCode s (vaultKey b site n) (rsEncode 6 d)
  | .opstore t n => putCode s (opstoreKey t n) (rsEncode 6 d)
  | .hbm b line sec => mendLine (putCode s (lineKey s b line sec) (rsEncode 8 d)) b line sec (rsEncode 6 d)
  | _ => s

/-- The codeword stored at a word of device memory, if it has been written. -/
def codeAt (s : State) (a : Nat) : Option (List Byte) :=
  match homeOf s a with
  | .vault b site n => storedAt s.mem (vaultKey b site n) 70
  | .opstore t n => storedAt s.mem (opstoreKey t n) 70
  | .hbm b line sec =>
    match findLine s b line with
    | some l => l.sectors[sec]?
    | none => storedAt s.mem (lineKey s b line sec) 72
  | _ => none

def isPoison (w : List Byte) : Bool := w == poisonWord 6 || w == poisonWord 8

/-- An indeterminate word takes a free value when something first reads it: free data; where nothing has been written, it may
also stay unwritten. Poison stays poison, and none arises (R36, R241). -/
def settle (s : State) (a : Nat) : State :=
  if indetAt s a then
    let f := drawFree s
    let t := { f.2 with indet := carve s.indet a }
    match codeAt s a with
    | some w => if isPoison w then t else placeCode t a (leBytes 64 f.1)
    | none => if bit1 f.1 512 then t else placeCode t a (leBytes 64 f.1)
  else s

/-- A stack is taken out of self-refresh in SLEEP, and held out for a while (R354). -/
def wakeModule (s : State) (m : Nat) : State :=
  if s.power = .sleep && ((List.range 32).any (fun i => (chan s (32 * m + i)).selfRefresh) || (SMap.find? s.woken m).isSome) then
    { s with woken := SMap.put s.woken m s.time,
             chans := s.chans.map (fun c => if c.1 / 32 = m then (c.1, { c.2 with selfRefresh := false }) else c) }
  else s

/-- An access that reaches a stack in SLEEP takes it out of self-refresh. -/
def wakeStack (s : State) (b line : Nat) : State := wakeModule s (lineChan s b line / 32)

/-- A read of the 64-byte word at `a` (a multiple of 64) at its home. -/
def readWord (s : State) (how : How) (a : Nat) (u : Upset) : RdRes × State :=
  let s := settle (touchRead s how a) a
  match homeOf s a with
  | .vault b site w => readVault s how.rq a (vaultKey b site w) b (site * 65536 + w) true u
  | .opstore t w => readVault s how.rq a (opstoreKey t w) 0 0 false u
  | .hbm b line sec => readHbm (wakeStack s b line) how a b line sec u
  | _ => (.failed, s)

/-- A whole sector written at its home slice (Table 6.3). `w` is its RS(70,64) codeword. -/
def writeHbm (s : State) (how : How) (a b line sec : Nat) (w : List Byte) : State :=
  if onItsWay s b line then stall s b line
  else
  let s := freeSoft s b 2 (sectorLoc s b line sec)
  match findLine s b line with
  | some l =>
    afterHit (countAt (freeSoft s b 1 (lineLoc s l sec)) how 5) how a { l with dirty := true, sectors := l.sectors.set sec w } true
  | none =>
    if lineWaits s b line then stall s b line
    else
      let s := countAt s how 6
      let streams := how.hint == .stream || how.hint == .last
      if streams || (victimWay s b line).isNone then
        chanWrite s b line sec (match rsDecode 6 w with
          | .clean d => rsEncode 8 d
          | _ => poisonWord 8)
      else
        let r := fetchLine s how.rq b line none []
        (allocLine r.2.2 b line (r.2.1.set sec w) true (keepProt r.2.2 how b line a) false).1

/-- An access that is no read reaches a word: earlier reads of it are merged with no later one (R165). -/
def noReads (s : State) (a : Nat) : State := { s with recent := s.recent.filter (fun r => r.1 != a) }

/-- A word given as data or poison written whole at its home. -/
def writeCode (s : State) (how : How) (a : Nat) (w : List Byte) : State :=
  let s := touchWrite s how a
  let s := noReads (if indetAt s a then { s with indet := carve s.indet a } else s) a
  match homeOf s a with
  | .vault b site n => putCode (freeSoft s b 1 (site * 65536 + n)) (vaultKey b site n) w
  | .opstore t n => putCode s (opstoreKey t n) w
  | .hbm b line sec => writeHbm (wakeStack s b line) how a b line sec w
  | _ => s

def writeWord (s : State) (how : How) (a : Nat) (d : List Byte) : State := writeCode s how a (rsEncode 6 d)

/-- Poison written (R240, R241), counted in POISON_WRITTEN. -/
def writePoison (s : State) (how : How) (a : Nat) : State := writeCode (bump s 0x7800 7) how a (poisonWord 6)

/-- How the read half of an access that changes a word is made: no LAST takes the line away between the halves, and the
whole is a normal request (R198). -/
def How.readHalf (how : How) : How :=
  { how with hint := if how.hint = .last then .stream else how.hint, prio := 0, free := true }

/-- How the write half of it is made. -/
def How.writeHalf (how : How) : How := { how with half := true, free := true }

/-- The read half of a sub-word write, a reduction or a compare-and-swap, then the write of what `f` makes of the
word (R162, R240). A reduction never allocates a line (R190). -/
def modifyWord (s : State) (how : How) (a : Nat) (reduction : Bool) (f : List Byte → List Byte) : RdRes × State :=
  let how := if reduction then { how with hint := .stream } else how
  match readWord (touchModify s how a reduction) how.readHalf a [] with
  | (.data d, s) => (.data d, writeWord s how.writeHalf a (f d))
  | (r, s) => (r, s)

/-- Bytes laid over a word from an offset. -/
def overlay (w : List Byte) (off : Nat) (d : List Byte) : List Byte := w.take off ++ d ++ w.drop (off + d.length)

/-- A write that covers part of one word (R162, R240), or the whole of it. -/
def writeBytes (s : State) (how : How) (a : Nat) (d : List Byte) : RdRes × State :=
  let w := a / 64 * 64
  if d.length = 64 && a % 64 = 0 then (.data d, writeWord s how a d)
  else modifyWord s how w false (fun x => overlay x (a % 64) d)

/-- A whole HBM line written: no fetch (Table 6.3). Each word is data or poison. How many accesses HBM_CACHE_HITS and
HBM_CACHE_MISSES count for it is in no rule (R213): DESIGN CHOICE, one miss where the line is allocated, and otherwise one for
each of its four sectors (log 31). -/
def writeLine (s : State) (how : How) (a : Nat) (ws : List (List Byte)) : State :=
  match homeOf s a with
  | .hbm b line _ =>
    let streams := how.hint == .stream || how.hint == .last
    if onItsWay s b line then stall s b line
    else if (findLine s b line).isSome || streams || (victimWay s b line).isNone then
      (List.range 4).foldl (fun s i => writeCode s how (a + 64 * i) (ws.getD i [])) s
    else if lineWaits s b line then stall s b line
    else
      let s := wakeStack ((List.range 4).foldl (fun s i => touchWrite s how (a + 64 * i)) s) b line
      let s := (List.range 4).foldl (fun s i => freeSoft (noReads { s with indet := carve s.indet (a + 64 * i) } (a + 64 * i)) b 2
        (sectorLoc s b line i)) s
      (allocLine (bump s 0x6810 6) b line ws true (keepProt s how b line a) false).1
  | _ => (List.range 4).foldl (fun s i => writeCode s how (a + 64 * i) (ws.getD i [])) s

/-- Is a run of bytes an HBM line covered whole? -/
def coversLine (a : Nat) (d : List Byte) : Bool := decide (0x100000000000 ≤ a) && a % 256 == 0 && decide (256 ≤ d.length)

/-- The 256 bytes of a line as four codewords. -/
def lineWords (d : List Byte) : List (List Byte) := (List.range 4).map (fun i => rsEncode 6 ((d.drop (64 * i)).take 64))

/-! ## Reductions (R168 to R170, Table 5.6) -/

/-- A word mapped element by element with another, elements of `n` bytes. -/
def zipElems (n : Nat) (f : Nat → Nat → Nat) (x y : List Byte) : List Byte :=
  (List.range (64 / n)).flatMap (fun i =>
    leBytes n (f (leNat ((x.drop (i * n)).take n)) (leNat ((y.drop (i * n)).take n))))

def smin (a b : Nat) : Nat := if signedOf 32 a ≤ signedOf 32 b then a else b
def smax (a b : Nat) : Nat := if signedOf 32 a ≤ signedOf 32 b then b else a

/-- One contribution combined into a word (Table 5.6), but ROP 0x5. -/
def reduceWord (rop : Nat) (x y : List Byte) : List Byte :=
  match rop with
  | 0 => zipElems 4 (fun a b => (a + b) % 2 ^ 32) x y
  | 1 => zipElems 8 (fun a b => (a + b) % 2 ^ 64) x y
  | 2 => zipElems 16 (fun a b => (wideAdd (BitVec.ofNat 128 a) (BitVec.ofNat 128 b)).toNat) x y
  | 3 => zipElems 2 (fun a b => (bf16Add (BitVec.ofNat 16 a) (BitVec.ofNat 16 b)).toNat) x y
  | 4 => zipElems 4 (fun a b => (f32Add (BitVec.ofNat 32 a) (BitVec.ofNat 32 b)).toNat) x y
  | 6 => zipElems 4 smin x y
  | 7 => zipElems 4 smax x y
  | 8 => zipElems 4 (fun a b => (f32Min (BitVec.ofNat 32 a) (BitVec.ofNat 32 b)).toNat) x y
  | 9 => zipElems 4 (fun a b => (f32Max (BitVec.ofNat 32 a) (BitVec.ofNat 32 b)).toNat) x y
  | _ => x

/-! ## Requests that fail, requests that wait -/

/-- A request with a failed part counted (R176, R177). -/
def failedReq (s : State) : State := bump s 0x6050 1

/-- A request put behind the line it must wait for: with the accesses that wait for its fetch, or at its channel. -/
def holdReq (s : State) (b line : Nat) (h : HeldReq) : State :=
  if onItsWay s b line then
    { s with fetches := s.fetches.map (fun f => if f.b == b && f.line == line then { f with held := f.held ++ [h] } else f) }
  else
    let ch := lineChan s b line
    setChan s ch { chan s ch with held := (chan s ch).held ++ [h] }

end Sys2Proof.Machine
end

