-- ==== Sys2Proof/Machine/Routes.lean ====
section
/-! DEFINITION. The units that are out of use, the routers that remain of each mesh, and the routes over them (R5, R158,
R180, R396). -/

namespace Sys2Proof.Machine

def sumBy {α : Type} (f : α → Nat) (l : List α) : Nat := l.foldl (fun n x => n + f x) 0

/-- The C-dies that are present (R5, R406). -/
def cdiePresent (s : State) (c : Nat) : Bool := !bit1 s.bringup.variant (24 + c)

/-! ## Units taken out -/

/-- Is a unit taken out by its Provenance record, the Ledger or self-test (Table 13.6)? -/
def unitBad (s : State) (bdie : Bool) (die entry : Nat) : Bool :=
  -- a lane's pair and a guest's site are numbered over the whole part
  let named := bdie && (entry / 2 ^ 28 == 5 || entry / 2 ^ 28 == 7)
  s.bringup.units.any (fun u => u.bdie == bdie && u.entry == entry && (u.die == die || named))

/-- The defect entries of one kind on one die, oldest first. -/
def unitsOf (s : State) (bdie : Bool) (die kind : Nat) : List Nat :=
  (s.bringup.units.filter (fun u => u.bdie == bdie && u.die == die && u.entry / 2 ^ 28 == kind)).map (fun u => u.entry % 2 ^ 28)

/-- The C-dies that give tiles: present, with a record that can be read. -/
def cdieUsed (s : State) (c : Nat) : Bool := cdiePresent s c && !s.bringup.badC.contains c

/-- A half whose common bond groups are all good (R396). -/
def halfUsed (s : State) (h : Nat) : Bool :=
  cdieUsed s (h / 2) && (unitsOf s false (h / 2) 11).all (fun g => decide (g < 31680 + 544 * (h % 2) ∨ 31680 + 544 * (h % 2) + 544 ≤ g))

/-! ## Routers (R180) -/

/-- Is a router marked absent? One of a half that stays off is. -/
def routerBad (s : State) (cdie : Bool) (die row col : Nat) : Bool :=
  if cdie then unitBad s false die (10 * 2 ^ 28 + col * 2 ^ 4 + row) || !halfUsed s (2 * die + row / 8)
  else unitBad s true die (4 * 2 ^ 28 + col * 2 ^ 4 + row)

/-- The columns of a mesh, whose routers are numbered row-major. -/
def meshWidth (cdie : Bool) : Nat := if cdie then 16 else 32

/-- Does nothing that is out of use on a die take a router of its mesh? -/
def meshWhole (s : State) (cdie : Bool) (die : Nat) : Bool :=
  (!cdie || cdieUsed s die) &&
    !s.bringup.units.any (fun u => u.bdie != cdie && u.die == die && [4, 10, 11].contains (u.entry / 2 ^ 28))

/-- The absent routers of one die. -/
def badRouters (s : State) (cdie : Bool) (die : Nat) : List Nat :=
  if meshWhole s cdie die then [] else (List.range (16 * meshWidth cdie)).filter (fun n => routerBad s cdie die (n / meshWidth cdie) (n % meshWidth cdie))

/-- The neighbours of a router in its mesh. -/
def meshNext (w n : Nat) : List Nat :=
  (if n % w = 0 then [] else [n - 1]) ++ (if n % w = w - 1 then [] else [n + 1]) ++ (if n < w then [] else [n - w]) ++
    (if n / w = 15 then [] else [n + w])

/-- Routers reached from a list over those that remain. -/
def meshReach (w : Nat) (bad : List Nat) : Nat → List Nat → List Nat → List Nat
  | 0, _, seen => seen
  | k + 1, todo, seen =>
    match todo with
    | [] => seen
    | n :: r =>
      let new := (meshNext w n).filter (fun m => !bad.contains m && !seen.contains m)
      meshReach w bad k (r ++ new) (seen ++ new)

/-- The parts a mesh falls into. -/
def meshParts (w : Nat) (bad : List Nat) : List (List Nat) :=
  (List.range (16 * w)).foldl (fun ps n =>
    if bad.contains n || ps.any (fun p => p.contains n) then ps else ps ++ [meshReach w bad (16 * w + 1) [n] [n]]) []

/-- Routers that are absent or that the remaining mesh, its largest part, cannot reach. -/
def lostRouters (s : State) (cdie : Bool) (die : Nat) : List Nat :=
  let w := meshWidth cdie
  let bad := badRouters s cdie die
  if bad.isEmpty then []
  else
    let best := (meshParts w bad).foldl (fun b p => if b.length < p.length then p else b) []
    (List.range (16 * w)).filter (fun n => !best.contains n)

/-! ## Routes (R158, R180) -/

/-- The router of a slice site, as a number row × 32 + column. -/
def siteRouter (site : Nat) : Nat := 32 * (siteRC site).1 + (siteRC site).2.1

/-- The routers that remain, by their distance from one: level by level. -/
def meshLevels (w : Nat) (bad : List Nat) : Nat → List Nat → List Nat → List (List Nat)
  | 0, _, _ => []
  | k + 1, level, seen =>
    if level.isEmpty then []
    else
      let next := level.foldl (fun new n =>
        new ++ (meshNext w n).filter (fun m => !bad.contains m && !seen.contains m && !new.contains m)) []
      level :: meshLevels w bad k next (seen ++ next)

/-- The moves of a router, those along its column before those along its row. -/
def meshMoves (w n : Nat) : List Nat :=
  let near := meshNext w n
  near.filter (fun m => m % w == n % w) ++ near.filter (fun m => m % w != n % w)

/-- The way from a router to the one whose levels are given: each move brings it one level nearer, the first such move of
`meshMoves` taken. -/
def meshWalk (w : Nat) : Nat → List (List Nat) → Nat → List Nat
  | 0, _, n => [n]
  | k + 1, levels, n =>
    match (meshMoves w n).find? ((levels.getD k []).contains ·) with
    | some m => n :: meshWalk w k levels m
    | none => [n]

/-- The route between two routers over those that remain: a shortest path, column moves before row moves. -/
def meshRoute (w : Nat) (bad : List Nat) (src dst : Nat) : List Nat :=
  let levels := meshLevels w bad (16 * w) [dst] [dst]
  meshWalk w ((levels.findIdx? (·.contains src)).getD 0) levels src

/-- Does a route pass between routers on which a test differs? -/
def crosses (w : Nat) (bad : List Nat) (side : Nat → Bool) (src dst : Nat) : Bool :=
  let r := meshRoute w bad src dst
  (r.zip (r.drop 1)).any (fun x => side x.1 != side x.2)

end Sys2Proof.Machine
end

