-- ==== Sys2Proof/Machine/Charges.lean ====
section
/-! DEFINITION. What bandwidth regulation charges and where: classes, the shares and capacities of resources and what
scales them, the parts of a request and their admission (Bandwidth regulation and guarantees). -/

namespace Sys2Proof.Machine

/-! ## Bytes of a class by home (R216, R224) -/

/-- Numbers x with lo ≤ x < hi and x mod n = r. -/
def countMod (lo hi n r : Nat) : Nat :=
  let below (x : Nat) : Nat := (x + n - 1 - r % n) / n
  below hi - below lo

/-- Enabled range registers that cover something, as half-open byte ranges with their class, lowest register first. -/
def enabledRanges (s : State) : List (Nat × Nat × Nat) :=
  ((List.range 16).filter (fun i => rd s (0x7010 + i) 4 == 1 && decide (rd s (0x7010 + i) 1 ≤ rd s (0x7010 + i) 2))).map (fun i =>
    (rd s (0x7010 + i) 1, rd s (0x7010 + i) 2 + 1, rd s (0x7010 + i) 3))

/-- A range without another. -/
def cutRange (l : List (Nat × Nat)) (c : Nat × Nat) : List (Nat × Nat) :=
  l.flatMap (fun r => if c.2 ≤ r.1 ∨ r.2 ≤ c.1 then [r]
    else (if r.1 < c.1 then [(r.1, c.1)] else []) ++ (if c.2 < r.2 then [(c.2, r.2)] else []))

/-- The byte ranges of a class: its range registers, and for class 0 what no register covers. -/
def classSegs (s : State) (k : Nat) : List (Nat × Nat) :=
  let e := enabledRanges s
  let own := (e.filter (fun r => r.2.2 == k)).map (fun r => (r.1, r.2.1))
  if k = 0 then own ++ e.foldl (fun l r => cutRange l (r.1, r.2.1)) [(0, 2 ^ 48)] else own

/-- What of the segments lies in [base, base + len), as offsets from base. -/
def segsIn (segs : List (Nat × Nat)) (base len : Nat) : List (Nat × Nat) :=
  segs.filterMap (fun r =>
    let lo := max r.1 base
    let hi := min r.2 (base + len)
    if lo < hi then some (lo - base, hi - base) else none)

/-- Bytes of the segments in a region. -/
def regionBytes (segs : List (Nat × Nat)) (base len : Nat) : Nat := sumBy (fun r => r.2 - r.1) (segsIn segs base len)

/-- Bytes of a region whose granule number is r modulo n. -/
def granBytes (segs : List (Nat × Nat)) (base len gran n r : Nat) : Nat :=
  sumBy (fun x => gran * countMod (x.1 / gran) (x.2 / gran) n r) (segsIn segs base len)

def dieBase (b : Nat) : Nat := 0x001000000000 + b * 0x100000000
def hbmBase (b : Nat) : Nat := 0x100000000000 + b * 0x2000000000

def localOf (s : State) (segs : List (Nat × Nat)) (t : Nat) : Nat := regionBytes segs (0x001800000000 + t * 0x400000) (localBytes s)
def opsOf (segs : List (Nat × Nat)) (t : Nat) : Nat := regionBytes segs (0x002000000000 + t * 0x100000) 0x100000

/-- Bytes of the shared and die-local pools with home (b, o). -/
def poolOf (s : State) (segs : List (Nat × Nat)) (b o : Nat) : Nat :=
  granBytes segs 0 (sharedBytes s) 4096 (6 * s.lay.p) (6 * o + b) + granBytes segs (dieBase b) (dieBytes s) 256 s.lay.p o

/-- Bytes of HBM lines whose home slice is (b, o), and of those on a channel. -/
def linesOf (s : State) (segs : List (Nat × Nat)) (b o : Nat) : Nat := granBytes segs (hbmBase b) (hbmRange s b) 256 s.lay.p o
def chanOf (s : State) (segs : List (Nat × Nat)) (c : Nat) : Nat :=
  let b := c / 64
  match (dieChans s b).findIdx? (· == c) with
  | some u => granBytes segs (hbmBase b) (hbmRange s b) 256 (dieChans s b).length u
  | none => 0

/-- A class's bytes by where they are homed: in all, by B-die and side for Vault pools and HBM, by half for the
slice-local pools and the operand stores. -/
structure ClassMap where
  segs : List (Nat × Nat)
  total : Nat
  sides : List Nat
  locals : List Nat
  stores : List Nat
deriving DecidableEq, Repr, Inhabited

/-- The side of a B-die on which a slice site stands: columns 16 to 31 or not (R148). -/
def siteSide (site : Nat) : Bool := decide (16 ≤ (siteRC site).2.1)

def classMap (s : State) (k : Nat) : ClassMap :=
  let segs := classSegs s k
  let ts := List.range (tileCount s)
  let side (b : Nat) (j : Bool) : Nat := sumBy (fun o => if siteSide (slice s b o) = j then poolOf s segs b o + linesOf s segs b o else 0)
    (List.range s.lay.p)
  let sides := (List.range 6).flatMap (fun b => [side b false, side b true])
  let byHalf (f : Nat → Nat) : List Nat := (List.range 24).map (fun h => sumBy f (ts.filter (fun t => tileHalf s t == h)))
  let locals := byHalf (localOf s segs)
  let stores := byHalf (opsOf segs)
  { segs := segs, total := sumBy id sides + sumBy id locals + sumBy id stores, sides := sides, locals := locals, stores := stores }

/-! ## Paths (R157, R158) -/

/-- The pairs of the die route from B-die b to B-die c, numbered in the order of R23. -/
def pathPairs (b c : Nat) : List Nat :=
  let lo := min (b % 3) (c % 3)
  (List.range (max (b % 3) (c % 3) - lo)).map (fun i => 2 * (b / 3) + lo + i) ++ (if b / 3 = c / 3 then [] else [4 + c % 3])

/-- The internal cuts between a place on one B-die and a place on another, or on the same: the row part runs through
the facing edges, and where the row cut is crossed is the build's. -/
def pathCuts (b : Nat) (j : Bool) (c : Nat) (i : Bool) : List Nat :=
  if b = c then (if j = i then [] else [b])
  else
    let d := b / 3 * 3 + c % 3
    let east := decide (b % 3 < c % 3)
    let row := if b = d then [] else
      (if j = east then [] else [b]) ++ (if b % 3 + c % 3 = 2 ∧ b % 3 ≠ 1 then [b / 3 * 3 + 1] else [])
    let arrive := if b = d then j else !east
    if d = c then row ++ (if arrive = i then [] else [c])
    else
      let v := Config.rowCutSide b j c i
      row ++ (if arrive = v then [] else [d]) ++ (if v = i then [] else [c])

/-- The B-die of a master, and the side on which it stands (Table 7.1). -/
def masterDie (m : Nat) : Nat :=
  if m < 96 then m / 16 else if m < 144 then (m - 96) / 8 else if m = 144 then 0 else portDie (m - 145)
def masterSide (m : Nat) : Bool := if m < 96 then decide (m / 8 % 2 = 1) else Config.masterSide m

/-- A port that is fused off or whose site was excluded is not present (R321, R343). -/
def portExists (s : State) (p : Nat) : Bool :=
  !bit1 s.bringup.variant (8 + p) && !(s.bringup.units.any (fun u => u.entry == 7 * 2 ^ 28 + p && u.bdie))

/-- Is the Inventory built? -/
def invBuilt (s : State) : Bool := decide (15 ≤ s.bringup.step)

/-- Is a master present (R214)? Before the Inventory is built, every master that is not fused off or excluded. -/
def masterPresent (s : State) (m : Nat) : Bool :=
  if m < 96 then (if invBuilt s then s.lay.halves.contains (m / 4) else cdiePresent s (m / 8))
  else if m < 145 then true
  else if invBuilt s then s.lay.ports.contains (m - 145) else portExists s (m - 145)

/-- The router of the first tile of a tile group, on its B-die; of other masters the manual gives no router. -/
def groupRouter (s : State) (m : Nat) : Option Nat :=
  if m < 96 then ((List.range (tileCount s)).find? (fun t => siteGroup (tileSite s t).1 (tileSite s t).2 == m)).map
    (fun t => siteRouter (tileSite s t).2)
  else none

/-- Bytes homed on the master's own B-die whose route on the mesh of that die crosses the cut, a router being absent there:
those of the slices, and of the tiles of other C-dies. -/
def detourCut (s : State) (c : ClassMap) (m src : Nat) (bad : List Nat) : Nat :=
  let b := masterDie m
  let crossed (n : Nat) : Bool := crosses 32 bad (fun x => decide (16 ≤ x % 32)) src n
  sumBy (fun o => if crossed (siteRouter (slice s b o)) then poolOf s c.segs b o + linesOf s c.segs b o else 0) (List.range s.lay.p) +
    sumBy (fun t =>
      let k := tileSite s t
      if k.1 = b && crossed (siteRouter k.2) then localOf s c.segs t + (if tileHalf s t / 2 = m / 8 then 0 else opsOf c.segs t) else 0)
      (List.range (tileCount s))

/-- Bytes in the operand stores of the master's own C-die whose route on its mesh crosses the seam, a router being absent there. -/
def detourSeam (s : State) (c : ClassMap) (m src : Nat) (bad : List Nat) : Nat :=
  let up (n : Nat) : Nat := n / 32 * 16 + n % 16
  sumBy (fun t =>
    let k := tileSite s t
    if tileHalf s t / 2 = m / 8 && crosses 16 bad (fun x => decide (8 ≤ x / 16)) (up src) (up (siteRouter k.2)) then opsOf c.segs t else 0)
    (List.range (tileCount s))

/-- Bytes of a class whose path from master m crosses a cut, seam or pair, by kind and instance (direction aside): over the
meshes as they are whole, and over the routers that remain on the group's own dies (R180). -/
def crossing (s : State) (c : ClassMap) (m kind inst : Nat) : Nat :=
  let b := masterDie m
  let j := masterSide m
  let bad := if kind = 2 && inst == b then badRouters s false b else if kind = 3 && m < 96 && inst == m / 8 then badRouters s true (m / 8) else []
  let detour := if bad.isEmpty then none else groupRouter s m
  let far (d : Nat) (i : Bool) : Bool :=
    if kind = 2 then (pathCuts b j d i).contains inst && (detour.isNone || d != b)
    else if kind = 4 then (pathPairs b d).contains inst else false
  let pools := sumBy (fun u => if far (u / 2) (u % 2 = 1) then c.sides.getD u 0 else 0) (List.range 12)
  let halves := sumBy (fun h =>
    let hit := far (h / 4) (h / 2 % 2 = 1)
    let sameC := decide (m < 96 ∧ m / 8 = h / 2)
    let store := if sameC then kind == 3 && inst == h / 2 && m / 4 != h && detour.isNone else hit
    (if hit then c.locals.getD h 0 else 0) + (if store then c.stores.getD h 0 else 0)) (List.range 24)
  let own := match detour with
    | some src => if kind = 2 then detourCut s c m src bad else detourSeam s c m src bad
    | none => 0
  pools + halves + own

/-! ## Resources (R222 to R225) -/

/-- A resource id of R223. -/
def resId (kind inst : Nat) : Nat := kind * 2 ^ 24 + inst

/-- Every resource the part has, lowest id first. -/
def resources (s : State) : List (Nat × Nat) :=
  (List.range 6).flatMap (fun b => (List.range (min 512 (s.lay.slices.getD b []).length)).map (fun o => (1, b * 512 + o))) ++
  (List.range 12).map (fun i => (2, i)) ++ (List.range 24).map (fun i => (3, i)) ++ (List.range 14).map (fun i => (4, i)) ++
  ((List.range 384).filter (fun c => s.lay.chans.contains c)).map (fun c => (5, c)) ++
  ((List.range 16).filter (fun p => s.lay.ports.contains p)).map (fun p => (6, p))

/-- Lanes in use of one direction of a pair. -/
def dirLanes (s : State) (k : Nat) : Nat := (SMap.get s.bringup.lanes k []).length

/-- The capacity of a resource in bytes per window (Table 7.3): a retraining channel at its capacity outside the hold. -/
def capacity (s : State) (r : Nat × Nat) : Nat :=
  let perUs := match r.1 with
    | 1 => 69120 * 100
    | 2 => rd s 0x6040 3 * 184320 * 100
    | 3 => rd s 0x6040 4 * 18432 * 100
    | 4 => dirLanes s r.2 * 12600 * 100
    | 5 => 8 * rd s 0x6800 7 * min 60 (100 - rd s 0x6820 1)
    | _ => if (s.lay.ports.contains r.2 && (SMap.get s.ports r.2 Port.reset).phase == .up) then
        22500 * (SMap.get s.ports r.2 Port.reset).width * 100 else 0
  perUs * rd s 0x7000 1 / 100000

/-- Non-zero guarantees: master, class, bytes. -/
def guarantees (s : State) : List (Nat × Nat × Nat) :=
  s.ent.filterMap (fun e =>
    let i := e.1 / 256
    let k := e.1 % 256
    if 0x7100 ≤ i ∧ i ≤ 0x71A0 ∧ 1 ≤ k ∧ k ≤ 16 ∧ 0 < e.2 then some (i - 0x7100, k - 1, e.2) else none)

/-- The share f_r of a resource for master m and class k, as a fraction (R224). -/
def share (s : State) (maps : List ClassMap) (m k : Nat) (r : Nat × Nat) : Nat × Nat :=
  let c := maps.getD k default
  let n := match r.1 with
    | 1 =>
      let b := r.2 / 512
      let o := r.2 % 512
      (if o < s.lay.p then poolOf s c.segs b o else 0) +
        sumBy (fun t => if tileSite s t = (b, slice s b o) then localOf s c.segs t else 0) (List.range (tileCount s))
    | 5 => chanOf s c.segs r.2
    | 6 => 0
    | kind => crossing s c m kind (r.2 / 2)
  if r.1 = 6 then (if m = 145 + r.2 then (1, 1) else (0, 1))
  else if r.1 = 4 ∧ k = rd s 0x7000 3 ∧ (pathPairs (masterDie m) 0).contains (r.2 / 2) then (1, 1)
  else if c.total = 0 then (0, 1) else (n, c.total)

def fadd (a b : Nat × Nat) : Nat × Nat := (a.1 * b.2 + b.1 * a.2, a.2 * b.2)

/-- Σ f_r × G over every guarantee. -/
def load (s : State) (maps : List ClassMap) (gs : List (Nat × Nat × Nat)) (r : Nat × Nat) : Nat × Nat :=
  gs.foldl (fun a g =>
    let f := share s maps g.1 g.2.1 r
    if f.1 = 0 then a else fadd a (f.1 * g.2.2, f.2)) (0, 1)

/-- The maps of the classes that hold guarantees; the others are left empty. -/
def mapsFor (s : State) (gs : List (Nat × Nat × Nat)) : List ClassMap :=
  (List.range 16).map (fun k => if gs.any (fun g => g.2.1 == k) then classMap s k else default)

/-- s_r of a resource, as a fraction; 1 when nothing is recorded. -/
def scaleOf (s : State) (r : Nat × Nat) : Nat × Nat := SMap.get s.scale (resId r.1 r.2) (1, 1)

/-- The effective guarantee E of master m in class k (R225). -/
def effective (s : State) (m k : Nat) : Nat :=
  let s := inForce s
  let g := rd s (0x7100 + m) (k + 1)
  if g = 0 || s.scale.isEmpty then g
  else
    let maps := mapsFor s [(m, k, g)]
    s.scale.foldl (fun e r =>
      let id := (r.1 / 2 ^ 24, r.1 % 2 ^ 24)
      if (share s maps m k id).1 = 0 then e else min e (g * r.2.1 / r.2.2)) g

/-! ## Scaling (R229) -/

/-- A new factor for a resource, with its event where it changes. -/
def setScale (s : State) (r : Nat × Nat) (f : Nat × Nat) : State :=
  let old := scaleOf s r
  if old.1 * f.2 = f.1 * old.2 then s
  else
    let id := resId r.1 r.2
    let s := { s with scale := if f.1 = f.2 then SMap.erase s.scale id else SMap.put s.scale id f }
    let s := setEnt (bump s 0x7310 4) 0x7310 3 s.scale.length
    logEvent s 0x7001 (leBytes 4 id ++ leBytes 4 (f.1 * 65536 / f.2))

/-- The factor that a resource's capacity gives now; 0 for the hold of a retrain. -/
def factor (s : State) (maps : List ClassMap) (gs : List (Nat × Nat × Nat)) (r : Nat × Nat) : Nat × Nat :=
  if r.1 = 5 && (chan s r.2).active.isSome then (0, 1)
  else
    let l := load s maps gs r
    let c := capacity s r * l.2
    if l.1 ≤ c then (1, 1) else (c, l.1)

/-- The factors of some resources computed again. -/
def rescale (s : State) (rs : List (Nat × Nat)) : State :=
  let f := inForce s
  let gs := guarantees f
  let maps := mapsFor f gs
  rs.foldl (fun s r => setScale s r (factor f maps gs r)) s

/-! ## Admission at commit (R214, R217, R224, R227) -/

/-- Has a resource a capacity yet? A pair has none until its lanes are chosen in bring-up. -/
def resKnown (s : State) (r : Nat × Nat) : Bool := r.1 != 4 || invBuilt s || (SMap.find? s.bringup.lanes r.2).isSome

/-- The lowest resource that its guarantees exceed, among those that have a capacity. -/
def overloaded (s : State) : Option (Nat × Nat) :=
  let gs := guarantees s
  if gs.isEmpty then none
  else
    let maps := mapsFor s gs
    (resources s).find? (fun r =>
      let l := load s maps gs r
      resKnown s r && decide (capacity s r * l.2 < l.1))

/-- The GCAP entries (R222). -/
def setGcaps (s : State) : State :=
  let w := rd s 0x7000 1
  let lanes := ((List.range 14).map (dirLanes s)).foldl min 272
  let s := setEnt s 0x7300 1 (69120 * w / 1000)
  let s := setEnt s 0x7300 2 (capacity s (2, 0))
  let s := setEnt s 0x7300 3 (capacity s (3, 0))
  let s := setEnt s 0x7300 4 (lanes * 12600 * w / 1000)
  let s := setEnt s 0x7300 5 (capacity s (5, 0))
  setEnt s 0x7300 6 (180000 * w / 1000)

/-! ## Admission (R219, R220) -/

def regKey (m k : Nat) : Nat := 16 * m + k
def ceilOf (s : State) (m k : Nat) : Nat := rd (inForce s) (0x7100 + m) (0x11 + k)

/-- The class of a request part. -/
def partClass (s : State) (p : PartTarget) : Nat :=
  match p with
  | .vault a _ => classOf s a
  | .hbmBulkRead a _ => classOf s a
  | .hbmNarrowRead a => classOf s a
  | .hbmWrite a _ _ => classOf s a
  | .hbmReduce a _ => classOf s a
  | .hostMem _ => rd (inForce s) 0x7000 3
  | .remote _ => rd (inForce s) 0x7000 4

/-- The charge of a request part (Table 7.2). -/
def charge (p : PartTarget) : Nat :=
  match p with
  | .vault _ n => 64 * n
  | .hbmBulkRead _ n => 256 * n
  | .hbmNarrowRead _ => 96
  | .hbmWrite _ whole parts => 256 * whole + 512 * parts
  | .hbmReduce _ n => 512 * n
  | .hostMem n => (n + 63) / 64 * 64
  | .remote n => (n + 63) / 64 * 64

/-- A request part admitted: marked within the guarantee, counted, charged. -/
def admitPart (s : State) (m : Nat) (p : PartTarget) (forced : Bool) : State :=
  let k := partClass s p
  let u := SMap.get s.regU (regKey m k) 0
  let marked := !forced && decide (u < effective s m k)
  let s := bumpBy s (if marked then 0x7200 else 0x7201) (k + 1) (charge p)
  { s with regU := SMap.set s.regU (regKey m k) (u + charge p) 0 }

def mayAdmit (s : State) (m : Nat) (p : PartTarget) : Bool :=
  decide (SMap.get s.regU (regKey m (partClass s p)) 0 < ceilOf s m (partClass s p))

/-! ## The parts of a request (R216, Table 7.2) -/

/-- A request target taken apart into single words and lines, with the payload of an access outside the package whole. -/
def targetUnits (p : PartTarget) : List PartTarget :=
  match p with
  | .vault a n => (List.range n).map (fun i => .vault (a + 64 * i) 1)
  | .hbmBulkRead a n => (List.range n).map (fun i => .hbmBulkRead (a + 256 * i) 1)
  | .hbmNarrowRead a => [.hbmNarrowRead a]
  | .hbmWrite a w n => (List.range (w + n)).map (fun i => if i < w then .hbmWrite (a + 256 * i) 1 0 else .hbmWrite (a + 256 * i) 0 1)
  | .hbmReduce a n => (List.range n).map (fun i => .hbmReduce (a + 256 * i) 1)
  | .hostMem n => [.hostMem n]
  | .remote n => [.remote n]

/-- The home of a request target: the slice, the operand store, the home slice of a line, host memory, another device. -/
def homeKey (s : State) (p : PartTarget) : Nat × Nat × Nat :=
  let at' (a : Nat) : Nat × Nat × Nat :=
    match homeOf s a with
    | .vault b site _ => (0, b, site)
    | .opstore t _ => (1, t, 0)
    | .hbm b line _ => (2, b, line % s.lay.p)
    | _ => (3, 0, 0)
  match p with
  | .vault a _ => at' a
  | .hbmBulkRead a _ => at' a
  | .hbmNarrowRead a => at' a
  | .hbmWrite a _ _ => at' a
  | .hbmReduce a _ => at' a
  | .hostMem _ => (4, 0, 0)
  | .remote _ => (5, 0, 0)

/-- Two targets of one kind at one home taken as one part. -/
def joinTarget (x y : PartTarget) : Option PartTarget :=
  match x, y with
  | .vault a n, .vault _ m => some (.vault a (n + m))
  | .hbmBulkRead a n, .hbmBulkRead _ m => some (.hbmBulkRead a (n + m))
  | .hbmWrite a w n, .hbmWrite _ w' m => some (.hbmWrite a (w + w') (n + m))
  | .hbmReduce a n, .hbmReduce _ m => some (.hbmReduce a (n + m))
  | .hostMem n, .hostMem m => some (.hostMem (n + m))
  | .remote n, .remote m => some (.remote (n + m))
  | _, _ => none

/-- A unit put into the parts of its request: with the first of its kind that has its home and its class. -/
def joinPart (s : State) (u : PartTarget) : List PartTarget → List PartTarget
  | [] => [u]
  | p :: r =>
    if homeKey s p = homeKey s u && partClass s p == partClass s u then
      match joinTarget p u with
      | some q => q :: r
      | none => p :: joinPart s u r
    else p :: joinPart s u r

/-- A request divided into parts, one for each home and class (R216). -/
def divide (s : State) (us : List PartTarget) : List PartTarget := us.foldl (fun l u => joinPart s u l) []

/-- What was touched, each word, line and payload once. -/
def distinct : List ((Nat × Nat) × Touch) → List ((Nat × Nat) × Touch)
  | [] => []
  | x :: r =>
    match x.2 with
    | .host _ => x :: distinct r
    | .remote _ => x :: distinct r
    | _ => if r.contains x then distinct r else x :: distinct r

/-- The unit that a touch is charged as; a line whose four sectors were written is written whole, and is one unit. -/
def touchUnit (l : List ((Nat × Nat) × Touch)) (x : (Nat × Nat) × Touch) : Option PartTarget :=
  match x.2 with
  | .word _ a => some (.vault a 1)
  | .bulk n => some (.hbmBulkRead (256 * n) 1)
  | .narrow a => some (.hbmNarrowRead a)
  | .sector a =>
    let has := (List.range 4).filter (fun i => l.contains (x.1, .sector (a / 256 * 256 + 64 * i)))
    if has.head? != some (a % 256 / 64) || l.contains (x.1, .part (a / 256)) then none
    else if has.length = 4 then some (.hbmWrite (a / 256 * 256) 1 0)
    else some (.hbmWrite (a / 256 * 256) 0 1)
  | .part n => some (.hbmWrite (256 * n) 0 1)
  | .reduce n => some (.hbmReduce (256 * n) 1)
  | .host n => some (.hostMem n)
  | .remote n => some (.remote n)

/-- The masters, with their tiles, whose accesses are noted. -/
def touchers (l : List ((Nat × Nat) × Touch)) : List (Nat × Nat) :=
  l.foldl (fun k x => if k.contains x.1 then k else k ++ [x.1]) []

/-- The parts of what was touched: master, tile, target. -/
def touchParts (s : State) : List ((Nat × Nat) × PartTarget) :=
  let l := (distinct s.touched).reverse
  (touchers l).flatMap (fun w =>
    let mine := l.filter (fun x => x.1 == w)
    (divide s (mine.filterMap (touchUnit mine))).map (fun p => (w, p)))

/-! ## Requests and their regulators (R220) -/

/-- The engines of a master: `e` of a tile's six, and the tile. -/
def engKey (tile e : Nat) : Nat := 6 * tile + e

/-- Does a part of an engine of a master wait? Later requests of the engine wait behind it. -/
def regQueued (s : State) (m eng : Nat) : Bool := s.regWait.any (fun w => w.m == m && w.eng == eng)

/-- A part of a request that may wait: admitted, or behind what its engine has waiting. -/
def partArrives (s : State) (m eng : Nat) (p : PartTarget) (forced : Bool) : State :=
  if forced || (mayAdmit s m p && !regQueued s m eng) then admitPart s m p forced
  else { s with regWait := s.regWait ++ [{ m := m, eng := eng, target := p, arrived := s.time, req := none }] }

/-- The parts of what was touched arrive at their regulators, in order. -/
def chargeAll (s : State) (e : Nat) (forced : Bool) : State :=
  if s.touched.isEmpty then s
  else (touchParts s).foldl (fun s x => partArrives s x.1.1 (engKey x.1.2 e) x.2 forced) { s with touched := [] }

/-- Parts admitted in order as far as the ceilings allow; what is left. -/
def admitParts (s : State) (m : Nat) (forced : Bool) : List PartTarget → State × List PartTarget
  | [] => (s, [])
  | p :: r => if forced || mayAdmit s m p then admitParts (admitPart s m p forced) m forced r else (s, p :: r)

/-- The parts of a request: of which engine of which master, and the targets. One request comes from one engine. -/
structure ReqParts where
  m : Nat
  eng : Nat
  parts : List PartTarget
deriving DecidableEq, Repr, Inhabited

/-- The parts of what was touched, by engine `e` of its tile. -/
def requestParts (s : State) (e : Nat) : ReqParts :=
  match touchParts s with
  | [] => { m := 0xFFFF, eng := 0, parts := [] }
  | x :: r => { m := x.1.1, eng := engKey x.1.2 e, parts := (x :: r).map (·.2) }

/-- The state with no line on its way and no channel held: the accesses of a request are the same there, and none of them
waits. -/
def withinReach (s : State) : State := { s with fetches := [], chans := s.chans.map (fun c => (c.1, { c.2 with active := none })) }

/-- Parts that wait at their regulator, with the request that goes on when they are all admitted. -/
def waitParts (s : State) (m eng : Nat) (h : HeldReq) : List PartTarget → State
  | [] => s
  | p :: r => { s with regWait := s.regWait ++ [{ m := m, eng := eng, target := p, rest := r, arrived := s.time, req := some h }] }

def paidKey (m eng : Nat) : Nat := m * 2 ^ 24 + eng

/-- Parts admitted for an engine that waits for a line: they are not admitted again. -/
def setPaid (s : State) (k : ReqParts) (l : List PartTarget) : State :=
  { s with paid := SMap.set s.paid (paidKey k.m k.eng) l [] }

/-- The parts of an engine's request that are still to be admitted. -/
def unpaid (s : State) (k : ReqParts) : List PartTarget := (SMap.get s.paid (paidKey k.m k.eng) []).foldl List.erase k.parts

/-- The accesses of an engine at their regulator: `u` is the state after them, `far` the same where none waits for a line. All
of them are admitted before the first is made; until then, and while one waits for a line, the engine waits (`none`), with
nothing of its command done. -/
def admitWork (s u far : State) (e : Nat) : Option State × State :=
  let k := requestParts (if u.stalled.isSome then far else u) e
  if k.parts.isEmpty then (if u.stalled.isSome then none else some { u with touched := [] }, s)
  else if regQueued s k.m k.eng then (none, s)
  else
    match admitParts s k.m false (unpaid s k) with
    | (v, []) =>
      if u.stalled.isSome then (none, setPaid v k k.parts)
      else (some { (admitParts u k.m false (unpaid s k)).1 with touched := [], paid := SMap.erase u.paid (paidKey k.m k.eng) }, s)
    | (v, l) => (none, waitParts v k.m k.eng (.engine k.parts) l)

/-- What is done whole, or not at all: it waits while a line that it needs is out of reach (R190, R203), or while its
master's regulator does not admit all of it (R220). -/
def whole (s : State) (e : Nat) (f : State → State) : State :=
  let u := f s
  match admitWork s u (if u.stalled.isSome then f (withinReach s) else u) e with
  | (some v, _) => v
  | (none, v) => v

/-- A request that waits for a line holds back what a home would merge with earlier reads of its words (R165). -/
def holdLine (s far : State) (b line : Nat) (h : HeldReq) : State :=
  holdReq { s with recent := s.recent.filter (fun r => far.recent.contains r) } b line h

/-- The same for a request from outside and for a transfer: it is held, in arrival order. `paid` where its parts have been
admitted before (R220). -/
def wholeOr (s : State) (paid : Bool) (h : HeldReq) (f : State → State) : State :=
  let u := f s
  let far := if u.stalled.isSome then f (withinReach s) else u
  let k := requestParts far 0
  let go (s v : State) : State :=
    match u.stalled with
    | some (b, line) => holdLine s far b line h
    | none => { v with touched := [] }
  if paid || k.parts.isEmpty then go s u
  else if regQueued s k.m k.eng then waitParts s k.m k.eng h k.parts
  else
    match admitParts s k.m false k.parts with
    | (v, []) => go v (admitParts u k.m false k.parts).1
    | (v, l) => waitParts v k.m k.eng h l

/-- Every request that has arrived and waits. -/
def waitingReqs (s : State) : List HeldReq :=
  s.fetches.flatMap (·.held) ++ s.chans.flatMap (·.2.held) ++ s.regWait.filterMap (·.req) ++ s.behind

/-- Does a request wait already? -/
def isHeld (s : State) (h : HeldReq) : Bool := (waitingReqs s).contains h

end Sys2Proof.Machine
end

