-- ==== Sys2Proof/Machine/FabricOps.lean ====
section
/-! DEFINITION. What the part does to put packets on the fabric: header fields, routing, holding, the ordered streams
and its own requests (The Fragor fabric). -/

namespace Sys2Proof.Machine

/-! ## Header fields (Table 10.4) -/

def pkOp (p : Packet) : Nat := bits p.hdr.toNat 223 220
def pkAdaptive (p : Packet) : Bool := bit1 p.hdr.toNat 219
def pkVc (p : Packet) : Nat := bits p.hdr.toNat 218 217
def pkSrt (p : Packet) : Bool := bit1 p.hdr.toNat 216
def pkSync (p : Packet) : Bool := bit1 p.hdr.toNat 215
def pkDst (p : Packet) : Nat := bits p.hdr.toNat 214 200
def pkSrc (p : Packet) : Nat := bits p.hdr.toNat 199 185
def pkSeq (p : Packet) : Nat := bits p.hdr.toNat 184 169
def pkDomain (p : Packet) : Nat := bits p.hdr.toNat 168 153
def pkAge (p : Packet) : Nat := bits p.hdr.toNat 152 137
def pkHops (p : Packet) : Nat := bits p.hdr.toNat 136 131
def pkLen (p : Packet) : Nat := bits p.hdr.toNat 130 122
def pkAddr (p : Packet) : Nat := bits p.hdr.toNat 121 74
def pkTag (p : Packet) : Nat := bits p.hdr.toNat 73 58
def pkArgs (p : Packet) : Nat := bits p.hdr.toNat 57 0

/-- A header with the bits [hi:lo] replaced. -/
def setBits (w hi lo v : Nat) : Nat := w - bits w hi lo * 2 ^ lo + (v % 2 ^ (hi + 1 - lo)) * 2 ^ lo

/-- The header's CRC: over bytes 0–27 with VC, AGE and HOPLEFT taken as zero. -/
def hcrc (w : Nat) : Nat := (crc32 ((leBytes 32 (setBits (setBits (setBits w 218 217 0) 152 137 0) 136 131 0)).take 28)).toNat

def hcrcOk (p : Packet) : Bool := bits p.hdr.toNat 255 224 == hcrc p.hdr.toNat

/-- A header formed with its CRC and the initial HOPLEFT. -/
def mkHdr (op : Nat) (adaptive sync : Bool) (dst src seq domain len addr tag args : Nat) : BitVec 256 :=
  let w := op * 2 ^ 220 + (if adaptive then 2 ^ 219 else 0) + (if sync then 2 ^ 215 else 0) + dst % 2 ^ 15 * 2 ^ 200 +
    src % 2 ^ 15 * 2 ^ 185 + seq % 2 ^ 16 * 2 ^ 169 + domain % 2 ^ 16 * 2 ^ 153 + 63 * 2 ^ 131 + len % 2 ^ 9 * 2 ^ 122 +
    addr % 2 ^ 48 * 2 ^ 74 + tag % 2 ^ 16 * 2 ^ 58 + args % 2 ^ 58
  BitVec.ofNat 256 (w + hcrc w * 2 ^ 224)

def withVc (p : Packet) (vc : Nat) : Packet := { p with hdr := BitVec.ofNat 256 (setBits p.hdr.toNat 218 217 vc) }

def pkIsRequest (p : Packet) : Bool := pkOp p < 5

/-! ## Ports and routes (R302 to R304) -/

def port (s : State) (p : Nat) : Port := SMap.get s.ports p Port.reset
def setPort (s : State) (p : Nat) (v : Port) : State := { s with ports := SMap.set s.ports p v Port.reset }
def portUp (s : State) (p : Nat) : Bool := (port s p).phase == .up && s.lay.ports.contains p

/-- The part's own fabric address, if one is assigned. -/
def ownAddr (s : State) : Option Nat := if rd s 0x8010 2 = 1 then some (rd s 0x8010 1 % 2 ^ 15) else none

/-- The routing entry of a destination (R302). -/
def routeEntry (s : State) (dst : Nat) : Nat :=
  let own := rd s 0x8010 1
  if bits dst 14 8 != bits own 14 8 then rd s 0x8020 (bits dst 14 8 + 1)
  else if dst % 256 < 128 then rd s 0x8021 (dst % 256 + 1)
  else rd s 0x8022 (dst % 256 - 127)

def entValid (e : Nat) : Bool := bit1 e 31
def entVc (e : Nat) : Nat := bits e 30 29
/-- The ports an entry names in order: PRI and the alternates in use (Table 10.6). -/
def entPorts (e : Nat) : List Nat := [bits e 3 0, bits e 7 4, bits e 11 8, bits e 15 12].take (bits e 28 27 + 1)

/-- The egress of a packet by an entry, if its route can be taken (R303). -/
def egress (s : State) (e : Nat) (adaptive : Bool) (vc : Nat) : Option Nat :=
  if adaptive then
    ((entPorts e).filter (portUp s)).foldl (fun m p =>
      match m with
      | none => some p
      | some b => if (port s p).credits.getD vc 0 > (port s b).credits.getD vc 0 then some p else some b) none
  else if portUp s (bits e 3 0) then some (bits e 3 0) else none

/-- AGE raised by the time a packet spent in the part: whole microseconds, at least 1 (R311). -/
def aged (pk : Packet) (us : Nat) : Packet :=
  { pk with hdr := BitVec.ofNat 256 (setBits pk.hdr.toNat 152 137 (min 65535 (pkAge pk + max 1 us))) }

/-- Does AGE reach the lifetime? -/
def tooOld (s : State) (pk : Packet) : Bool := decide (rd s 0x8030 3 ≤ pkAge pk)

/-! ## The link layer (R295, R296, R304) -/

/-- Bytes of a packet on the link, its padding with them (R295). -/
def pkBytes (pk : Packet) : Nat := (32 + pk.payload.length + 3) / 4 * 4

/-- Units of 64 bytes that a packet takes of a receive buffer. -/
def pkUnits (pk : Packet) : Nat := (pkBytes pk + 63) / 64

/-- A packet as it stands on the link. -/
def wireBytes (pk : Packet) : List Byte :=
  let d := leBytes 32 pk.hdr.toNat ++ pk.payload
  d ++ List.replicate (pkBytes pk - d.length) 0#8

/-- Flits for packet bytes, the first with its start, the others with none. -/
def newFlits : Nat → Nat → Nat → List Byte → List TxFlit
  | 0, _, _, _ => []
  | k + 1, seq, start, d =>
    if d.isEmpty then []
    else { seq := seq % 4096, start := start, data := d.take 244 } :: newFlits k (seq + 1) 63 (d.drop 244)

/-- The bytes of a packet put into flits (R295): the last flit fills before a new one opens. With the next sequence number. -/
def fillFlits (l : List TxFlit) (seq : Nat) (d : List Byte) : List TxFlit × Nat :=
  match l.getLast? with
  | some f =>
    let n := f.data.length
    if n < 244 then
      let x := newFlits (d.length + 1) seq 63 (d.drop (244 - n))
      (l.dropLast ++ [{ f with start := if f.start = 63 then n / 4 else f.start, data := f.data ++ d.take (244 - n) }] ++ x,
        (seq + x.length) % 4096)
    else
      let x := newFlits (d.length + 1) seq 0 d
      (l ++ x, (seq + x.length) % 4096)
  | none =>
    let x := newFlits (d.length + 1) seq 0 d
    (x, (seq + x.length) % 4096)

/-- The last data flit received in sequence on a port. -/
def ackSeq (v : Port) : Nat := (v.rxSeq + 4095) % 4096

/-- A flit formed (Table 10.3): its CRC is over bytes 0–251. -/
def mkFlit (v : Port) (ftype seq start : Nat) (data : List Byte) (nak : Bool) (cvc credits : Nat) : BitVec 2048 :=
  let w := leNat (data.take 244) * 2 ^ 64 + seq % 4096 * 2 ^ 52 + ackSeq v * 2 ^ 40 + (if nak then 2 ^ 39 else 0) + cvc % 4 * 2 ^ 37 +
    credits % 1024 * 2 ^ 27 + ftype * 2 ^ 24 + start % 64 * 2 ^ 18
  BitVec.ofNat 2048 (w + (crc32 (leBytes 252 w)).toNat * 2 ^ 2016)

/-- An idle flit: what it says is for the link. -/
def idleFlit (v : Port) (nak : Bool) (cvc credits : Nat) : BitVec 2048 := mkFlit v 0 0 0 [] nak cvc credits

def sendIdle (s : State) (p : Nat) (nak : Bool) (cvc credits : Nat) : State :=
  { s with out := .flit p (idleFlit (port s p) nak cvc credits) :: s.out }

/-- A data flit sent, or sent again. -/
def sendFlit (s : State) (p : Nat) (f : TxFlit) : State :=
  { s with out := .flit p (mkFlit (port s p) 1 f.seq f.start f.data false 0 0) :: s.out }

def TxFlit.full (f : TxFlit) : Bool := decide (244 ≤ f.data.length)

/-- The buffer space of a packet that has left this part given back to the neighbour it came from (R304). -/
def giveCredit (s : State) (inp : Nat) (pk : Packet) : State :=
  if inp < 16 && portUp s inp then sendIdle s inp false (pkVc pk) (pkUnits pk) else s

/-- May a packet be sent on a port now: no packet of its virtual channel is queued before it, the neighbour has buffer space
for it, and the 2,048 flits of the replay buffer leave room (R296, R304)? -/
def canSend (s : State) (p vc : Nat) (pk : Packet) : Bool :=
  let v := port s p
  v.txWait.all (fun w => w.vc != vc) && decide (pkUnits pk ≤ v.credits.getD vc 0) &&
    decide ((fillFlits v.replay v.txSeq (wireBytes pk)).1.length ≤ 2048)

/-- A packet sent on a port after `us` in the part: its VC and AGE are written, its buffer units leave the credits, and the
flits that it fills leave. When a flit that is filled in part leaves is in no rule: DESIGN CHOICE, once later packets have
filled it (R295, log 24). -/
def sendNow (s : State) (p vc us inp : Nat) (pk : Packet) : State :=
  let s := giveCredit s inp pk
  let q := { withVc (aged pk us) vc with upset := [] }
  let v := port s p
  let f := fillFlits v.replay v.txSeq (wireBytes q)
  let s := setPort s p { v with replay := f.1, txSeq := f.2, credits := v.credits.set vc (v.credits.getD vc 0 - pkUnits pk) }
  (f.1.drop (v.replay.filter (·.full)).length).foldl (fun s x => if x.full then sendFlit s p x else s) { s with out := .packet p q :: s.out }

/-- The µs that a packet has spent in the part, with what it has waited for since, rounded up once (R311). -/
def waitedUs (s : State) (us since : Nat) : Nat := us + (s.time - since + 999) / 1000

/-- A packet that waits put on a port: sent, or queued there. -/
def emitWait (s : State) (p : Nat) (w : TxWait) : State :=
  if canSend s p w.vc w.pk then sendNow s p w.vc (waitedUs s w.us w.since) w.inp w.pk
  else
    let v := port s p
    setPort s p { v with txWait := v.txWait ++ [w] }

/-- A packet put on a port: sent, or queued there. -/
def emit (s : State) (p vc us inp : Nat) (pk : Packet) : State :=
  if canSend s p vc pk then sendNow s p vc us inp pk
  else
    let v := port s p
    setPort s p { v with txWait := v.txWait ++ [{ vc := vc, inp := inp, us := us, pk := pk, since := s.time }] }

/-- A packet held at its egress (R307). -/
def holdPacket (s : State) (p vc us inp : Nat) (pk : Packet) (since : Nat) : State :=
  { s with fab := { s.fab with
      held := s.fab.held ++ [{ n := s.fab.nextHeld, port := p, vc := vc, inp := inp, us := us, pk := pk, since := since }]
      nextHeld := s.fab.nextHeld + 1 } }

/-- A packet that was queued at a port held there. -/
def holdWait (s : State) (p : Nat) (w : TxWait) : State :=
  { s with fab := { s.fab with
      held := s.fab.held ++ [{ n := s.fab.nextHeld, port := p, vc := w.vc, inp := w.inp, us := w.us, pk := w.pk, since := w.since,
                               first := w.first.getD s.time }]
      nextHeld := s.fab.nextHeld + 1 } }

/-- Is a packet held on this egress and virtual channel already? Then order makes the next one wait too. -/
def heldAt (s : State) (p vc : Nat) : Bool := s.fab.held.any (fun h => h.port == p && h.vc == vc)

/-- What became of a packet put onto its route. -/
inductive Routed where
  | sent (s : State)
  | noRoute
deriving DecidableEq, Repr, Inhabited

/-- A packet from port `inp` routed by the tables after `us` in the part (R302 to R304, R307); one for the part's own address
stays inside, on the port numbered 16. -/
def routePacket (s : State) (us inp : Nat) (pk : Packet) : Routed :=
  if ownAddr s = some (pkDst pk) then .sent { s with out := .packet 16 pk :: s.out }
  else
  let e := routeEntry s (pkDst pk)
  if !entValid e then .noRoute
  else
    let vc := if pkIsRequest pk then entVc e else entVc e + 2
    match egress s e (pkAdaptive pk) vc with
    | some p => if heldAt s p vc then .sent (holdPacket s p vc us inp pk s.time) else .sent (emit s p vc us inp pk)
    | none => .sent (holdPacket s (bits e 3 0) vc us inp pk s.time)

/-- A response formed for a request: adaptive class, DOMAIN and TAG echoed. -/
def respond (s : State) (rq : Packet) (op status : Nat) (data : List Byte) : State :=
  let own := (ownAddr s).getD 0
  let pk : Packet := { hdr := mkHdr op true false (pkSrc rq) own 0 (pkDomain rq) data.length 0 (pkTag rq)
                              (status * 2 ^ 50), payload := data }
  match routePacket s 1 16 pk with
  | .sent s => s
  | .noRoute => bump s 0x8050 8

/-- The response that answers a request with a status and no data (R300, Table 10.7). -/
def answer (s : State) (rq : Packet) (status : Nat) : State :=
  respond s rq (if pkOp rq = 1 then 9 else 8) status []

/-! ## Requests of this part (R306, R309, R310, R314 to R316) -/

/-- The action a failed request has on its requester (Table 10.7). -/
def requestFailed (s : State) (r : FReq) (status : Nat) : State :=
  match status with
  | 1 => jobFault s r.job 0x31 r.t r.word
  | 2 => jobFault s r.job 0x25 r.t r.word
  | 3 => jobFault s r.job 0x30 r.t r.word
  | st => classB (logEvent s 0x8003 (leBytes 1 st ++ leBytes 2 r.dst)) 0x43

/-- A tag that no outstanding request uses. -/
def freeTag (s : State) : Nat :=
  ((List.range 65536).find? (fun i => (SMap.find? s.fab.reqs ((s.fab.nextTag + i) % 65536)).isNone)).elim s.fab.nextTag
    (fun i => (s.fab.nextTag + i) % 65536)

/-- A request put on the fabric now: an ordered one takes the next SEQ of its destination (R309). -/
def launch (s : State) (r : FReq) : State :=
  let tag := freeTag s
  let own := (ownAddr s).getD 0
  let st := SMap.get s.fab.tx r.dst (0, true)
  let w := r.pk.hdr.toNat
  let w := setBits (setBits w 73 58 tag) 199 185 own
  let w := if r.ordered then setBits (setBits w 184 169 st.1) 215 215 (if st.2 then 1 else 0) else w
  let w := setBits w 255 224 (hcrc w)
  let pk : Packet := { r.pk with hdr := BitVec.ofNat 256 w }
  let r := { r with pk := pk, sentAt := s.time, resync := false }
  let fab := { s.fab with
    nextTag := (tag + 1) % 65536
    reqs := SMap.put s.fab.reqs tag r
    tx := if r.ordered then SMap.put s.fab.tx r.dst ((st.1 + 1) % 65536, false) else s.fab.tx }
  let s := { s with fab := fab }
  match routePacket s 1 16 pk with
  | .sent s => s
  | .noRoute => requestFailed (bump { s with fab := { s.fab with reqs := SMap.erase s.fab.reqs tag } } 0x8050 8) r 5

/-- Is an ordered request of this part to this destination still unanswered? -/
def orderedOpen (s : State) (dst : Nat) : Bool :=
  s.fab.reqs.any (fun r => r.2.ordered && r.2.dst == dst && !r.2.resync)

/-- Must a new ordered request to this destination wait (R306, R310)? -/
def streamHeld (s : State) (dst : Nat) : Bool :=
  s.fab.holdDst.contains dst || s.fab.reqs.any (fun r => r.2.resync && r.2.dst == dst && !r.2.abandoned) ||
    s.fab.waitReqs.any (fun r => r.ordered && r.dst == dst)

/-- The units of a receive buffer that the response to a request takes. -/
def respUnits (r : FReq) : Nat := if pkOp r.pk = 1 then (32 + pkLen r.pk + 63) / 64 else 1

/-- Is there buffer space for the response (R304)? By which port it will come is not known: DESIGN CHOICE, the space of one
buffer of 64 KiB is what all outstanding requests may take together (log 23). -/
def roomFor (s : State) (r : FReq) : Bool := decide (sumBy (fun x => respUnits x.2) s.fab.reqs + respUnits r ≤ 1024)

/-- May a request be sent now? -/
def mayLaunch (s : State) (r : FReq) : Bool := roomFor s r && !(r.ordered && streamHeld s r.dst)

/-- A request of a job: sent, or kept back while its stream is held or its response has no space. -/
def sendRequest (s : State) (r : FReq) : State :=
  if mayLaunch s r then launch s r else { s with fab := { s.fab with waitReqs := s.fab.waitReqs ++ [r] } }

/-- The requests kept back go where nothing holds them any more, in order. -/
def drainWaiting (s : State) : State :=
  s.fab.waitReqs.foldl sendRequest { s with fab := { s.fab with waitReqs := [] } }

/-- A destination takes new ordered requests again. -/
def releaseStream (s : State) (dst : Nat) : State :=
  drainWaiting { s with fab := { s.fab with
      holdDst := s.fab.holdDst.filter (· != dst)
      badDst := s.fab.badDst.filter (· != dst) } }

/-- How long ago, in sequence numbers, a request of a stream was sent. -/
def seqBack (nxt : Nat) (r : FReq) : Nat := (nxt + 65536 - pkSeq r.pk) % 65536

/-- A request put into its place by its sequence number, the oldest first. -/
def insertBySeq (nxt : Nat) (r : Nat × FReq) : List (Nat × FReq) → List (Nat × FReq)
  | [] => [r]
  | x :: l => if seqBack nxt x.2 < seqBack nxt r.2 then r :: x :: l else x :: insertBySeq nxt r l

/-- The requests answered RESYNC go out again in their order with their SEQ values, the first with SYNC (R310). -/
def resend (s : State) (dst : Nat) : State :=
  let again := s.fab.reqs.filter (fun r => r.2.resync && r.2.dst == dst && !r.2.abandoned)
  let nxt := (SMap.get s.fab.tx dst (0, true)).1
  let mine := again.foldl (fun l r => insertBySeq nxt r l) []
  let s := mine.zipIdx.foldl (fun s m =>
    let w := setBits m.1.2.pk.hdr.toNat 215 215 (if m.2 = 0 then 1 else 0)
    let w := setBits w 255 224 (hcrc w)
    let pk : Packet := { m.1.2.pk with hdr := BitVec.ofNat 256 w }
    let r := { m.1.2 with pk := pk, resync := false, sentAt := s.time }
    let s := { s with fab := { s.fab with reqs := SMap.put s.fab.reqs m.1.1 r } }
    match routePacket s 1 16 pk with
    | .sent s => s
    | .noRoute => requestFailed (bump { s with fab := { s.fab with reqs := SMap.erase s.fab.reqs m.1.1 } } 0x8050 8) m.1.2 5) s
  releaseStream s dst

/-- A signal to a tile of another device (R107, R130, R277): false where the part has no fabric address (R319). -/
def remoteSignal (s : State) (job t word dst ltile flag n : Nat) (x : Option Nat) : Bool × State :=
  if (ownAddr s).isNone then (false, s)
  else
    let dom := match SMap.find? s.jobs job with
      | some jb => jDomain jb.desc
      | none => 0
    let pk : Packet := { hdr := mkHdr 3 false false dst 0 0 dom 0 0 0 (ltile * 2 ^ 42 + flag * 2 ^ 36 + n * 2 ^ 20),
                         payload := [] }
    (true, sendRequest s { job := job, x := x, t := t, word := word, dst := dst, pk := pk, sentAt := 0, ordered := true,
                           resync := false, abandoned := false, pieces := [], mover := none })

/-! ## Source routes (R320) -/

/-- The route block of a source-routed packet. -/
def routeBlock (pk : Packet) : Nat := leNat (pk.payload.take 32)
def rbHops (w : Nat) : Nat := bits w 7 0
def rbIdx (w : Nat) : Nat := bits w 15 8
def rbPort (w k : Nat) : Nat := bits w (4 * k + 19) (4 * k + 16)

def withBlock (pk : Packet) (w : Nat) : Packet := { pk with payload := leBytes 32 w ++ pk.payload.drop 32 }

/-- A source-routed packet that has arrived on a port, with the port written in its place of the route. -/
def stamped (pk : Packet) (p : Nat) : Packet :=
  let w := routeBlock pk
  let i := rbIdx w
  withBlock pk (setBits w (4 * (i - 1) + 19) (4 * (i - 1) + 16) p)

/-- A source-routed packet sent on. Its virtual channel is not in the manual but its kind. -/
def sendSourced (s : State) (us inp : Nat) (pk : Packet) (q i : Nat) : State :=
  let f := drawFree s
  let vc := f.1 % 2 + (if pkIsRequest pk then 0 else 2)
  emit f.2 q vc us inp (withBlock pk (setBits (routeBlock pk) 15 8 i))

/-! ## Management packets and notifications (R308, R323) -/

/-- `n` free bytes. -/
def freeBytes (s : State) : Nat → List Byte × State
  | 0 => ([], s)
  | n + 1 =>
    let r := freeBytes s n
    let f := drawFree r.2
    (r.1 ++ leBytes 1 f.1, f.2)

def withCrc (d : List Byte) : List Byte := d ++ leBytes 4 (crc32 d).toNat

/-- The set fabric-manager addresses. -/
def managers (s : State) : List Nat :=
  ([rd s 0x8010 3, rd s 0x8010 4].filter (fun a => bit1 a 15)).map (· % 2 ^ 15)

/-- The notification of a change at a port: what it says is not in the manual, but its packet is. -/
def notify (s : State) (p : Nat) : State :=
  let due := match (port s p).notified with
    | some t => decide (t + 1000000 ≤ s.time)
    | none => true
  if !due || (ownAddr s).isNone || (managers s).isEmpty then s
  else
    let s := setPort s p { port s p with notified := some s.time }
    (managers s).foldl (fun s d =>
      let l := drawFree s
      let m := freeBytes l.2 (1 + l.1 % 252)
      let pay := withCrc m.1
      let pk : Packet := { hdr := mkHdr 4 true false d ((ownAddr m.2).getD 0) 0 0 pay.length 0 (freeTag m.2) 0, payload := pay }
      match routePacket m.2 1 16 pk with
      | .sent s => s
      | .noRoute => m.2) s

/-- A change of a port's width, 0 for dark: event, notification, and the guarantees of its ingress (R229, R323). -/
def portChanged (s : State) (p : Nat) : State :=
  let s := rescale (logEvent s 0x8001 (leBytes 1 p ++ leBytes 1 (port s p).width)) [(6, p)]
  notify s p

/-- The ports go dark, one by one (R323, R324). -/
def portsDark (s : State) : State :=
  s.lay.ports.foldl (fun s p =>
    let was := portUp s p
    let s := setPort s p { port s p with phase := .dark, width := 0, retryAt := none, resume := false }
    if was then portChanged s p else s) s

/-- The dark ports of the part begin to train. -/
def portsTrain (s : State) : State :=
  s.lay.ports.foldl (fun s p =>
    if (port s p).phase == .dark then setPort s p { port s p with phase := .training, retryAt := none } else s) s

/-! ## Management requests that are not served (R300, R301, R311) -/

/-- The route of a response over the first `n` hops of a route, in reverse (R320). -/
def backBlock (w n : Nat) : Nat := n + 2 ^ 8 + sumBy (fun k => rbPort w (n - 1 - k) * 2 ^ (4 * k + 16)) (List.range n)

/-- The header of the MGMT_RESP to a request. -/
def respHdr (s : State) (rq : Packet) (len : Nat) : BitVec 256 :=
  mkHdr 5 true false (pkSrc rq) ((ownAddr s).getD 0) 0 (pkDomain rq) len 0 (pkTag rq) 0

/-- A MGMT_RESP with a message, to a request that came by port `p`: by the tables, or back along its route. -/
def respondMgmt (s : State) (p : Nat) (rq : Packet) (msg : List Byte) : State :=
  if pkSrt rq then
    let back := backBlock (routeBlock (stamped rq p)) (rbIdx (routeBlock rq))
    let pay := leBytes 32 back ++ withCrc msg
    let w := setBits (respHdr s rq pay.length).toNat 216 216 1
    let pk : Packet := { hdr := BitVec.ofNat 256 (setBits w 255 224 (hcrc w)), payload := pay }
    if portUp s (rbPort back 0) then sendSourced s 1 16 pk (rbPort back 0) 1 else bump s 0x8050 8
  else
    let pay := withCrc msg
    match routePacket s 1 16 { hdr := respHdr s rq pay.length, payload := pay } with
    | .sent s => s
    | .noRoute => bump s 0x8050 8

/-- The MGMT_RESP to a request that has no route or has expired: what its message says of that is not in the manual (log 23). -/
def refuseMgmt (s : State) (p : Nat) (rq : Packet) : State :=
  let m := freeBytes s 16
  respondMgmt m.2 p rq m.1

end Sys2Proof.Machine
end

