-- ==== Sys2Proof/Machine/Flags.lean ====
section
/-! DEFINITION. The flags of tiles, what blocks and wakes a sequencer, barriers, and quiet tiles and loans (Flags,
signals and barriers). -/

namespace Sys2Proof.Machine

/-! ## Flags -/

/-- The count of a flag (R113). -/
def flagCount (s : State) (t f : Nat) : Nat := SMap.get (tile s t).flags f 0
def setFlag (s : State) (t f n : Nat) : State :=
  let v := tile s t
  setTile s t { v with flags := SMap.set v.flags f n 0 }

/-- The running job that holds a tile. -/
def jobOf (s : State) (t : Nat) : Option (Nat × Job) :=
  match (tile s t).job with
  | none => none
  | some j => (SMap.find? s.jobs j).map (fun jb => (j, jb))

def qOf (v : Tile) (e : Engine) : List QCmd :=
  match e with
  | .array => v.qArray
  | .selector => v.qSel
  | .vector => v.qVec
  | .move => v.qMove

def withQ (v : Tile) (e : Engine) (q : List QCmd) : Tile :=
  match e with
  | .array => { v with qArray := q }
  | .selector => { v with qSel := q }
  | .vector => { v with qVec := q }
  | .move => { v with qMove := q }

/-- No engine of the tile has a command (R137). -/
def enginesIdle (v : Tile) : Bool := v.qArray.isEmpty && v.qSel.isEmpty && v.qVec.isEmpty && v.qMove.isEmpty

/-- The engines that a FENCE mask names have no command (R109). -/
def maskIdle (v : Tile) (m : Nat) : Bool :=
  (!bit1 m 0 || v.qArray.isEmpty) && (!bit1 m 1 || v.qSel.isEmpty) && (!bit1 m 2 || v.qVec.isEmpty) &&
    (!bit1 m 3 || v.qMove.isEmpty)

/-! ## Quiet tiles and loans (R139 to R145) -/

/-- A tile is armed when its sequencer is blocked on a wait and its engines have no command (R137), or it lies
outside the tile set of every running job; in DISCARDING none runs. -/
def canBeQuiet (s : State) (t : Nat) : Bool :=
  let v := tile s t
  !(match jobOf s t with
    | some (_, jb) => jb.running && s.main != .discarding
    | none => false) ||
    ((match v.block with
      | some (.wait _ _) => true
      | some (.waitp _ _) => true
      | some .barGather => true
      | some .barRelease => true
      | _ => false) && enginesIdle v)

def isQuiet (s : State) (t : Nat) : Bool := (SMap.get s.quiet t (0, false)).2

def halfTiles (s : State) (h : Nat) : List Nat := (List.range (tileCount s)).filter (fun t => tileHalf s t == h)

/-- Tiles of a half that are not quiet. -/
def notQuiet (s : State) (h : Nat) : Nat := ((halfTiles s h).filter (fun t => !isQuiet s t)).length

/-- A loan entry in force on a B-die: as its last decision found it (R146). -/
def loanVal (s : State) (b sub : Nat) : Nat :=
  match SMap.find? s.loanVals b with
  | some l => l.getD (sub - 1) 0
  | none => rd s 0x5020 sub

/-- Is a half eligible to lend (R140)? -/
def mayLend (s : State) (h : Nat) : Bool :=
  decide (loanVal s (h / 4) 1 = 1) && decide (notQuiet s h ≤ loanVal s (h / 4) 3)

/-- The units a half has lent and holds, but for those a reclaim takes back. -/
def lentBy (s : State) (h : Nat) : List Loan := s.loans.filter (fun l => l.lender == h)
def heldBy (s : State) (h : Nat) : List Loan := s.loans.filter (fun l => l.borrower == h)

/-- The borrowers of some units with how many each holds. -/
def owedOf (ls : List Loan) : List (Nat × Nat) :=
  ((List.range 24).map (fun h => (h, (ls.filter (fun l => l.borrower == h)).length))).filter (fun p => decide (0 < p.2))

/-- A reclaim of some units of a lender opened (Table 4.6). -/
def openReclaim (s : State) (lender : Nat) (ls : List Loan) : State :=
  if ls.isEmpty then s
  else
    let owed := owedOf ls
    let old := (s.reclaims.filter (fun r => r.lender == lender)).flatMap (·.owed)
    let fresh := owed.filterMap (fun p =>
      let due : Nat := (old.filter (fun o => o.1 == p.1)).foldl (fun n o => n + o.2) 0
      if p.2 > due then some (p.1, p.2 - due) else none)
    if fresh.isEmpty then s
    else bump { s with reclaims := s.reclaims ++ [{ lender := lender, opened := s.time, owed := fresh }] } 0x5030 3

/-- A lender that stops meeting the lending condition reclaims every unit it has lent (R142). -/
def checkLender (s : State) (h : Nat) : State :=
  if mayLend s h then s else openReclaim s h (lentBy s h)

/-- A tile stops being quiet (R139). -/
def unquiet (s : State) (t : Nat) : State :=
  let s := { s with quiet := SMap.erase s.quiet t }
  checkLender s (tileHalf s t)

/-- A tile that is armed or outside every tile set counts its quiet time from now, unless it does already. -/
def noteArmed (s : State) (t : Nat) : State :=
  if canBeQuiet s t && (SMap.find? s.quiet t).isNone then { s with quiet := SMap.put s.quiet t (s.time, false) }
  else s

/-! ## Signals and waits (R114 to R118, R130) -/

/-- A signal applied to a flag, without what it wakes: dropped outside the tile sets of running jobs and in
DISCARDING, saturating with a job fault (R114, R115, R118). The tile and the word recorded with cause 0x2C are in no rule:
DESIGN CHOICE, the tile whose flag it is and that tile's next word, whoever sent the signal (log 30). -/
def addFlag (s : State) (t f n : Nat) : State :=
  match jobOf s t with
  | none => bump s 0x5040 1
  | some (j, jb) =>
    if !jb.running || s.main != .ready then bump s 0x5040 1
    else
      let c := flagCount s t f + n
      if c > 65535 then jobFault (bump (setFlag s t f 65535) 0x5040 2) j 0x2C t (tile s t).word
      else setFlag s t f c

/-- A block that has been lifted; the tile is no longer quiet. -/
def unblock (s : State) (t : Nat) : State :=
  unquiet (setTile s t { tile s t with block := none, bar := none }) t

/-- A signal that a barrier sends to a tile of another device; false where its job is gone or faults over it. -/
def barRemote (s : State) (t j idx dst ltile flag : Nat) : State :=
  let r := remoteSignal s j t idx dst ltile flag 1 none
  if r.1 then r.2 else jobFault s j 0x25 t idx

/-- The releases of a barrier's children in descriptor order, with the tiles signalled here (R130). A job that faults over
one sends no more. -/
def releaseKids (t j idx : Nat) : List (Nat × Nat × Bool × Nat) → List Nat → State → List Nat × State
  | [], ts, s => (ts, s)
  | (lt, f, rem, fa) :: r, ts, s =>
    if !(s.jobs.any (fun x => x.1 == j && x.2.running)) then (ts, s)
    else if rem then releaseKids t j idx r ts (barRemote s t j idx fa lt f)
    else releaseKids t j idx r (ts ++ [lt]) (addFlag s lt f 1)

/-- A barrier's completion and arrival: its own signal is applied before it waits (R130). -/
def barArrive (s : State) (t : Nat) (d : BarDesc) : State :=
  addFlag (setTile s t { tile s t with block := some .barGather }) t d.aflag 1

/-- A barrier's gather is satisfied: it reports, and waits for its release. A root waits for none. -/
def barReport (s : State) (t : Nat) (d : BarDesc) : List Nat × State :=
  let v := tile s t
  let s := setFlag s t d.aflag (flagCount s t d.aflag - d.acount)
  let s := unquiet (setTile s t { tile s t with block := some .barRelease }) t
  if d.root then ([], s)
  else if d.prem then ([], barRemote s t (v.job.getD 0) v.blockIdx d.pfaddr d.pltile d.pflag)
  else ([d.pltile], addFlag s d.pltile d.pflag 1)

/-- A barrier's release: its child tiles are released, and the next word issues. -/
def barDone (s : State) (t : Nat) (d : BarDesc) : List Nat × State :=
  let v := tile s t
  let s := if d.root then s else setFlag s t d.rflag (flagCount s t d.rflag - 1)
  releaseKids t (v.job.getD 0) v.blockIdx d.children [] (unblock s t)

/-- One step of a tile that is blocked: whether it moved, the tiles it has signalled, and the state. -/
def moveTile (s : State) (t : Nat) : Bool × List Nat × State :=
  let v := tile s t
  match v.block, v.bar with
  | some (.wait f n), _ =>
    if flagCount s t f ≥ n then (true, [], unblock (setFlag s t f (flagCount s t f - n)) t) else (false, [], s)
  | some (.waitp f n), _ =>
    if flagCount s t f ≥ n then (true, [], unblock s t) else (false, [], s)
  | some (.fence m), _ => if maskIdle v m then (true, [], unblock s t) else (false, [], s)
  | some .finish, _ =>
    if enginesIdle v then
      (true, [], setTile s t { v with block := none, running := false, ended := true })
    else (false, [], s)
  | some .barComplete, some d => if enginesIdle v then (true, [], barArrive s t d) else (false, [], s)
  | some .barGather, some d =>
    if flagCount s t d.aflag ≥ d.acount then (true, (barReport s t d).1, (barReport s t d).2) else (false, [], s)
  | some .barRelease, some d =>
    if d.root || flagCount s t d.rflag ≥ 1 then (true, (barDone s t d).1, (barDone s t d).2) else (false, [], s)
  | _, _ => (false, [], s)

/-- Tiles that may move on do so, one at a time; each may signal further ones. One that stays blocked counts its quiet time
from then on (R139). -/
def pump : Nat → State → List Nat → State
  | 0, s, _ => s
  | _, s, [] => s
  | k + 1, s, t :: r =>
    let m := moveTile s t
    if m.1 then pump k m.2.2 (t :: (r ++ m.2.1)) else pump k (noteArmed s t) r

/-- Enough rounds for every tile to pass its barrier and signal its parent and children. -/
def pumpFuel (s : State) : Nat := 400 * (s.tiles.length + 4)

/-- A signal of n to flag f of logical tile t of this part. -/
def signal (s : State) (t f n : Nat) : State := pump (pumpFuel s) (addFlag s t f n) [t]

/-- A tile whose block may have ended. -/
def wake (s : State) (t : Nat) : State := noteArmed (pump (pumpFuel s) s [t]) t

end Sys2Proof.Machine
end

