-- ==== Sys2Proof/Machine/States.lean ====
section
/-! DEFINITION. Main states: what a reset of the main domain takes, faults of classes C and D, TRANSIT, and the limits
and conditions of the power side (Faults, states and their combinations; Power delivery and thermal management). -/

namespace Sys2Proof.Machine

/-! ## Records, limits -/

/-- A field defect record queued (Table 14.11). -/
def defectRec (s : State) (source : Nat) (bdie : Bool) (die entry : Nat) : State :=
  queueRecord s 2 (defectPayload source (if bdie then 1 else 2) die entry)

/-- The count of one input of a C-die: 0 C-die, 1 B-die, 2 HBM, 3 module power (Table 12.4). -/
def stepOf (s : State) (c i : Nat) : Step := SMap.get s.con.steps (4 * c + i) Step.zero

/-- THROTTLE_STEPS of a C-die. -/
def throttleSteps (s : State) (c : Nat) : Nat :=
  (stepOf s c 0).n + (stepOf s c 1).n * 2 ^ 8 + (stepOf s c 2).n * 2 ^ 16 + (stepOf s c 3).n * 2 ^ 24

/-- The largest count of a C-die (R368). -/
def maxStep (s : State) (c : Nat) : Nat := (List.range 4).foldl (fun m i => max m (stepOf s c i).n) 0

/-- A C-die's limit (R367). -/
def cdieLimit (s : State) (c : Nat) : Nat := max 210 (rd s 0xA000 1 - 30 * maxStep s c)

/-- A half's own limit (R367). -/
def ownLimit (s : State) (h : Nat) : Nat := cdieLimit s (h / 2) / 2

def throttled (s : State) (h : Nat) : Bool := cdiePresent s (h / 2) && decide (0 < maxStep s (h / 2))

/-! ## Conditions (Tables 9.4 and 16.3) -/

def scrubsRun (s : State) : Bool :=
  rd s 0x7810 1 == 1 && (s.main == .ready || s.main == .discarding) && s.power != .deep && s.everReady

def condBits (s : State) : Nat :=
  let b := fun (c : Bool) (n : Nat) => if c then 2 ^ n else 0
  let shown := [MainState.bringup, .coldHold, .ready, .discarding, .faulted, .transit].contains s.main
  let built := s.main == .ready || s.main == .discarding || s.main == .faulted || s.main == .transit ||
    decide (15 ≤ s.bringup.step)
  let expect := rd s 0x8000 3
  if !shown then 0
  else
    b ((List.range 24).any (throttled s)) 16 + b (!s.loans.isEmpty || !s.reclaims.isEmpty) 17 +
      b (built && bit1 (rd s 0x2000 4) 0) 18 + b (s.chans.any (fun c => c.2.active.isSome)) 19 + b (scrubsRun s) 20 +
      b ((!s.link.perst && !s.link.everL0) || s.link.recovery) 21 +
      b ((List.range 16).any (fun p => bit1 expect p && !bit1 s.bringup.variant (8 + p) &&
        !(portUp s p && (port s p).width == 8))) 22

/-- DEV_STATE (Table 9.4). -/
def devState (s : State) : Nat := condBits s + s.main.code

/-- DEV_EVENTS bit 1 follows a change of DEV_STATE (Table 9.3). -/
def noteState (s t : State) : State := if bar0Answers t && devState t != devState s then devEvent t 1 else t

/-- A state between commands: what was touched has arrived at its regulators, and nothing is noted as out of reach. -/
def rested (t : State) : State := { chargeAll t 0 false with stalled := none }

/-- The outcome of a command that leads from one state to another. -/
def ends (s t : State) : Res := .next (noteState s (rested t))

/-! ## Resets of the main domain (R290, R461) -/

/-- Does the Conservator hold this entry (R415)? -/
def heldByCons (key : Nat) : Bool :=
  match findRow (key / 256) (key % 256) with
  | some r => r.keep == .c || r.keep == .cp
  | none => false

/-- Everything of the main domain at its reset value, its ports dark (R324); the Conservator's state, the Ledger and the log stay. -/
def clearMain (s : State) : State :=
  let s := portsDark s
  { State.reset with
    pending := s.pending, out := s.out, free := s.free, time := s.time, main := s.main
    ent := s.ent.filter (fun e => heldByCons e.1)
    cons := s.cons, regStart := s.time, winStart := s.time, nextJob := s.nextJob, nextX := s.nextX, nextPrg := s.nextPrg, nextTag := s.nextTag
    link := { HostLink.reset with perst := s.link.perst, everL0 := s.link.everL0 }
    fab := { Fabric.reset with incarn := (s.fab.incarn + 1) % 65536 }
    owed := s.owed.filter (fun e => decide (e.1 < 2))
    events := s.events, summaries := s.summaries, ledgerQ := s.ledgerQ, live := s.live
    con := { s.con with failed := [] }
    ledger := s.ledger
    stages := s.stages.filter (fun e => e.1 == 0)
    eids := s.eids.filter (fun e => e.1 != 2), i3c := s.i3c }

/-- The wait of bring-up that is open, in ns (R391). -/
def openWait (s : State) : Nat :=
  match s.bringup.waitFrom with
  | some t => s.time - t
  | none => 0

/-- A reset of the main domain begins (Table 9.17). A run of bring-ups goes on through a class-C fault in one (R457). -/
def beginReset (s : State) (by' : Nat) (keepRun : Bool) : State :=
  { clearMain s with
    main := .resetting, resetBy := by', resetAt := s.time
    bringup := if keepRun then { Bringup.reset with inRun := s.bringup.inRun, runAt := s.bringup.runAt, waited := s.bringup.waited + openWait s }
      else Bringup.reset }

/-- Is the main domain in a state that an event of Table 9.17 resets (Table 16.1)? -/
def resettable (s : State) : Bool :=
  [MainState.bringup, .coldHold, .ready, .discarding, .faulted, .transit, .resetting].contains s.main

/-- Is a message a completion entry on its way to the host? -/
def isComp (m : Out) : Bool :=
  match m with
  | .hostWrite _ _ none _ => true
  | _ => false

/-- Every job ends without a completion, also one whose entry waits for the link (R282), and nothing of a discard is left. -/
def dropJobs (s : State) : State :=
  let s := s.jobs.foldl (fun s j => endJob s j.1) s
  { s with comps := [], discard := none, link := { s.link with waiting := s.link.waiting.filter (fun m => !isComp m) },
           queues := s.queues.map (fun q => (q.1, { q.2 with offered := [] })) }

/-- A discard that began in this instant undone by a higher event (R458): what it logged and sent stays. -/
def undoDiscard (s : State) : State :=
  match s.discard with
  | some d =>
    if d.began = s.time then
      let s := setEnt s 0x3030 5 (rd s 0x3030 5 - 1)
      { s with discardEpoch := d.prior.1, discardCause := d.prior.2.1, devEvents := s.devEvents / 2 * 2 + d.prior.2.2 % 2 }
    else s
  | none => s

/-- TRANSIT entered (R325, R326, R456): trigger 0 a request, 1 a class-C fault. -/
def enterTransit (s : State) (trigger transport : Nat) : State :=
  let s := dropJobs (undoDiscard (if s.power = .deep then portsTrain s else s))
  let s := { s with chans := s.lay.chans.foldl (fun m c => SMap.put m c { SMap.get m c Chan.reset with selfRefresh := true }) s.chans
                    loans := [], reclaims := [], power := .run, transitAt := some s.time }
  logEvent (setMain s .transit) 0x8004 (leBytes 1 trigger ++ leBytes 1 transport)

/-- FAULTED entered. -/
def enterFaulted (s : State) (onPath : Bool) : State :=
  setMain { dropJobs (undoDiscard s) with resetAt := s.time, offPath := !onPath, resetReq := none } .faulted

/-- A class-C fault (Table 16.2); its event is logged by the one who raises it. One in the instant in which TRANSIT was entered
ranks before that (R458). -/
def classC (s : State) (onPath : Bool) : State :=
  match s.main with
  | .bringup => beginReset s 3 true
  | .coldHold => beginReset s 3 true
  | .transit =>
    if s.transitAt = some s.time then (if rd s 0x8040 2 = 1 && !onPath then s else enterFaulted s onPath)
    else if onPath then beginReset s 3 false
    else s
  | .ready =>
    if rd s 0x8040 2 = 1 && !onPath then enterTransit s 1 0xFF
    else enterFaulted s onPath
  | .discarding =>
    if rd s 0x8040 2 = 1 && !onPath then enterTransit s 1 0xFF
    else enterFaulted s onPath
  | _ => s

/-- An event logged in every state in which the Conservator runs. -/
def logAlive (s : State) (code : Nat) (detail : List Byte) : State := if s.main = .off then s else logEvent s code detail

/-- A fatal finding of bring-up (R398). -/
def bringupFault (s : State) (cause : Nat) : State :=
  let pkg := rd s 0x9000 3
  let s := setEnt { clearMain s with main := .standbyFault, con := { s.con with failed := [], faultN := true } } 0x2020 2 cause
  let s := if cause = 3 then setEnt s 0x9000 3 pkg else s
  logEvent s 0x2003 (leBytes 1 cause)

/-! ## Shutdown (R374, R381) -/

/-- The SHUTDOWN payload (Table 14.10). -/
def shutdownPayload (s : State) (code channel : Nat) (reading : Int) (steps : Nat) : List Byte :=
  leBytes 32 (code + s.main.code * 2 ^ 8 + channel % 2 ^ 16 * 2 ^ 16 + (reading % ((2 ^ 32 : Nat) : Int)).toNat * 2 ^ 32 +
    steps * 2 ^ 128 + rd s 0xB020 7 * 2 ^ 160 + s.time % 2 ^ 64 * 2 ^ 192)

/-- A class-D fault: the supplies but standby go, and the record is queued; one in SHUTDOWN is only logged (R462). -/
def classD (s : State) (code channel : Nat) (reading : Int) (steps : Nat) : State :=
  if s.main = .off then s
  else
    let pay := shutdownPayload s code channel reading steps
    if s.main = .shutdown then logEvent s 0xB004 (pay.take 16)
    else
      let s := { clearMain s with main := .shutdown, con := { s.con with failed := [], faultN := true, coolAt := none, armed := false } }
      let s := setEnt s 0xB040 1 code
      let s := bump s 0xB040 3
      queueRecord (logEvent s 0xB004 (pay.take 16)) 1 pay

/-! ## Pins (Table 17.4) -/

def pwrGood (s : State) : Bool :=
  match s.main with
  | .off => false
  | .shutdown => false
  | .standbyFault => !s.con.held
  | _ => true

end Sys2Proof.Machine
end

