-- ==== Sys2Proof/Machine/Inventory.lean ====
section
/-! DEFINITION. The part that bring-up resolves: which units are in use, logical numbering, slices, routes and the entries
of the Inventory (R148 to R151, R180, R187, R250, R251, R339, R396, R401 to R407). -/

namespace Sys2Proof.Machine

/-! ## Meshes (R180) -/

/-- What was found of a whole build, so that each mesh is resolved once. -/
structure Meshes where
  cBad : List (List Nat)
  bBad : List (List Nat)
  cLost : List (List Nat)
  bLost : List (List Nat)
deriving DecidableEq, Repr, Inhabited

def resolveMeshes (s : State) : Meshes :=
  let cs := List.range 12
  let bs := List.range 6
  { cBad := cs.map (fun c => if cdiePresent s c then badRouters s true c else [])
    bBad := bs.map (badRouters s false)
    cLost := cs.map (fun c => if cdieUsed s c then lostRouters s true c else [])
    bLost := bs.map (lostRouters s false) }

/-- Links left across the middle of a B-die, and across the seam of a C-die. -/
def cutLinks (bad : List Nat) : Nat := ((List.range 16).filter (fun r => !bad.contains (32 * r + 15) && !bad.contains (32 * r + 16))).length
def seamLinks (bad : List Nat) : Nat := ((List.range 16).filter (fun x => !bad.contains (16 * 7 + x) && !bad.contains (16 * 8 + x))).length

/-! ## Slices and spares (R149, R250, R251) -/

/-- Spare rows and columns that the defects of a B-die's slices take, and the slices left without one. -/
def spareUse (s : State) (b : Nat) : Nat × Nat × List Nat :=
  let uniq (l : List Nat) : List Nat := l.foldl (fun m x => if m.contains x then m else m ++ [x]) []
  let rows := uniq (unitsOf s true b 2)
  let cols := uniq (unitsOf s true b 3)
  let rowSubs := uniq (rows.map (fun e => e / 2 ^ 11))
  let colSubs := uniq (cols.map (fun e => e / 2 ^ 13))
  let inRow (k : Nat) : Nat := (rows.filter (fun e => e / 2 ^ 11 == k)).length
  let inCol (k : Nat) : Nat := (cols.filter (fun e => e / 2 ^ 13 == k)).length
  let noRow := (rowSubs.filter (fun k => decide (4 < inRow k))).map (· / 4)
  let noCol := (colSubs.filter (fun k => decide (1 < inCol k))).map (· / 4)
  (sumBy (fun k => min 4 (inRow k)) rowSubs, colSubs.length, uniq (noRow ++ noCol))

/-- The site number of a slice by router row, column and spare (R148). -/
def siteNo (row col : Nat) (spare : Bool) : Nat :=
  if row % 2 = 0 then row / 2 * 66 + col
  else row / 2 * 66 + 32 + (if col = 0 then (if spare then 1 else 0) else if col = 31 then (if spare then 33 else 32) else col + 1)

/-- The slices of a B-die that pass. -/
def passingSlices (s : State) (m : Meshes) (b : Nat) : List Nat :=
  let bad := unitsOf s true b 1
  let lost := m.bLost.getD b []
  let none' := (spareUse s b).2.2
  (List.range 528).filter (fun n =>
    let rc := siteRC n
    !bad.contains n && !none'.contains n && !lost.contains (32 * rc.1 + rc.2.1))

/-! ## Tiles (R396, R401 to R403) -/

/-- A tile site of a half. -/
structure TSite where
  hrow : Nat
  col : Nat
  spare : Bool
deriving DecidableEq, Repr, Inhabited

/-- The column of the spare sites of a C-die. -/
def spareCol (c : Nat) : Nat := if c % 2 = 0 then 0 else 15

/-- The tile sites of a half of a C-die in ascending order of their codes. -/
def halfSites (c : Nat) : List TSite :=
  (List.range 8).flatMap (fun r => (List.range 16).flatMap (fun x =>
    ⟨r, x, false⟩ :: (if r % 2 = 1 ∧ x = spareCol c then [⟨r, x, true⟩] else [])))

/-- Bits [11:3] of a site code (Table 13.9). -/
def siteCode9 (k : Nat) (t : TSite) : Nat := k * 256 + t.hrow * 32 + t.col * 2 + (if t.spare then 1 else 0)

/-- The slice beneath a tile site. -/
def sliceBelow (h : Nat) (t : TSite) : Nat := siteNo (8 * (h % 2) + t.hrow) (16 * (h / 2 % 2) + t.col) t.spare

/-- The tile sites of a half that are in use. -/
def sitesInUse (s : State) (m : Meshes) (passing : List (List Nat)) (h : Nat) : List TSite :=
  if !halfUsed s h then []
  else
    let c := h / 2
    let bad := unitsOf s false c 9
    let groups := (unitsOf s false c 11).map (· / 120)
    let lost := m.cLost.getD c []
    let ok := passing.getD (h / 4) []
    (((halfSites c).zipIdx).filter (fun x =>
      !bad.contains (siteCode9 (h % 2) x.1) && !groups.contains (132 * (h % 2) + x.2) &&
        !lost.contains (16 * (8 * (h % 2) + x.1.hrow) + x.1.col) && ok.contains (sliceBelow h x.1))).map (·.1)

/-- The enabled tiles of a half: its grid sites in use, and a spare for each that is not, the lowest half row first. -/
def enabledSites (c : Nat) (use : List TSite) : List TSite :=
  let grid := use.filter (fun t => !t.spare)
  let spares := (use.filter (fun t => t.spare)).take (128 - grid.length)
  (halfSites c).filter (fun t => grid.contains t || spares.contains t)

/-! ## The build (R404) -/

/-- What the build resolves of tiles and slices. -/
structure Build where
  meshes : Meshes
  inUse : List Nat
  tiles : List (List TSite)
  slices : List (List Nat)
  annex : Nat
  p : Nat
deriving DecidableEq, Repr, Inhabited

def resolve (s : State) : Build :=
  let m := resolveMeshes s
  let passing := (List.range 6).map (passingSlices s m)
  let use := (List.range 24).map (sitesInUse s m passing)
  let tiles := (List.range 24).map (fun h => enabledSites (h / 2) (use.getD h []))
  let under := (List.range 6).map (fun b => (List.range 4).flatMap (fun i => (tiles.getD (4 * b + i) []).map (sliceBelow (4 * b + i))))
  let annexOf (b : Nat) : List Nat :=
    let u := under.getD b []
    ((passing.getD b []).filter (fun n => !u.contains n)).take (512 - u.length)
  let slices := (List.range 6).map (fun b =>
    let u := under.getD b []
    let a := annexOf b
    (passing.getD b []).filter (fun n => u.contains n || a.contains n))
  { meshes := m, inUse := use.map List.length, tiles := tiles, slices := slices
    annex := sumBy (fun b => (annexOf b).length) (List.range 6)
    p := slices.foldl (fun n l => min n l.length) 512 }

/-- The logical tiles as slice sites: die × 528 + site. -/
def tileKeys (b : Build) : List Nat :=
  (List.range 24).flatMap (fun h => (b.tiles.getD h []).map (fun t => h / 4 * 528 + sliceBelow h t))

/-- The site code of a logical tile (Table 13.9), from the slice beneath it. -/
def siteCodeOf (key : Nat) : Nat :=
  let rc := siteRC (key % 528)
  let c := 2 * (key / 528) + rc.2.1 / 16
  c * 2 ^ 12 + rc.1 / 8 * 2 ^ 11 + rc.1 % 8 * 2 ^ 8 + rc.2.1 % 16 * 2 ^ 4 + (if rc.2.2 then 8 else 0)

/-! ## Variants (R406) -/

def vCode (v : Nat) : Nat := v % 256
def vPfuse (v : Nat) : Nat := bits v 23 8
def vCfuse (v : Nat) : Nat := bits v 35 24
def vStack (v : Nat) : Nat := bits v 39 36

/-- Does VARIANT hold a combination of Table 13.11? -/
def variantOk (v : Nat) : Bool :=
  match vCode v with
  | 0 => vCfuse v == 0 && vPfuse v == 0 && vStack v == 2
  | 1 => vCfuse v == 0 && vPfuse v == 0xCCCC && vStack v == 2
  | 2 => ((List.range 12).filter (bit1 (vCfuse v))).length == 2 && vPfuse v == 0 && vStack v == 2
  | 3 => vCfuse v == 0 && vPfuse v == 0 && vStack v == 1
  | _ => false

def stackBytesOf (v : Nat) : Nat := if vStack v = 1 then 0xC00000000 else 0x1000000000
def tilesMin (v : Nat) : Nat := if vCode v = 2 then 2560 else 3072
def portsMin (v : Nat) : Nat := if vCode v = 1 then 8 else 16

/-- The ordering code of a variant as text. -/
def orderCode (v : Nat) : Nat :=
  match vCode v with
  | 0 => 0x36314C2D383637482D32314A4D
  | 1 => 0x38304C2D383637482D32314A4D
  | 2 => 0x36314C2D383637482D30314A4D
  | _ => 0x36314C2D363735482D32314A4D

/-! ## Inventory entries -/

/-- A map of bits as bytes. -/
def bitBytes (n : Nat) (f : Nat → Bool) : List Byte :=
  (List.range n).map (fun i => BitVec.ofNat 8 (sumBy (fun j => if f (8 * i + j) then 2 ^ j else 0) (List.range 8)))

def faultMap (m : Meshes) : List Byte :=
  bitBytes 768 (fun n =>
    if n < 3072 then (m.bBad.getD (n / 512) []).contains (n % 512) else (m.cBad.getD ((n - 3072) / 256) []).contains ((n - 3072) % 256))

def ltileMap (s : State) : List Byte := s.lay.tiles.flatMap (fun k => leBytes 2 (siteCodeOf k))
def groupMap (s : State) : List Byte := s.lay.tiles.flatMap (fun k => leBytes 1 (siteGroup (k / 528) (k % 528)))
def channelMap (s : State) : List Byte := bitBytes 48 (fun c => s.lay.chans.contains c)
def guestDescOf (s : State) (site : Nat) : Nat := SMap.get s.guestDesc site 0

/-- Lanes in use of a pair: the narrower direction, and the spares of both. -/
def pairWidth (s : State) (k : Nat) : Nat := min (dirLanes s (2 * k)) (dirLanes s (2 * k + 1))
def pairSpares (s : State) (k : Nat) : Nat :=
  (((SMap.get s.bringup.lanes (2 * k) []) ++ (SMap.get s.bringup.lanes (2 * k + 1) [])).filter (fun l => decide (256 ≤ l))).length

/-- A scalar of a run of subindices in stored form. -/
def entBytes (s : State) (idx lo n size : Nat) : List Byte := (List.range n).flatMap (fun i => leBytes size (rd s idx (lo + i)))

/-- The bytes over which INV_DIGEST is taken, in the order of R404. -/
def inventoryBytes (s : State) (fmap : List Byte) : List Byte :=
  entBytes s 0x2000 1 1 1 ++ leBytes 16 (rd s 0x2000 2) ++ entBytes s 0x2000 4 1 4 ++ entBytes s 0x2010 1 3 2 ++
  entBytes s 0x2011 1 24 1 ++ entBytes s 0x2012 1 24 2 ++ ltileMap s ++
  entBytes s 0x9000 2 1 4 ++ entBytes s 0x9010 1 7 2 ++ entBytes s 0x9011 1 7 1 ++ (List.range 17).flatMap (fun i => leBytes 16 (guestDescOf s i)) ++
  entBytes s 0x6000 2 2 2 ++ entBytes s 0x6018 1 2 8 ++ entBytes s 0x6018 3 1 4 ++ entBytes s 0x6018 4 1 8 ++
  entBytes s 0x6040 1 1 2 ++ fmap ++ entBytes s 0x6040 3 2 1 ++
  entBytes s 0x6800 1 1 1 ++ entBytes s 0x6800 2 1 8 ++ entBytes s 0x6800 3 1 2 ++ channelMap s ++ entBytes s 0x6808 1 6 8 ++
  entBytes s 0x8000 1 1 1 ++ entBytes s 0x8000 2 1 4 ++ groupMap s ++ entBytes s 0x7300 1 6 4 ++
  entBytes s 0x7830 1 6 2 ++ entBytes s 0x7831 1 6 2 ++ entBytes s 0x7832 1 1 2

/-- Several entries set. -/
def setEnts (s : State) (l : List (Nat × Nat × Nat)) : State := l.foldl (fun s e => setEnt s e.1 e.2.1 e.2.2) s

/-- Numbering and slices as entries. -/
def tileEntries (s : State) (b : Build) : State :=
  let v := s.bringup.variant
  let n (h : Nat) : Nat := (b.tiles.getD h []).length
  let before (h : Nat) : Nat := sumBy n (List.range h)
  let present := (List.range 12).filter (cdiePresent s)
  let s := setEnts s [(0x2000, 1, vCode v), (0x2000, 2, orderCode v), (0x2010, 1, s.lay.tiles.length), (0x2010, 2, tilesMin v),
    (0x2010, 3, 264 * present.length - sumBy id b.inUse), (0x6000, 2, b.p), (0x6000, 3, b.annex),
    (0x9000, 2, sumBy (fun c => 2 ^ c) present)]
  setEnts s ((List.range 24).map (fun h => (0x2011, h + 1, n h)) ++
    (List.range 24).map (fun h => (0x2012, h + 1, if n h = 0 then 0xFFFF else before h)))

/-- Pools, routers, channels, ports and links as entries. -/
def unitEntries (s : State) (b : Build) : State :=
  let v := s.bringup.variant
  let seams := (List.range 12).filter (cdieUsed s)
  let s := setEnts s [(0x6018, 1, sharedBytes s), (0x6018, 2, dieBytes s), (0x6018, 3, localBytes s),
    (0x6018, 4, b.p * s.lay.pc * 0x40000), (0x6810, 1, cacheSets s),
    (0x6040, 1, sumBy List.length b.meshes.bBad + sumBy List.length b.meshes.cBad),
    (0x6040, 3, b.meshes.bBad.foldl (fun m l => min m (cutLinks l)) 16),
    (0x6040, 4, seams.foldl (fun m c => min m (seamLinks (b.meshes.cBad.getD c []))) 16),
    (0x6800, 1, 12), (0x6800, 2, stackBytesOf v), (0x6800, 3, s.lay.chans.length), (0x6800, 4, stackBytesOf v / 32),
    (0x8000, 1, s.lay.ports.length), (0x8000, 2, sumBy (fun p => 2 ^ p) s.lay.ports),
    (0x7832, 1, sumBy (fun d => (spareUse s d).2.2.length) (List.range 6))]
  let s := setEnts s ((List.range 6).flatMap (fun d => [(0x6808, d + 1, hbmRange s d), (0x7830, d + 1, (spareUse s d).1), (0x7831, d + 1, (spareUse s d).2.1)]))
  setEnts s ((List.range 7).flatMap (fun k => [(0x9010, k + 1, pairWidth s k), (0x9011, k + 1, pairSpares s k)]))

/-- INV_STATUS (R407). -/
def invStatus (s : State) : Nat :=
  let v := s.bringup.variant
  let short := (if s.lay.tiles.length < tilesMin v then 2 else 0) + (if s.lay.p < 512 then 4 else 0) +
    (if s.lay.chans.length < 384 then 8 else 0) + (if rd s 0x6800 2 < stackBytesOf v then 16 else 0) +
    (if s.lay.ports.length < portsMin v then 32 else 0) +
    (if (List.range 7).any (fun k => decide (pairWidth s k < 256)) then 64 else 0)
  if short = 0 then 0 else short + 1

end Sys2Proof.Machine
end

