-- ==== Sys2Proof/Machine/Ranges.lean ====
section
/-! DEFINITION. What values entries accept: the range of each entry, the rules that bind CONS values to one another, and
the rules a commit must keep (R152, R214, R217, R224, R227, R321, R375, R414, R425, R431, R479). -/

namespace Sys2Proof.Machine

/-! ## Ranges -/

def within (lo hi v : Nat) : Bool := decide (lo ≤ v ∧ v ≤ hi)
def steps (lo hi k v : Nat) : Bool := decide (lo ≤ v ∧ v ≤ hi ∧ v % k = 0)

/-- The enables that accept 0 and 1 only (R479). -/
def isEnable (idx sub : Nat) : Bool :=
  [(0x5020, 1), (0x7810, 1), (0xB010, 2), (0x8010, 2), (0x8040, 2), (0x8010, 5), (0x8010, 6)].contains (idx, sub) ||
    (within 0x7010 0x701F idx && sub == 4)

/-- What CLK_EN of a block accepts: its fixed enables as they stand (Table 11.6). A write with some of bits [7:3] set, which Table
11.7 gives as zero, may be refused under R361 or have them ignored under R20: DESIGN CHOICE, it is answered RANGE (log 31). -/
def clkOk (sub v : Nat) : Bool :=
  if sub = 1 then v == 3 || v == 7 else if sub ≤ 0xD then v == 1 || v == 3 else if sub = 0x26 then v == 7 else v == 3

/-- The ranges of the host, tile, synchronisation and memory entries. -/
def rangeLow (idx sub v : Nat) : Bool :=
  match idx, sub with
  | 0x3010, 1 => within 0 1000 v
  | 0x3010, 2 => within 10 60000 v
  | 0x4010, 1 => [16, 32, 64].contains v
  | 0x5010, 1 => within 1 60000 v
  | 0x5020, 2 => within 5 1000 v
  | 0x5020, 3 => within 0 64 v
  | 0x5020, 4 => steps 105 240 15 v
  | 0x5020, 5 => steps 240 360 15 v
  | 0x6010, 1 => within 1 15 v
  | 0x6010, 2 => within 0 14 v
  | 0x6010, 3 => within 0 14 v
  | 0x6010, 4 => within 1 15 v
  | 0x6800, 6 => [6400, 7200, 8000].contains v
  | 0x6810, 3 => within 0 12 v
  | 0x6818, _ => within 0 65536 v
  | 0x6820, 1 => within 5 50 v
  | 0x6820, 3 => within 1 1000 v
  | 0x6830, 1 => within 1 65535 v
  | 0x7000, 1 => within 250 100000 v
  | 0x7000, 3 => within 0 15 v
  | 0x7000, 4 => within 0 15 v
  | 0x7810, 2 => within 100 100000 v
  | 0x7810, 3 => within 100 100000 v
  | 0x7810, 4 => within 60 604800 v
  | _, _ => if within 0x7010 0x701F idx && sub == 3 then within 0 15 v
            else if within 0x7100 0x71A0 idx && within 0x11 0x20 sub then within 4096 0xFFFFFFFF v else true

/-- The ranges of the fabric, link, power, thermal and command entries. -/
def rangeHigh (idx sub v : Nat) : Bool :=
  match idx, sub with
  | 0x8030, 1 => within 130 10000 v
  | 0x9013, 2 => within 100 1000000 v
  | 0x9030, _ => clkOk sub v
  | 0x9040, 1 => within 0 10 v
  | 0x9040, 2 => within 25 45 v
  | 0x9040, 3 => within 0 10 v
  | 0x9040, 4 => within 25 45 v
  | 0xA000, 1 => steps 210 480 30 v
  | 0xA000, 4 => steps 600 850 10 v
  | 0xA020, 1 => within 3000 6400 v
  | 0xA020, 2 => within 0 7200 v
  | 0xB000, 1 => within 60 255 v
  | 0xB000, 2 => within 60 100 v
  | 0xB000, 3 => within 80 115 v
  | 0xB000, 4 => within 60 95 v
  | 0xB000, 5 => within 80 110 v
  | 0xB000, 6 => within 60 95 v
  | 0xB000, 7 => within 80 105 v
  | 0xB000, 9 => within 20 80 v
  | 0xB020, 1 => within 500 20000 v
  | 0xB020, 2 => within 20 90 v
  | 0xB020, 3 => within 15 45 v
  | 0xB020, 4 => within 0 20 v
  | 0xB020, 5 => within 10 500 v
  | 0xB020, 6 => within 0 500 v
  | 0xF000, 4 => within 10 3600 v
  | _, _ => true

/-- Does a value lie in an entry's own range? A bound that another entry gives is a rule below. -/
def inRange (idx sub v : Nat) : Bool :=
  if isEnable idx sub then decide (v ≤ 1) else if idx < 0x8000 then rangeLow idx sub v else rangeHigh idx sub v

/-- A routing entry without its reserved bits. -/
def routeFields (v : Nat) : Nat := v % 2 ^ 16 + v / 2 ^ 27 * 2 ^ 27

/-- A routing entry as it is kept: the reserved bits of one that is not enabled are ignored (R20); of one that is, R321 has
the commit refused for them. -/
def keptRoute (v : Nat) : Nat := if bit1 v 31 then v else routeFields v

/-- A staged value as it is read: reserved bits read zero, those too for which a commit would be refused (R20, R321). -/
def shown (idx v : Nat) : Nat := if within 0x8020 0x8022 idx then routeFields v else v

/-- The bits of a value an entry keeps: reserved bits are ignored (R20, R479). -/
def kept (idx sub v : Nat) : Nat :=
  match idx, sub with
  | 0x8020, _ => keptRoute v
  | 0x8021, _ => keptRoute v
  | 0x8022, _ => keptRoute v
  | 0x8000, 3 => v % 2 ^ 16
  | 0x8010, 1 => v % 2 ^ 15
  | 0xC000, 3 => v % 2 ^ 3
  | 0xC000, 4 => v % 2 ^ 5
  | _, _ => v

/-! ## Rules -/

/-- A rule over several entries: the keys that take part, and whether it holds. -/
structure Rule where
  parts : List Nat
  ok : Bool
deriving DecidableEq, Repr, Inhabited

def brokenRule (l : List Rule) : Option Rule := l.find? (fun r => !r.ok)

/-- The rules that bind CONS values (R375, R431). -/
def consRules (s : State) : List Rule :=
  let k (i j : Nat) : Nat := entKey i j
  [ ⟨[k 0xB000 1, k 0xB000 2], decide (rd s 0xB000 1 ≤ rd s 0xB000 2)⟩,
    ⟨[k 0xB000 2, k 0xB000 3], decide (rd s 0xB000 2 + 10 ≤ rd s 0xB000 3)⟩,
    ⟨[k 0xB000 4, k 0xB000 5], decide (rd s 0xB000 4 + 10 ≤ rd s 0xB000 5)⟩,
    ⟨[k 0xB000 6, k 0xB000 7], decide (rd s 0xB000 6 + 10 ≤ rd s 0xB000 7)⟩,
    ⟨[k 0xA020 1, k 0xA020 2], decide (rd s 0xA020 1 ≤ rd s 0xA020 2)⟩,
    ⟨[k 0xB020 5, k 0xB020 6], decide (rd s 0xB020 5 ≤ rd s 0xB020 6)⟩ ]

/-- R152: the partition sums to 16. -/
def partitionRule (s : State) : Rule :=
  ⟨[entKey 0x6010 1, entKey 0x6010 2, entKey 0x6010 3, entKey 0x6010 4],
    decide (rd s 0x6010 1 + rd s 0x6010 2 + rd s 0x6010 3 + rd s 0x6010 4 = 16)⟩

/-- The range registers that are enabled. -/
def rangesOn (s : State) : List Nat := (List.range 16).filter (fun i => rd s (0x7010 + i) 4 == 1)

def rangeKeys (i : Nat) : List Nat := [entKey (0x7010 + i) 1, entKey (0x7010 + i) 2, entKey (0x7010 + i) 4]

/-- R217: each enabled range is aligned, and no two overlap. -/
def rangeRules (s : State) : List Rule :=
  let on := rangesOn s
  let b (i : Nat) : Nat := rd s (0x7010 + i) 1
  let e (i : Nat) : Nat := rd s (0x7010 + i) 2 + 1
  on.map (fun i => ⟨rangeKeys i, b i % 4096 == 0 && e i % 4096 == 0⟩) ++
    on.flatMap (fun i => (on.filter (fun j => decide (i < j))).map (fun j =>
      ⟨rangeKeys i ++ rangeKeys j, decide (min (e i) (e j) ≤ max (b i) (b j))⟩))

def guarKey (g : Nat × Nat × Nat) : Nat := entKey (0x7100 + g.1) (g.2.1 + 1)

/-- R227: no guarantee above its ceiling. -/
def ceilRules (s : State) : List Rule :=
  (guarantees s).map (fun g =>
    ⟨[guarKey g, entKey (0x7100 + g.1) (0x11 + g.2.1)], decide (g.2.2 ≤ rd s (0x7100 + g.1) (0x11 + g.2.1))⟩)

/-- R224: no guarantee in REMOTE_CLASS. -/
def remoteRules (s : State) : List Rule :=
  (guarantees s).map (fun g => ⟨[entKey 0x7000 4, guarKey g], g.2.1 != rd s 0x7000 4⟩)

/-- The rules that need no Inventory. -/
def storedRules (s : State) : List Rule := partitionRule s :: (rangeRules s ++ ceilRules s ++ remoteRules s)

/-! ## Commit -/

/-- The regulation inputs of R227. -/
def isRegInput (key : Nat) : Bool :=
  let i := key / 256
  within 0x7100 0x71A0 i || within 0x7010 0x701F i || [entKey 0x7000 1, entKey 0x7000 3, entKey 0x7000 4, entKey 0x6820 1].contains key

/-- R214: no guarantee for an absent master. -/
def masterRules (s : State) : List Rule := (guarantees s).map (fun g => ⟨[guarKey g], masterPresent s g.1⟩)

/-- The lowest resource that the guarantees exceed, when a regulation input changes. -/
def failingResource (t : State) (changed : Bool) : Option (Nat × Nat) := if changed then overloaded t else none

/-- R321 for one routing entry. -/
def routeOk (s : State) (e : Nat) : Bool :=
  !bit1 e 31 || (bits e 26 16 == 0 && decide (bits e 30 29 < 2) && (([bits e 3 0, bits e 7 4, bits e 11 8, bits e 15 12].take (bits e 28 27 + 1)).all (portExists s)))

def isRoute (key : Nat) : Bool := [0x8020, 0x8021, 0x8022].contains (key / 256)

/-- R321: the fabric address while a job runs, and the routing entries. -/
def fabricRules (s t : State) : List Rule :=
  ⟨[entKey 0x8010 1, entKey 0x8010 2],
    (rd s 0x8010 1 == rd t 0x8010 1 && rd s 0x8010 2 == rd t 0x8010 2) || !(s.jobs.any (fun j => j.2.holds))⟩ ::
  (t.ent.filter (fun (e : Nat × Nat) => isRoute e.1)).map (fun (e : Nat × Nat) => ⟨[e.1], routeOk t e.2⟩)

/-- The rules of R227 over the trial state `t`, checked where a regulation input changes. -/
def regRules (t : State) (changed : Bool) : List Rule :=
  if changed then
    ⟨(t.ent.map (·.1)).filter isRegInput, (failingResource t changed).isNone⟩ ::
      (ceilRules t ++ masterRules t ++ rangeRules t ++ remoteRules t)
  else []

end Sys2Proof.Machine
end

