-- ==== Sys2Proof/Machine/Operands.lean ====
section
/-! DEFINITION. Command words and their operand forms: fields, address generators and the accesses they walk, the
checks of decode, and hazard ranges (Tile programs). -/

namespace Sys2Proof.Machine

/-! ## Fields of a command word (Tables 3.2, 3.5, 3.6, 3.10 to 3.19) -/

def wOpcode (w : Nat) : Nat := bits w 127 120
def wSgen (w : Nat) : Nat := bits w 111 109
def wDgen (w : Nat) : Nat := bits w 108 106

/-- A command word with its CRC put in (R81). -/
def sealWord (w : Nat) : Nat := w / 65536 * 65536 + wordCrc w

/-- An element width of Table 3.9; 0 for a reserved code. -/
def eszWidth (e : Nat) : Nat :=
  match e with
  | 0 => 4 | 1 => 6 | 2 => 8 | 3 => 16 | 4 => 32 | 5 => 128 | _ => 0

def signed (w v : Nat) : Int := signedOf w v

/-! ## Address generators (R87 to R91) -/

/-- One part of a generator set by an AGEN word (Table 3.6). -/
def agenSet (g : Gen) (w : Nat) : Gen :=
  match bits w 108 106 with
  | 0 => { g with bsel := bits w 105 104, base := bits w 103 56, esz := bits w 55 53, rowmask := bits w 52 48,
                  y0 := signed 16 (bits w 47 32), x0 := signed 16 (bits w 31 16) }
  | 1 => { g with pad := bit1 w 105, h := bits w 104 89, w := bits w 88 73 }
  | p =>
    let l : GLoop := { countM1 := bits w 105 90, stride := signed 32 (bits w 89 58), ycoef := signed 8 (bits w 57 50),
                       xcoef := signed 8 (bits w 49 42) }
    { g with loops := g.loops.set (p - 2) l }

def Gen.width (g : Gen) : Nat := eszWidth g.esz
def Gen.counts (g : Gen) : List Nat := g.loops.map (fun l => l.countM1 + 1)

/-- Is loop l a row loop (R90)? -/
def Gen.isRow (g : Gen) (l : Nat) : Bool := bit1 g.rowmask l

/-- The product of the loop counts that a test picks. -/
def Gen.product (g : Gen) (p : Nat → Bool) : Nat :=
  (g.loops.zipIdx.filter (fun x => p x.2)).foldl (fun n x => n * (x.1.countM1 + 1)) 1

def Gen.rows (g : Gen) : Nat := g.product g.isRow
def Gen.beats (g : Gen) : Nat := g.product (fun l => !g.isRow l)
def Gen.total (g : Gen) : Nat := g.product (fun _ => true)

/-- The loop indices of row index r and beat index m: within each kind the lowest loop varies fastest. -/
def Gen.indexGo (g : Gen) : List (GLoop × Nat) → Nat → Nat → List Nat
  | [], _, _ => []
  | (l, i) :: rest, r, m =>
    let c := l.countM1 + 1
    if g.isRow i then r % c :: g.indexGo rest (r / c) m else m % c :: g.indexGo rest r (m / c)

def Gen.index (g : Gen) (r m : Nat) : List Nat := g.indexGo g.loops.zipIdx r m

/-- The loop indices of element n in the order of the loops. -/
def flatGo : List GLoop → Nat → List Nat
  | [], _ => []
  | l :: rest, n => n % (l.countM1 + 1) :: flatGo rest (n / (l.countM1 + 1))

def Gen.flat (g : Gen) (n : Nat) : List Nat := flatGo g.loops n

def dot (ix : List Nat) (cs : List Int) : Int := (List.zipWith (fun (i : Nat) (c : Int) => (i : Int) * c) ix cs).foldl (· + ·) 0

/-- The base of Table 3.6 added to an address field, modulo 2^48. -/
def withBsel (s : State) (t bsel base : Nat) : Nat :=
  let b := match bsel with
    | 1 => (tile s t).argBase
    | 2 => 0x002000000000 + t * 0x100000
    | 3 => 0x001800000000 + t * 0x400000
    | _ => 0
  (base + b) % 2 ^ 48

/-- The resolved base A0 (R88). -/
def Gen.a0 (g : Gen) (s : State) (t : Nat) : Nat := withBsel s t g.bsel g.base

/-- Is this position padded (R89)? -/
def Gen.padded (g : Gen) (ix : List Nat) : Bool :=
  g.pad &&
    (let y := g.y0 + dot ix (g.loops.map (·.ycoef))
     let x := g.x0 + dot ix (g.loops.map (·.xcoef))
     decide (y < 0) || decide (y ≥ g.h) || decide (x < 0) || decide (x ≥ g.w))

/-- The bit address of an element: the byte address wraps modulo 2^48 (R88). -/
def Gen.bitAddr (g : Gen) (a0 : Nat) (ix : List Nat) : Nat :=
  ((8 * (a0 : Int) + (g.width : Int) * dot ix (g.loops.map (·.stride))) % ((2 ^ 51 : Nat) : Int)).toNat

/-- The lowest and highest bit offsets a walk reaches from its base. -/
def Gen.reach (g : Gen) : Int × Int :=
  g.loops.foldl (fun acc l =>
    let d := (l.countM1 : Int) * l.stride
    (acc.1 + min 0 d, acc.2 + max 0 d)) (0, 0)

/-- The byte range a generator could touch; everything where its walk wraps (R85). -/
def Gen.span (g : Gen) (s : State) (t : Nat) : Nat × Nat :=
  let a0 : Int := 8 * (g.a0 s t : Int)
  let lo := a0 + (g.width : Int) * g.reach.1
  let hi := a0 + (g.width : Int) * g.reach.2 + (g.width : Int) - 1
  if lo < 0 ∨ hi ≥ ((2 ^ 51 : Nat) : Int) then (0, 2 ^ 48 - 1) else (lo.toNat / 8, hi.toNat / 8)

/-- The parts of a range that hazards are tracked in: the own operand store and the own slice-local pool (R85). -/
def hazardParts (s : State) (t : Nat) (r : Nat × Nat) : List (Nat × Nat) :=
  let regions := [(0x002000000000 + t * 0x100000, 0x002000000000 + t * 0x100000 + 0xFFFFF),
    (0x001800000000 + t * 0x400000, 0x001800000000 + t * 0x400000 + localBytes s - 1)]
  regions.filterMap (fun g => if max r.1 g.1 ≤ min r.2 g.2 then some (max r.1 g.1, min r.2 g.2) else none)

def overlaps (a b : List (Nat × Nat)) : Bool := a.any (fun x => b.any (fun y => decide (x.1 ≤ y.2) && decide (y.1 ≤ x.2)))

/-- Does a command have a hazard against one that is not complete (R85)? -/
def hazard (v : Tile) (reads writes : List (Nat × Nat)) : Bool :=
  (v.qArray ++ v.qSel ++ v.qVec ++ v.qMove).any (fun c =>
    overlaps writes c.reads || overlaps writes c.writes || overlaps reads c.writes)

/-! ## The regions a job may use (R37, R91, R195, R270) -/

/-- Does a byte range lie wholly within one of some windows (R79, R268)? -/
def inWindows (ws : List (Nat × Nat)) (lo hi : Nat) : Bool := ws.any (fun w => decide (w.1 ≤ lo) && decide (hi ≤ w.2))

/-- The last byte, from `lo` on, that windows holding `lo` reach; none where no window holds it. -/
def reachOf (ws : List (Nat × Nat)) (lo : Nat) : Option Nat :=
  (ws.filter (fun w => decide (w.1 ≤ lo) && decide (lo ≤ w.2))).foldl (fun m w => some (max (m.getD 0) w.2)) none

/-- Is every byte of a range in some window: the windows walked from one into the next (R91, R270)? -/
def coveredGo (ws : List (Nat × Nat)) : Nat → Nat → Nat → Bool
  | 0, _, _ => false
  | k + 1, lo, hi =>
    match reachOf ws lo with
    | none => false
    | some e => decide (hi ≤ e) || coveredGo ws k (e + 1) hi

def covered (ws : List (Nat × Nat)) (lo hi : Nat) : Bool := inWindows ws lo hi || coveredGo ws ws.length lo hi

def hostWins (j : Job) : List (Nat × Nat) := (j.owins.filter (fun w => w.2.2)).map (fun w => (w.1, w.1 + w.2.1 - 1))

def localWins (s : State) (j : Job) : List (Nat × Nat) :=
  (jobTiles j).map (fun t => (0x001800000000 + t * 0x400000, 0x001800000000 + t * 0x400000 + localBytes s - 1))

/-- The regions a job's accesses on the package may use: for a write, or any access with hint LAST, the output windows
and the operand stores of the tile set; for any other also the queue windows and the slice-local pools (R91, R270). -/
def regions (s : State) (j : Job) (wr : Bool) (hint : Hint) : List (Nat × Nat) :=
  deviceWins j ++ opstoreWins j ++ (if wr || hint == .last then [] else j.qwins ++ localWins s j)

/-- May a job make this access? Every byte of it lies in its regions, whichever of them (R91, R270); a LAST access is
checked over the whole lines it drops (R195). -/
def allowed (s : State) (j : Job) (wr : Bool) (hint : Hint) (lo hi : Nat) : Bool :=
  let line := hint == .last && decide (lo ≥ 0x100000000000)
  covered (regions s j wr hint) (if line then lo / 256 * 256 else lo) (if line then hi / 256 * 256 + 255 else hi)

/-! ## Element accesses -/

/-- How an element access ended. -/
inductive EAcc where
  | val (v : Nat)
  | poison
  | failed
  | outside
  | context
deriving DecidableEq, Repr, Inhabited

/-- The word a command read last, whose next elements need no access of their own, and the line that a LAST access of it
dropped: the words of a line that a command reads one after the other are one access to the line (R194). -/
abbrev RBuf := Option (Nat × RdRes × Option Line)

/-- The line that holds a word and that a LAST access would drop. -/
def dropped (s : State) (how : How) (a : Nat) : Option Line :=
  if how.hint = .last then
    match homeOf s a with
    | .hbm b line _ => (findLine s b line).filter (fun l => !l.pinned)
    | _ => none
  else none

/-- Is this the word's line, out of the cache since and with its way free? -/
def stillGone (s : State) (a : Nat) (l : Line) : Bool :=
  match homeOf s a with
  | .hbm b line _ => l.b == b && l.line == line &&
      s.lines.all (fun x => !(x.b == b && lineSet s x.line == lineSet s line && (x.line == line || x.way == l.way)))
  | _ => false

/-- A word read for a command, with what its next read may use. -/
def readBuf (how : How) (b : RBuf) (s : State) (a : Nat) : RdRes × RBuf × State :=
  let fresh :=
    let k := dropped s how a
    let r := readWord s how a []
    (r.1, some (a, r.1, k), r.2)
  match b with
  | some (x, r, k) =>
    if x = a then (r, b, s)
    else
      match k with
      | some l =>
        if stillGone s a l then
          let r := readWord (putLine s l) { how with hint := .stream } a []
          (r.1, some (a, r.1, findLine r.2 l.b l.line), dropLine r.2 l.b l.line)
        else fresh
      | none => fresh
  | none => fresh

/-- The bytes from `a` on, each byte address modulo 2^48, read word by word. -/
def readBytesB (how : How) : Nat → RBuf → State → Nat → Nat → EAcc × List Byte × RBuf × State
  | 0, b, s, _, _ => (.val 0, [], b, s)
  | fuel + 1, b, s, a, n =>
    if n = 0 then (.val 0, [], b, s)
    else
      let a := a % 2 ^ 48
      let k := min n (64 - a % 64)
      match readBuf how b s (a / 64 * 64) with
      | (.data d, b, s) =>
        let r := readBytesB how fuel b s (a + k) (n - k)
        (r.1, (d.drop (a % 64)).take k ++ r.2.1, r.2.2)
      | (.poison, b, s) => (.poison, [], b, s)
      | (.failed, b, s) => (.failed, [], b, s)

def readBytes (how : How) (fuel : Nat) (s : State) (a n : Nat) : EAcc × List Byte × State :=
  let r := readBytesB how fuel none s a n
  (r.1, r.2.1, r.2.2.2)

/-- May a job reach an element of `w` bits at a bit address? A byte range wraps modulo 2^48. -/
def elemOk (s : State) (j : Job) (wr : Bool) (hint : Hint) (ba w : Nat) : Bool :=
  let lo := ba / 8
  let hi := (lo + (ba % 8 + w + 7) / 8 - 1) % 2 ^ 48
  if lo ≤ hi then allowed s j wr hint lo hi
  else allowed s j wr hint lo (2 ^ 48 - 1) && allowed s j wr hint 0 hi

/-- An element of `w` bits at a bit address, read for a job. -/
def readElemB (s : State) (j : Job) (how : How) (b : RBuf) (ba w : Nat) : EAcc × RBuf × State :=
  if !elemOk s j false how.hint ba w then (.outside, b, s)
  else
    let n := (ba % 8 + w + 7) / 8
    match readBytesB how (n + 1) b s (ba / 8) n with
    | (.val _, d, b, s) => (.val (leNat d / 2 ^ (ba % 8) % 2 ^ w), b, s)
    | (r, _, b, s) => (r, b, s)

def readElem (s : State) (j : Job) (how : How) (ba w : Nat) : EAcc × State :=
  let r := readElemB s j how none ba w
  (r.1, r.2.2)

/-! ## Words written from elements

A command's elements are put together word by word, so that a word it covers whole is written without a read (R254), and
a word it covers in part is a sub-word write (R162, R57). -/

/-- `w` bits at bit `o` of a word set in the words being put together, newest first. -/
def pendSet (a o w v : Nat) (poison : Bool) : List PendWord → List PendWord
  | [] => []
  | x :: r =>
    if x.addr = a then
      { x with v := x.v - x.v / 2 ^ o % 2 ^ w * 2 ^ o + v * 2 ^ o,
               m := x.m - x.m / 2 ^ o % 2 ^ w * 2 ^ o + (2 ^ w - 1) * 2 ^ o, poison := x.poison || poison } :: r
    else x :: pendSet a o w v poison r

def pendPart (p : List PendWord) (a o w v : Nat) (poison : Bool) : List PendWord :=
  if p.any (fun x => x.addr == a) then pendSet a o w v poison p
  else { addr := a, v := v * 2 ^ o, m := (2 ^ w - 1) * 2 ^ o, poison := poison } :: p

/-- An element of `w` bits put in at a bit address; poison in any part of a word makes it poison (R240, R241). -/
def pendElem (p : List PendWord) (ba w v : Nat) (poison : Bool) : List PendWord :=
  let a := ba / 512 * 64
  let o := ba % 512
  if o + w ≤ 512 then pendPart p a o w (v % 2 ^ w) poison
  else
    let k := 512 - o
    pendPart (pendPart p a o k (v % 2 ^ k) poison) ((a + 64) % 2 ^ 48) 0 (w - k) (v / 2 ^ k % 2 ^ (w - k)) poison

def fullMask : Nat := 2 ^ 512 - 1

/-- One word written: whole, as poison, or as a sub-word write. -/
def flushWord (s : State) (how : How) (x : PendWord) : RdRes × State :=
  if x.poison then (.data [], writePoison s how x.addr)
  else if x.m = fullMask then (.data [], writeWord s how x.addr (leBytes 64 x.v))
  else modifyWord s how x.addr false (fun d => leBytes 64 ((leNat d &&& (fullMask - x.m)) ||| x.v))

/-- The words written in order; `bad` notes a failed read. A sub-word write into poison ends them (R240). -/
def flushWords (how : How) : List PendWord → Bool → State → EAcc × State
  | [], bad, s => (if bad then .failed else .val 0, s)
  | x :: r, bad, s =>
    match flushWord s how x with
    | (.data _, s) => flushWords how r bad s
    | (.poison, s) => (.poison, s)
    | (.failed, s) => flushWords how r true s

def flush (s : State) (how : How) (p : List PendWord) : EAcc × State := flushWords how p.reverse false s

/-- An element put in for a job, if the job may write it. -/
def stageElem (s : State) (j : Job) (how : How) (p : List PendWord) (ba w v : Nat) (poison : Bool) : Option (List PendWord) :=
  if elemOk s j true how.hint ba w then some (pendElem p ba w v poison) else none

/-- Has a request failed (R173, R177)? -/
def EAcc.fails : EAcc → Bool
  | .failed => true
  | .context => true
  | _ => false

/-- The cause of an access that ended a command, if it faults its job: outside, poison consumed, or a reduction
context error. -/
def EAcc.cause : EAcc → Option Nat
  | .outside => some 0x25
  | .poison => some 0x31
  | .context => some 0x30
  | _ => none

/-- A row of elements through a generator: columns below the row product; padded positions read zero, and `none`
marks them. -/
def readRowB (s : State) (j : Job) (how : How) (g : Gen) (a0 m : Nat) : Nat → RBuf → List (Option Nat) → EAcc × List (Option Nat) × State
  | 0, _, acc => (.val 0, acc.reverse, s)
  | k + 1, b, acc =>
    let r := g.rows - (k + 1)
    let ix := g.index r m
    if g.padded ix then readRowB s j how g a0 m k b (none :: acc)
    else
      match readElemB s j how b (g.bitAddr a0 ix) g.width with
      | (.val v, b, s) => readRowB s j how g a0 m k b (some v :: acc)
      | (e, _, s) => (e, acc.reverse, s)

def readRow (s : State) (j : Job) (how : How) (g : Gen) (a0 m n : Nat) : EAcc × List (Option Nat) × State :=
  readRowB s j how g a0 m n none []

/-- A row of values put in through a generator; padded positions are not written (R89). -/
def stageRow (s : State) (j : Job) (how : How) (g : Gen) (a0 m : Nat) : Nat → List Nat → List PendWord → Option (List PendWord)
  | _, [], p => some p
  | r, v :: rest, p =>
    if r ≥ g.rows then some p
    else
      let ix := g.index r m
      if g.padded ix then stageRow s j how g a0 m (r + 1) rest p
      else
        match stageElem s j how p (g.bitAddr a0 ix) g.width v false with
        | some p => stageRow s j how g a0 m (r + 1) rest p
        | none => none

/-- Does row m of a generator read a word that is being put together? -/
def rowMeets (s : State) (t : Nat) (g : Gen) (m : Nat) (p : List PendWord) : Bool :=
  let sp := g.span s t
  p.any (fun x => decide (sp.1 ≤ x.addr + 63) && decide (x.addr ≤ sp.2)) &&
    (List.range g.rows).any (fun r =>
      let ba := g.bitAddr (g.a0 s t) (g.index r m)
      p.any (fun x => x.addr == ba / 512 * 64 || x.addr == (ba + g.width - 1) / 512 * 64))

/-- The words being put together written before a row that one of them meets is read. -/
def flushFor (s : State) (t : Nat) (how : How) (g : Gen) (m : Nat) (p : List PendWord) : EAcc × List PendWord × State :=
  if rowMeets s t g m p then
    match flush s how p with
    | (e, s) => (e, [], s)
  else (.val 0, p, s)

end Sys2Proof.Machine
end

