-- ==== Sys2Proof/Machine/Issue.lean ====
section
/-! DEFINITION. Decode and issue: the checks a word meets in the order of Table 3.21, and what keeps a word from
issuing (R80 to R85). -/

namespace Sys2Proof.Machine

/-- The first cause whose condition holds. -/
def firstCause : List (Bool × Nat) → Option Nat
  | [] => none
  | (b, c) :: r => if b then some c else firstCause r

/-- Opcodes of Table 3.3. -/
def knownOpcode (o : Nat) : Bool :=
  [0x01, 0x02, 0x03, 0x04, 0x05, 0x06, 0x07, 0x10, 0x11, 0x12, 0x13, 0x20, 0x21, 0x22, 0x23, 0x24, 0x30, 0x3F].contains o

/-- Bits [hi:lo] that must be zero are not. -/
def nz (w hi lo : Nat) : Bool := bits w hi lo != 0

def gen (v : Tile) (g : Nat) : Gen := v.gens.getD (g % 8) Gen.reset

/-! ## Array words (Tables 3.10 to 3.12, R94, R95) -/

/-- Bytes of an array row that LDS reads, by LW. -/
def ldsRowBytes (lw : Nat) : Nat :=
  match lw with
  | 0 => 64 | 1 => 64 | 2 => 1024 | _ => 48

/-- 32-row blocks of scales that LDS loads: a byte of LW 0 can hold two K rows. -/
def ldsScaleBlocks (lw rows : Nat) : Nat := if lw = 0 then (2 * rows + 31) / 32 else (rows + 31) / 32

def checkLds (w : Nat) : Option Nat :=
  let rows := bits w 109 104 + 1
  let lw := bits w 111 110
  let stop := bits w 103 84 + (rows - 1) * bits w 83 64 + ldsRowBytes lw
  let sstop := bits w 63 44 + ldsScaleBlocks lw rows * 64
  firstCause [
    (nz w 117 112 || nz w 43 16 || bits w 83 64 % 64 != 0, 0x22),
    (decide (stop > 0x100000) || (bit1 w 118 && decide (sstop > 0x100000)), 0x25)]

/-- K per pass of a shape (Table 2.6). -/
def shapeK (sh : Nat) : Nat :=
  match sh with
  | 2 => 32 | 3 => 16 | _ => 64

/-- The opcode of a pass: 2 MMA, 3 CONV, 4 PQS, 5 BDS. -/
def passPair (w : Nat) : Bool := wOpcode w == 2 || wOpcode w == 3
def pA (w : Nat) : Nat := bits w 105 102
def pB (w : Nat) : Nat := bits w 101 98
def pHalf (w : Nat) : Bool := passPair w && pairHalf (pA w) (pB w)
def pFour (w : Nat) : Bool := wOpcode w == 2 && pairFour (pA w) (pB w)
def pMx (w : Nat) : Bool := wOpcode w == 2 && pairMx (pA w) (pB w)
def pShape (w : Nat) : Nat := bits w 108 106
def pDest (w : Nat) : Nat := bits w 79 77
def pOfmt (w : Nat) : Nat := bits w 73 70
def pCvt (w : Nat) : Bool := bit1 w 116
def pSeed (w : Nat) : Bool := bit1 w 117
def pAcc (w : Nat) : Bool := bit1 w 118
def pMirror (w : Nat) : Bool := bit1 w 113

/-- Output columns of a pass (R95). -/
def pCols (w : Nat) : Nat := (if pHalf w then 32 else 64) / (if pShape w = 1 then 2 else 1)

/-- The K a pass covers at most. -/
def pK (w : Nat) : Nat := if wOpcode w = 2 then shapeK (pShape w) * (if pFour w then 2 else 1) else 64

/-- The width of a streamed element. -/
def pWidth (w : Nat) : Nat := if wOpcode w = 4 then 4 else if wOpcode w = 5 then 128 else infmtWidth (pA w)

/-- Active rows (R95). -/
def pActive (w rows : Nat) : Nat := if pFour w then (rows + 1) / 2 else rows

/-- Does every element of a walk that is not padded lie where `p` lets its bytes lie (R89)? -/
def Gen.lies (g : Gen) (s : State) (t : Nat) (p : Nat × Nat → Bool) : Bool :=
  p (g.span s t) ||
    (g.pad && (List.range g.total).all (fun n =>
      let ix := g.flat n
      let b := g.bitAddr (g.a0 s t) ix
      g.padded ix || p (b / 8, (b + g.width - 1) / 8)))

/-- Does a walk lie entirely within the own operand store, or entirely within the own slice-local pool (R96)? -/
def ownRegion (s : State) (t : Nat) (g : Gen) : Bool :=
  g.lies s t (fun r => inWindows [(0x002000000000 + t * 0x100000, 0x002000000000 + t * 0x100000 + 0xFFFFF)] r.1 r.2) ||
    g.lies s t (fun r => inWindows [(0x001800000000 + t * 0x400000, 0x001800000000 + t * 0x400000 + localBytes s - 1)] r.1 r.2)

/-- The checks of a pass at decode (R93, R95, R96). The manual names no cause for some of them; the model takes (DESIGN
CHOICE, log 10) 0x22 for OFMT 0x8 to 0xC, which Table 3.8 defines for other commands, and 0x23 for a SHAPE other than 0 in
CONV, PQS and BDS and for a PQS FMTB that is neither 2 nor 3. OFMT is compared with the selection that is open in the selector
when the pass is decoded, and with none where none is, whatever TOPK words are queued before it (R95, DESIGN CHOICE, log 14). -/
def checkPass (s : State) (t w : Nat) : Option Nat :=
  let v := tile s t
  let sg := gen v (wSgen w)
  let og := gen v (bits w 76 74)
  let ag := gen v (bits w 69 67)
  let m := sg.beats
  let conv := wOpcode w == 3
  let pqs := wOpcode w == 4
  let bds := wOpcode w == 5
  let pshift := bits w 81 80
  let fw := bits w 65 63
  let pairOk := if conv then pairAllowed (pA w) (pB w) && (infmtClass (pA w) == .fp8 || infmtClass (pA w) == .int8 ||
      infmtClass (pA w) == .bf16 || infmtClass (pA w) == .fp16) && (infmtClass (pB w) != .int4)
    else if pqs then pB w == 2 || pB w == 3
    else if bds then true
    else pairAllowed (pA w) (pB w)
  let intPair := passPair w && pairInteger (pA w) (pB w)
  let selFmt := match v.sel with
    | some x => some (if x.fp then 0 else 6)
    | none => none
  firstCause [
    (nz w 112 112 || nz w 66 66 || nz w 62 48 || decide (pShape w > 3) || pshift == 3 || decide (pOfmt w > 7) ||
      (passPair w && (decide (pA w > 13) || decide (pB w > 13))) || (pqs && (pA w != 0 || decide (pB w > 13))) ||
      (bds && (pA w != 0 || pB w != 0)) || (!passPair w && pshift != 0) || (conv && fw == 0) || (!conv && fw != 0), 0x22),
    ((wOpcode w != 2 && pShape w != 0) || !pairOk || (pCvt w != (pDest w != 0)) ||
      (decide (m > 256) && !(pCvt w && !pAcc w && !pSeed w && !pMirror w)) ||
      (pSeed w && (pMx w || pHalf w)) || (pOfmt w == 7 && pDest w != 4) ||
      (bit1 (pDest w) 1 && selFmt.isSome && selFmt != some (pOfmt w)) ||
      (bit1 w 115 && pOfmt w != 3 && pOfmt w != 4) || (pshift != 0 && !intPair) || (pMx w && pShape w == 3), 0x23),
    (sg.width != pWidth w || decide (sg.rows > pK w) || decide (m > 65536) || (conv && sg.rows % fw != 0) ||
      (bit1 (pDest w) 2 && (og.width != ofmtWidth (pOfmt w) || og.beats != m || decide (og.rows > pCols w))) ||
      (pSeed w && (ag.width != 128 || ag.beats != m || decide (ag.rows > 64))) ||
      (pMx w && (ag.width != 8 || ag.beats != m || ag.rows != pK w / 32)), 0x24),
    (!ownRegion s t sg, 0x25)]

/-! ## TOPK and VEC words (Tables 3.13, 3.14, R100, R102) -/

/-- The checks of a TOPK word at decode. Whether a field that Table 3.13 gives to another subcommand must be zero is in no rule:
DESIGN CHOICE, one that is not zero has cause 0x22 (R100, log 14). -/
def checkTopk (w : Nat) : Option Nat :=
  let sub := bits w 111 108
  firstCause [
    (nz w 118 112 || nz w 96 96 || decide (sub > 3) || decide (bits w 107 99 > 255) || (sub != 2 && bit1 w 119) ||
      (sub != 0 && (nz w 98 97 || nz w 95 66)) || (sub == 0 && nz w 63 16) ||
      (sub == 3 && (nz w 107 99 || nz w 65 16)) || ((sub == 1 || sub == 2) && bits w 63 16 % 8 != 0), 0x22)]

def vVop (w : Nat) : Nat := bits w 111 106
def vD (w : Nat) : Nat := bits w 105 100
def vA (w : Nat) : Nat := bits w 99 94
def vB (w : Nat) : Nat := bits w 93 88
def vC (w : Nat) : Nat := bits w 87 82
def vGen (w : Nat) : Nat := bits w 65 63
def vReps (w : Nat) : Nat := bits w 81 66 + 1

/-- How many of a, b, c an operation reads (R102). -/
def vArity (vop : Nat) : Nat :=
  match vop with
  | 1 => 2 | 2 => 2 | 3 => 2 | 4 => 3 | 5 => 2 | 6 => 2 | _ => 1

def vSources (w : Nat) : List Nat := [vA w, vB w, vC w].take (vArity (vVop w))

/-- The checks of a VEC word at decode (R102). DESIGN CHOICE (log 10): a VD of 32, 33 or 63, and SFMT or DFMT 0x7 for a
memory operand, take cause 0x23, since the manual names none. -/
def checkVec (s : State) (t w : Nat) : Option Nat :=
  let v := tile s t
  let src := vSources w
  let resv := fun x => decide (35 ≤ x) && decide (x ≤ 62)
  let mem := src.contains 34
  let dst := vD w == 34
  let mxq := vVop w == 14
  let g := gen v (vGen w)
  let gd := gen v (vGen w + 1)
  let gs := gen v (vGen w + 2)
  let sf := bits w 62 59
  let df := bits w 58 55
  firstCause [
    (nz w 115 112 || nz w 54 48 || decide (vVop w > 14) || resv (vD w) || resv (vA w) || resv (vB w) || resv (vC w) ||
      decide (sf > 12) || decide (df > 12), 0x22),
    (src.contains 63 || ([vA w, vB w, vC w].drop (vArity (vVop w))).any (· != 63) ||
      (!mxq && (vD w == 32 || vD w == 33 || vD w == 63)) || (mxq && !(vD w == 34 || vD w == 63)) ||
      decide ((src.filter (· == 34)).length > 1) || decide ((src.filter (· == 32)).length > 1) ||
      (mem && sf == 7) || (dst && df == 7) || (mxq && (mxEmax df).isNone), 0x23),
    ((mem && (g.width != ofmtWidth sf || g.beats != vReps w || decide (g.rows > 64))) ||
      ((dst || mxq) && (gd.width != ofmtWidth df || gd.beats != vReps w || decide (gd.rows > 64))) ||
      (mxq && (gs.width != 8 || gs.beats != vReps w || decide (gs.rows > 2))), 0x24)]

/-! ## Move words (Tables 3.16 to 3.18, R103 to R106) -/

def checkMove (s : State) (t w : Nat) : Option Nat :=
  let v := tile s t
  let sg := gen v (wSgen w)
  let dg := gen v (wDgen w)
  let sides := [bit1 w 119, bit1 w 118, bit1 w 117, bit1 w 116]
  firstCause [
    (nz w 114 112 || nz w 86 16 || bits w 90 89 == 3, 0x22),
    (decide ((sides.filter id).length > 1) || ((bit1 w 119 || bit1 w 117) && decide (sg.bsel > 1)) ||
      ((bit1 w 118 || bit1 w 116) && decide (dg.bsel > 1)), 0x23),
    (sg.width != dg.width || sg.total != dg.total, 0x24)]

/-- May MOVEX read this range (R104): the Vault, or the operand stores of the tile set? -/
def movexSource (j : Job) (r : Nat × Nat) : Bool :=
  decide (r.1 ≤ r.2) && (decide (r.2 < 0x002000000000) || inWindows (opstoreWins j) r.1 r.2)

def checkMovex (s : State) (t w : Nat) : Option Nat :=
  let v := tile s t
  let sg := gen v (wSgen w)
  let dg := gen v (wDgen w)
  let shape := fun (g : Gen) => g.counts.take 2 == [64, 64]
  let blocks := fun (g : Gen) => g.product (fun l => decide (l ≥ 2))
  firstCause [
    (nz w 119 112 || nz w 105 91 || nz w 86 16 || bits w 90 89 == 3, 0x22),
    (sg.width != dg.width || !(sg.width == 8 || sg.width == 16 || sg.width == 32) || !shape sg || !shape dg ||
      blocks sg != blocks dg, 0x24),
    ((match jobOf s t with
      | some (_, j) => !sg.lies s t (movexSource j)
      | none => true), 0x25)]

def gRows (w : Nat) (v : Tile) : Nat := (gen v (wSgen w)).total
def gLen (w : Nat) : Nat := (bits w 105 102 + 1) * 64

def checkGather (s : State) (t w : Nat) (scatter : Bool) : Option Nat :=
  let v := tile s t
  let ig := gen v (wSgen w)
  let dg := gen v (wDgen w)
  let rop := bits w 85 82
  firstCause [
    (nz w 118 112 || bits w 79 32 % 64 != 0 || (!scatter && (bits w 85 84 == 3 || nz w 31 16)) ||
      (scatter && (decide (rop > 9) || (rop != 5 && nz w 31 16))), 0x22),
    ((!bit1 w 119 && ig.width != 32) || dg.total * dg.width != gRows w v * gLen w * 8, 0x24)]

/-! ## Synchronisation and generator words (Tables 3.5, 3.19) -/

def sFlag (w : Nat) : Nat := bits w 108 103
def sN (w : Nat) : Nat := bits w 102 87
def sTile (w : Nat) : Nat := bits w 86 71

def checkSig (s : State) (t w : Nat) : Option Nat :=
  firstCause [
    (nz w 119 112 || nz w 53 16 || decide (bits w 111 109 > 4) || decide (sFlag w > 47) || sN w == 0, 0x22),
    (bit1 w 70 && bit1 w 69, 0x23),
    (!bit1 w 70 && !bit1 w 69 && (match jobOf s t with
      | some (_, j) => !(jobTiles j).contains (sTile w)
      | none => true), 0x25)]

def checkWait (w : Nat) : Option Nat :=
  firstCause [(nz w 119 109 || nz w 86 16 || decide (sFlag w > 47) || sN w == 0, 0x22)]

def checkBar (w : Nat) : Option Nat := firstCause [(nz w 119 112 || nz w 91 16 || bits w 111 92 % 16 != 0, 0x22)]
def checkFence (w : Nat) : Option Nat := firstCause [(nz w 119 112 || nz w 107 16 || bits w 111 108 == 0, 0x22)]
def checkEnd (w : Nat) : Option Nat := firstCause [(nz w 119 16, 0x22)]

def checkAgen (w : Nat) : Option Nat :=
  let p := bits w 108 106
  firstCause [(nz w 119 112 || p == 7 || (p == 0 && decide (bits w 55 53 > 5)) || (p == 1 && nz w 72 16) ||
    (decide (p ≥ 2) && nz w 41 16), 0x22)]

/-- Every check of decode on a word, lowest cause first (R82). -/
def checkWord (s : State) (t w : Nat) : Option Nat :=
  if bits w 15 0 != wordCrc w then some 0x20
  else if !knownOpcode (wOpcode w) then some 0x21
  else
    match wOpcode w with
    | 0x01 => checkLds w
    | 0x06 => checkTopk w
    | 0x07 => checkVec s t w
    | 0x10 => checkMove s t w
    | 0x11 => checkMovex s t w
    | 0x12 => checkGather s t w false
    | 0x13 => checkGather s t w true
    | 0x20 => checkSig s t w
    | 0x21 => checkWait w
    | 0x22 => checkWait w
    | 0x23 => checkBar w
    | 0x24 => checkFence w
    | 0x30 => checkAgen w
    | 0x3F => checkEnd w
    | _ => checkPass s t w

/-! ## Issue -/

/-- The word next to decode at a tile, where its sequencer may issue (R83). -/
def headWord (s : State) (t : Nat) : Option (Option Nat) :=
  let v := tile s t
  if s.main = .ready && s.power = .run && v.running && v.block.isNone && decide (v.word < v.words) then v.buf.head?
  else none

/-- The word leaves decode; nothing is left of the program where its job has faulted. -/
def nextWord (s : State) (t : Nat) : State :=
  let v := tile s t
  if !v.running then s else setTile s t { v with word := v.word + 1, buf := v.buf.drop 1 }

/-- The fault of a tile's job at its present word. -/
def tileFault (s : State) (t cause : Nat) : State :=
  match (tile s t).job with
  | some j => jobFault s j cause t (tile s t).word
  | none => s

/-- A word at decode given to its meaning: a poisoned word, a rejected one, and a last word that is not END fault
the job (R80, R82, R241); a word that this command is not leaves everything as it is. -/
def issue (s : State) (t : Nat) (mine : Nat → Bool) (run : State → Nat → State) : State :=
  match headWord s t with
  | none => s
  | some none => tileFault s t 0x31
  | some (some w) =>
    if !mine w then s
    else
      match checkWord s t w with
      | some c => tileFault s t c
      | none =>
        if (tile s t).word + 1 = (tile s t).words && wOpcode w != 0x3F then tileFault s t 0x2B
        else run s w

/-- A command put into its engine's queue; the engine is no longer idle, and the tile is not quiet. -/
def enqueue (s : State) (t : Nat) (e : Engine) (c : QCmd) : State :=
  match (tile s t).job with
  | none => s
  | some _ =>
    let v := tile s t
    let s := unquiet (setTile s t (withQ v e (qOf v e ++ [c]))) t
    nextWord s t

/-- May a word go to its engine now: room in the queue and no hazard (R83, R85)? -/
def canIssue (s : State) (t : Nat) (e : Engine) (reads writes : List (Nat × Nat)) : Bool :=
  let v := tile s t
  decide ((qOf v e).length < 8) && !hazard v reads writes

/-- How a command's work ended: done, still to do with how far it came, its transfer, a job fault, or a failed request
(R178). -/
inductive Work where
  | done
  | waits (reps : Nat)
  | xfer (x : Nat)
  | fault (cause : Nat)
  | failed
deriving DecidableEq, Repr, Inhabited

/-- The entry of a word as it issues: it captures every generator (R87). -/
def newEntry (s : State) (t w : Nat) (reads writes : List (Nat × Nat)) : QCmd :=
  { word := w, idx := (tile s t).word, gens := (tile s t).gens, reads := reads, writes := writes, done := false, reps := 0,
    xfer := none, stuck := false }

/-- A word that its engine takes now; otherwise everything stays as it is (R83). -/
def submit (s : State) (t : Nat) (e : Engine) (w : Nat) (reads writes : List (Nat × Nat)) : State :=
  if canIssue s t e reads writes then enqueue s t e (newEntry s t w reads writes) else s

/-- A generator that a command captured. -/
def cgen (c : QCmd) (g : Nat) : Gen := c.gens.getD (g % 8) Gen.reset

/-- Is a command a pass of the array? -/
def isPass (c : QCmd) : Bool := decide (2 ≤ wOpcode c.word) && decide (wOpcode c.word ≤ 5)

end Sys2Proof.Machine
end

