-- ==== Sys2Proof/Machine/Array.lean ====
section
/-! DEFINITION. The array: stationary loads, passes, accumulator slots and column ends (LDS, MMA, CONV, PQS, BDS). -/

namespace Sys2Proof.Machine

/-! ## LDS (R94) -/

/-- `n` rows of `len` bytes read from an operand store, `pitch` bytes apart. -/
def readRows (s : State) (t : Nat) (off pitch len : Nat) : Nat → EAcc × List (List Byte) × State
  | 0 => (.val 0, [], s)
  | n + 1 =>
    match readRows s t off pitch len n with
    | (.val _, rows, s) =>
      let r := readBytes (plain (.tile t)) (len / 64 + 2) s (0x002000000000 + t * 0x100000 + off + n * pitch) len
      (r.1, rows ++ [r.2.1], r.2.2)
    | (e, rows, s) => (e, rows, s)

/-- Does an LDS wait for the drain of an earlier pass on its bank (R49)? -/
def ldsWaits (v : Tile) (c : QCmd) : Bool :=
  (v.qArray.takeWhile (fun p => p.idx != c.idx)).any (fun p => isPass p && bit1 p.word 119 == bit1 c.word 119)

/-- The block of an LDS loaded into its bank, with its scales, once no pass uses the bank (R49). -/
def ldsWork (t : Nat) (c : QCmd) (s : State) (_ : Job) : Work × State :=
  let w := c.word
  let lw := bits w 111 110
  let rows := bits w 109 104 + 1
  if ldsWaits (tile s t) c then (.waits 0, s)
  else
    match readRows s t (bits w 103 84) (bits w 83 64) (ldsRowBytes lw) rows with
    | (.val _, cells, s) =>
      let sc := if bit1 w 118 then readRows s t (bits w 63 44) 64 64 (ldsScaleBlocks lw rows) else (.val 0, [], s)
      match sc with
      | (.val _, scales, s) =>
        let v := tile s t
        let b : Bank := { loaded := true, lw := lw, rows := rows, scl := bit1 w 118, cells := cells, scales := scales }
        (.done, setTile s t { v with banks := v.banks.set (if bit1 w 119 then 1 else 0) b })
      | (.failed, _, s) => (.failed, s)
      | (_, _, s) => (.fault 0x31, s)
    | (.failed, _, s) => (.failed, s)
    | (_, _, s) => (.fault 0x31, s)

/-- The operand store ranges an LDS reads. -/
def ldsReads (s : State) (t w : Nat) : List (Nat × Nat) :=
  let b := 0x002000000000 + t * 0x100000
  let lw := bits w 111 110
  let rows := bits w 109 104 + 1
  hazardParts s t (b + bits w 103 84, b + bits w 103 84 + (rows - 1) * bits w 83 64 + ldsRowBytes lw - 1) ++
    (if bit1 w 118 then hazardParts s t (b + bits w 63 44, b + bits w 63 44 + ldsScaleBlocks lw rows * 64 - 1) else [])

/-! ## Cells and columns (Tables 2.2, 2.3) -/

def bankByte (b : Bank) (i k : Nat) : Nat := ((b.cells.getD i []).getD k 0#8).toNat

/-- Bits [lo + n − 1 : lo] of a stationary row. -/
def bankBits (b : Bank) (i lo n : Nat) : Nat := leNat ((b.cells.getD i []).drop (lo / 8) |>.take (n / 8 + 2)) / 2 ^ (lo % 8) % 2 ^ n

/-- The stationary element of K row k in column j. -/
def stationary (w : Nat) (b : Bank) (k j : Nat) : Num :=
  let f := pB w
  if pFour w then decodeInfmt f (bankByte b (k / 2) j / (if k % 2 = 0 then 1 else 16) % 16)
  else
    match infmtWidth f with
    | 4 => decodeInfmt f (bankByte b k j % 16)
    | 6 => decodeInfmt f (bankBits b k (6 * j) 6)
    | 16 => decodeInfmt f (bankBits b k (16 * j) 16)
    | _ => decodeInfmt f (bankByte b k j)

/-- A product with the pass's shift and negation (R72). -/
def contribution (w : Nat) (a b : Num) : Num :=
  let p := match a.mul b with
    | .fin n m e => .fin n m (e + (8 * bits w 81 80 : Nat))
    | x => x
  if bit1 w 114 then p.negate else p

def zeroNum : Num := .fin false 0 0

/-- The streamed elements of a row as values; a padded position is an exact zero (R89). -/
def streamed (w : Nat) (row : List (Option Nat)) : List Num :=
  row.map (fun x => match x with
    | none => zeroNum
    | some v => decodeInfmt (pA w) v)

/-- The exact sum of one column over the K rows `ks` (R59, R61). -/
def exactColumn (w : Nat) (b : Bank) (xs : List (Num × Nat)) (j : Nat) : Exact :=
  xs.foldl (fun acc x => acc.addNum (contribution w x.1 (stationary w b x.2 j))) Exact.zero

/-- The column sum of PQS (R71): a padded code adds no entry. -/
def pqsColumn (w : Nat) (b : Bank) (row : List (Option Nat)) (j : Nat) : Exact :=
  row.zipIdx.foldl (fun acc x =>
    match x.1 with
    | none => acc
    | some c =>
      let e := bankByte b x.2 (16 * j + c)
      let v : Int := if pB w = 2 then signedOf 8 e else (e : Int)
      acc.addNum (if bit1 w 114 then Num.ofInt (-v) else Num.ofInt v)) Exact.zero

/-- The bits set in a number below 2^n. -/
def popcount : Nat → Nat → Nat
  | 0, _ => 0
  | n + 1, v => v % 2 + popcount n (v / 2)

/-- The column sum of BDS (R70): the Hamming distance over the active rows. -/
def bdsColumn (w : Nat) (b : Bank) (row : List (Option Nat)) (j : Nat) : Exact :=
  row.zipIdx.foldl (fun acc x =>
    match x.1 with
    | none => acc
    | some v =>
      let d : Int := (popcount 128 (v ^^^ bankBits b x.2 (128 * j) 128) : Nat)
      acc.addNum (if bit1 w 114 then Num.ofInt (-d) else Num.ofInt d)) Exact.zero

/-- The FP32 sum of one output column in BF16 and FP16 modes (R67). -/
def halfColumn (w : Nat) (b : Bank) (xs : List (Num × Nat)) (p : Nat) : F32 :=
  xs.foldl (fun acc x => f32Add acc (f32Enc (contribution w x.1 (stationary w b x.2 p)))) 0#32

/-- The blocks of one column in MX modes (R66): each summed exactly, scaled, rounded once. -/
def mxBlocks (w : Nat) (b : Bank) (xs : List (Num × Nat)) (scales : List Nat) (j : Nat) : List F32 :=
  scales.zipIdx.map (fun sc =>
    let blk := xs.filter (fun x => x.2 / 32 == sc.2)
    let v := (exactColumn w b blk j).num
    let eb := ((b.scales.getD sc.2 []).getD j 0#8).toNat
    f32Enc ((v.mul (e8m0 sc.1)).mul (e8m0 eb)))

/-! ## Slots -/

def slot (v : Tile) (n : Nat) : Slot := SMap.get v.slots n Slot.reset

def passFp (w : Nat) : Bool := pMx w || pHalf w

/-- What a pass adds to a slot in one streamed row: exact sums, or FP32 terms in their order. -/
structure RowSum where
  exact : List Exact
  terms : List (List F32)
deriving DecidableEq, Repr, Inhabited

/-- The sums of every column for one streamed row. -/
def rowSum (w : Nat) (b : Bank) (row : List (Option Nat)) (scales : List Nat) : RowSum :=
  let xs := (streamed w row).zipIdx
  let cols := pCols w
  if wOpcode w = 4 then { exact := (List.range 64).map (pqsColumn w b row), terms := [] }
  else if wOpcode w = 5 then { exact := (List.range 64).map (bdsColumn w b row), terms := [] }
  else if pHalf w then
    { exact := [], terms := (List.range 64).map (fun p => if p < cols then [halfColumn w b xs p] else []) }
  else if pMx w then
    { exact := [], terms := (List.range 64).map (fun j => if j < cols then mxBlocks w b xs scales j else []) }
  else { exact := (List.range 64).map (fun j => if j < cols then exactColumn w b xs j else Exact.zero), terms := [] }

/-- A slot after a row's sums: overwritten, or added to (R66, R67, R68). A pass in BF16 or FP16 mode keeps its output
column p at column p of the slot, and sets the columns from its output columns on to zero; so an MX pass that adds to
such a slot adds its column p to output column p (DESIGN CHOICE, log 10: the manual does not say which columns meet). -/
def updateSlot (w : Nat) (active : Nat) (add : Bool) (sl : Slot) (r : RowSum) : Slot :=
  let add := add && sl.kind != .none
  if passFp w then
    let base := if add then sl.fp else List.replicate 64 0#32
    { kind := .fp32, rows := (if add then sl.rows else 0) + active, exact := List.replicate 64 Exact.zero,
      fp := List.zipWith (fun a ts => match add, ts with
        | false, t :: r => r.foldl f32Add t
        | _, ts => ts.foldl f32Add a) base r.terms }
  else
    { kind := .exact, rows := (if add then sl.rows else 0) + active, fp := List.replicate 64 0#32,
      exact := if add then List.zipWith Exact.add sl.exact r.exact else r.exact }

/-- The value of a slot's column at conversion (R61, R64). -/
def slotNum (sl : Slot) (j : Nat) : Num :=
  match sl.kind with
  | .fp32 => f32Dec (sl.fp.getD j 0#32)
  | _ => (sl.exact.getD j Exact.zero).num

/-- The converted results of a slot, column by column, and how many saturated or came from a flag. -/
def convertRow (w : Nat) (sl : Slot) : List Nat × Nat :=
  let sc := BitVec.ofNat 32 (bits w 47 16)
  let rs := (List.range (pCols w)).map (fun j =>
    if pOfmt w = 7 then ((sl.exact.getD j Exact.zero).wide.toNat, (sl.exact.getD j Exact.zero).flags.any)
    else convertSlot (pOfmt w) (bit1 w 115) sc (slotNum sl j))
  (rs.map (·.1), (rs.filter (·.2)).length)

/-! ## The selector's lists (R74 to R76) -/

/-- Is a better than b in a selection? The index settles ties. -/
def better (sel : Selection) (a b : F32 × Nat) : Bool :=
  let lower : Option Bool :=
    if sel.fp then
      let x := f32Dec a.1
      let y := f32Dec b.1
      if x.isNan && y.isNan then none
      else if x.isNan then some sel.maximum
      else if y.isNan then some (!sel.maximum)
      else if x.lt y then some true
      else if y.lt x then some false
      else none
    else if a.1.toInt < b.1.toInt then some true
    else if b.1.toInt < a.1.toInt then some false
    else none
  match lower with
  | some l => if sel.maximum then !l else l
  | none => decide (a.2 < b.2)

/-- A candidate put into a list ordered best first. -/
def insertCand (sel : Selection) (c : F32 × Nat) : List (F32 × Nat) → List (F32 × Nat)
  | [] => [c]
  | x :: r => if better sel c x then c :: x :: r else x :: insertCand sel c r

/-- A candidate offered to column j: the k best stay. -/
def offer (sel : Selection) (j : Nat) (c : F32 × Nat) : Selection :=
  { sel with cands := sel.cands.set j ((insertCand sel c (sel.cands.getD j [])).take sel.k) }

/-! ## A pass (R44, R45, R95 to R99) -/

/-- The causes a pass can fault with at execution, lowest first (R45, R51, R60, R68, R75, R94, R100). A slot in the
primary and in the mirror range takes the active rows twice (R60). -/
def passCause (s : State) (t : Nat) (c : QCmd) : Option Nat :=
  let w := c.word
  let v := tile s t
  let sg := cgen c (wSgen w)
  let m := sg.beats
  let active := pActive w sg.rows
  let b := v.banks.getD (bits w 119 119) Bank.empty
  let lw := if wOpcode w = 4 || wOpcode w = 5 then 2 else lwOfFormat (pB w)
  let keeps := decide (m ≤ 256)
  let inFirst := fun n => decide (bits w 97 90 ≤ n) && decide (n < bits w 97 90 + m)
  let inMirror := fun n => pMirror w && decide (bits w 89 82 ≤ n) && decide (n < bits w 89 82 + m)
  let used := (List.range 256).filter (fun n => inFirst n || inMirror n)
  let seeded := fun n => pSeed w && inFirst n
  let base := fun n => if seeded n || (slot v n).kind == .none then 0 else (slot v n).rows
  let rowsOf := fun n =>
    if pAcc w then base n + active * ((if inFirst n then 1 else 0) + (if inMirror n then 1 else 0)) else active
  let kind := if passFp w then SlotKind.fp32 else SlotKind.exact
  firstCause [
    (!b.loaded || b.lw != lw || decide (active > b.rows) || (pMx w && (!b.scl || decide (b.scales.length < pK w / 32))), 0x26),
    (keeps && (decide (bits w 97 90 + m > 256) || (pMirror w && decide (bits w 89 82 + m > 256))), 0x27),
    (keeps && used.any (fun n => decide (rowsOf n > 2 ^ 24)), 0x28),
    (keeps && used.any (fun n => pAcc w && !seeded n && (slot v n).kind != .none && (slot v n).kind != kind) ||
      (pOfmt w == 7 && pCvt w && passFp w), 0x29),
    (bit1 (pDest w) 1 && (match v.sel with
      | none => true
      | some x => decide (x.base + m > 0xFFFFFFFF)), 0x2A)]

/-- What a row's results go to: the writer, the selector, the vector queue (Table 2.3, step 4). `none` is a write
outside what the job may write. DESIGN CHOICE (log 10): a pass with fewer than 64 output columns offers the selector no
candidate for the other columns, and puts +0 in those lanes of its vector-queue row (R74, R102 leave both open). -/
def deliver (s : State) (j : Job) (t w m : Nat) (og : Gen) (res : List Nat) (p : List PendWord) : Option (List PendWord) × State :=
  let p := if bit1 (pDest w) 2 then stageRow s j (plain (.tile t)) og (og.a0 s t) m 0 res p else some p
  let v := tile s t
  let v := if bit1 (pDest w) 1 then
      match v.sel with
      | none => v
      | some sel =>
        { v with sel := some (res.zipIdx.foldl (fun x r => offer x r.2 (BitVec.ofNat 32 r.1, sel.base + m)) sel) }
    else v
  let v := if bit1 (pDest w) 0 then
      { v with vq := v.vq ++ [(List.range 64).map (fun i =>
          match res[i]? with
          | some x => f32Enc (decodeOfmt (pOfmt w) x)
          | none => 0#32)] }
    else v
  match p with
  | some p => (some p, setTile s t v)
  | none => (none, s)

/-- A slot seeded with a row of wide partials; columns beyond the row product are zero (R99). -/
def seedSlot (row : List (Option Nat)) : Slot :=
  { kind := .exact, rows := 0, fp := List.replicate 64 0#32,
    exact := (List.range 64).map (fun i => match row[i]? with
      | some (some x) => wideDecode (BitVec.ofNat 128 x)
      | _ => Exact.zero) }

/-- The slots that a pass seeds, a row each, read as the pass's first row reaches the column end (R98). -/
def seedRows (j : Job) (t w : Nat) (ag : Gen) : Nat → Nat → State → EAcc × State
  | 0, _, s => (.val 0, s)
  | k + 1, m, s =>
    match readRow s j (plain (.tile t)) ag (ag.a0 s t) m ag.rows with
    | (.val _, arow, s) =>
      let v := tile s t
      seedRows j t w ag k (m + 1) (setTile s t { v with slots := SMap.put v.slots (bits w 97 90 + m) (seedSlot arow) })
    | (e, _, s) => (e, s)

/-- The slots of streamed row m updated: the first range, then the mirror range (Table 2.3, step 3). -/
def putRowSlots (w m active : Nat) (r : RowSum) (slots : SMap Slot) : SMap Slot :=
  let one := fun (slots : SMap Slot) (n : Nat) =>
    SMap.put slots n (updateSlot w active (pAcc w) (SMap.get slots n Slot.reset) r)
  let slots := one slots (bits w 97 90 + m)
  if pMirror w then one slots (bits w 89 82 + m) else slots

/-- Streamed row m of a pass: stream and scale reads, the slots, then the conversion and its destinations (Table 2.3).
What the conversion counts stands in the command's status (R65). -/
def passRow (j : Job) (t m : Nat) (c : QCmd) (p : List PendWord) (s : State) : EAcc × List PendWord × State :=
  let w := c.word
  let sg := cgen c (wSgen w)
  let og := cgen c (bits w 76 74)
  let ag := cgen c (bits w 69 67)
  let how := plain (.tile t)
  match readRow s j how sg (sg.a0 s t) m sg.rows with
  | (.val _, row, s) =>
    let aux := if pMx w then readRow s j how ag (ag.a0 s t) m ag.rows else (.val 0, [], s)
    match aux with
    | (.val _, arow, s) =>
      let v := tile s t
      let b := v.banks.getD (bits w 119 119) Bank.empty
      let r := rowSum w b row (arow.map (fun x => x.getD 0))
      let active := pActive w sg.rows
      let keeps := decide (sg.beats ≤ 256)
      let slots := if keeps then putRowSlots w m active r v.slots else v.slots
      let v := { v with slots := slots }
      if pCvt w then
        let x := convertRow w (if keeps then slot v (bits w 97 90 + m) else updateSlot w active (pAcc w) Slot.reset r)
        let v := { v with cvtSat := SMap.set v.cvtSat c.idx (SMap.get v.cvtSat c.idx 0 + x.2) 0 }
        match deliver (setTile s t v) j t w m og x.1 p with
        | (some p, s) => (.val 0, p, s)
        | (none, s) => (.outside, p, s)
      else (.val 0, p, setTile s t v)
    | (e, _, s) => (e, p, s)
  | (e, _, s) => (e, p, s)

/-- Must a pass wait at its column end: its row goes to a vector queue that holds 32 rows (R102)? -/
def queueFull (v : Tile) (w : Nat) : Bool := bit1 (pDest w) 0 && decide (32 ≤ v.vq.length)

/-- What a pass has put together is written, and its work ends as `k` says. -/
def passFlush (s : State) (t : Nat) (p : List PendWord) (k : Work) : EAcc × Work × State :=
  match flush s (plain (.tile t)) p with
  | (e, s) => (e, k, s)

/-- The streamed rows from m on, in order (R98), then what is left to write; a full vector queue makes the column end
wait before a row, and the work says how far it came. -/
def passRows (j : Job) (t : Nat) (c : QCmd) : Nat → Nat → List PendWord → State → EAcc × Work × State
  | 0, _, p, s => passFlush s t p .done
  | k + 1, m, p, s =>
    if queueFull (tile s t) c.word then passFlush s t p (.waits (m + 1))
    else
      match flushFor s t (plain (.tile t)) (cgen c (wSgen c.word)) m p with
      | (.val _, p, s) =>
        match (if pMx c.word then flushFor s t (plain (.tile t)) (cgen c (bits c.word 69 67)) m p else (.val 0, p, s)) with
        | (.val _, p, s) =>
          match passRow j t m c p s with
          | (.val _, p, s) => passRows j t c k (m + 1) p s
          | (e, p, s) => (e, .done, (flush s (plain (.tile t)) p).2)
        | (e, _, s) => (e, .done, s)
      | (e, _, s) => (e, .done, s)

/-- An element access as the end of a command's work. -/
def EAcc.work (e : EAcc) : Work :=
  match e with
  | .val _ => .done
  | .poison => .fault 0x31
  | .outside => .fault 0x25
  | .context => .fault 0x30
  | .failed => .failed

/-- A command that faults its job; where a part of its request has failed before, it is a failed request too (R177, R182). A
reduction context error is counted where the fault is. -/
def faulted (bad : Bool) (cause : Nat) (s : State) : Work × State :=
  (.fault cause, if bad && cause != 0x30 then failedReq s else s)

/-- The end of a command whose last access ended so, with whether a part of it has failed before. -/
def faultWith (bad : Bool) (e : EAcc) (s : State) : Work × State :=
  match e.work with
  | .fault c => faulted bad c s
  | w => (w, s)

/-- The rows of a pass from m on, and once all have reached the column end the selection's running base (R101). -/
def passGo (t : Nat) (c : QCmd) (m : Nat) (s : State) (j : Job) : Work × State :=
  let n := (cgen c (wSgen c.word)).beats
  match passRows j t c (n - m) m [] s with
  | (.val _, .done, s) =>
    let v := tile s t
    (.done, if bit1 (pDest c.word) 1 then setTile s t { v with sel := v.sel.map (fun x => { x with base := x.base + n }) }
            else s)
  | (.val _, k, s) => (k, s)
  | (e, _, s) => (e.work, s)

/-- The work of a pass: begun, or taken up where its column end waited. A pass that finds no ramp in progress starts one
of the length that RAMP_BEATS then gives (R52, R54). -/
def passWork (t : Nat) (c : QCmd) (s : State) (j : Job) : Work × State :=
  if c.reps ≠ 0 then passGo t c (c.reps - 1) s j
  else
    match passCause s t c with
    | some x => (.fault x, s)
    | none =>
      let v := tile s t
      let s := setTile s t { v with rampActive := true, rampLen := if v.rampActive then v.rampLen else rd s 0x4010 1 }
      if pSeed c.word then
        match seedRows j t c.word (cgen c (bits c.word 69 67)) (cgen c (wSgen c.word)).beats 0 s with
        | (.val _, s) => passGo t c 0 s j
        | (e, s) => (e.work, s)
      else passGo t c 0 s j

/-- The ranges a pass reads and writes. -/
def passReads (s : State) (t w : Nat) : List (Nat × Nat) :=
  let v := tile s t
  hazardParts s t ((gen v (wSgen w)).span s t) ++
    (if pMx w || pSeed w then hazardParts s t ((gen v (bits w 69 67)).span s t) else [])

def passWrites (s : State) (t w : Nat) : List (Nat × Nat) :=
  if bit1 (pDest w) 2 then hazardParts s t ((gen (tile s t) (bits w 76 74)).span s t) else []

end Sys2Proof.Machine
end

