-- ==== Sys2Proof/Machine/Selector.lean ====
section
/-! DEFINITION. The top-k selector's commands (R74 to R77, R100, R101). -/

namespace Sys2Proof.Machine

def tkK (w : Nat) : Nat := bits w 107 99 + 1
def tkBase (s : State) (t w : Nat) : Nat := withBsel s t (bits w 65 64) (bits w 63 16)

/-- OPEN: a selection with no candidates (R100). -/
def topkOpenWork (t : Nat) (c : QCmd) (s : State) (_ : Job) : Work × State :=
  let w := c.word
  let v := tile s t
  if v.sel.isSome then (.fault 0x2A, s)
  else
    (.done, setTile s t { v with sel := some { k := tkK w, maximum := bit1 w 98, fp := bit1 w 97, base := bits w 95 64,
                                               cands := List.replicate 64 [] } })

/-- The first entries of one stored list offered to its column. -/
def loadEntries (t a col : Nat) (j : Job) : Nat → Nat → State → EAcc × State
  | 0, _, s => (.val 0, s)
  | n + 1, i, s =>
    match readElem s j (plain (.tile t)) ((a + i * 8) % 2 ^ 48 * 8) 64 with
    | (.val x, s) =>
      let v := tile s t
      let s := setTile s t { v with sel := v.sel.map (fun y => offer y col (BitVec.ofNat 32 x, x / 2 ^ 32)) }
      loadEntries t a col j n (i + 1) s
    | (e, s) => (e, s)

/-- The lists of the columns below 64 from column `c` on (R100). -/
def loadColumns (t base k : Nat) (j : Job) : Nat → State → Work × State
  | 0, s => (.done, s)
  | c + 1, s =>
    match loadColumns t base k j c s with
    | (.done, s) =>
      match readElem s j (plain (.tile t)) ((base + 64 * k * 8 + 4 * c) % 2 ^ 48 * 8) 32 with
      | (.val n, s) =>
        if n > k then (.fault 0x2A, s)
        else
          match loadEntries t (base + c * k * 8) c j n 0 s with
          | (e, s) => (e.work, s)
      | (e, s) => (e.work, s)
    | r => r

def topkLoadWork (t : Nat) (c : QCmd) (s : State) (j : Job) : Work × State :=
  let w := c.word
  let base := tkBase s t w
  if base % 8 ≠ 0 then (.fault 0x25, s)
  else if (tile s t).sel.isNone then (.fault 0x2A, s)
  else loadColumns t base (tkK w) j 64 s

/-- The padding score of a selection (R77). -/
def padScore (x : Selection) : Nat :=
  match x.fp, x.maximum with
  | false, false => 0x7FFFFFFF
  | false, true => 0x80000000
  | true, false => 0x7F800000
  | true, true => 0xFF800000

/-- Entry i of column c as its 8 bytes: score low, index high. -/
def listEntry (x : Selection) (c i : Nat) : Nat :=
  match (x.cands.getD c [])[i]? with
  | some (sc, ix) => sc.toNat + ix % 2 ^ 32 * 2 ^ 32
  | none => padScore x + 0xFFFFFFFF * 2 ^ 32

/-- A sequence of elements of `width` bits put in at given byte addresses. -/
def stageList (s : State) (t width : Nat) (j : Job) : List (Nat × Nat) → List PendWord → Option (List PendWord)
  | [], p => some p
  | (a, v) :: r, p =>
    match stageElem s j (plain (.tile t)) p (a % 2 ^ 48 * 8) width v false with
    | some p => stageList s t width j r p
    | none => none

/-- The entries of every list, one per column per beat (R77). -/
def emitEntries (x : Selection) (base : Nat) : List (Nat × Nat) :=
  (List.range x.k).flatMap (fun i => (List.range 64).map (fun c => (base + (c * x.k + i) * 8, listEntry x c i)))

def emitCounts (x : Selection) (base : Nat) : List (Nat × Nat) :=
  (List.range 64).map (fun c => (base + 64 * x.k * 8 + 4 * c, (x.cands.getD c []).length))

/-- Is an EMIT to wait for a pass that feeds the selection and has not drained (R77): one issued before it, or one that
already runs (DEDUCED, log 9: the selector never stalls the array, R75)? -/
def emitWaits (v : Tile) (c : QCmd) : Bool :=
  v.qArray.any (fun p => isPass p && bit1 (pDest p.word) 1 && (decide (p.idx < c.idx) || p.done || p.reps != 0))

/-- The lists and counts written, and the selection closed unless KEEP (R77, R100). -/
def topkEmitGo (t : Nat) (c : QCmd) (x : Selection) (s : State) (j : Job) : Work × State :=
  let base := tkBase s t c.word
  match (stageList s t 64 j (emitEntries x base) []).bind (stageList s t 32 j (emitCounts x base)) with
  | none => (.fault 0x25, s)
  | some p =>
    match flush s (plain (.tile t)) p with
    | (.val _, s) =>
      let v := tile s t
      (.done, if bit1 c.word 119 then s else setTile s t { v with sel := none })
    | (e, s) => (e.work, s)

def topkEmitWork (t : Nat) (c : QCmd) (s : State) (j : Job) : Work × State :=
  if emitWaits (tile s t) c then (.waits 0, s)
  else if tkBase s t c.word % 8 ≠ 0 then (.fault 0x25, s)
  else
    match (tile s t).sel with
    | none => (.fault 0x2A, s)
    | some x => if tkK c.word ≠ x.k then (.fault 0x2A, s) else topkEmitGo t c x s j

def topkCloseWork (t : Nat) (s : State) (_ : Job) : Work × State :=
  let v := tile s t
  if v.sel.isNone then (.fault 0x2A, s) else (.done, setTile s t { v with sel := none })

/-- The work of a TOPK word, by its subcommand (R100). -/
def topkWork (t : Nat) (c : QCmd) (s : State) (j : Job) : Work × State :=
  match bits c.word 111 108 with
  | 0 => topkOpenWork t c s j
  | 1 => topkLoadWork t c s j
  | 2 => topkEmitWork t c s j
  | _ => topkCloseWork t s j

/-- The lists and counts a LOAD reads or an EMIT writes, as hazard ranges. -/
def topkSpan (s : State) (t w : Nat) : List (Nat × Nat) :=
  let a := tkBase s t w
  let b := a + 64 * tkK w * 8 + 255
  hazardParts s t (if b ≥ 2 ^ 48 then (0, 2 ^ 48 - 1) else (a, b))

end Sys2Proof.Machine
end

