-- ==== Sys2Proof/Machine/Vector.lean ====
section
/-! DEFINITION. The vector unit: one operation repeated on 64 lanes (R78, R102, Tables 2.13 and 3.15). -/

namespace Sys2Proof.Machine

def vreg (v : Tile) (r : Nat) : List F32 := SMap.get v.regs (r % 32) (List.replicate 64 0#32)

/-- Every NaN result is canonical (R78). -/
def canon (x : F32) : F32 := if (f32Dec x).isNan then f32Nan else x

/-- Adjacent lanes combined pairwise: one level of the tree. -/
def treeLevel (f : F32 → F32 → F32) : List F32 → List F32
  | a :: b :: r => f a b :: treeLevel f r
  | l => l

/-- The fixed tree of six levels over 64 lanes (Table 2.13). -/
def treeReduce (f : F32 → F32 → F32) : Nat → List F32 → List F32
  | 0, l => l
  | n + 1, l => treeReduce f n (treeLevel f l)

def lanes (x : F32) : List F32 := List.replicate 64 x
def across (f : F32 → F32 → F32) (a : List F32) : List F32 := lanes (canon ((treeReduce f 6 a).headD 0#32))

def map2 (f : F32 → F32 → F32) (a b : List F32) : List F32 := List.zipWith f a b

/-- The result of an operation on its operands (Table 3.15), but MXQ. -/
def vecOp (vop : Nat) (a b c : List F32) : List F32 :=
  match vop with
  | 0 => a.map canon
  | 1 => map2 f32Add a b
  | 2 => map2 f32Sub a b
  | 3 => map2 f32Mul a b
  | 4 => List.zipWith (fun f z => f z) (List.zipWith (fun x y => f32Fma x y) a b) c
  | 5 => map2 f32Min a b
  | 6 => map2 f32Max a b
  | 7 => a.map f32Exp2
  | 8 => a.map f32Log2
  | 9 => a.map f32Rcp
  | 10 => a.map f32Rsqrt
  | 11 => across f32Add a
  | 12 => across f32Min a
  | 13 => across f32Max a
  | _ => a

/-- An operand of repetition r: a register, the queue's oldest row, the immediate or a row of memory. -/
def vecSource (s : State) (j : Job) (t : Nat) (c : QCmd) (spec inc r : Nat) : EAcc × List F32 × State :=
  let w := c.word
  if spec < 32 then (.val 0, vreg (tile s t) (spec + (if bit1 w inc then r else 0)), s)
  else if spec = 32 then
    let v := tile s t
    (.val 0, v.vq.headD (lanes 0#32), setTile s t { v with vq := v.vq.drop 1 })
  else if spec = 33 then (.val 0, lanes (BitVec.ofNat 32 (bits w 47 16)), s)
  else if spec = 34 then
    let g := cgen c (vGen w)
    match readRow s j (plain (.tile t)) g (g.a0 s t) r g.rows with
    | (.val _, row, s) =>
      (.val 0, (List.range 64).map (fun i => match row[i]? with
        | some (some x) => f32Enc (decodeOfmt (bits w 62 59) x)
        | _ => 0#32), s)
    | (e, _, s) => (e, [], s)
  else (.val 0, lanes 0#32, s)

/-- The largest finite magnitude of a block; none where the manual gives its scale no value: no non-zero value, an
infinity or a NaN in it. -/
def blockMax (xs : List F32) : Option (Nat × Int) :=
  if xs.any (fun x => (f32Dec x).isNan || (f32Dec x).isInf) then none
  else
    match xs.foldl (fun (m : Num) x =>
      let y := match f32Dec x with
        | .fin _ a e => Num.fin false a e
        | z => z
      if m.lt y then y else m) zeroNum with
    | .fin _ 0 _ => none
    | .fin _ m e => some (m, e)
    | _ => none

/-- The scale code of an MX block and its elements (Table 2.13). Where the manual gives the block no scale, the scale is
an open function of the format and the block: every tile gives the same bits (R69, R78). -/
def mxBlock (fmt : Nat) (xs : List F32) : Nat × List Nat :=
  let emax := (mxEmax fmt).getD 0
  let sc := match blockMax xs with
    | some (m, e) => mxScale emax m e
    | none => (Config.mxScaleChoice fmt xs).toNat
  (sc, xs.map (fun x => mxElem fmt ((sc : Int) - 127) (f32Dec x)))

/-- What a repetition writes: a register, a row of memory, or elements and scales (R102). `none` is a write outside
what the job may write. -/
def vecStore (s : State) (j : Job) (t : Nat) (c : QCmd) (r : Nat) (res : List F32) (p : List PendWord) :
    Option (List PendWord) × State :=
  let w := c.word
  let how := plain (.tile t)
  let gd := cgen c (vGen w + 1)
  if vVop w = 14 then
    let fmt := bits w 58 55
    let b0 := mxBlock fmt (res.take 32)
    let b1 := mxBlock fmt (res.drop 32)
    let gs := cgen c (vGen w + 2)
    match stageRow s j how gd (gd.a0 s t) r 0 (b0.2 ++ b1.2) p with
    | some p => (stageRow s j how gs (gs.a0 s t) r 0 [b0.1, b1.1] p, s)
    | none => (none, s)
  else if vD w = 34 then
    (stageRow s j how gd (gd.a0 s t) r 0 (res.map (fun x => encodeOfmt (bits w 58 55) false (f32Dec x))) p, s)
  else
    let v := tile s t
    let d := (vD w + (if bit1 w 119 then r else 0)) % 32
    (some p, setTile s t { v with regs := SMap.set v.regs d res (List.replicate 64 0#32) })

/-- One repetition. -/
def vecRep (s : State) (j : Job) (t : Nat) (c : QCmd) (r : Nat) (p : List PendWord) : EAcc × List PendWord × State :=
  let w := c.word
  match vecSource s j t c (vA w) 118 r with
  | (.val _, a, s) =>
    match (if vArity (vVop w) ≥ 2 then vecSource s j t c (vB w) 117 r else (.val 0, a, s)) with
    | (.val _, b, s) =>
      match (if vArity (vVop w) ≥ 3 then vecSource s j t c (vC w) 116 r else (.val 0, a, s)) with
      | (.val _, d, s) =>
        match vecStore s j t c r (vecOp (vVop w) a b d) p with
        | (some p, s) => (.val 0, p, s)
        | (none, s) => (.outside, p, s)
      | (e, _, s) => (e, p, s)
    | (e, _, s) => (e, p, s)
  | (e, _, s) => (e, p, s)

/-- The end of a run of repetitions: what they put together is written. -/
def vecFlush (s : State) (t : Nat) (p : List PendWord) (k : Work) : Work × State :=
  match flush s (plain (.tile t)) p with
  | (.val _, s) => (k, s)
  | (e, s) => (e.work, s)

/-- The repetitions from `r` on, until one pops an empty vector queue (R102). -/
def vecReps (j : Job) (t : Nat) (c : QCmd) : Nat → Nat → List PendWord → State → Work × State
  | 0, _, p, s => vecFlush s t p .done
  | k + 1, r, p, s =>
    if (vSources c.word).contains 32 && (tile s t).vq.isEmpty then vecFlush s t p (.waits r)
    else
      match (if (vSources c.word).contains 34 then flushFor s t (plain (.tile t)) (cgen c (vGen c.word)) r p
             else (.val 0, p, s)) with
      | (.val _, p, s) =>
        match vecRep s j t c r p with
        | (.val _, p, s) => vecReps j t c k (r + 1) p s
        | (e, p, s) => (e.work, (flush s (plain (.tile t)) p).2)
      | (e, _, s) => (e.work, s)

/-- The work of a VEC: begun, or taken up at the repetition that found the queue empty (R102). -/
def vecWork (t : Nat) (c : QCmd) (s : State) (j : Job) : Work × State := vecReps j t c (vReps c.word - c.reps) c.reps [] s

/-- Is the vector unit blocked popping an empty vector queue (R102, R134)? -/
def vecBlocked (s : State) (t : Nat) : Bool :=
  match (tile s t).qVec.find? (fun c => !c.done && wOpcode c.word == 0x07) with
  | some c => (vSources c.word).contains 32 && (tile s t).vq.isEmpty
  | none => false

def vecReads (s : State) (t w : Nat) : List (Nat × Nat) :=
  if (vSources w).contains 34 then hazardParts s t ((gen (tile s t) (vGen w)).span s t) else []

def vecWrites (s : State) (t w : Nat) : List (Nat × Nat) :=
  let v := tile s t
  (if vD w = 34 || vVop w = 14 then hazardParts s t ((gen v (vGen w + 1)).span s t) else []) ++
    (if vVop w = 14 then hazardParts s t ((gen v (vGen w + 2)).span s t) else [])

end Sys2Proof.Machine
end

