-- ==== Sys2Proof/Machine/Reduce.lean ====
section
/-! DEFINITION. Reduction contexts and ordered contributions, writes to flag space and control space (R121, R122,
R171 to R174). -/

namespace Sys2Proof.Machine

def redCtx (s : State) (b n : Nat) : RedCtx := SMap.get s.ctx (b * 64 + n) RedCtx.reset
def setCtx (s : State) (b n : Nat) (c : RedCtx) : State := { s with ctx := SMap.set s.ctx (b * 64 + n) c RedCtx.reset }

/-- The 32 bytes of a context as a number (Table 5.7). -/
def RedCtx.word (c : RedCtx) : Nat :=
  c.target + c.hold * 2 ^ 48 + c.sigaddr * 2 ^ 96 + c.nM1 * 2 ^ 144 + c.wordsM1 * 2 ^ 156 + c.doneWords * 2 ^ 168 +
    c.st * 2 ^ 184

/-- The context a write carries. -/
def ctxOfWord (v : Nat) (st : Nat) : RedCtx :=
  { st := st, doneWords := 0, wordsM1 := bits v 167 156, nM1 := bits v 153 144, sigaddr := bits v 143 96,
    hold := bits v 95 48, target := bits v 47 0 }

/-- Does a range lie within the die-local pool or the HBM home range of B-die b (R171)? -/
def ctxPool (s : State) (b lo hi : Nat) : Bool :=
  inWindows ([(0x001000000000 + b * 0x100000000, dieBytes s), (0x100000000000 + b * 0x2000000000, hbmRange s b)].filterMap
    (fun p => if 0 < p.2 then some (p.1, p.1 + p.2 - 1) else none)) lo hi

/-- Is an address that of a flag word (R121, R172)? -/
def isFlagWord (s : State) (a : Nat) : Bool :=
  match homeOf s a with
  | .flag _ off => off % 4 == 0 && decide (off < 0xC0)
  | _ => false

/-- May a context be opened (R172)? -/
def ctxOpens (s : State) (b n v : Nat) : Bool :=
  let c := ctxOfWord v 1
  bits v 255 186 == 0 && bits v 155 154 == 0 && c.target % 64 == 0 && c.hold % 64 == 0 &&
    ctxPool s b c.target c.targetEnd && ctxPool s b c.hold c.holdEnd &&
    !(s.ctx.any (fun o => o.1 != b * 64 + n && o.2.st == 1 && overlaps [(o.2.target, o.2.targetEnd)] [(c.target, c.targetEnd)])) &&
    (c.sigaddr == 0 || isFlagWord s c.sigaddr)

/-- The arrival bitmaps of a context cleared. -/
def clearBitmaps (s : State) (c : RedCtx) : State :=
  (List.range c.words).foldl (fun s w =>
    let a := c.hold + w * (c.contributors + 2) * 64
    let z := List.replicate 64 0#8
    writeWord (writeWord s (plain .none) a z) (plain .none) (a + 64) z) s

/-- A write to context n of B-die b, `o` bytes into it (R172). -/
def ctxWrite (s : State) (b n o : Nat) (data : List Byte) : State :=
  let v := leNat data
  let c := redCtx s b n
  let dropped := logEvent s 0x6002 (leBytes 8 (0x200000100000 + b * 0x1000 + n * 32))
  if o != 0 || data.length != 32 then dropped
  else if bits v 185 184 = 1 && c.st != 1 then
    if ctxOpens s b n v then
      let k := ctxOfWord v 1
      setCtx (clearBitmaps s k) b n k
    else setCtx s b n (ctxOfWord v 3)
  else if bits v 185 184 = 0 && c.st = 1 then setCtx s b n { c with st := 0 }
  else dropped

/-- How a contribution to an ordered add ended. -/
inductive CRes where
  | ok | bad | poison | failed
deriving DecidableEq, Repr, Inhabited

def RdRes.cres : RdRes → CRes
  | .data _ => .ok
  | .poison => .poison
  | .failed => .failed

/-- The open context that covers a word. -/
def ctxOf (s : State) (a : Nat) : Option (Nat × RedCtx) :=
  List.find? (fun (o : Nat × RedCtx) => o.2.st == 1 && decide (o.2.target ≤ a) && decide (a ≤ o.2.targetEnd)) s.ctx

/-- The words from `a` on, `n` of them. -/
def readWords (s : State) (how : How) (a : Nat) : Nat → CRes × List (List Byte) × State
  | 0 => (.ok, [], s)
  | n + 1 =>
    match readWords s how a n with
    | (.ok, l, s) =>
      match readWord s how (a + n * 64) [] with
      | (.data d, s) => (.ok, l ++ [d], s)
      | (r, s) => (r.cres, l, s)
    | r => r

/-- The word of a context whose last contribution has arrived: summed in order of CID, and the context done after
its last word (R173). -/
def finishWord (s : State) (how : How) (k : Nat) (a slots : Nat) : CRes × State :=
  let c := SMap.get s.ctx k RedCtx.reset
  match readWord s how a [] with
  | (.data t, s) =>
    match readWords s how slots c.contributors with
    | (.ok, cs, s) =>
      let r := cs.foldl (fun x y => reduceWord 4 x y) t
      let s := writeWord s how a r
      let c := { c with doneWords := c.doneWords + 1 }
      if c.doneWords = c.words then
        let s := setCtx s (k / 64) (k % 64) { c with st := 2 }
        let f := c.sigaddr % 0x100 / 4
        (.ok, if c.sigaddr = 0 then s else signal s ((c.sigaddr - 0x200000000000) / 0x100) f 1)
      else (.ok, setCtx s (k / 64) (k % 64) c)
    | (r, _, s) => (r, s)
  | (r, s) => (r.cres, s)

/-- A contribution of FP32 words to the word at `a` (R173). -/
def contribute (s : State) (how : How) (a cid : Nat) (d : List Byte) : CRes × State :=
  match ctxOf s a with
  | none => (.bad, bump s 0x6030 4)
  | some (k, c) =>
    if cid ≥ c.contributors then (.bad, bump s 0x6030 4)
    else
      let area := c.hold + (a - c.target) / 64 * (c.contributors + 2) * 64
      match readWords s how area 2 with
      | (.ok, bm, s) =>
        let m := leNat bm.flatten
        if bit1 m cid then (.bad, bump s 0x6030 4)
        else
          let m := m + 2 ^ cid
          let s := writeWord s how (area + (cid + 2) * 64) d
          let s := writeWord s how (area + cid / 512 * 64) (leBytes 64 (m / 2 ^ (cid / 512 * 512) % 2 ^ 512))
          if (List.range c.contributors).all (fun i => bit1 m i) then finishWord s how k a (area + 128) else (.ok, s)
      | (r, _, s) => (r, s)

/-- A contribution of any ROP to a word at its home (R168 to R173). -/
def reduceAt (s : State) (how : How) (rop cid a : Nat) (d : List Byte) : CRes × State :=
  if rop = 5 then contribute (touchModify s how a true) { how with hint := .stream, prio := 0, free := true } a cid d
  else
    match modifyWord s how a true (fun x => reduceWord rop x d) with
    | (r, s) => (r.cres, s)

/-- A write to flag space (R122): a signal, or dropped and counted. -/
def flagWrite (s : State) (t off : Nat) (d : List Byte) : State :=
  let v := leNat d
  if d.length = 4 && off % 4 = 0 && off < 0xC0 && v < 65536 && v != 0 then signal s t (off / 4) v else bump s 0x5040 1

end Sys2Proof.Machine
end

