-- ==== Sys2Proof/Machine/Xfer.lean ====
section
/-! DEFINITION. Transfers with a host or a remote side: pieces, blocks and runs, translation, host reads and writes,
and fabric requests (R84, R126, R283 to R288, R299, R314). -/

namespace Sys2Proof.Machine

/-! ## Pieces and blocks -/

/-- The page of a far byte address. -/
def pageOf (bitAddr : Nat) : Nat := bitAddr / 8 / 4096

/-- A piece cut where its far side crosses an aligned 256-byte block. -/
def splitPiece (p : Piece) : List Piece :=
  let room := 2048 - p.far % 2048
  if p.width ≤ room then [p]
  else [{ p with width := room }, { p with far := p.far + room, dev := p.dev + room, width := p.width - room }]

/-- The transfer blocks of R284. -/
def cutBlocks : List Piece → List Piece → Nat → List (List Piece)
  | [], cur, _ => if cur.isEmpty then [] else [cur.reverse]
  | p :: r, cur, n =>
    match cur.getLast? with
    | none => cutBlocks r [p] p.width
    | some f =>
      if n + p.width > 32768 || f.far / 131072 != p.far / 131072 then cur.reverse :: cutBlocks r [p] p.width
      else cutBlocks r (p :: cur) (n + p.width)

/-- A run of consecutive pieces that fill successive far bytes within one aligned 256-byte block: lowest and highest
byte, and the indices of the pieces. -/
structure Run where
  lo : Nat
  hi : Nat
  idx : List Nat
deriving DecidableEq, Repr, Inhabited

def Piece.empty : Piece := { far := 0, dev := 0, width := 0, data := none, kind := .element }

/-- Consecutive pieces gathered into runs. -/
def runsOf : List (Piece × Nat) → Option Run → List Run
  | [], none => []
  | [], some r => [r]
  | (p, i) :: rest, cur =>
    let lo := p.far / 8
    let hi := (p.far + p.width - 1) / 8
    match cur with
    | none => runsOf rest (some { lo := lo, hi := hi, idx := [i] })
    | some r =>
      if (lo = r.hi || lo = r.hi + 1) && lo / 256 = r.lo / 256 then runsOf rest (some { r with hi := hi, idx := r.idx ++ [i] })
      else r :: runsOf rest (some { lo := lo, hi := hi, idx := [i] })

def blockRuns (b : List Piece) : List Run := runsOf b.zipIdx none

/-- `w` bits at bit `o` of a number set. -/
def layBits (v o w x : Nat) : Nat := v - v / 2 ^ o % 2 ^ w * 2 ^ o + x % 2 ^ w * 2 ^ o

/-- The bits of a run that its pieces cover. -/
def runMask (b : List Piece) (r : Run) : Nat :=
  r.idx.foldl (fun v i =>
    let p := b.getD i Piece.empty
    layBits v (p.far - 8 * r.lo) p.width (2 ^ p.width - 1)) 0

/-- The bytes of a run from its pieces' data, a later piece over an earlier one. -/
def runBytes (b : List Piece) (r : Run) : List Byte :=
  leBytes (r.hi + 1 - r.lo) (r.idx.foldl (fun v i =>
    let p := b.getD i Piece.empty
    layBits v (p.far - 8 * r.lo) p.width (p.data.getD 0)) 0)

/-- The bits of a run's bytes that no piece covers, as pieces that are read first and kept (R57). -/
def keptOf (b : List Piece) (r : Run) : List Piece :=
  let m := runMask b r
  if m = 2 ^ (8 * (r.hi + 1 - r.lo)) - 1 then []
  else (List.range (8 * (r.hi + 1 - r.lo))).filterMap (fun i =>
    if bit1 m i then none else some { far := 8 * r.lo + i, dev := 0, width := 1, data := none, kind := .kept })

/-- The blocks of a remote transfer: one per packet. -/
def cutPackets (ps : List Piece) : List (List Piece) :=
  (blockRuns ps).map (fun r => r.idx.map (fun i => ps.getD i Piece.empty))

/-- A piece put among others in the order of the far side. -/
def insertPiece (p : Piece) : List Piece → List Piece
  | [] => [p]
  | x :: r => if p.far < x.far then p :: x :: r else x :: insertPiece p r

/-- The pieces of a run with the bits it keeps among them. -/
def withKept (b : List Piece) (r : Run) : List Piece :=
  let ps := r.idx.map (fun i => b.getD i Piece.empty)
  match keptOf b r with
  | [] => ps
  | ks => (ps ++ ks).foldl (fun l p => insertPiece p l) []

/-- The blocks of a transfer (R284), packets on the fabric. Toward the far side, a block has among its elements the bits
it keeps of bytes that they cover in part (R57). -/
def farBlocks (remote toDev : Bool) (ps : List Piece) : List (List Piece) :=
  (if remote then cutPackets ps else cutBlocks ps [] 0).map (fun b =>
    if toDev then b else (blockRuns b).flatMap (withKept b))

/-- Does a block keep bits of bytes that its elements cover in part? -/
def keepsBits (b : List Piece) : Bool := b.any (fun p => p.kind == .kept)

/-- The bits that a block keeps, where an earlier element of it has written them: as that element leaves them (R57). `seen` are
the elements before, the latest first. -/
def carryKept (seen : List Piece) : List Piece → List Piece
  | [] => []
  | p :: r =>
    if p.kind = .kept then
      match seen.find? (fun q => decide (q.far ≤ p.far) && decide (p.far < q.far + q.width)) with
      | some q => { p with data := some (q.data.getD 0 / 2 ^ (p.far - q.far) % 2) } :: carryKept seen r
      | none => p :: carryKept seen r
    else p :: carryKept (p :: seen) r

/-- Does a block still lack bits that it keeps? -/
def lacksKept (b : List Piece) : Bool := b.any (fun p => p.kind == .kept && p.data.isNone)

/-- A piece whose place another element shares takes an open value (R103). -/
def openShared : List Piece → State → List Piece × State
  | [], s => ([], s)
  | p :: r, s =>
    if p.kind = .shared then
      let f := drawFree s
      let x := openShared r f.2
      ({ p with data := some (f.1 % 2 ^ p.width) } :: x.1, x.2)
    else
      let x := openShared r s
      (p :: x.1, x.2)

/-- The pieces of a copy: far and device bit addresses, each of `w` bits. -/
def pieces (l : List (Nat × Nat)) (w : Nat) : List Piece :=
  l.flatMap (fun p => splitPiece { far := p.1, dev := p.2, width := w, data := none, kind := .element })

/-! ## The engine of a transfer -/

def XEng.rq (e : XEng) : Requester :=
  match e with
  | .tile t _ => .tile t
  | .mover j i => .mover j i

/-- Where a fault of a transfer is recorded: tile and word of a tile's command. -/
def XEng.place (e : XEng) : Nat × Nat :=
  match e with
  | .tile t w => (t, w)
  | .mover _ _ => (0xFFFF, 0)

def Xfer.how (x : Xfer) : How := { rq := x.eng.rq, hint := x.hint, prio := x.prio, narrow := false }

def setX (s : State) (n : Nat) (x : Xfer) : State := { s with xfers := SMap.put s.xfers n x }

/-- The fault of a transfer's job. -/
def xFault (s : State) (x : Xfer) (cause : Nat) : State := jobFault s x.job cause x.eng.place.1 x.eng.place.2

/-- A transfer has nothing left to do: words it covered in part are written, and its command is done, or its mover has
done its work. -/
def finishX (s : State) (n : Nat) (x : Xfer) : State :=
  match flush s x.how x.pend with
  | (.poison, s) => xFault s x 0x31
  | (.val _, s) =>
    let s := { s with xfers := SMap.erase s.xfers n }
    match x.eng with
    | .tile t _ =>
      let v := tile s t
      setTile s t { v with qMove := v.qMove.map (fun c => if c.xfer = some n then { c with done := true } else c) }
    | .mover j i =>
      match SMap.find? s.jobs j with
      | none => s
      | some jb =>
        match jb.movers.getD i (0, .done) with
        | (d, .running m) => { s with jobs := SMap.put s.jobs j { jb with movers := jb.movers.set i (d, .worked m) } }
        | _ => s
  | (_, s) => failedReq s

/-! ## Pieces on the device side -/

/-- The device data of a block read, in order; a piece that has its data needs no read. -/
def readPieces (j : Job) (how : How) : List Piece → RBuf → List Piece → State → EAcc × List Piece × State
  | [], _, acc, s => (.val 0, acc.reverse, s)
  | p :: r, b, acc, s =>
    if p.data.isSome then readPieces j how r b (p :: acc) s
    else
      match readElemB s j how b p.dev p.width with
      | (.val v, b, s) => readPieces j how r b ({ p with data := some v } :: acc) s
      | (e, _, s) => (e, acc.reverse, s)

/-- Data that has arrived put into the words it belongs to; `none` where the job may not write it. -/
def stagePieces (s : State) (j : Job) (how : How) : List Piece → List PendWord → Option (List PendWord)
  | [], p => some p
  | x :: r, p =>
    match stageElem s j how p x.dev x.width (x.data.getD 0) false with
    | some p => stagePieces s j how r p
    | none => none

/-! ## Stores of movers (R240, R271) -/

def codeOf (d : Option (List Byte)) : List Byte :=
  match d with
  | some d => rsEncode 6 d
  | none => poisonWord 6

/-- Bytes stored from `a` on, in parts of at most one word; lines covered whole are written whole. -/
def storeParts (how : How) : Nat → State → Nat → List (Option (List Byte) × Nat) → EAcc × State
  | 0, s, _, _ => (.val 0, s)
  | _, s, _, [] => (.val 0, s)
  | k + 1, s, a, (d, n) :: r =>
    let four := (d, n) :: r.take 3
    if decide (0x100000000000 ≤ a) && a % 256 == 0 && four.length == 4 && four.all (fun p => p.2 == 64) then
      let s := if four.any (fun p => p.1.isNone) then bumpBy s 0x7800 7 (four.filter (fun p => p.1.isNone)).length else s
      storeParts how k (writeLine s how a (four.map (fun p => codeOf p.1))) (a + 256) (r.drop 3)
    else
      match d with
      | none => storeParts how k (writePoison s how (a / 64 * 64)) (a + n) r
      | some b =>
        match writeBytes s how a b with
        | (.data _, s) => storeParts how k s (a + n) r
        | (.poison, s) => (.poison, s)
        | (.failed, s) => (.failed, s)

/-- What a COPY stores into flag space: aligned 4-byte words of the job's tiles are signals (R122, R271). Into which writes a
COPY is cut there is in no rule: DESIGN CHOICE, one for each aligned 4-byte word, so that one of 8 bytes is two signals
(log 16). -/
def storeFlags (jb : Job) : Nat → State → Nat → List Byte → EAcc × State
  | 0, s, _, _ => (.val 0, s)
  | k + 1, s, a, d =>
    if d.isEmpty then (.val 0, s)
    else
      let n := min d.length (4 - a % 4)
      match homeOf s a with
      | .flag t off =>
        if (jobTiles jb).contains t then storeFlags jb k (flagWrite s t off (d.take n)) (a + n) (d.drop n) else (.outside, s)
      | _ => (.outside, s)

/-- What a COPY stores into a reduction context (R271). -/
def storeCtx (s : State) (jb : Job) (a : Nat) (d : List Byte) : EAcc × State :=
  match homeOf s a with
  | .ctx b n o =>
    let c := redCtx s b n
    let carried := bits (leNat d) 47 0
    if o = 0 && d.length = 32 && inWindows (deviceWins jb) carried carried &&
      (c.st != 1 || inWindows (deviceWins jb) c.target c.target) then (.val 0, ctxWrite s b n o d)
    else (.outside, s)
  | _ => (.outside, s)

def partBytes (ps : List (Option (List Byte) × Nat)) : List Byte := ps.flatMap (fun p => p.1.getD (List.replicate p.2 0#8))

/-- What a mover's COPY stores at a device address: control addresses by R271, anything else inside the windows. -/
def storeCopy (s : State) (jb : Job) (how : How) (a : Nat) (ps : List (Option (List Byte) × Nat)) : EAcc × State :=
  let len := ps.foldl (fun n p => n + p.2) 0
  if len = 0 then (.val 0, s)
  else if 0x200000000000 ≤ a ∧ a < 0x200000106000 then
    if ps.any (fun p => p.1.isNone) then (.poison, s)
    else if a < 0x200000100000 then storeFlags jb (len + 1) s a (partBytes ps)
    else storeCtx s jb a (partBytes ps)
  else if !allowed s jb true how.hint a (a + len - 1) then (.outside, s)
  else storeParts how (ps.length + 1) s a ps

/-- The bytes of consecutive whole-byte pieces in parts of one word. -/
def wordParts (b : List Piece) : List (Option (List Byte) × Nat) :=
  let rec join : List Piece → List (Nat × List Byte) → List (Nat × List Byte)
    | [], acc => acc.reverse
    | p :: r, acc =>
      let d := leBytes (p.width / 8) (p.data.getD 0)
      match acc with
      | (w, x) :: l => if w = p.dev / 512 then join r ((w, x ++ d) :: l) else join r ((p.dev / 512, d) :: acc)
      | [] => join r [(p.dev / 512, d)]
  (join b []).map (fun w => (some w.2, w.2.length))

/-- Words that have arrived combined at their homes, in order. -/
def reduceWords (jb : Job) (how : How) (rop cid : Nat) : List (Nat × List Byte) → State → EAcc × State
  | [], s => (.val 0, s)
  | (a, d) :: r, s =>
    if !allowed s jb true how.hint a (a + 63) then (.outside, s)
    else
      match reduceAt s how rop cid a d with
      | (.ok, s) => reduceWords jb how rop cid r s
      | (.bad, s) => (.context, s)
      | (.poison, s) => (.poison, s)
      | (.failed, s) => (.failed, s)

/-- Whole words stored in order; for a mover, four that make up an HBM line are written as a line (Table 6.3). -/
def storeWords (how : How) (lines : Bool) : Nat → List PendWord → State → State
  | 0, _, s => s
  | _, [], s => s
  | k + 1, x :: r, s =>
    let four := x :: r.take 3
    if lines && decide (0x100000000000 ≤ x.addr) && x.addr % 256 == 0 && four.map (·.addr) == [x.addr, x.addr + 64, x.addr + 128, x.addr + 192] then
      storeWords how lines k (r.drop 3) (writeLine s how x.addr (four.map (fun y => rsEncode 6 (leBytes 64 y.v))))
    else storeWords how lines k r (writeWord s how x.addr (leBytes 64 x.v))

/-- The words that have wholly arrived, oldest first, and those that have not. -/
def splitWhole (p : List PendWord) : List PendWord × List PendWord :=
  ((p.filter (fun x => x.m == fullMask)).reverse, p.filter (fun x => x.m != fullMask))

/-- Data that has arrived for a transfer put where it belongs: flag or context space, contributions at their homes, or
the words it makes whole. -/
def landPieces (jb : Job) (x : Xfer) (b : List Piece) (s : State) : EAcc × Xfer × State :=
  let a := (b.head?.map (fun p => p.dev / 8)).getD 0
  let tiles := match x.eng with
    | .tile _ _ => true
    | .mover _ _ => false
  if !tiles && x.rop.isNone && decide (0x200000000000 ≤ a) && decide (a < 0x200000106000) then
    let r := storeCopy s jb x.how a (wordParts b)
    (r.1, x, r.2)
  else
    let o := openShared b s
    let s := o.2
    match stagePieces s jb x.how o.1 x.pend with
    | none => (.outside, x, s)
    | some p =>
      let w := splitWhole p
      let x := { x with pend := w.2 }
      match x.rop with
      | some (rop, cid) =>
        let r := reduceWords jb x.how rop cid (w.1.map (fun y => (y.addr, leBytes 64 y.v))) s
        (r.1, x, r.2)
      | none => (.val 0, x, storeWords x.how (!tiles) (w.1.length + 1) w.1 s)

/-- The end of an access that a transfer made: the fault it causes, if it does. -/
def xEnd (s : State) (x : Xfer) (e : EAcc) : State :=
  let s := if e.fails then failedReq s else s
  match e.cause with
  | some c => xFault s x c
  | none => s

/-! ## Host transfers (R283 to R287) -/

def dedup : List Nat → List Nat
  | [] => []
  | x :: r => x :: (dedup r).filter (· != x)

def blockPages (b : List Piece) : List Nat := dedup (b.flatMap (fun p => [pageOf p.far, pageOf (p.far + p.width - 1)]))

/-- The translation of a page that grants what a block needs. -/
def atcHit (s : State) (pasid page : Nat) (write : Bool) : Option Atc :=
  s.atc.find? (fun a => a.pasid == pasid && a.page == page && (if write then a.write else a.read))

/-- The bus address of a far byte, and whether it is translated: where ATS is on (R283). -/
def hostAddr (s : State) (pasid a : Nat) (write : Bool) : Nat × Bool :=
  if s.link.ats then
    match atcHit s pasid (a / 4096) write with
    | some t => (t.host * 4096 + a % 4096, true)
    | none => (a, false)
  else (a, false)

/-- The reads of a block issued (R285): of its elements toward the device, of the bits it keeps toward the host. -/
def issueReads (s : State) (n : Nat) (x : Xfer) (pasid : Nat) (b : List Piece) : State :=
  let want := fun (p : Piece) => p.data.isNone && (x.toDev || p.kind == .kept)
  let r := (runsOf (b.zipIdx.filter (fun p => want p.1)) none).foldl (fun (acc : State × List Nat) r =>
    let s := acc.1
    let tag := s.nextTag
    let h := hostAddr s pasid r.lo false
    let s := { s with nextTag := tag + 1,
                      reads := SMap.put s.reads tag { job := x.job, x := n, pages := [r.lo / 4096], pieces := r.idx, dropped := false } }
    (hostSend (touch s x.how (.host (r.hi + 1 - r.lo))) (.hostRead h.1 h.2 (some pasid) (r.hi + 1 - r.lo) tag), acc.2 ++ [tag])) (s, [])
  setX r.1 n { x with started := true, tags := r.2, ats := none, prg := none }

/-- The writes of a block sent (R126); where they wait for the link, their engine is noted (R84). -/
def sendWrites (s : State) (x : Xfer) (pasid : Nat) (b : List Piece) : State :=
  let s := (blockRuns b).foldl (fun s r =>
    let h := hostAddr s pasid r.lo true
    hostSend (touch s x.how (.host (r.hi + 1 - r.lo))) (.hostWrite h.1 h.2 (some pasid) (runBytes b r))) s
  if s.link.waiting.isEmpty || s.link.waitX.contains x.eng then s
  else { s with link := { s.link with waitX := s.link.waitX ++ [x.eng] } }

/-- The last host byte of a block. -/
def lastByte (b : List Piece) (d : Nat) : Nat := ((blockRuns b).getLast?.map (·.hi)).getD d

/-- The pages a transfer needs next: of its next block, or of the last byte it wrote where only its writes are left to
confirm (R128, R285). -/
def wantPages (x : Xfer) : List Nat :=
  match x.blocks with
  | b :: _ => blockPages b
  | [] => if x.ack then [x.last / 4096] else []

/-- The pages among these with no translation that grants what a transfer needs, where translations are needed: a block that
keeps bits of the bytes it writes reads them too (R57, R285). -/
def missingPages (s : State) (pasid : Nat) (x : Xfer) : List Nat :=
  let reads := keepsBits (x.blocks.headD [])
  if s.link.ats then
    (wantPages x).filter (fun p => (atcHit s pasid p (!x.toDev)).isNone || (reads && (atcHit s pasid p false).isNone))
  else []

/-- A Translation Request for a transfer's missing pages (R283). -/
def askPages (s : State) (n : Nat) (x : Xfer) (pasid : Nat) (missing : List Nat) : State :=
  hostSend (bump (setX s n { x with ats := some 1, prg := none, started := false }) 0x3020 2)
    (.atsRequest n pasid missing (!x.toDev))

/-- The zero-length read that confirms a transfer's writes (R128). -/
def confirmRead (s : State) (n : Nat) (x : Xfer) (pasid : Nat) : State :=
  let h := hostAddr s pasid x.last true
  let tag := s.nextTag
  let s := { s with nextTag := tag + 1,
                    reads := SMap.put s.reads tag { job := x.job, x := n, pages := [x.last / 4096], pieces := [], dropped := false } }
  hostSend (setX s n { x with ack := false, tags := [tag], ats := none, prg := none }) (.hostRead h.1 h.2 (some pasid) 0 tag)

/-- A host transfer carried on: blocks are translated, and written or read, until one must wait. -/
def hostGo : Nat → State → Nat → State
  | 0, s, _ => s
  | k + 1, s, n =>
    match SMap.find? s.xfers n with
    | none => s
    | some x =>
      match x.blocks, SMap.find? s.jobs x.job with
      | _, none => s
      | [], some jb =>
        if !jPasidEn jb.desc then xFault s x 0x32
        else if x.ack then
          let missing := missingPages s (jPasid jb.desc) x
          if !missing.isEmpty then askPages s n x (jPasid jb.desc) missing else confirmRead s n x (jPasid jb.desc)
        else finishX s n x
      | b :: rest, some jb =>
        if s.main != .ready then s
        else
        let pasid := jPasid jb.desc
        let write := !x.toDev
        if !jPasidEn jb.desc then xFault s x 0x32
        else if write && (blockRuns b).any (fun r => !covered (hostWins jb) r.lo r.hi) then xFault s x 0x25
        else
          let missing := missingPages s pasid x
          if !missing.isEmpty then askPages s n x pasid missing
          else if x.toDev || lacksKept b then issueReads s n x pasid b
          else
            match readPieces jb x.how b none [] s with
            | (.val _, b, s) =>
              let o := openShared b s
              hostGo k (setX (sendWrites o.2 x pasid (carryKept [] o.1)) n { x with blocks := rest, last := lastByte b x.last, started := false, ats := none, prg := none }) n
            | (e, _, s) => xEnd s x e

/-- A host transfer taken up where it stands; one that waits for a translation, a page or data does not go on. -/
def hostStart (s : State) (paid : Bool) (n : Nat) : State :=
  match SMap.find? s.xfers n with
  | none => s
  | some x =>
    if x.ats.isSome || x.prg.isSome || !x.tags.isEmpty || isHeld s (.start n) then s
    else wholeOr s paid (.start n) (fun s => hostGo (x.blocks.length + 2) s n)

/-- The data of a block has all arrived: it is put in place. -/
def hostPut (s : State) (n : Nat) : State :=
  match SMap.find? s.xfers n with
  | none => s
  | some x =>
    match x.blocks, SMap.find? s.jobs x.job with
    | b :: rest, some jb =>
      if !x.toDev then setX s n { x with started := false }
      else
        match landPieces jb x b s with
        | (.val _, x, s) => setX s n { x with blocks := rest, started := false }
        | (e, _, s) => xEnd s x e
    | _, _ => s

/-- Data put in place, and the next block begun. -/
def hostLand (s : State) (paid : Bool) (n : Nat) : State :=
  let t := if isHeld s (.land n) then s else wholeOr s paid (.land n) (fun s => hostPut s n)
  match SMap.find? t.xfers n with
  | some x => if x.started then t else hostStart t false n
  | none => t

/-- A host read answered. -/
def hostReadDone (s : State) (tag : Nat) (ok : Bool) (data : List Byte) : State :=
  match SMap.find? s.reads tag with
  | none => s
  | some r =>
    let s := { s with reads := SMap.erase s.reads tag }
    if r.dropped then settleFault s r.job
    else
      match SMap.find? s.xfers r.x with
      | none => s
      | some x =>
        if !ok then xFault s x 0x34
        else
          let b := x.blocks.headD []
          let lo := (r.pieces.map (fun i => (b.getD i Piece.empty).far / 8)).foldl min (2 ^ 64)
          let v := leNat data
          let b := b.zipIdx.map (fun p =>
            if r.pieces.contains p.2 then { p.1 with data := some (v / 2 ^ (p.1.far - 8 * lo) % 2 ^ p.1.width) } else p.1)
          let x := { x with blocks := b :: x.blocks.drop 1, tags := x.tags.filter (· != tag) }
          let s := setX s r.x x
          if x.tags.isEmpty then hostLand s false r.x else s

/-! ## Remote transfers (R299, R300, R306, R319) -/

/-- The job's signal domain. -/
def domainOf (s : State) (j : Nat) : Nat :=
  match SMap.find? s.jobs j with
  | some jb => jDomain jb.desc
  | none => 0

/-- A request of a transfer: WRITE, READ or REDUCE at a far address. -/
def xRequest (s : State) (n : Nat) (x : Xfer) (op faddr cls addr len args : Nat) (payload : List Byte) (k : Nat) : State :=
  let pk : Packet := { hdr := mkHdr op (cls == 1) false faddr 0 0 (domainOf s x.job) len addr 0 args, payload := payload }
  let s := touch s x.how (.remote len)
  sendRequest s { job := x.job, x := some n, t := x.eng.place.1, word := x.eng.place.2, dst := faddr, pk := pk, sentAt := 0,
                  ordered := cls == 0, resync := false, abandoned := false, pieces := [k],
                  mover := match x.eng with
                    | .mover _ i => some i
                    | _ => none }

/-- The requests of a transfer that are not answered. -/
def requestsOf (s : State) (n : Nat) : List FReq :=
  (s.fab.reqs.map (·.2) ++ s.fab.waitReqs).filter (fun r => r.x == some n)

/-- May the packets of a transfer have to wait for one another: do any keep bits of bytes, or is nothing ordered among them? -/
def packetsOrdered (x : Xfer) : Bool := x.blocks.any keepsBits || x.remote.any (fun r => r.2 == 1)

/-- Must a packet of a transfer wait? Where it or an earlier one keeps bits of bytes that both write, the earlier goes first, and
its WRITE is answered before the bytes are read, or written in the adaptive class (R57). -/
def packetWaits (s : State) (n : Nat) (x : Xfer) (k : Nat) (b : List Piece) : Bool :=
  match blockRuns b with
  | [] => false
  | r :: _ =>
    x.blocks.zipIdx.any (fun q => decide (q.2 < k) && (keepsBits b || keepsBits q.1) &&
      (match blockRuns q.1 with
       | v :: _ => decide (v.lo ≤ r.hi) && decide (r.lo ≤ v.hi)
       | [] => false)) ||
      ((keepsBits b || x.remote.any (fun r => r.2 == 1)) && (requestsOf s n).any (fun q => pkOp q.pk == 0 && decide (pkAddr q.pk ≤ r.hi) &&
        decide (r.lo < pkAddr q.pk + pkLen q.pk)))

/-- Has the READ of the bits that a packet keeps been sent? -/
def keptAsked (s : State) (n k : Nat) : Bool := (requestsOf s n).any (fun q => pkOp q.pk == 1 && q.pieces == [k])

/-- The packets of a transfer toward another device read and sent, in order. One that keeps bits of a byte reads them
there first (R57). The transfer is over when every packet has been sent. -/
def remoteOut (n faddr cls : Nat) (jb : Job) : List (List Piece × Nat) → Xfer → State → State
  | [], x, s => if x.blocks.all (·.isEmpty) then finishX s n x else setX s n x
  | (b, k) :: rest, x, s =>
    match blockRuns b with
    | [] => remoteOut n faddr cls jb rest { x with blocks := x.blocks.set k [] } s
    | r :: _ =>
      if packetsOrdered x && (keptAsked s n k || packetWaits s n x k b) then remoteOut n faddr cls jb rest x s
      else if lacksKept b then remoteOut n faddr cls jb rest x (xRequest s n x 1 faddr cls r.lo (r.hi + 1 - r.lo) 0 [] k)
      else
        match readPieces jb x.how b none [] s with
        | (.val _, b, s) =>
          let o := openShared b s
          let d := runBytes o.1 r
          let s := match x.rop with
            | some (rop, cid) => xRequest o.2 n x 2 faddr cls r.lo d.length (rop * 2 ^ 54 + (if rop = 5 then cid * 2 ^ 38 else 0)) d k
            | none => xRequest o.2 n x 0 faddr cls r.lo d.length 0 d k
          remoteOut n faddr cls jb rest { x with blocks := x.blocks.set k [] } s
        | (e, _, s) => xEnd s x e

/-- The READ requests of a transfer from another device sent, in order. -/
def remoteIn (n : Nat) (x : Xfer) (faddr cls : Nat) : List (List Piece × Nat) → State → State
  | [], s => s
  | (b, k) :: rest, s =>
    match blockRuns b with
    | r :: _ => remoteIn n x faddr cls rest (xRequest s n x 1 faddr cls r.lo (r.hi + 1 - r.lo) 0 [] k)
    | [] => remoteIn n x faddr cls rest s

/-- A remote transfer begun. -/
def remoteStart (s : State) (n : Nat) : State :=
  match SMap.find? s.xfers n with
  | none => s
  | some x =>
    match x.remote, SMap.find? s.jobs x.job with
    | some (faddr, cls), some jb =>
      if (ownAddr s).isNone then xFault s x 0x25
      else if x.blocks.isEmpty then finishX s n x
      else if x.toDev then remoteIn n x faddr cls x.blocks.zipIdx s
      else remoteOut n faddr cls jb x.blocks.zipIdx x s
    | _, _ => s

/-- The data of one READ arrived: its packet's pieces are written, or the bits that its packet keeps are known and the
packet goes. -/
def remoteLand (s : State) (n k : Nat) (data : List Byte) : State :=
  match SMap.find? s.xfers n with
  | none => s
  | some x =>
    match x.remote, SMap.find? s.jobs x.job with
    | some (faddr, cls), some jb =>
      let b := x.blocks.getD k []
      let lo := (b.map (fun p => p.far / 8)).foldl min (2 ^ 64)
      let v := leNat data
      let b := b.map (fun p =>
        if x.toDev || p.kind == .kept then { p with data := some (v / 2 ^ (p.far - 8 * lo) % 2 ^ p.width) } else p)
      if !x.toDev then remoteOut n faddr cls jb [(b, k)] { x with blocks := x.blocks.set k b } s
      else
        match landPieces jb x b s with
        | (.val _, x, s) =>
          let x := { x with blocks := x.blocks.set k [] }
          if x.blocks.all (·.isEmpty) then finishX (setX s n x) n x else setX s n x
        | (e, _, s) => xEnd s x e
    | _, _ => s

/-- Is a packet the request of this part with a tag? -/
def isRequest (r : Nat × FReq) (pk : Packet) : Bool := pkTag pk == r.1 && pkIsRequest pk && pkSrc pk == pkSrc r.2.pk

/-- Is a request still at an egress of this part: held, or queued for credits and replay room (R296, R304, R307)? -/
def atEgress (s : State) (r : Nat × FReq) : Bool :=
  s.fab.held.any (fun h => isRequest r h.pk) || s.ports.any (fun p => p.2.txWait.any (fun w => isRequest r w.pk))

/-- Do writes of an engine to host memory wait for the link? -/
def hostWritesWait (s : State) (e : XEng) : Bool := s.link.waitX.contains e

/-- A transfer entered, not yet begun. -/
def newXfer (s : State) (x : Xfer) : Nat × State := (s.nextX, { setX s s.nextX x with nextX := s.nextX + 1 })

/-- A transfer begun or carried on. -/
def xGo (s : State) (paid : Bool) (n : Nat) : State :=
  match SMap.find? s.xfers n with
  | some x =>
    if x.remote.isSome then (if isHeld s (.start n) then s else wholeOr s paid (.start n) (fun s => remoteStart s n))
    else hostStart s paid n
  | none => s

/-- The data of a READ put in place, once the lines it needs are within reach. -/
def fabricLand (s : State) (paid : Bool) (n k : Nat) (data : List Byte) : State :=
  wholeOr s paid (.fabricData n k data) (fun s => remoteLand s n k data)

/-- A WRITE of a transfer toward another device is answered: the packets that waited for it go on. -/
def remoteMore (s : State) (n : Nat) : State :=
  match SMap.find? s.xfers n with
  | some x => if x.remote.isSome && !x.toDev && packetsOrdered x then xGo s false n else s
  | none => s

end Sys2Proof.Machine
end

