-- ==== Sys2Proof/Machine/Move.lean ====
section
/-! DEFINITION. The tile move engine: MOVE, MOVEX, GATHER and SCATTERADD (R103 to R106). -/

namespace Sys2Proof.Machine

def hintOf (h : Nat) : Hint :=
  match h with
  | 0 => .normal | 1 => .stream | 2 => .keep | _ => .last

/-- How a MOVE or MOVEX makes its HBM accesses (Table 3.16). -/
def moveHow (t w : Nat) : How := { rq := .tile t, hint := hintOf (bits w 88 87), prio := bits w 90 89, narrow := false }

/-- A copied element: its source bit address, none for a padded position; its destination bit address. -/
abbrev CopyEl := Option Nat × Nat

/-- Bits of the words that elements cover: at least once, and more than once. -/
abbrev Cover := List (Nat × Nat × Nat)

def coverPart (a m : Nat) : Cover → Cover
  | [] => [(a, m, 0)]
  | x :: r => if x.1 = a then (a, x.2.1 ||| m, x.2.2 ||| (x.2.1 &&& m)) :: r else x :: coverPart a m r

/-- The parts of an element in words: word address and bits. -/
def elParts (w ba : Nat) : List (Nat × Nat) :=
  let o := ba % 512
  let a := ba / 512 * 64
  if o + w ≤ 512 then [(a, (2 ^ w - 1) * 2 ^ o)]
  else [(a, (2 ^ (512 - o) - 1) * 2 ^ o), ((a + 64) % 2 ^ 48, 2 ^ (w - (512 - o)) - 1)]

def coverOf (w : Nat) (l : List Nat) : Cover := l.foldl (fun c ba => (elParts w ba).foldl (fun c x => coverPart x.1 x.2 c) c) []

/-- Does an element have a bit among those that `f` takes of a cover? -/
def inCover (f : Nat × Nat → Nat) (c : Cover) (w ba : Nat) : Bool :=
  (elParts w ba).any (fun x => c.any (fun y => y.1 == x.1 && (f y.2 &&& x.2) != 0))

/-- The elements whose results are left open: the destination meets another destination or a source, or the source
meets a destination (R103). DESIGN CHOICE (log 16): the same of a MOVEX (R104), whose overlaps the manual does not name. -/
def clashOf (w : Nat) (l : List CopyEl) : CopyEl → Bool :=
  let dst := coverOf w (l.map (·.2))
  let src := coverOf w (l.filterMap (·.1))
  let meet := src.any (fun x => dst.any (fun y => x.1 == y.1 && (x.2.1 &&& y.2.1) != 0))
  if !meet && dst.all (fun y => y.2.2 == 0) then fun _ => false
  else fun e =>
    inCover (·.2) dst w e.2 || inCover (·.1) src w e.2 ||
      (match e.1 with
        | some a => inCover (·.1) dst w a
        | none => false)

/-- The elements of a MOVE with one side on the host or on another device whose place another destination element shares
(R103). -/
def sharedOf (w : Nat) (l : List CopyEl) : CopyEl → Bool :=
  let dst := coverOf w (l.map (·.2))
  if dst.all (fun y => y.2.2 == 0) then fun _ => false else fun e => inCover (·.2) dst w e.2

/-- Elements copied in order, then what they make up is written; `bad` notes that a part of the request failed. Poison
makes its destination word poison; a failed read puts poison there too, and the command never completes (R177, R178,
R241). -/
def copyEls (j : Job) (how : How) (w : Nat) (fixed : Bool) (clash : CopyEl → Bool) :
    List CopyEl → RBuf → List PendWord → Bool → State → Work × State
  | [], _, p, bad, s =>
    match flush s how p with
    | (.val _, s) => (if bad then .failed else .done, s)
    | (e, s) => faultWith bad e s
  | e :: r, b, p, bad, s =>
    let src : EAcc × RBuf × State := match e.1 with
      | none => (.val 0, b, s)
      | some a => readElemB s j how b a w
    let got : Option (Nat × Bool × Bool × State) := match src with
      | (.val v, _, s) =>
        if !clash e then some (v, false, bad, s)
        else if fixed then some ((Config.overlapChoice e.2 w v).toNat, false, bad, s)
        else some ((drawFree s).1, false, bad, (drawFree s).2)
      | (.poison, _, s) => some (0, true, bad, s)
      | (.failed, _, s) => some (0, true, true, s)
      | _ => none
    match got with
    | none => faultWith bad src.1 (flush src.2.2 how p).2
    | some (v, poison, bad, s) =>
      match stageElem s j how p e.2 w v poison with
      | some p => copyEls j how w fixed clash r src.2.1 p bad s
      | none => faulted bad 0x25 (flush s how p).2

/-- The elements of a MOVE: padded destinations are left out. -/
def moveEls (sg dg : Gen) (sa da : Nat) : List CopyEl :=
  (List.range sg.total).filterMap (fun n =>
    let si := sg.flat n
    let di := dg.flat n
    if dg.padded di then none
    else some (if sg.padded si then none else some (sg.bitAddr sa si), dg.bitAddr da di))

/-- The transfer of a MOVE with a side on the host or on another device entered, not yet begun. -/
def moveXfer (s : State) (t : Nat) (c : QCmd) (toDev : Bool) (remote : Option (Nat × Nat)) (how : How) (ps : List Piece) :
    Work × State :=
  let ps := ps.flatMap splitPiece
  let n := newXfer s { job := (tile s t).job.getD 0, eng := .tile t c.idx, toDev := toDev, remote := remote, hint := how.hint,
                       prio := how.prio, rop := none, blocks := farBlocks remote.isSome toDev ps, started := false, ats := none,
                       prg := none, tags := [], ack := false, last := 0, pend := [] }
  (.xfer n.1, n.2)

/-- The work of a MOVE on the package, or the transfer it begins (R103). A padded source writes zero: on the device at
once, beyond it with the rest of the transfer. -/
def moveWork (t : Nat) (c : QCmd) (s : State) (j : Job) : Work × State :=
  let w := c.word
  let sg := cgen c (wSgen w)
  let dg := cgen c (wDgen w)
  let els := moveEls sg dg (sg.a0 s t) (dg.a0 s t)
  let how := moveHow t w
  if bits w 119 116 = 0 then copyEls j how sg.width false (clashOf sg.width els) els none [] false s
  else
    let remote := if bit1 w 117 || bit1 w 116 then some (bits w 105 91, bits w 115 115) else none
    let shared := sharedOf sg.width els
    let kind := fun e => if shared e then PieceKind.shared else .element
    if bit1 w 119 || bit1 w 117 then
      match copyEls j how sg.width false shared (els.filter (fun e => e.1.isNone)) none [] false s with
      | (.done, s) =>
        moveXfer s t c true remote how (els.filterMap (fun e => e.1.map (fun a =>
          { far := a, dev := e.2, width := sg.width, data := none, kind := kind e })))
      | r => r
    else
      moveXfer s t c false remote how (els.map (fun e =>
        { far := e.2, dev := e.1.getD 0, width := sg.width, data := if e.1.isNone then some 0 else none, kind := kind e }))

/-- The elements of a MOVEX: each block of 64 × 64 is transposed (R104). -/
def movexEls (sg dg : Gen) (sa da : Nat) : List CopyEl :=
  (List.range sg.total).filterMap (fun n =>
    let si := sg.flat n
    let b := si.getD 0 0
    let a := si.getD 1 0
    let di := b * 64 + a + n / 4096 * 4096
    -- destination: L1 index b, L0 index a, the same block
    let dx := dg.flat di
    if dg.padded dx then none
    else some (if sg.padded si then none else some (sg.bitAddr sa si), dg.bitAddr da dx))

def movexWork (t : Nat) (c : QCmd) (s : State) (j : Job) : Work × State :=
  let w := c.word
  let sg := cgen c (wSgen w)
  let dg := cgen c (wDgen w)
  let els := movexEls sg dg (sg.a0 s t) (dg.a0 s t)
  copyEls j (moveHow t w) sg.width true (clashOf sg.width els) els none [] false s

/-- The ranges a MOVE or MOVEX reads and writes; a host or remote side is in neither tracked region. -/
def moveReads (s : State) (t w : Nat) : List (Nat × Nat) :=
  if wOpcode w = 0x10 && (bit1 w 119 || bit1 w 117) then [] else hazardParts s t ((gen (tile s t) (wSgen w)).span s t)

def moveWrites (s : State) (t w : Nat) : List (Nat × Nat) :=
  if wOpcode w = 0x10 && (bit1 w 118 || bit1 w 116) then [] else hazardParts s t ((gen (tile s t) (wDgen w)).span s t)

/-! ## GATHER and SCATTERADD (R105, R106) -/

def gTable (s : State) (t w : Nat) : Nat := withBsel s t (bits w 81 80) (bits w 79 32)
def gStride (w : Nat) : Nat := bits w 101 86 * 64

/-- The elements a generator walks, each read: its value, or how the read ended. -/
def takeAll (j : Job) (how : How) (sg : Gen) (sa : Nat) : Nat → Nat → RBuf → List EAcc → State → EAcc × List EAcc × State
  | 0, _, _, acc, s => (.val 0, acc.reverse, s)
  | k + 1, n, b, acc, s =>
    let ix := sg.flat n
    if sg.padded ix then takeAll j how sg sa k (n + 1) b (.val 0 :: acc) s
    else
      match readElemB s j how b (sg.bitAddr sa ix) sg.width with
      | (.outside, _, s) => (.outside, acc.reverse, s)
      | (e, b, s) => takeAll j how sg sa k (n + 1) b (e :: acc) s

/-- The indices of a GATHER or SCATTERADD (R105), read as `how` says: the PRIO and HINT of a GATHER apply to every HBM
access it makes. -/
def indices (s : State) (j : Job) (how : How) (t w : Nat) (ig : Gen) : EAcc × List EAcc × State :=
  if bit1 w 119 then (.val 0, (List.range ig.total).map .val, s)
  else takeAll j how ig (ig.a0 s t) ig.total 0 none [] s

/-- The bytes of a gathered row, word by word, each looked up at its home (R196): data, or none for a word of poison. -/
def rowWords (j : Job) (how : How) (a : Nat) :
    Nat → Nat → List (Option (List Byte)) → Bool → State → EAcc × List (Option (List Byte)) × Bool × State
  | 0, _, acc, bad, s => (.val 0, acc, bad, s)
  | k + 1, n, acc, bad, s =>
    let x := (a + n * 64) % 2 ^ 48
    if !allowed s j false how.hint x (x + 63) then (.outside, acc, bad, s)
    else
      match readWord s how x [] with
      | (.data d, s) => rowWords j how a k (n + 1) (acc ++ [some d]) bad s
      | (.poison, s) => rowWords j how a k (n + 1) (acc ++ [none]) bad s
      | (.failed, s) => rowWords j how a k (n + 1) (acc ++ [none]) true s

/-- An element of `w` bits at bit `o` of gathered words; none where it touches poison. -/
def rowElem (ws : List (Option (List Byte))) (o w : Nat) : Option Nat :=
  if (List.range (w / 8 + 2)).any (fun i => decide (o / 8 + i ≤ (o + w - 1) / 8) &&
      (ws.getD ((o / 8 + i) / 64) none).isNone) then none
  else
    let d := (ws.map (fun x => x.getD (List.replicate 64 0#8))).flatten
    some (leNat ((d.drop (o / 8)).take (w / 8 + 2)) / 2 ^ (o % 8) % 2 ^ w)

/-- Elements n on of the destination put in from the rows, then written. -/
def putRow (j : Job) (how : How) (dg : Gen) (da : Nat) (ws : List (Option (List Byte))) :
    Nat → Nat → Nat → List PendWord → State → EAcc × State
  | 0, _, _, p, s => flush s how p
  | k + 1, n, o, p, s =>
    let ix := dg.flat n
    if dg.padded ix then putRow j how dg da ws k (n + 1) (o + dg.width) p s
    else
      let v := rowElem ws o dg.width
      match stageElem s j how p (dg.bitAddr da ix) dg.width (v.getD 0) v.isNone with
      | some p => putRow j how dg da ws k (n + 1) (o + dg.width) p s
      | none => (.outside, (flush s how p).2)

/-- The words of every row of a GATHER, in order, row after row. -/
def gatherRows (t w : Nat) (j : Job) (how : How) :
    List EAcc → Bool → List (Option (List Byte)) → State → EAcc × List (Option (List Byte)) × Bool × State
  | [], bad, acc, s => (.val 0, acc, bad, s)
  | .val x :: r, bad, acc, s =>
    let nw := gLen w / 64
    if x = 0xFFFFFFFF then gatherRows t w j how r bad (acc ++ List.replicate nw (some (List.replicate 64 0#8))) s
    else
      match rowWords j how (gTable s t w + x * gStride w) nw 0 [] bad s with
      | (.val _, ws, bad, s) => gatherRows t w j how r bad (acc ++ ws) s
      | (e, _, bad, s) => (e, acc, bad, s)
  | e :: _, bad, acc, s => (e, acc, bad, s)

def gatherWork (t : Nat) (c : QCmd) (s : State) (j : Job) : Work × State :=
  let w := c.word
  if gTable s t w % 64 ≠ 0 then (.fault 0x25, s)
  else
    let dg := cgen c (wDgen w)
    let how : How := { rq := .tile t, hint := hintOf (bits w 83 82), prio := bits w 85 84, narrow := false }
    match indices s j how t w (cgen c (wSgen w)) with
    | (.val _, ix, s) =>
      match gatherRows t w j { how with narrow := true } ix false [] s with
      | (.val _, ws, bad, s) =>
        match putRow j how dg (dg.a0 s t) ws dg.total 0 0 [] s with
        | (.val _, s) => (if bad then .failed else .done, s)
        | (e, s) => faultWith bad e s
      | (e, _, bad, s) => faultWith bad e s
    | (e, _, s) => (e.work, s)

/-- A row of `len` bits from bit `o` of the elements taken, or how one of its reads ended. -/
def rowOf (els : List EAcc) (w o len : Nat) : EAcc :=
  let n0 := o / w
  let ns := (List.range (len / w + 2)).filter (fun i => decide ((n0 + i) * w < o + len))
  ns.foldl (fun r i =>
    match r, els.getD (n0 + i) (.val 0) with
    | .val v, .val x => .val (v + x * 2 ^ (i * w))
    | .val _, e => e
    | r, _ => r) (.val 0)

def rowBits (els : List EAcc) (w o len : Nat) : EAcc :=
  match rowOf els w o len with
  | .val v => .val (v / 2 ^ (o % w) % 2 ^ len)
  | e => e

/-- The words of a row combined at their homes. -/
def scatterRow (j : Job) (how : How) (rop cid a v : Nat) : Nat → State → Work × State
  | 0, s => (.done, s)
  | k + 1, s =>
    match scatterRow j how rop cid a v k s with
    | (.fault c, s) => (.fault c, s)
    | (pre, s) =>
      let x := (a + k * 64) % 2 ^ 48
      if !allowed s j true .normal x (x + 63) then faulted (pre == .failed) 0x25 s
      else
        match reduceAt s how rop cid x (leBytes 64 (v / 2 ^ (512 * k))) with
        | (.ok, s) => (pre, s)
        | (.bad, s) => (.fault 0x30, s)
        | (.poison, s) => faulted (pre == .failed) 0x31 s
        | (.failed, s) => (.failed, s)

def scatterRows (t w : Nat) (j : Job) (width : Nat) (els : List EAcc) (how : How) : List EAcc → Nat → Bool → State → Work × State
  | [], _, bad, s => (if bad then .failed else .done, s)
  | .val x :: r, i, bad, s =>
    if x = 0xFFFFFFFF then scatterRows t w j width els how r (i + 1) bad s
    else
      match rowBits els width (i * gLen w * 8) (gLen w * 8) with
      | .val v =>
        match scatterRow j how (bits w 85 82) (bits w 31 16) (gTable s t w + x * gStride w) v (gLen w / 64) s with
        | (.done, s) => scatterRows t w j width els how r (i + 1) bad s
        | (.failed, s) => scatterRows t w j width els how r (i + 1) true s
        | (.fault c, s) => faulted bad c s
        | e => e
      | .failed => scatterRows t w j width els how r (i + 1) true s
      | e => faultWith bad e s
  | e :: _, _, bad, s => faultWith bad e s

def scatterWork (t : Nat) (c : QCmd) (s : State) (j : Job) : Work × State :=
  let w := c.word
  let how := plain (.tile t)
  if gTable s t w % 64 ≠ 0 then (.fault 0x25, s)
  else
    let sg := cgen c (wDgen w)
    match indices s j how t w (cgen c (wSgen w)) with
    | (.val _, ix, s) =>
      match takeAll j how sg (sg.a0 s t) sg.total 0 none [] s with
      | (.val _, els, s) => scatterRows t w j sg.width els how ix 0 false s
      | (e, _, s) => (e.work, s)
    | (e, _, s) => (e.work, s)

/-- The work of a command of the tile move engine, by its opcode. -/
def moverWork (t : Nat) (c : QCmd) (s : State) (j : Job) : Work × State :=
  match wOpcode c.word with
  | 0x10 => moveWork t c s j
  | 0x11 => movexWork t c s j
  | 0x12 => gatherWork t c s j
  | _ => scatterWork t c s j

/-- The ranges of a GATHER or SCATTERADD: its indices, its generator, and a table that could lie anywhere. -/
def gatherIdxReads (s : State) (t w : Nat) : List (Nat × Nat) :=
  if bit1 w 119 then [] else hazardParts s t ((gen (tile s t) (wSgen w)).span s t)

def gatherTable (s : State) (t w : Nat) : List (Nat × Nat) :=
  let a := gTable s t w
  let rows := if bit1 w 119 then gRows w (tile s t) - 1 else 0xFFFFFFFE
  let hi := a + rows * gStride w + gLen w - 1
  hazardParts s t (if hi ≥ 2 ^ 48 then (0, 2 ^ 48 - 1) else (a, hi))

def gatherReads (s : State) (t w : Nat) : List (Nat × Nat) := gatherIdxReads s t w ++ gatherTable s t w
def gatherWrites (s : State) (t w : Nat) : List (Nat × Nat) := hazardParts s t ((gen (tile s t) (wDgen w)).span s t)
def scatterReads (s : State) (t w : Nat) : List (Nat × Nat) :=
  gatherIdxReads s t w ++ hazardParts s t ((gen (tile s t) (wDgen w)).span s t)

end Sys2Proof.Machine
end

