-- ==== Sys2Proof/Machine/Engines.lean ====
section
/-! DEFINITION. The four engines of a tile: each executes its own queue in order, and they run concurrently (R83, R84);
signals that a queue carries (R107). -/

namespace Sys2Proof.Machine

/-! ## Signals in a queue (R107) -/

/-- A SIG raised (R107): to the issuing tile, a tile of the set, or a tile of another device. -/
def raiseSig (s : State) (t w idx : Nat) : State :=
  match (tile s t).job with
  | none => s
  | some j =>
    if bit1 w 69 then
      match remoteSignal s j t idx (bits w 68 54) (sTile w) (sFlag w) (sN w) none with
      | (true, s) => s
      | (false, s) => jobFault s j 0x25 t idx
    else signal s (if bit1 w 70 then t else sTile w) (sFlag w) (sN w)

def engOf (n : Nat) : Engine :=
  match n with
  | 1 => .array | 2 => .selector | 3 => .vector | _ => .move

/-- The number by which a tile's engine is told from its others at the regulator; transfers belong to the move engine. -/
def engNo (e : Engine) : Nat :=
  match e with
  | .move => 0 | .array => 1 | .selector => 2 | .vector => 3

def isSig (c : QCmd) : Bool := wOpcode c.word == 0x20

/-- Signals at the head of an engine's queue are raised, each after every earlier command is complete (R107). -/
def sigRun : Nat → State → Nat → Engine → State
  | 0, s, _, _ => s
  | k + 1, s, t, e =>
    match qOf (tile s t) e with
    | c :: r =>
      if isSig c then
        let v := tile s t
        sigRun k (raiseSig (setTile s t (withQ v e r)) t c.word c.idx) t e
      else s
    | [] => s

/-! ## The engines -/

/-- The work of a command of an engine. -/
def engineWork (e : Engine) (t : Nat) (c : QCmd) (s : State) (j : Job) : Work × State :=
  match e with
  | .array => if wOpcode c.word = 0x01 then ldsWork t c s j else passWork t c s j
  | .selector => topkWork t c s j
  | .vector => vecWork t c s j
  | .move => moverWork t c s j

/-- The command an engine is at: its first that is not done. A signal in the queue is no work of the engine. -/
def currentOf (v : Tile) (e : Engine) : Option QCmd := (qOf v e).find? (fun c => !c.done && !isSig c)

/-- The entry of a command replaced, by its word index. -/
def putEntry (s : State) (t : Nat) (e : Engine) (c : QCmd) : State :=
  let v := tile s t
  setTile s t (withQ v e ((qOf v e).map (fun x => if x.idx = c.idx then c else x)))

/-- The time since when the vector unit has been blocked popping an empty queue: each such interval starts from zero
(R134). -/
def vecSince (s : State) (t : Nat) (e : Engine) (at' : Option Nat) : State :=
  if e = .vector then setTile s t { tile s t with vecAt := at' } else s

/-- How the work of a command `c` ended, `u` being the state after it; and whether anything moved. -/
def engineEnd (s u : State) (t : Nat) (e : Engine) (j : Nat) (c : QCmd) (r : Work) : Bool × State :=
  match r with
  | .done => (true, vecSince (putEntry u t e { c with done := true }) t e none)
  | .waits n =>
    if n = c.reps && (e != .vector || (tile s t).vecAt.isSome) then (false, s)
    else (n != c.reps, vecSince (putEntry u t e { c with reps := n }) t e (some u.time))
  | .xfer x => (true, xGo (putEntry u t e { c with xfer := some x }) false x)
  | .fault x => (false, jobFault (if x = 0x30 then failedReq u else u) j x t c.idx)
  | .failed => (true, failedReq (putEntry u t e { c with stuck := true }))

/-- An engine that waits for memory or its regulator: the vector unit is not blocked popping where its queue has rows (R134). -/
def engineWaits (s : State) (t : Nat) (e : Engine) : State :=
  if (tile s t).vq.isEmpty || (tile s t).vecAt.isNone then s else vecSince s t e none

/-- One step of an engine: the command it is at does its work, where nothing holds it. A command whose transfer is not over
holds what is behind it (R83), one with a failed request holds it for good, and one that meets a line out of reach waits
with nothing of it done (R190, R203), as does one of which its regulator does not admit all (R220). -/
def engineStep (s : State) (t : Nat) (e : Engine) : Bool × State :=
  match jobOf s t, currentOf (tile s t) e with
  | some (j, jb), some c =>
    if s.main != .ready || c.xfer.isSome || c.stuck then (false, s)
    else
      match engineWork e t c s jb with
      | (r, u) =>
        match admitWork s u (if u.stalled.isSome then (engineWork e t c (withinReach s) jb).2 else u) (engNo e) with
        | (some v, _) => engineEnd s v t e j c r
        | (none, v) => (false, engineWaits v t e)
  | _, _ => (false, s)

/-- The engines of a tile run until none of them moves: array, selector, vector unit, move engine, in turn. -/
def enginesRun : Nat → State → Nat → State
  | 0, s, _ => s
  | k + 1, s, t =>
    let a := engineStep s t .array
    let b := engineStep a.2 t .selector
    let c := engineStep b.2 t .vector
    let d := engineStep c.2 t .move
    if a.1 || b.1 || c.1 || d.1 then enginesRun k d.2 t else d.2

/-- Rounds enough for eight passes of 65,536 rows, each row handed on alone. -/
def engineRounds : Nat := 2 ^ 20

def enginesGo (s : State) (t : Nat) : State := enginesRun engineRounds s t

/-- The move engines whose transfer an answer from outside may have ended. -/
def enginesAll (s : State) : State := (s.tiles.map (·.1)).foldl enginesGo s

end Sys2Proof.Machine
end

