-- ==== Sys2Proof/Machine/Order.lean ====
section
/-! DEFINITION. The order in which requests from outside are performed: which of them wait behind an earlier one that
waits (R127, R163, R164, R309). -/

namespace Sys2Proof.Machine

/-- The 64-byte words of a byte range. -/
def wordRange (a n : Nat) : List Nat := (List.range ((a % 64 + n + 63) / 64)).map (fun i => a / 64 * 64 + 64 * i)

/-- The words that a request from outside addresses. -/
def reqWords (h : HeldReq) : List Nat :=
  match h with
  | .acc c => [c.a / 64 * 64]
  | .bar2Read ps _ _ => ps.map (fun p => p.1 / 64 * 64)
  | .bar2Write ps _ => ps.map (fun p => p.1 / 64 * 64)
  | .bar2Atomic a _ _ _ _ _ => [a / 64 * 64]
  | .fabric _ pk => wordRange (pkAddr pk) (pkLen pk)
  | .context a _ => [a / 64 * 64]
  | .flag a _ => [a / 64 * 64]
  | _ => []

/-- Is a request a read alone? -/
def readsOnly (h : HeldReq) : Bool :=
  match h with
  | .bar2Read _ _ _ => true
  | .fabric _ pk => pkOp pk == 1
  | .acc c =>
    match c.op with
    | .read _ _ => true
    | _ => false
  | _ => false

/-- Is a request a host access, and is it a posted write? -/
def fromHostReq (h : HeldReq) : Bool :=
  match h with
  | .bar2Read _ _ _ => true
  | .bar2Write _ _ => true
  | .bar2Atomic _ _ _ _ _ _ => true
  | .context _ _ => true
  | .flag _ _ => true
  | _ => false

def hostWriteReq (h : HeldReq) : Bool :=
  match h with
  | .bar2Write _ _ => true
  | .context _ _ => true
  | .flag _ _ => true
  | _ => false

/-- Do two requests address a word in common, one of them changing it? -/
def meetReq (x h : HeldReq) : Bool := !(readsOnly x && readsOnly h) && (reqWords x).any (fun a => (reqWords h).contains a)

/-- Must a request wait for an earlier one to be performed: a host access for every earlier host write (R164), a SIGNAL for the
earlier ordered WRITEs and REDUCEs of its stream (R127, R309), and any for an earlier one of its engine at one of its words
(R163)? -/
def mustFollow (x h : HeldReq) : Bool :=
  if fromHostReq x && fromHostReq h then hostWriteReq x || meetReq x h
  else
    match x, h with
    | .fabric p a, .fabric q b =>
      (pkSrc a == pkSrc b && !pkAdaptive a && !pkAdaptive b && (pkOp a == 0 || pkOp a == 2) && pkOp b == 3) || (p == q && meetReq x h)
    | _, _ => false

/-- Does a request that arrives wait behind one that waits? -/
def follows (s : State) (h : HeldReq) : Bool := (waitingReqs s).any (fun x => mustFollow x h)

/-- A request arrives: behind the earlier ones that it must follow, or performed. -/
def inTurn (s : State) (h : HeldReq) (f : State → State) : State :=
  if follows s h then { s with behind := s.behind ++ [h] } else wholeOr s false h f

end Sys2Proof.Machine
end

