-- ==== Sys2Proof/Machine/FabricCmds.lean ====
section
/-! DEFINITION. The Fragor ports and what arrives on them: flits, training, HELLO, forwarding, requests of other parts,
and responses (R295 to R320). -/

namespace Sys2Proof.Machine

/-! ## The end of a request of this part (R306, R309, R310, R314) -/

/-- Is a request to this destination that was answered RESYNC waiting to go again? -/
def resyncAt (s : State) (dst : Nat) : Bool := s.fab.reqs.any (fun r => r.2.resync && r.2.dst == dst && !r.2.abandoned)

/-- A destination whose ordered requests are all answered takes new ones again. -/
def settleStream (s : State) (dst : Nat) : State :=
  if orderedOpen s dst || resyncAt s dst then drainWaiting s else releaseStream s dst

def dropReq (s : State) (tag : Nat) : State := { s with fab := { s.fab with reqs := SMap.erase s.fab.reqs tag } }

/-- An ordered request failed: what was answered RESYNC of its stream does not go again. -/
def markBad (s : State) (r : FReq) : State :=
  if r.ordered && (orderedOpen s r.dst || resyncAt s r.dst) && !s.fab.badDst.contains r.dst then
    { s with fab := { s.fab with badDst := s.fab.badDst ++ [r.dst] } }
  else s

/-- A request closed with a status other than OK and RESYNC. -/
def failReq (s : State) (tag : Nat) (r : FReq) (status : Nat) : State :=
  let s := markBad (dropReq s tag) r
  let s := if status = 4 then
      { s with fab := { s.fab with tx := SMap.put s.fab.tx r.dst ((SMap.get s.fab.tx r.dst (0, true)).1, true) } }
    else s
  settleStream (requestFailed s r status) r.dst

/-- A response to a request of this part (Table 10.7). -/
def gotResponse (s : State) (tag status : Nat) (data : List Byte) : State :=
  match SMap.find? s.fab.reqs tag with
  | none => s
  | some r =>
    if r.resync then s
    else if r.abandoned then settleFault (settleStream (dropReq s tag) r.dst) r.job
    else settleFault (if status = 0 then
      let s := dropReq s tag
      let s := match r.x, r.pieces with
        | some n, k :: _ => if pkOp r.pk = 1 then fabricLand s false n k data else remoteMore s n
        | _, _ => s
      settleStream s r.dst
    else if status = 0x0A && r.ordered then
      let gone := !(s.jobs.any (fun j => j.1 == r.job && j.2.running))
      { s with fab := { s.fab with reqs := SMap.put s.fab.reqs tag { r with resync := true, abandoned := gone } } }
    else failReq s tag r status) r.job

/-- A dropped packet that is a request is answered, a MGMT_REQ by a MGMT_RESP (R300); one of this part's own is answered at
once. -/
def answerDropped (s : State) (pk : Packet) (status : Nat) : State :=
  if !pkIsRequest pk then s
  else if !pkSrt pk && ownAddr s = some (pkSrc pk) then gotResponse s (pkTag pk) status []
  else if pkOp pk = 4 then refuseMgmt s 16 pk
  else answer s pk status

/-! ## Packets held (R307) -/

/-- The µs a held packet has spent in the part. -/
def heldUs (s : State) (h : HeldPk) : Nat := waitedUs s h.us h.since

/-- When a held packet is dropped: FAB_HOLD_MS after it was first held, or when its AGE reaches the lifetime. -/
def holdEnd (s : State) (h : HeldPk) : Nat :=
  min (h.first + rd s 0x8030 2 * 1000000) (h.since + (rd s 0x8030 3 - pkAge h.pk - h.us) * 1000)

/-- A held packet that has been held too long is dropped and answered (R307). -/
def dropHeld (s : State) (h : HeldPk) : State := answerDropped (giveCredit (bump s 0x8050 6) h.inp h.pk) h.pk 6

/-- Every held packet routed again, in order; one for an address that is the part's own now is consumed (R302). -/
def reroute (s : State) : State :=
  s.fab.held.foldl (fun s h =>
    let e := routeEntry s (pkDst h.pk)
    let vc := if pkIsRequest h.pk then entVc e else entVc e + 2
    let stay (p : Nat) : State := { s with fab := { s.fab with held := s.fab.held ++ [{ h with port := p, vc := vc }] } }
    if holdEnd s h ≤ s.time then dropHeld s h
    else if ownAddr s = some (pkDst h.pk) then giveCredit { s with out := .packet 16 (aged h.pk (heldUs s h)) :: s.out } h.inp h.pk
    else if !entValid e then answerDropped (giveCredit (bump s 0x8050 8) h.inp h.pk) h.pk 5
    else
      match egress s e (pkAdaptive h.pk) vc with
      | some p =>
        if heldAt s p vc then stay p
        else emitWait s p { vc := vc, inp := h.inp, us := h.us, pk := h.pk, since := h.since, first := some h.first }
      | none => stay (bits e 3 0)) { s with fab := { s.fab with held := [] } }

/-! ## Packets queued at a port (R296, R304) -/

/-- The packets queued at a port sent, in order, as far as they may be; one too old by now is dropped (R311). -/
def txGo (s : State) (p : Nat) : State :=
  let v := port s p
  if v.phase != .up then s
  else
    v.txWait.foldl (fun s w =>
      if tooOld s (aged w.pk (waitedUs s w.us w.since)) then answerDropped (giveCredit (bump s 0x8050 7) w.inp w.pk) w.pk 6
      else emitWait s p w) (setPort s p { v with txWait := [] })

/-- What is queued at a port that has left service (R307): held, and routed again; a source-routed packet has no other route
(R320). A HELLO is the link's own. -/
def holdQueued (s : State) (p : Nat) : State :=
  let l := (port s p).txWait
  let s := l.foldl (fun s w =>
    if pkSrt w.pk then giveCredit (bump s 0x8050 8) w.inp w.pk
    else if pkOp w.pk = 12 then s
    else holdWait s p w) (setPort s p { port s p with txWait := [] })
  if l.isEmpty then s else reroute s

def execHoldExpiry (n : Nat) (s : State) : Res :=
  ends s (match s.fab.held.find? (fun h => h.n == n) with
    | some h =>
      let s := advance s (holdEnd s h)
      dropHeld { s with fab := { s.fab with held := s.fab.held.filter (fun x => x.n != n) } } h
    | none => s)

/-! ## Service, training (R297, R298, R324) -/

/-- A port leaves service and retrains; what was queued there is held. -/
def leaveService (s : State) (p : Nat) : State :=
  let s := setPort s p { port s p with phase := .training, width := 0, failed := 0, resume := true }
  holdQueued (portChanged (bump s 0x8050 2) p) p

def laneUsed (v : Port) (lane : Nat) : Bool :=
  if v.width = 8 then decide (lane < 8) else if v.width = 4 then lane / 4 == (if v.upper then 1 else 0) else false

def execPortBerWindow (p lane errs bits : Nat) (s : State) : Res :=
  ends s (if portUp s p && laneUsed (port s p) lane && decide (bits < errs * 10000) then leaveService s p else s)

def execPortLossOfSignal (p : Nat) (s : State) : Res := ends s (if portUp s p then leaveService s p else s)

/-- The sender's flits again from the first that is not acknowledged. -/
def replayAll (s : State) (p : Nat) : State := ((port s p).replay.filter (·.full)).foldl (fun s f => sendFlit s p f) s

/-- Does a lane qualify: a bit error ratio of at most 1 × 10⁻⁵, by the errors and the bits of its window (R298)? -/
def laneOk (l : Nat × Nat) : Bool := decide (0 < l.2 ∧ l.1 * 100000 ≤ l.2)

/-- The width the qualified lanes give, and whether it is the upper four. -/
def trainedWidth (lanes : List Bool) : Nat × Bool :=
  if lanes.all id then (8, false)
  else if (lanes.take 4).all id then (4, false)
  else if (lanes.drop 4).all id then (4, true) else (0, false)

def nbUid (w : Nat) : Nat := bits w 223 160
def nbIncarn (w : Nat) : Nat := bits w 159 144

/-- May a link go on where it stopped: does the other end report the unique id and INCARN that it reported before, and was
neither end reset (R297)? -/
def samePeer (v : Port) (q : LinkPeer) : Bool :=
  v.resume && v.neighbour != 0 && nbUid v.neighbour == q.uid && nbIncarn v.neighbour == q.incarn && !q.wasReset

/-- Training ends: x8, x4 or dark. A link that does not resume begins anew. -/
def trainingDone (s : State) (p : Nat) (lanes : List (Nat × Nat)) (peer : LinkPeer) : State :=
  let w := trainedWidth (lanes.map laneOk)
  let v := port s p
  if w.1 = 0 then setPort s p { v with phase := .dark, retryAt := some (s.time + 1000000000) }
  else
    let resumed := samePeer v peer
    let fresh := { Port.reset with neighbour := v.neighbour, notified := v.notified, txWait := v.txWait }
    let v := if resumed then v else fresh
    let s := setPort s p { v with phase := .up, width := w.1, upper := w.2, credits := if resumed then v.credits else [1024, 1024, 1024, 1024], failed := 0,
                                  retryAt := none, helloAt := none }
    let s := if resumed then replayAll s p else s
    txGo (reroute (portChanged s p)) p

/-- Training ends with the errors and the bits of each lane's 10 ms window (R298), and what the other end reports (R297). -/
def execPortTrainingDone (p : Nat) (lanes : List (Nat × Nat)) (peer : LinkPeer) (s : State) : Res :=
  ends s (if (port s p).phase == .training && s.lay.ports.contains p && lanes.length == 8 then trainingDone s p lanes peer else s)

def execPortTrainRetry (p : Nat) (s : State) : Res :=
  ends s (match (port s p).phase, (port s p).retryAt with
    | .dark, some t => setPort (advance s t) p { port s p with phase := .training, retryAt := none }
    | _, _ => s)

/-! ## Flits (R295 to R297) -/

/-- The packet length that header bytes give (R295). -/
def lengthOf (h : Nat) : Nat :=
  let op := bits h 223 220
  if [0, 2, 4, 5, 9, 12].contains op then (32 + bits h 130 122 + 3) / 4 * 4 else 32

/-- Packet bytes with every whole packet at their front taken off; with the length of what they begin. -/
def takePackets : Nat → List Byte → List Byte
  | 0, d => d
  | k + 1, d =>
    if d.length < 32 then d
    else
      let n := lengthOf (leNat (d.take 32))
      if d.length < n then d else takePackets k (d.drop n)

/-- Where the first packet of a flit starts, by the packets before it: none where none starts in it. -/
def startOf (before payload : List Byte) : Option Nat :=
  if before.isEmpty then some 0
  else
    let d := before ++ payload
    let n := lengthOf (leNat (d.take 32)) - before.length
    if n < 244 then some n else none

def flPayload (f : Nat) : List Byte := leBytes 244 (bits f 2015 64)
def flCrcOk (f : Nat) : Bool := bits f 2047 2016 == (crc32 (leBytes 252 f)).toNat

/-- Does PSTART agree with the packet boundaries? -/
def startOk (v : Port) (f : Nat) : Bool :=
  match startOf v.rxBytes (flPayload f) with
  | some n => 4 * bits f 23 18 == n
  | none => bits f 23 18 == 63

/-- A failed data flit: NAK with ACKSEQ at the last good one; its eighth failed replay takes the port out of service. -/
def flitFailed (s : State) (p : Nat) (counts : Bool) : State :=
  let v := port s p
  let v := { v with failed := if counts then v.failed + 1 else v.failed }
  let s := setPort s p v
  if v.failed ≥ 9 then leaveService s p
  else sendIdle s p true 0 0

/-- What a good flit says of the other direction: acknowledged flits leave the buffer, credits return, NAK replays. Whether these
fields count in a data flit whose CRC passes and that is then discarded is in no rule: DESIGN CHOICE, they do (R296, log 24). -/
def flitControl (s : State) (p f : Nat) : State :=
  let v := port s p
  let a := bits f 51 40
  let l := match v.replay.findIdx? (fun r => r.seq == a && r.full) with
    | some i => v.replay.drop (i + 1)
    | none => v.replay
  let vc := bits f 38 37
  let s := setPort s p { v with replay := l, credits := v.credits.set vc (min 1024 (v.credits.getD vc 0 + bits f 36 27)) }
  if bit1 f 39 then bump (replayAll s p) 0x8050 1 else s

/-- A flit received (R296). -/
def flitIn (s : State) (p : Nat) (fecOk : Bool) (f : Nat) : State :=
  if !fecOk || !flCrcOk f then flitFailed s p true
  else
    let s := txGo (flitControl s p f) p
    let v := port s p
    if bits f 26 24 = 0 then s
    else if bits f 26 24 ≠ 1 || bits f 17 0 ≠ 0 then flitFailed s p true
    else if bits f 63 52 ≠ v.rxSeq then flitFailed s p false
    else if !startOk v f then flitFailed s p true
    else
      let s := setPort s p { v with rxSeq := (v.rxSeq + 1) % 4096, failed := 0, rxBytes := takePackets 9 (v.rxBytes ++ flPayload f) }
      sendIdle s p false 0 0

def execFlitReceive (p : Nat) (fecOk : Bool) (flit : BitVec 2048) (s : State) : Res :=
  ends s (if portUp s p then flitIn s p fecOk flit.toNat else s)

/-! ## HELLO (R318) -/

/-- The HELLO payload of a port but its CRC (Table 10.9). -/
def helloBits (s : State) (p : Nat) : Nat :=
  s.main.code * 2 ^ 112 + (ownAddr s).getD 0 * 2 ^ 120 + (if (ownAddr s).isSome then 2 ^ 135 else 0) +
    (port s p).width * 2 ^ 136 + p * 2 ^ 140 + s.fab.incarn * 2 ^ 144 + s.bringup.uid * 2 ^ 160

def sendHello (s : State) (p : Nat) : State :=
  let w := helloBits s p
  let f := drawFree s
  let pay := withCrc (leBytes 28 w)
  let h := mkHdr 12 (bit1 f.1 0) false (bits f.1 15 1) ((ownAddr s).getD 0) 0 (bits f.1 31 16) 32 0 (bits f.1 47 32) 0
  let s := setPort f.2 p { port s p with helloAt := some s.time, helloSent := w }
  emit s p (bits f.1 49 48) 1 16 { hdr := h, payload := pay }

/-- HELLO leaves at its interval, or at once after a field of it has changed. -/
def execHelloSend (p : Nat) (s : State) : Res :=
  ends s (if portUp s p then
      match (port s p).helloAt with
      | some t =>
        sendHello (if (port s p).helloSent = helloBits s p then advance s (t + rd s 0x8030 5 * 1000000) else s) p
      | none => sendHello s p
    else s)

/-- A HELLO kept, with the event of another neighbour. -/
def helloIn (s : State) (p : Nat) (pk : Packet) : State :=
  let w := leNat pk.payload
  if pkLen pk ≠ 32 || pkSrt pk || pkArgs pk ≠ 0 then bump s 0x8050 11
  else if bits w 255 224 ≠ (crc32 (pk.payload.take 28)).toNat then bump s 0x8050 10
  else
    let old := (port s p).neighbour
    let s := setPort s p { port s p with neighbour := w }
    if nbUid old = nbUid w ∧ nbIncarn old = nbIncarn w then s
    else notify (logEvent s 0x8002 (leBytes 1 p ++ leBytes 8 (nbUid w) ++ leBytes 2 (nbIncarn w))) p

/-- A packet is as long as its header says (R295). -/
def pkWhole (pk : Packet) : Bool :=
  pk.payload.length == (if [0, 2, 4, 5, 9, 12].contains (pkOp pk) then pkLen pk else 0)

def execHello (p : Nat) (pk : Packet) (s : State) : Res :=
  ends s (if portUp s p && pkOp pk == 12 && hcrcOk pk && pkWhole pk then helloIn (giveCredit s p pk) p pk else s)

/-! ## Forwarding (R301 to R304, R311, R320) -/

/-- Is an OP reserved? 0xD and 0xE stand neither in Table 10.5 nor in its list of reserved codes: DESIGN CHOICE, they are taken as
reserved (R300, log 23). -/
def reservedOp (op : Nat) : Bool := [6, 7, 10, 11, 13, 14, 15].contains op

/-- One hop less. -/
def hopped (pk : Packet) : Packet := { pk with hdr := BitVec.ofNat 256 (setBits pk.hdr.toNat 136 131 (pkHops pk - 1)) }

/-- A packet from port `p` too old, or with no hop left where it is not at its end, is dropped; a request is answered. -/
def ageDrop (s : State) (p : Nat) (pk : Packet) : State :=
  let s := bump s 0x8050 7
  if pkSrt pk then (if pkOp pk = 4 then refuseMgmt s p pk else s) else answerDropped s pk 6

/-- A source-routed packet taken on by its route. One with NHOPS above 60 whose HOPIDX is NHOPS is in no rule: DESIGN CHOICE, it
goes no further, and nothing counts it (R320, log 23). -/
def forwardSourced (s : State) (p us : Nat) (pk : Packet) : State :=
  let w := routeBlock pk
  let i := rbIdx w
  if i = 0 || decide (rbHops w < i) || decide (60 ≤ i && i < rbHops w) then giveCredit (bump s 0x8050 8) p pk
  else if i = rbHops w then s
  else if pkHops pk = 0 || tooOld s (aged pk us) then ageDrop (giveCredit s p pk) p pk
  else if !portUp s (rbPort w i) then giveCredit (bump s 0x8050 8) p pk
  else sendSourced s us p (hopped (stamped pk p)) (rbPort w i) (i + 1)

/-- A packet for another part. -/
def forward (s : State) (p us : Nat) (pk : Packet) : State :=
  if !hcrcOk pk then giveCredit (bump s 0x8050 3) p pk
  else if reservedOp (pkOp pk) then giveCredit (bump s 0x8050 11) p pk
  else if pkOp pk = 12 then giveCredit s p pk
  else if pkSrt pk then
    if pkOp pk ≠ 4 ∧ pkOp pk ≠ 5 then giveCredit (bump s 0x8050 11) p pk
    else if pk.payload.length < 32 then giveCredit (bump s 0x8050 11) p pk
    else forwardSourced s p us pk
  else if s.main = .bringup ∨ (ownAddr s).isNone then giveCredit s p pk
  else if pkHops pk = 0 ∨ tooOld s (aged pk us) then ageDrop (giveCredit s p pk) p pk
  else
    match routePacket s us p (hopped pk) with
    | .sent s => s
    | .noRoute => answerDropped (giveCredit (bump s 0x8050 8) p pk) pk 5

def execPacketForward (p : Nat) (pk : Packet) (us : Nat) (s : State) : Res :=
  ends s (if portUp s p && pkWhole pk && (pkSrt pk || ownAddr s != some (pkDst pk)) then forward s p us pk else s)

/-! ## Requests of other parts (R309, R310, R313, R317) -/

/-- Does a packet arrive for this part on a port, or on the part's own port 16, in order and of this operation? -/
def arrives (s : State) (p : Nat) (pk : Packet) (op : Nat) : Bool :=
  (portUp s p || p == 16) && pkOp pk == op && hcrcOk pk && pkWhole pk && !pkSrt pk && ownAddr s == some (pkDst pk)

/-- Does a request break Table 10.5 (R301)? -/
def badRequest (pk : Packet) : Bool :=
  let len := pkLen pk
  let a := pkAddr pk
  let args := pkArgs pk
  match pkOp pk with
  | 0 => !(decide (1 ≤ len ∧ len ≤ 256) && a / 256 == (a + len - 1) / 256 && args == 0)
  | 1 => !(decide (1 ≤ len ∧ len ≤ 256) && a / 256 == (a + len - 1) / 256 && args == 0)
  | 2 => !(decide (64 ≤ len ∧ len ≤ 256) && len % 64 == 0 && a % 64 == 0 && decide (bits args 57 54 ≤ 9) &&
      bits args 37 0 == 0 && (bits args 57 54 == 5 || bits args 53 38 == 0))
  | 3 => !(!pkAdaptive pk && len == 0 && a == 0 && bits args 35 20 != 0 && bits args 19 0 == 0)
  | _ => !(pkAdaptive pk && decide (5 ≤ len ∧ len ≤ 256) && args == 0)

/-- The job test (R313): the job that lets a request in. -/
def jobTest (s : State) (pk : Packet) : Option (Nat × Job) :=
  List.find? (fun (j : Nat × Job) =>
    j.2.running && jRsig j.2.desc && jDomain j.2.desc == pkDomain pk &&
      (if pkOp pk = 3 then (jobTiles j.2).contains (bits (pkArgs pk) 57 42)
       else (List.range (pkLen pk)).all (fun i => allowed s j.2 (pkOp pk != 1) .normal (pkAddr pk + i) (pkAddr pk + i)))) s.jobs

/-- The ordered stream of a source: what answers the request instead of performing it, and the state after the check. -/
def streamCheck (s : State) (pk : Packet) : Option Nat × State :=
  let src := pkSrc pk
  let put (s : State) (v : Nat × Bool) : State := { s with fab := { s.fab with rx := SMap.put s.fab.rx src v } }
  if pkAdaptive pk then (none, s)
  else if pkSync pk then (none, put s ((pkSeq pk + 1) % 65536, false))
  else
    match SMap.find? s.fab.rx src with
    | none => (some 0x0A, bump s 0x8050 12)
    | some (e, gap) =>
      if !gap && pkSeq pk == e then (none, put s ((e + 1) % 65536, false))
      else
        let s := bump (put s (e, true)) 0x8050 4
        (some 4, if (jobTest s pk).isSome then classB (logEvent s 0x8003 (leBytes 1 4 ++ leBytes 2 src)) 0x43 else s)

/-- The status an access at home gives. -/
def statusOf : CRes → Nat
  | .ok => 0
  | .poison => 1
  | .bad => 3
  | .failed => 9

/-- Bytes written word by word, a line covered whole as a line (Table 6.3). -/
def putWords (how : How) : Nat → State → Nat → List Byte → CRes × State
  | 0, s, _, _ => (.ok, s)
  | k + 1, s, a, d =>
    if d.isEmpty then (.ok, s)
    else if coversLine a d then putWords how k (writeLine s how a (lineWords d)) (a + 256) (d.drop 256)
    else
      let n := min d.length (64 - a % 64)
      match writeBytes s how a (d.take n) with
      | (.data _, s) => putWords how k s (a + n) (d.drop n)
      | (r, s) => (r.cres, s)

/-- Contributions combined word by word. -/
def redWords (how : How) (rop cid : Nat) : Nat → State → Nat → List Byte → CRes × State
  | 0, s, _, _ => (.ok, s)
  | k + 1, s, a, d =>
    if d.isEmpty then (.ok, s)
    else
      match reduceAt s how rop cid a (d.take 64) with
      | (.ok, s) => redWords how rop cid k s (a + 64) (d.drop 64)
      | (r, s) => (r, s)

/-- The answer to a request by how it ended at its home. -/
def answerAs (s : State) (pk : Packet) (r : CRes) : State :=
  answer (if r = .failed || r = .bad then failedReq s else s) pk (statusOf r)

/-- A request performed at its home and answered. One whose payload is lost in the packet buffer fails, and leaves poison in the
first word that it would have written (R235, R236). -/
def performReq (s : State) (p : Nat) (pk : Packet) : State :=
  let how := plain (.fabric p)
  match fromBuffer s (.fabric p) (pkAddr pk) pk.payload pk.upset with
  | (none, s) => answerAs (if pkOp pk = 0 then writePoison s how (pkAddr pk / 64 * 64) else s) pk .failed
  | (some d, s) =>
  match pkOp pk with
  | 0 =>
    match putWords how 6 s (pkAddr pk) d with
    | (r, s) => answerAs s pk r
  | 1 =>
    match readBytes how (pkLen pk + 2) s (pkAddr pk) (pkLen pk) with
    | (.val _, d, s) => respond s pk 9 0 d
    | (.poison, _, s) => answerAs s pk .poison
    | (_, _, s) => answerAs s pk .failed
  | _ =>
    match redWords how (bits (pkArgs pk) 57 54) (bits (pkArgs pk) 53 38) 5 s (pkAddr pk) d with
    | (r, s) => answerAs s pk r

/-- A SIGNAL dropped, with its count and its event (R118, R123). -/
def dropSignal (s : State) (pk : Packet) : State :=
  logEvent (bump s 0x5040 1) 0x5001 (leBytes 2 (pkSrc pk) ++ leBytes 2 (pkDomain pk))

/-- A SIGNAL applied, or dropped under R123; outside READY it is answered as R313 says. One for a flag that no tile has (R113) is
dropped in the same way: DESIGN CHOICE (log 23). -/
def performSignal (s : State) (pk : Packet) : State :=
  let f := bits (pkArgs pk) 41 36
  if s.main != .ready then answer (dropSignal s pk) pk 7
  else
  let s := if (jobTest s pk).isSome && decide (f < 48) then signal s (bits (pkArgs pk) 57 42) f (bits (pkArgs pk) 35 20)
    else dropSignal s pk
  answer s pk 0

/-- A WRITE, READ, REDUCE or SIGNAL that has arrived. -/
def requestIn (s : State) (p : Nat) (pk : Packet) : State :=
  if tooOld s pk then ageDrop s p pk
  else if badRequest pk then answer (bump s 0x8050 11) pk 8
  else if s.main != .ready then answer (if pkOp pk = 3 then dropSignal s pk else s) pk 7
  else
    match streamCheck s pk with
    | (some st, s) => answer s pk st
    | (none, s) =>
      if pkOp pk = 3 then inTurn s (.fabric p pk) (fun s => performSignal s pk)
      else if (jobTest s pk).isSome then inTurn s (.fabric p pk) (fun s => performReq s p pk)
      else answer (bump s 0x8050 9) pk 2

def execFabWrite (p : Nat) (pk : Packet) (s : State) : Res := ends s (if arrives s p pk 0 then requestIn (giveCredit s p pk) p pk else s)
def execFabRead (p : Nat) (pk : Packet) (s : State) : Res := ends s (if arrives s p pk 1 then requestIn (giveCredit s p pk) p pk else s)
def execFabReduce (p : Nat) (pk : Packet) (s : State) : Res := ends s (if arrives s p pk 2 then requestIn (giveCredit s p pk) p pk else s)
def execFabSignal (p : Nat) (pk : Packet) (s : State) : Res := ends s (if arrives s p pk 3 then requestIn (giveCredit s p pk) p pk else s)

/-- A packet for this part that fails its HCRC or has a reserved OP, or is source-routed with an OP that is not. -/
def execHcrcOrReservedOpPacket (p : Nat) (pk : Packet) (s : State) : Res :=
  ends s (if !portUp s p then s
    else if !hcrcOk pk then giveCredit (bump s 0x8050 3) p pk
    else if reservedOp (pkOp pk) || (pkSrt pk && pkOp pk != 4 && pkOp pk != 5) then giveCredit (bump s 0x8050 11) p pk
    else s)

/-! ## Responses (R301, R314 to R316) -/

/-- Does a response break Table 10.5, or answer another kind of request? -/
def badResponse (s : State) (pk : Packet) : Bool :=
  let st := bits (pkArgs pk) 57 50
  !pkAdaptive pk || bits (pkArgs pk) 49 0 != 0 || (pkOp pk == 8 && pkLen pk != 0) || (st != 0 && pkLen pk != 0) ||
    (match SMap.find? s.fab.reqs (pkTag pk) with
     | some r => (pkOp r.pk == 1) != (pkOp pk == 9) || (pkOp pk == 9 && st == 0 && pkLen pk != pkLen r.pk)
     | none => false)

/-- A response to a request of this part. One whose data is lost in the packet buffer fails its request (R235, R236): the discard
that follows has abandoned it. -/
def responseIn (s : State) (p : Nat) (pk : Packet) : State :=
  if tooOld s pk then bump s 0x8050 7
  else if badResponse s pk then bump s 0x8050 11
  else
    match fromBuffer s (.fabric p) (pkAddr pk) pk.payload pk.upset with
    | (some d, s) => gotResponse s (pkTag pk) (bits (pkArgs pk) 57 50) d
    | (none, s) => gotResponse (failedReq s) (pkTag pk) 0 []

def execAck (p : Nat) (pk : Packet) (s : State) : Res :=
  ends s (if arrives s p pk 8 then enginesAll (responseIn (giveCredit s p pk) p pk) else s)
def execReadData (p : Nat) (pk : Packet) (s : State) : Res :=
  ends s (if arrives s p pk 9 then enginesAll (responseIn (giveCredit s p pk) p pk) else s)

/-- Requests answered RESYNC stay undone where another of their stream failed (R310). -/
def abandonResync (s : State) (dst : Nat) : State :=
  let s := { s with fab := { s.fab with reqs := s.fab.reqs.map (fun r =>
    if r.2.resync && r.2.dst == dst then (r.1, { r.2 with abandoned := true }) else r) } }
  releaseStream s dst

def execFabResyncResend (dst : Nat) (s : State) : Res :=
  ends s (if resyncAt s dst && !orderedOpen s dst then
      if s.fab.badDst.contains dst then abandonResync s dst else resend s dst
    else s)

/-- A request unanswered for FAB_REQ_TIMEOUT_MS; an abandoned one only gives back its tag. -/
def reqTimeout (s : State) (tag : Nat) (r : FReq) : State :=
  if r.resync then (if r.abandoned && !(s.jobs.any (fun j => j.1 == r.job && j.2.running)) then settleFault (drainWaiting (dropReq s tag)) r.job else s)
  else
    let s := advance s (r.sentAt + rd s 0x8030 1 * 1000000)
    if r.abandoned then settleFault (settleStream (dropReq s tag) r.dst) r.job
    else
      let s := bump (markBad (dropReq s tag) r) 0x8050 5
      settleFault (settleStream (classB (logEvent s 0x8003 (leBytes 1 0xFF ++ leBytes 2 r.dst)) 0x43) r.dst) r.job

def execFabReqTimeout (tag : Nat) (s : State) : Res :=
  ends s (match SMap.find? s.fab.reqs tag with
    | some r => reqTimeout s tag r
    | none => s)

end Sys2Proof.Machine
end

