-- ==== Sys2Proof/Machine/HomeCmds.lean ====
section
/-! DEFINITION. Accesses that arrive at a home: reads, writes, reductions, compare-and-swap and fetch-add, the lines an
HBM home fetches for them, and what a failed or poisoned access does to the one who sent it (R161, R162, R168 to R173,
R176 to R178, R190, R238 to R241). -/

namespace Sys2Proof.Machine

/-- The answer of a home to the one that sent an access. -/
def answerHome (s : State) (c : HAcc) (poison ok : Bool) (d : List Byte) : State :=
  { s with out := .home c.rq c.a poison ok d :: s.out }

/-- The job an access belongs to faults; a requester that is no job's faults nothing here. -/
def blame (s : State) (rq : Requester) (cause : Nat) : State :=
  match rq with
  | .tile t =>
    match (tile s t).job with
    | some j => jobFault s j cause t (tile s t).word
    | none => s
  | .fetch t =>
    match (tile s t).job with
    | some j => jobFault s j cause t (tile s t).word
    | none => s
  | .mover j _ => jobFault s j cause 0xFFFF 0
  | _ => s

/-- A sub-word write, reduction or compare-and-swap that met poison is not performed (R240). -/
def refusePoison (s : State) (c : HAcc) : State :=
  let s := answerHome s c true true []
  match c.rq with
  | .host => logEvent (bump s 0x7800 8) 0x7803 (leBytes 8 c.a)
  | rq => blame s rq 0x31

/-- Poison delivered to the one who read (Table 8.4): a program fetch faults its job. -/
def deliverPoison (s : State) (c : HAcc) : State :=
  let s := answerHome s c true true []
  match c.rq with
  | .fetch t => blame s (.fetch t) 0x31
  | _ => s

/-- Compare-and-swap and fetch-add on the 4 or 8 bytes at `a`: what `f` answers is written, none writes nothing; the
old value is answered (Table 5.6). It is a normal request (R198). -/
def atomicAt (s : State) (how : How) (a : Nat) (wide : Bool) (f : Nat → Option Nat) : RdRes × Nat × State :=
  let n := if wide then 8 else 4
  let w := a / 64 * 64
  let o := a % 64
  let how := { how with hint := .stream, prio := 0 }
  match readWord (touchModify (noReads s w) how w false) how.readHalf w [] with
  | (.data d, s) =>
    let old := leNat ((d.drop o).take n)
    match f old with
    | some v => (.data d, old, writeWord s how.writeHalf w (overlay d o (leBytes n v)))
    | none => (.data d, old, s)
  | (r, s) => (r, 0, s)

def swapIf (wide : Bool) (cmp swap : Nat) (old : Nat) : Option Nat :=
  let m := 2 ^ (if wide then 64 else 32)
  if old = cmp % m then some (swap % m) else none

def addTo (wide : Bool) (v : Nat) (old : Nat) : Option Nat := some ((old + v) % 2 ^ (if wide then 64 else 32))

/-- The address of an access, and the data it carries, are of the form the operation needs. -/
def HAcc.formed (c : HAcc) : Bool :=
  match c.op with
  | .read _ _ => c.a % 64 == 0
  | .write d _ => c.a % 64 == 0 && d.length == 64
  | .sub d => !d.isEmpty && decide (c.a % 64 + d.length < 64 ∨ (c.a % 64 + d.length = 64 ∧ 0 < c.a % 64))
  | .red _ d => c.a % 64 == 0 && d.length == 64
  | .ordered _ d => c.a % 64 == 0 && d.length == 64
  | .cas w _ _ => c.a % (if w then 8 else 4) == 0
  | .fetchAdd w _ => c.a % (if w then 8 else 4) == 0

/-- Does an access read the word it addresses? -/
def HAcc.reads (c : HAcc) : Bool :=
  match c.op with
  | .write _ _ => false
  | _ => true

/-- Is an access a read alone? -/
def HAcc.isRead (c : HAcc) : Bool :=
  match c.op with
  | .read _ _ => true
  | _ => false

/-- The end of an access that reads the word it changes. -/
def endModify (r : CRes) (s : State) (c : HAcc) (d : List Byte) : State :=
  match r with
  | .ok => answerHome s c false true d
  | .poison => refusePoison s c
  | .failed => answerHome (failedReq s) c true false []
  | .bad => blame (answerHome (failedReq s) c false false []) c.rq 0x30

/-! ## Reads that a home merges (R165) -/

def tileOf (rq : Requester) : Option Nat :=
  match rq with
  | .tile t => some t
  | .fetch t => some t
  | _ => none

/-- May a read of one requester be merged with an earlier one of another? Not two of one tile. -/
def mayMerge (a b : Requester) : Bool := (tileOf a).isNone || tileOf a != tileOf b

/-- Who asks for a read that a home holds. -/
def heldFor (h : HeldReq) : Requester :=
  match h with
  | .acc x => x.rq
  | .fabric p _ => .fabric p
  | _ => .host

/-- Is a read of the same word outstanding among what is held, with no other access to the word after it? The words of a
transfer are not told apart: one that is held stops the merging. -/
def heldRead (c : HAcc) (held : List HeldReq) : Bool :=
  held.foldl (fun m h =>
    if (reqWords h).isEmpty then false
    else if (reqWords h).contains (c.a / 64 * 64) then (if readsOnly h then m || mayMerge (heldFor h) c.rq else false)
    else m) false

/-- A read that its home merges with an earlier one is counted. It returns what it would have returned. -/
def countMerged (s : State) (c : HAcc) (held : List HeldReq) : State :=
  if c.isRead && (heldRead c held || s.recent.any (fun r => r.1 == c.a && decide (s.time ≤ r.2.1 + rd s 0x6020 1) && mayMerge r.2.2 c.rq))
  then bump s 0x6020 2 else s

/-- A read that its home has performed, for those that may be merged with it; older ones are past the window. -/
def noteRead (s : State) (c : HAcc) : State :=
  { s with recent := s.recent.filter (fun r => decide (s.time ≤ r.2.1 + rd s 0x6020 1)) ++ [(c.a, s.time, c.rq)] }

/-- The answer to a read, with the word received at the one who sent it. -/
def endRead (s : State) (c : HAcc) (transit : Upset) (r : RdRes) : State :=
  let got := match r with
    | .data d => received s c.rq c.a (rsEncode 6 d) transit
    | .poison => received s c.rq c.a (poisonWord 6) transit
    | .failed => (.failed, s)
  match got with
  | (.data d, s) => answerHome s c false true d
  | (.poison, s) => deliverPoison s c
  | (.failed, s) => answerHome (failedReq s) c true false []

/-- A write received at its home. One whose word is lost on its way leaves poison and has failed. -/
def endWrite (s : State) (how : How) (c : HAcc) (d : List Byte) (transit : Upset) : State :=
  match received s c.rq c.a (rsEncode 6 d) transit with
  | (.data d, s) => answerHome (writeWord s how c.a d) c false true []
  | (_, s) => answerHome (failedReq (writePoison s how c.a)) c true false []

/-- An access performed at its home; `counted` where its miss was counted before. -/
def performAcc (s : State) (counted : Bool) (c : HAcc) : State :=
  let how : How := { rq := c.rq, hint := c.hint, prio := 0, narrow := false, half := counted, free := true }
  match c.op with
  | .read u x =>
    match readWord s how c.a u with
    | (r, s) => endRead (noteRead s c) c x r
  | .write d x => endWrite s how c d x
  | .sub d =>
    match writeBytes s how c.a d with
    | (r, s) => endModify r.cres s c []
  | .red rop d =>
    match reduceAt s how rop 0 c.a d with
    | (r, s) => endModify r s c []
  | .ordered cid d =>
    match reduceAt s how 5 cid c.a d with
    | (r, s) => endModify r s c []
  | .cas wide cmp swap =>
    match atomicAt s how c.a wide (swapIf wide cmp swap) with
    | (r, old, s) => endModify r.cres s c (leBytes (if wide then 8 else 4) old)
  | .fetchAdd wide v =>
    match atomicAt s how c.a wide (addTo wide v) with
    | (r, old, s) => endModify r.cres s c (leBytes (if wide then 8 else 4) old)

/-! ## Lines that a home fetches (R190) -/

def sameLine (b line : Nat) (f : Fetch) : Bool := f.b == b && f.line == line

/-- Does an access that misses fetch its line first (Table 6.3)? -/
def HAcc.fetches (c : HAcc) : Bool :=
  (c.hint == .normal || c.hint == .keep) &&
    (match c.op with
     | .read _ _ => true
     | .write _ _ => true
     | .sub _ => true
     | _ => false)

/-- An access to a line not in the cache: held by a retrain of its channel, or the first of a fetch, or performed in
the channel. -/
def missAcc (s : State) (b line : Nat) (c : HAcc) : State :=
  let ch := lineChan s b line
  if (chan s ch).active.isSome then setChan s ch { chan s ch with held := (chan s ch).held ++ [.acc c] }
  else if c.fetches && (victimWay s b line).isSome then
    bump { s with fetches := s.fetches ++ [{ b := b, line := line, held := [.acc c] }] } 0x6810 6
  else wholeOr s true (.acc c) (fun s => performAcc s false c)

/-- What is held behind the fetch of a line. -/
def heldBehind (s : State) (b line : Nat) : List HeldReq := ((s.fetches.find? (sameLine b line)).map (·.held)).getD []

/-- An access served at its home, or held there. -/
def homeServe (s : State) (c : HAcc) : State :=
  match homeOf s c.a with
  | .hbm b line _ =>
    if s.fetches.any (sameLine b line) then holdReq s b line (.acc c)
    else if (findLine s b line).isSome then wholeOr s true (.acc c) (fun s => performAcc s false c)
    else missAcc s b line c
  | l => if l.isData then wholeOr s true (.acc c) (fun s => performAcc s false c) else s

/-- Does a home serve accesses? The homes of a part in DEEP do not (R385, R460). -/
def homesServe (s : State) : Bool := s.power != .deep

/-- An access arrives at its home: a read that is merged is counted then, and any other ends the merging with what came
before (R165). -/
def homeAccess (s : State) (c : HAcc) : State :=
  if !c.formed || !homesServe s then s
  else
    match homeOf s c.a with
    | .hbm b line _ => homeServe (if c.isRead then countMerged s c (heldBehind s b line) else noReads s (c.a / 64 * 64)) c
    | _ => homeServe (if c.isRead then countMerged s c [] else s) c

/-! ## The commands -/

def redAcc (rq : Requester) (a rop : Nat) (data : BitVec 512) : HAcc :=
  { rq := rq, a := a, hint := .normal, op := .red rop (leBytes 64 data.toNat) }

/-- A read that meets an internal error at its home fails, a class-B fault (R176, R274). -/
def homeFails (s : State) (c : HAcc) : State :=
  if c.formed && homesServe s && (homeOf s c.a).isData then classB (answerHome (failedReq s) c true false []) 0x42 else s

def execHomeRead (rq : Requester) (a : Nat) (hint : Hint) (upset : ReadUpset) (s : State) : Res :=
  let c : HAcc := { rq := rq, a := a, hint := hint, op := .read upset.stored upset.transit }
  ends s (if upset.internal then homeFails s c else homeAccess s c)
def execHomeWrite (rq : Requester) (a : Nat) (hint : Hint) (data : SentWord) (s : State) : Res :=
  ends s (homeAccess s { rq := rq, a := a, hint := hint, op := .write (leBytes 64 data.data.toNat) data.transit })
def execHomeSubwordWrite (rq : Requester) (a : Nat) (hint : Hint) (data : List Byte) (s : State) : Res :=
  ends s (homeAccess s { rq := rq, a := a, hint := hint, op := .sub data })
def execRedInt32Add (rq : Requester) (a : Nat) (data : BitVec 512) (s : State) : Res := ends s (homeAccess s (redAcc rq a 0 data))
def execRedInt64Add (rq : Requester) (a : Nat) (data : BitVec 512) (s : State) : Res := ends s (homeAccess s (redAcc rq a 1 data))
def execRedWidePartialAdd (rq : Requester) (a : Nat) (data : BitVec 512) (s : State) : Res := ends s (homeAccess s (redAcc rq a 2 data))
def execRedBf16Add (rq : Requester) (a : Nat) (data : BitVec 512) (s : State) : Res := ends s (homeAccess s (redAcc rq a 3 data))
def execRedFp32Add (rq : Requester) (a : Nat) (data : BitVec 512) (s : State) : Res := ends s (homeAccess s (redAcc rq a 4 data))
def execRedFp32OrderedAdd (rq : Requester) (a cid : Nat) (data : BitVec 512) (s : State) : Res :=
  ends s (homeAccess s { rq := rq, a := a, hint := .normal, op := .ordered cid (leBytes 64 data.toNat) })
def execRedInt32Min (rq : Requester) (a : Nat) (data : BitVec 512) (s : State) : Res := ends s (homeAccess s (redAcc rq a 6 data))
def execRedInt32Max (rq : Requester) (a : Nat) (data : BitVec 512) (s : State) : Res := ends s (homeAccess s (redAcc rq a 7 data))
def execRedFp32Min (rq : Requester) (a : Nat) (data : BitVec 512) (s : State) : Res := ends s (homeAccess s (redAcc rq a 8 data))
def execRedFp32Max (rq : Requester) (a : Nat) (data : BitVec 512) (s : State) : Res := ends s (homeAccess s (redAcc rq a 9 data))
def execCompareAndSwap (rq : Requester) (a : Nat) (wide : Bool) (cmp swap : BitVec 64) (s : State) : Res :=
  ends s (homeAccess s { rq := rq, a := a, hint := .normal, op := .cas wide cmp.toNat swap.toNat })
def execFetchAdd (rq : Requester) (a : Nat) (wide : Bool) (v : BitVec 64) (s : State) : Res :=
  ends s (homeAccess s { rq := rq, a := a, hint := .normal, op := .fetchAdd wide v.toNat })

end Sys2Proof.Machine
end

