-- ==== Sys2Proof/Machine/HbmCmds.lean ====
section
/-! DEFINITION. What HBM channels and scrubbers do on their own, and the end of a discard (R184, R201 to R205, R242 to
R249, R279, R354). -/

namespace Sys2Proof.Machine

def channelsRun (s : State) : Bool := (s.main == .ready || s.main == .discarding) && s.power != .deep

/-- Refresh changes no value and no other state (R184). -/
def execHbmRefresh (_ch : Nat) (s : State) : Res := .next s

/-! ## Channel retrain (R201 to R205) -/

/-- A channel has failed: its record, its event, a class-C fault; what it holds is never performed (R205). -/
def channelFail (s : State) (ch : Nat) : State :=
  let s := setChan s ch { chan s ch with active := none, wait := none, held := [] }
  let s := defectRec s 3 true (ch / 64) (6 * 2 ^ 28 + ch % 64)
  classC (logEvent s 0x6803 (leBytes 2 ch)) false

/-- The automatic trigger of a channel (R201, R205): a retrain is pending, and the third within 10 s is a failure. -/
def parityTrigger (s : State) (ch : Nat) : State :=
  let c := chan s ch
  let ts := c.triggers.filter (fun t => decide (s.time < t + 10000000000)) ++ [s.time]
  let s := setChan s ch { c with parity := [], triggers := ts, wait := some (c.wait.getD 0) }
  if ts.length ≥ 3 then channelFail s ch else s

/-- `n` parity errors of a channel now (R184, R201). Those of the last second that reach the threshold are a trigger, and
none of them counts toward another. -/
def parityErrors : Nat → State → Nat → Nat → State
  | 0, s, _, _ => s
  | k + 1, s, ch, n =>
    let c := chan s ch
    let l := c.parity.filter (fun e => decide (s.time < e.1 + 1000000000))
    let need := rd s 0x6830 1 - l.foldl (fun m e => m + e.2) 0
    if n < need then setChan s ch { c with parity := l ++ (if n = 0 then [] else [(s.time, n)]) }
    else
      let t := parityTrigger s ch
      if channelsRun t then parityErrors k t ch (n - max 1 need) else t

def execHbmParityTrigger (e : ParityErrors) (s : State) : Res :=
  ends s (if channelsRun s && s.lay.chans.contains e.ch && decide (0 < e.n) then parityErrors (e.n + 1) s e.ch e.n else s)

/-- From when a pending retrain may start: an automatic one keeps its distance from the last (R201). -/
def retrainDue (s : State) (ch : Nat) : Option Nat :=
  match (chan s ch).wait with
  | none => none
  | some 0 => some (match (chan s ch).last with
    | some t => t + rd s 0x6830 2 * 1000000
    | none => 0)
  | some _ => some 0

/-- A pending retrain starts: the lowest due of its stack, with no other of the stack running (R202). In SLEEP the stack leaves
self-refresh for it (R464). -/
def retrainGo (s : State) (ch : Nat) : State :=
  match retrainDue s ch with
  | none => s
  | some due =>
    let now := max s.time due
    let stack := (List.range 32).map (· + ch / 32 * 32)
    if stack.any (fun c => (chan s c).active.isSome) ||
      stack.any (fun c => decide (c < ch) && (match retrainDue s c with
        | some d => decide (d ≤ now)
        | none => false)) then s
    else
      let s := advance s due
      let trig := (chan s ch).wait.getD 0
      let s := wakeModule s (ch / 32)
      let s := setChan s ch { chan s ch with wait := none, active := some s.time, trig := trig, last := some s.time }
      let s := logEvent (bump s 0x6830 4) 0x6801 (leBytes 2 ch ++ leBytes 1 trig)
      rescale s [(5, ch)]

def execRetrainStart (ch : Nat) (s : State) : Res :=
  ends s (if channelsRun s && s.lay.chans.contains ch then retrainGo s ch else s)

/-- A stack that was woken in SLEEP has had no access for 1 ms (R354); one with a retrain running stays awake. -/
def selfRefreshIdle (s : State) (m : Nat) : State :=
  if (List.range 32).any (fun i => (chan s (32 * m + i)).active.isSome) then s else
  match SMap.find? s.woken m with
  | none => s
  | some t =>
    { advance s (t + 1000000) with
      woken := SMap.erase s.woken m
      chans := s.chans.map (fun c => if c.1 / 32 = m then (c.1, { c.2 with selfRefresh := true }) else c) }

def execHbmSelfRefreshIdle (m : Nat) (s : State) : Res := ends s (if s.power = .sleep then selfRefreshIdle s m else s)

/-! ## The scrubbers (R242 to R246, R249) -/

def scrubKey (b site : Nat) : Nat := b * 528 + site
def dieScrubKey (b : Nat) : Nat := 3168 + b

/-- A scrubber's place; the first lap starts when the part becomes READY (R242). -/
def scrubAt (m : SMap Scrub) (start key : Nat) : Scrub := SMap.get m key { Scrub.reset with started := start }

/-- The device address of a Vault word, if one is mapped to it. -/
def vaultAddr (s : State) (b site w : Nat) : Option Nat :=
  let o := (s.lay.slices.getD b []).findIdx (· == site)
  let off := w * 64
  let sh := s.lay.ps * 0x40000
  let di := sh + s.lay.pd * 0x40000
  let lo := di + localBytes s
  if o < s.lay.p ∧ off < sh then some ((((off / 4096) * s.lay.p + o) * 6 + b) * 4096 + off % 4096)
  else if o < s.lay.p ∧ sh ≤ off ∧ off < di then
    some (dieBase b + (off - sh) / 256 * (256 * s.lay.p) + o * 256 + (off - sh) % 256)
  else if di ≤ off ∧ off < lo then
    (s.lay.tiles.findIdx? (· == b * 528 + site)).map (fun t => 0x001800000000 + t * 0x400000 + (off - di))
  else none

/-- The cached sector whose place is a word of a slice. -/
def cachedAt (s : State) (b site w : Nat) : Option (Line × Nat) :=
  s.lines.findSome? (fun l => if l.b = b then
    ((List.range 4).find? (fun i => lineLoc s l i == site * 65536 + w)).map (fun i => (l, i)) else none)

/-- An uncorrectable word that the scrubber found and replaced by poison (R239). -/
def scrubPoison (s : State) (hbm : Bool) (a : Nat) : State :=
  logEvent (bump (bump s 0x7800 (if hbm then 5 else 4)) 0x7800 7) 0x7802 (leBytes 8 a)

/-- One Vault word scrubbed (R244). A clean cached line found bad is fetched again, and keeps its place (R239). -/
def scrubVault (s : State) (b site w : Nat) (u : Upset) : State :=
  match cachedAt s b site w with
  | some (l, i) =>
    let v := applyUpset (l.sectors.getD i []) u
    let s := mendLine s b l.line i v
    match rsDecode 6 v with
    | .corrected d e => noteVault (bump s 0x7800 1) b (site * 65536 + w) e (fun s => mendLine s b l.line i (rsEncode 6 d))
    | .uncorrectable =>
      if l.dirty || l.pinned then scrubPoison (mendLine (freeSoft s b 1 (site * 65536 + w)) b l.line i (poisonWord 6)) false (lineAddr b l.line i)
      else if lineWaits s b l.line then stall s b l.line
      else
        let s := bump (bump (dropLine s b l.line) 0x7800 0xA) 0x7800 4
        let s := logEvent s 0x7802 (leBytes 8 (lineAddr b l.line i))
        let c := (List.range 4).foldl (fun acc k =>
          let r := sectorCopy acc.2 b l.line k
          (acc.1 ++ [r.1], r.2)) (([] : List (List Byte)), s)
        (allocLine c.2 b l.line c.1 false l.prot false).1
    | _ => s
  | none =>
    match readCode s (vaultKey b site w) 6 u with
    | (.corrected d e, s) =>
      noteVault (bump s 0x7800 1) b (site * 65536 + w) e (fun s => putCode s (vaultKey b site w) (rsEncode 6 d))
    | (.uncorrectable, s) =>
      scrubPoison (putCode (freeSoft s b 1 (site * 65536 + w)) (vaultKey b site w) (poisonWord 6)) false
        ((vaultAddr s b site w).getD (locAddr 1 (site * 65536 + w)))
    | (_, s) => s

/-- Repeat entries that a full lap without a correction has passed (R249). -/
def freeWrittenBack (s : State) (p : RepEntry → Bool) (laps : Nat) : State :=
  { s with repeats := s.repeats.filter (fun r => !(p r && r.state == 1 && decide (r.lap + 2 ≤ laps))) }

/-- A slice's scrubber has finished its lap; with the last of a B-die the lap ends and the next begins (R245). -/
def vaultLap (s : State) (b : Nat) : State :=
  let sites := s.lay.slices.getD b []
  if sites.all (fun x => decide ((scrubAt s.vscrub s.regStart (scrubKey b x)).pos ≥ 65536)) then
    let d := scrubAt s.vscrub s.regStart (dieScrubKey b)
    let ms := (s.time - d.started) / 1000000
    let s := raise (setEnt s 0x7818 (b + 1) (min ms (2 ^ 32 - 1))) 0x7819 (b + 1) ms
    let vs := sites.foldl (fun m x =>
      let c := scrubAt m s.regStart (scrubKey b x)
      SMap.put m (scrubKey b x) { c with pos := 0, laps := c.laps + 1 }) s.vscrub
    let s := { s with vscrub := SMap.put vs (dieScrubKey b) { d with started := s.time, laps := d.laps + 1, alarmed := false } }
    freeWrittenBack s (fun r => r.b == b && r.kind == 1) (d.laps + 1)
  else s

/-- A Vault scrub access: the next word of a slice, no sooner than the least interval after the last (R242 to R244). -/
def execVaultScrubAccess (b site : Nat) (upset : Upset) (s : State) : Res :=
  ends s (let c := scrubAt s.vscrub s.regStart (scrubKey b site)
    if scrubsRun s && (s.lay.slices.getD b []).contains site && c.pos < 65536 then
      whole s 0 (fun s =>
        let s := advance s (c.last + (if c.last = 0 then 0 else rd s 0x7810 2))
        let s := scrubVault s b site c.pos upset
        vaultLap { s with vscrub := SMap.put s.vscrub (scrubKey b site) { c with pos := c.pos + 1, last := s.time } } b)
    else s)

/-- One HBM sector scrubbed, unless its line is in the cache or on its way (R244). -/
def scrubSector (s : State) (b ch line sector : Nat) (u : Upset) : State :=
  let key := hbmKey ch sector
  match readCode s key 8 u with
  | (.corrected d e, s) =>
    noteHbm (bump s 0x7800 2) b (ch * 2 ^ 25 + sector) e (fun s => putCode s key (rsEncode 8 d))
  | (.uncorrectable, s) => scrubPoison (putCode (freeSoft s b 2 (ch * 2 ^ 25 + sector)) key (poisonWord 8)) true (lineAddr b line (sector % 4))
  | (_, s) => s

/-- The end of a channel scrubber's lap. -/
def hbmLap (s : State) (ch : Nat) (c : Scrub) : State :=
  let ms := (s.time - c.started) / 1000000
  let c := { c with pos := 0, started := s.time, laps := c.laps + 1, lapMs := ms, lapMaxMs := max c.lapMaxMs ms, alarmed := false }
  freeWrittenBack { s with hscrub := SMap.put s.hscrub ch c } (fun r => r.kind == 2 && r.loc / 2 ^ 25 == ch) c.laps

def scrubHbm (s : State) (ch : Nat) (u : Upset) : State :=
  let b := ch / 64
  let c := scrubAt s.hscrub s.regStart ch
  let n := (dieChans s b).length
  let line := c.pos / 4 * n + (dieChans s b).findIdx (· == ch)
  let s := if c.pos % 4 = 0 && c.last != 0 then advance s (c.last + rd s 0x7810 3) else s
  let skip := (findLine s b line).isSome || s.fetches.any (sameLine b line)
  let s := if skip then s else scrubSector s b ch line c.pos u
  let c := { c with pos := if skip then c.pos / 4 * 4 + 4 else c.pos + 1, last := s.time }
  if c.pos ≥ rd s 0x6800 4 / 64 then hbmLap s ch c else { s with hscrub := SMap.put s.hscrub ch c }

/-- What a stack's on-die ECC reports is counted, and nothing else follows from it (R232). -/
def eccReport (s : State) (ecc : Bool) : State := if ecc then bump s 0x7800 0xB else s

/-- An HBM scrub access, with the symbol errors that storage has put into the sector, and whether the stack's on-die ECC
reports an error (R242 to R244). -/
def execHbmScrubAccess (ch : Nat) (upset : SectorUpset) (s : State) : Res :=
  ends s (if scrubsRun s && s.lay.chans.contains ch && (chan s ch).active.isNone && !(chan s ch).selfRefresh then
      scrubHbm (eccReport s upset.ecc) ch upset.stored
    else s)

/-- A lap still runs after SCRUB_LAP_ALARM_S (R245). -/
def lapAlarm (s : State) (c : Scrub) (detail : Nat) : State :=
  logEvent (bump (advance s (c.started + rd s 0x7810 4 * 1000000000)) 0x781A 3) 0x7805 (leBytes 2 detail)

def execScrubLapAlarm (vault : Bool) (n : Nat) (s : State) : Res :=
  ends s (if !scrubsRun s then s
    else if vault then
      let c := scrubAt s.vscrub s.regStart (dieScrubKey n)
      if n < 6 && !c.alarmed then
        lapAlarm { s with vscrub := SMap.put s.vscrub (dieScrubKey n) { c with alarmed := true } } c (0x8000 + n)
      else s
    else
      let c := scrubAt s.hscrub s.regStart n
      if s.lay.chans.contains n && !c.alarmed then
        lapAlarm { s with hscrub := SMap.put s.hscrub n { c with alarmed := true } } c n
      else s)

/-! ## The end of a discard (Table 9.16) -/

/-- A request that a retrain or a fetch holds for a job. -/
def ofJob (h : HeldReq) : Bool :=
  match h with
  | .acc c =>
    (match c.rq with
     | .tile _ => true
     | .fetch _ => true
     | .mover _ _ => true
     | _ => false)
  | .start _ => true
  | .land _ => true
  | .fabricData _ _ _ => true
  | _ => false

/-- Does a request of a job still wait for a line, for a channel or at its regulator? -/
def jobHeld (s : State) : Bool :=
  s.fetches.any (fun f => f.held.any ofJob) || s.chans.any (fun c => c.2.held.any ofJob) ||
    s.regWait.any (fun w => w.req.any ofJob)

/-- Step 4, once the accesses issued have ended: every job has ended, what they may have written is indeterminate, contexts are closed, the covered
completions are ready, and the part is READY again (R36, R174, R204, R279). -/
def discardDone (s : State) (d : Discard) (us : Nat) : State :=
  let s := advance s (d.began + us * 1000)
  let s : State := s.jobs.foldl (fun s j => spoil (endJob s j.1) j.2) s
  let s := { s with indet := d.opened ++ s.indet, ctx := s.ctx.map (fun (c : Nat × RedCtx) => (c.1, { c.2 with st := 0 })) }
  let s := { s with chans := s.chans.map (fun (c : Nat × Chan) => (c.1, { c.2 with held := c.2.held.filter (fun a => !ofJob a) })),
                    queues := s.queues.map (fun (q : Nat × Queue) => (q.1, { q.2 with offered := [] })),
                    comps := s.comps ++ d.covered, discard := none }
  setMain (raise s 0x3030 6 us) .ready

def execDiscardEnd (us : Nat) (s : State) : Res :=
  ends s (match s.discard with
    | some d => if s.main = .discarding && s.reads.isEmpty && !jobHeld s then discardDone s d us else s
    | none => s)

end Sys2Proof.Machine
end

