-- ==== Sys2Proof/Machine/Resets.lean ====
section
/-! DEFINITION. Resets of the main domain, the host link, D3hot and DEEP, and how bring-up starts and waits (R289 to R291,
R387, R390 to R392, R409, R453 to R455, R472). -/

namespace Sys2Proof.Machine

/-! ## The start of bring-up and its waits (R390 to R392) -/

/-- A wait of bring-up begins; its event comes every second. -/
def beginWait (s : State) : State :=
  { s with bringup := { s.bringup with waitFrom := some s.time, waitDue := s.time + 1000000000 } }

/-- The open wait ends and is not counted. -/
def endWait (s : State) : State :=
  { s with bringup := { s.bringup with waited := s.bringup.waited + openWait s, waitFrom := none } }

/-- Is the module input within 40 V to 60 V at the last round? -/
def inputGood (s : State) : Bool :=
  match SMap.find? s.con.hk 1016 with
  | some v => decide (40000 ≤ v ∧ v ≤ 60000)
  | none => false

/-- Bring-up starts at step 1, timed from `start`; a run of bring-ups goes on (R457). -/
def startBringup (s : State) (start : Nat) : State :=
  let b := s.bringup
  let b := if b.inRun then b else { b with inRun := true, runAt := start, waited := 0 }
  let s := { s with main := .bringup, con := { s.con with faultN := false },
                    bringup := { Bringup.reset with inRun := true, runAt := b.runAt, waited := b.waited, waitBase := b.waited,
                                                    startAt := start, step := 1 } }
  if inputGood s then s else beginWait s

/-! ## Events that reset the main domain (Table 9.17) -/

/-- PERST_N asserted: nothing but the pin changes where the main domain is unpowered or held (R472). -/
def perstAssert (s : State) : State :=
  let s := { s with link := { HostLink.reset with perst := true } }
  if resettable s then beginReset s 1 false else s

def execPerstNAssert (s : State) : Res := ends s (if s.link.perst then s else perstAssert s)

/-- PERST_N released: it starts bring-up in STANDBY, in STANDBY-FAULT on a cause of Table 13.8, and ends its own reset. -/
def perstRelease (s : State) : State :=
  let s := { s with link := { s.link with perst := false, everL0 := false } }
  match s.main with
  | .standby => startBringup s s.time
  | .standbyFault => if s.con.held then s else startBringup s s.time
  | .resetting => if s.resetBy = 1 then startBringup s s.time else s
  | _ => s

def execPerstNRelease (s : State) : Res := ends s (if s.link.perst then perstRelease s else s)

/-- What a reset that begins now lasts for: an event that holds RESETTING already goes on holding it (R455). -/
def heldReset (s : State) (by' : Nat) : Nat :=
  if s.main = .resetting && (s.resetBy == 1 || s.resetBy == 2) then min s.resetBy by' else by'

/-- Is the link trained, in whatever state? -/
def linkIsUp (s : State) : Bool := s.link.l0 || s.link.recovery || s.link.l12

/-- An event on a trained link that resets the main domain until its condition ends. -/
def linkReset (s : State) : State :=
  if linkIsUp s && resettable s then beginReset s (heldReset s 2) false else s

def execHotReset (s : State) : Res := ends s (linkReset s)
def execLinkDisable (s : State) : Res := ends s (linkReset s)
def execDlDown (s : State) : Res := ends s (linkReset s)

/-- Function Level Reset: a configuration request; the link stays up. -/
def execFunctionLevelReset (s : State) : Res :=
  ends s (if s.link.l0 && !s.link.l12 && bar0Answers s then
      let t := beginReset s 3 false
      { t with link := { t.link with l0 := true } }
    else s)

/-- The reset of a class-C fault begins; its times count from the fault (R454, R455). -/
def execFaultedResetStart (s : State) : Res :=
  ends s (if s.main = .faulted then { beginReset s 3 false with resetAt := s.resetAt } else s)

/-- The reset of an accepted RESET_CMD begins, 100 µs after its response at the earliest (R429). -/
def execResetByCommandStart (s : State) : Res :=
  ends s (match s.resetReq with
    | some t => if resettable s then beginReset (advance s (t + 100000)) (heldReset s 3) false else { s with resetReq := none }
    | none => s)

/-- RESETTING ends (R455): with the condition of a link event, and within 10 µs for the others. -/
def resettingEnd (s : State) : State :=
  if s.resetBy = 2 then startBringup s s.time
  else if s.resetBy = 3 then startBringup (advance s (s.resetAt + 10000)) s.resetAt
  else s

def execResettingEnd (s : State) : Res := ends s (if s.main = .resetting then resettingEnd s else s)

/-! ## The host link (R256, R291) -/

/-- Is the host I/O die powered and out of reset? -/
def hostDieRuns (s : State) : Bool :=
  ((s.main == .bringup || s.main == .coldHold) && decide (2 ≤ s.bringup.step)) ||
    s.main == .ready || s.main == .discarding || s.main == .faulted || s.main == .transit

def execLinkL0Entry (s : State) : Res :=
  ends s (if hostDieRuns s && !s.link.perst && !s.link.l12 then
      hostFlush { s with link := { s.link with l0 := true, everL0 := true, recovery := false } }
    else s)

/-- A link in L0 enters Recovery; nothing is reset. -/
def execLinkRecoveryEntry (s : State) : Res :=
  ends s (if s.link.l0 && !s.link.l12 then { s with link := { s.link with l0 := false, recovery := true } } else s)

/-- The host places the function in D3hot, or back in D0, where what waited leaves. -/
def execD3hotTransition (into : Bool) (s : State) : Res :=
  ends s (if s.link.l0 && !s.link.l12 && bar0Answers s then hostFlush { s with link := { s.link with d3hot := into } } else s)

/-! ## DEEP (R387, R388, Table 10.8) -/

/-- DEEP entered: every port dark, the stacks in self-refresh, no loan; a retrain that runs waits for the exit. -/
def enterDeep (s : State) : State :=
  let s := { s with power := .deep, clkDeep := bit1 (rd s 0x9030 1) 2, deepPending := false, loans := [], reclaims := []
                    chans := s.lay.chans.foldl (fun m c =>
                      let v := SMap.get m c Chan.reset
                      SMap.put m c { v with selfRefresh := true, active := none, wait := if v.active.isSome then some v.trig else v.wait }) s.chans }
  portsDark s

/-- DEEP left: RUN again, the ports train. -/
def leaveDeep (s : State) : State :=
  portsTrain { s with power := .run, chans := s.chans.map (fun (c : Nat × Chan) => (c.1, { c.2 with selfRefresh := false })) }

def execL12Entry (s : State) : Res :=
  ends s (if s.link.l0 && s.link.d3hot then
      let s := { s with link := { s.link with l12 := true } }
      if s.deepPending && s.main == .ready then enterDeep s else s
    else s)

def execL12Exit (s : State) : Res :=
  ends s (if s.link.l12 then
      let s := { s with link := { s.link with l12 := false } }
      if s.power = .deep then leaveDeep s else s
    else s)

/-! ## What bring-up does while it waits (R391, R392) -/

/-- Waiting at step 5, not for the Ledger's scan. -/
def waitsRef (s : State) : Bool := s.main == .bringup && s.bringup.step == 4 && s.bringup.waitFrom.isSome

def waitsInput (s : State) : Bool := s.main == .bringup && s.bringup.step == 1 && s.bringup.waitFrom.isSome

/-- A second of waiting at step 1 or 5. -/
def waitEvent (s : State) (step : Nat) : State :=
  let s := advance s s.bringup.waitDue
  let s := { s with bringup := { s.bringup with waitDue := s.bringup.waitDue + 1000000000 } }
  let s := logEvent s 0x2005 (leBytes 1 step)
  if step = 5 then logEvent s 0x9003 (leBytes 4 (rd s 0x9020 3)) else s

def execBringupWaitEvent (s : State) : Res :=
  ends s (if waitsInput s then waitEvent s 1 else if waitsRef s then waitEvent s 5 else s)

/-- BRINGUP_LIMIT_S without READY, waits excluded (R392). -/
def execBringupTimeLimit (s : State) : Res :=
  ends s (if s.main = .bringup && s.bringup.waitFrom.isNone then
      bringupFault (advance s (s.bringup.runAt + s.bringup.waited + rd s 0x2020 5 * 1000000000)) 7
    else s)

end Sys2Proof.Machine
end

