-- ==== Sys2Proof/Machine/Ledger.lean ====
section
/-! DEFINITION. The Ledger: its banks, the scan at power-up, records written and compacted, and the values loaded from it
(R415, R433 to R439). -/

namespace Sys2Proof.Machine

/-! ## Records and banks -/

/-- Bytes of a record with its header. -/
def recBytes (r : LRec) : Nat := 16 + r.payload.length

def bankUsed (b : LBank) : Nat := b.recs.foldl (fun n r => n + recBytes r) 32

/-- The number of the active bank (R435). -/
def activeNo (l : Ledger) : Nat :=
  match l.bank0.gen, l.bank1.gen with
  | some a, some b => if a < b then 1 else 0
  | none, some _ => 1
  | _, none => 0

def activeBank (l : Ledger) : LBank := if activeNo l = 1 then l.bank1 else l.bank0

def putBank (l : Ledger) (no : Nat) (b : LBank) : Ledger := if no = 1 then { l with bank1 := b } else { l with bank0 := b }

/-- The records that pass their CRC. -/
def goodRecs (b : LBank) : List LRec := b.recs.filter (·.good)

/-- A persisted entry's record names its key and holds its value (Table 14.12). -/
def recKey (r : LRec) : Nat := entKey (leNat (r.payload.take 2)) (leNat ((r.payload.drop 2).take 1))
def recValue (r : LRec) : Nat :=
  if leNat ((r.payload.drop 3).take 1) = 8 then leNat (r.payload.drop 16) else leNat ((r.payload.drop 8).take 8)

/-- The persisted values that apply (R437). -/
def persisted (s : State) : List (Nat × Nat) := (s.live.filter (fun r => r.ty == 3)).map (fun r => (recKey r, recValue r))

/-- The length of a string: its bytes up to the last that is not zero. -/
def strLen (n v : Nat) : Nat := (List.range n).foldl (fun m i => if v / 256 ^ i % 256 = 0 then m else i + 1) 0

/-- The payload of a persisted entry. -/
def persistPayload (key v : Nat) : List Byte :=
  let ty := match findRow (key / 256) (key % 256) with
    | some r => r.ty
    | none => 0
  if ty = 8 then
    let n := strLen 64 v
    leBytes 16 (key / 256 + key % 256 * 2 ^ 16 + 8 * 2 ^ 24 + n * 2 ^ 32) ++ leBytes ((n + 15) / 16 * 16) v
  else leBytes 16 (key / 256 + key % 256 * 2 ^ 16 + ty * 2 ^ 24 + v % 2 ^ 64 * 2 ^ 64)

def persist (s : State) (key v : Nat) : State := queueRecord s 3 (persistPayload key v)

/-! ## What the flash reads as (R435, Table 14.8) -/

def recHead (r : LRec) : List Byte :=
  leBytes 12 (r.ty + r.payload.length / 16 * 2 ^ 8 + r.timeMs % 2 ^ 32 * 2 ^ 16 + r.boot % 2 ^ 16 * 2 ^ 48 + r.seq % 2 ^ 32 * 2 ^ 64)

def bankHead (no g : Nat) : List Byte :=
  let h := leBytes 28 (0x7F + no * 2 ^ 8 + 2 ^ 16 + g % 2 ^ 32 * 2 ^ 32)
  h ++ leBytes 4 (crc32 h).toNat

/-- The record that begins in an image, if one that passes its CRC does (Table 14.8). -/
def recAt (img : List Byte) : Option LRec :=
  let h := leNat (img.take 16)
  let n := bits h 15 8
  let p := (img.drop 16).take (16 * n)
  if within 1 16 n && p.length == 16 * n && bits h 127 96 == (crc32 (img.take 12 ++ p)).toNat then
    some { ty := bits h 7 0, payload := p, timeMs := bits h 47 16, seq := bits h 95 64, boot := bits h 63 48, good := true }
  else none

/-- A copy that failed its read-back: its bytes are open, but it fails its CRC (R436). -/
def failedBytes (r : LRec) (nth : Nat) (tail : List Byte) : List Byte :=
  let b := (List.range (recBytes r)).map (Config.failedCopy r.seq nth)
  if (recAt (b ++ tail)).isSome then b.take 12 ++ ((b.drop 12).take 1).map (· ^^^ 1#8) ++ b.drop 13 else b

/-- The bytes of a log, where `nth` copies of its first record failed before. -/
def logImage (nth : Nat) : List LRec → List Byte
  | [] => []
  | r :: l =>
    let tail := logImage (if r.good then 0 else nth + 1) l
    (if r.good then recHead r ++ leBytes 4 (crc32 (recHead r ++ r.payload)).toNat ++ r.payload else failedBytes r nth tail) ++ tail

/-- The bytes of the log of the active bank. -/
def bankLog (l : Ledger) : List Byte := logImage 0 (activeBank l).recs

/-- The bytes of the active bank up to the end of its log. -/
def bankImage (l : Ledger) : List Byte := bankHead (activeNo l) ((activeBank l).gen.getD 0) ++ bankLog l

/-- The records of a log that pass their CRC, up to the first 16 bytes that read all 0xFF. After one that fails, the scan goes
on behind the length it gives, or at the next 16 bytes where it gives none (R437). -/
def scanLog : Nat → List Byte → List LRec
  | 0, _ => []
  | n + 1, img =>
    if img.isEmpty || (img.take 16).all (· == 0xFF#8) then []
    else
      let len := ((img.drop 1).headD 0#8).toNat
      let rest := img.drop (if within 1 16 len then 16 * (len + 1) else 16)
      match recAt img with
      | some r => r :: scanLog n rest
      | none => scanLog n rest


/-! ## What is loaded (R415, R433) -/

def keepOf (key : Nat) : Option Keep := (findRow (key / 256) (key % 256)).map (·.keep)

/-- Values that break a rule taken with the others, dropped rule by rule. -/
def dropBroken (rules : State → List Rule) (put : State → List (Nat × Nat) → State) (s : State) :
    Nat → List (Nat × Nat) → List (Nat × Nat)
  | 0, l => l
  | n + 1, l =>
    match brokenRule (rules (put s l)) with
    | none => l
    | some r => dropBroken rules put s n (l.filter (fun e => !r.parts.contains e.1))

def putCons (s : State) (l : List (Nat × Nat)) : State :=
  { s with cons := l.foldl (fun m e => SMap.put m e.1 e.2) s.cons }

def putEnts (s : State) (l : List (Nat × Nat)) : State :=
  { s with ent := l.foldl (fun m e => SMap.put m e.1 e.2) s.ent }

/-- The events of the values that were not loaded. -/
def notLoaded (s : State) (code : Nat) (l : List (Nat × Nat)) : State :=
  l.foldl (fun s e => logEvent (if code = 0xC002 then bump s 0xC000 7 else s) code (leBytes 2 (e.1 / 256) ++ leBytes 1 (e.1 % 256))) s

/-- Of the values of some entries, those in range that break no rule. -/
def loadable (s : State) (l : List (Nat × Nat)) (rules : State → List Rule) (put : State → List (Nat × Nat) → State) :
    List (Nat × Nat) :=
  let fit := l.filter (fun e => inRange (e.1 / 256) (e.1 % 256) e.2)
  dropBroken rules put s fit.length fit

/-- The values of some entries loaded. -/
def loadValues (s : State) (l : List (Nat × Nat)) (rules : State → List Rule) (put : State → List (Nat × Nat) → State)
    (code : Nat) : State :=
  let load := loadable s l rules put
  notLoaded (put s load) code (l.filter (fun e => !load.contains e))

/-- The CONS entries take their latest persisted values at power-up (R433). -/
def loadCons (s : State) : State :=
  loadValues s ((persisted s).filter (fun e => keepOf e.1 == some .cp)) consRules putCons 0xC002

/-- The persisted values of the main domain. -/
def persistedMain (s : State) : List (Nat × Nat) := (persisted s).filter (fun e => keepOf e.1 == some .p)

/-- The persisted entries of the main domain are loaded in bring-up (R415). -/
def loadMain (s : State) : State := loadValues s (persistedMain s) storedRules putEnts 0xD004

/-- The state with the values that bring-up would load. -/
def loadedMain (s : State) : State := putEnts s (loadable s (persistedMain s) storedRules putEnts)

/-! ## The scan (R437) -/

/-- Step 4 of bring-up is reached; step 5 with it where the reference is valid (R350, R391). -/
def reachLedger (s : State) : State :=
  let s := { s with bringup := { s.bringup with step := 4, scanWait := false } }
  if rd s 0x9020 1 = 1 then { s with bringup := { s.bringup with step := 5 } } else beginWait s

/-- The POWER_UP record of a count. -/
def powerUpCount (r : LRec) : Nat := leNat (r.payload.take 2)

/-- A bank whose header is erased is erased in full. -/
def eraseBank (b : LBank) : LBank := if b.gen.isNone then { b with recs := [] } else b

/-- A record that the scan takes into the live set, or drops for want of room. -/
def scanRecord (s : State) (r : LRec) : State := if defectsFull s r then dropDefect s r else { s with live := joinLive s.live r }

/-- The scan of the active bank: what it finds, less the values that a PERSIST_CLEAR queued before it ends, and after that what
was queued before it. -/
def ledgerScan (s : State) : State :=
  let s := { s with ledger := { s.ledger with bank0 := eraseBank s.ledger.bank0, bank1 := eraseBank s.ledger.bank1 } }
  let img := bankLog s.ledger
  let recs := scanLog (img.length / 16) img
  let boot := ((recs.filter (fun r => r.ty == 6)).map powerUpCount).foldl max 0
  let seq := recs.foldl (fun n r => max n (r.seq + 1)) 0
  let queued := s.live
  let s := recs.foldl scanRecord { s with live := [] }
  let s := if s.ledger.cleared then { s with live := s.live.filter (fun r => r.ty != 3) } else s
  let s := queued.foldl scanRecord s
  let s := { s with ledger := { s.ledger with scanned := true, cleared := false, boot := boot, seq := seq % 2 ^ 32 } }
  let s := setEnt s 0xB040 3 (s.live.filter (fun r => r.ty == 1)).length
  let s := loadCons s
  let s := queueRecord s 6 (leBytes 2 (boot + 1) ++ List.replicate 14 0#8)
  if (s.main == .bringup) && s.bringup.scanWait then reachLedger (endWait s) else s

def execLedgerScan (s : State) : Res := ends s (if s.con.settled && !s.ledger.scanned then ledgerScan s else s)

/-! ## Writing (R383, R436) -/

/-- Is the flash within its window? -/
def flashWindow (s : State) : Bool :=
  match SMap.find? s.con.hk 1021 with
  | some v => decide (((10 * rd s 0xD010 1 : Nat) : Int) ≤ v ∧ v ≤ ((10 * rd s 0xD010 2 : Nat) : Int))
  | none => false

def mayWriteLedger (s : State) : Bool := s.con.settled && s.ledger.scanned && rd s 0xD000 6 == 0 && flashWindow s

/-- A record programmed at the end of the log. -/
def programRec (s : State) (r : LRec) (ok : Bool) : State :=
  let no := activeNo s.ledger
  let b := activeBank s.ledger
  let boot := if r.ty = 6 then powerUpCount r else s.ledger.boot
  let r' : LRec := { r with seq := s.ledger.seq, boot := boot, good := ok }
  { s with ledger := putBank s.ledger no { b with recs := b.recs ++ [r'] } }

/-- The oldest record written and read back: done, or failed; the third failure of one record stops the Ledger. -/
def writeRecord (s : State) (r : LRec) (rest : List LRec) (ok : Bool) : State :=
  let b := activeBank s.ledger
  if 2 ^ 25 < bankUsed b + recBytes r then s
  else
    let t := programRec s r ok
    if ok then
      { t with ledgerQ := rest,
               ledger := { t.ledger with seq := (t.ledger.seq + 1) % 2 ^ 32, fails := 0,
                                         boot := if r.ty = 6 then powerUpCount r else t.ledger.boot } }
    else
      let t := { t with ledger := { t.ledger with fails := t.ledger.fails + 1 } }
      if t.ledger.fails < 3 then t
      else logEvent (setEnt t 0xD000 6 1) 0xD002 (leBytes 4 (activeNo s.ledger * 2 ^ 25 + bankUsed b))

def execLedgerRecordWrite (ok : Bool) (s : State) : Res :=
  ends s (match s.ledgerQ with
    | [] => s
    | r :: rest => if mayWriteLedger s then writeRecord s r rest ok else s)

/-! ## Compaction (R438) -/

/-- What compaction keeps of a bank: what of it is live, and its latest 1,024 summaries. -/
def compacted (s : State) : List LRec :=
  let recs := goodRecs (activeBank s.ledger)
  let alive := s.ledgerQ.foldl pruneLive (recs.foldl joinLive [])
  let sums := recs.filter (fun r => r.ty == 4)
  let last := sums.drop (sums.length - 1024)
  recs.filter (fun r => alive.contains r || last.contains r)

def compact (s : State) : State :=
  let no := activeNo s.ledger
  let g := ((activeBank s.ledger).gen.getD 0) + 1
  let l := putBank (putBank s.ledger (1 - no) { gen := some g, recs := compacted s }) no { gen := none, recs := [] }
  bump { s with ledger := l } 0xD000 7

def execLedgerCompaction (s : State) : Res :=
  ends s (if mayWriteLedger s && 25165824 ≤ bankUsed (activeBank s.ledger) then compact s else s)

/-! ## What LEDGER_READ reads (R434) -/

/-- A segment of the active bank. -/
def ledgerRead (l : Ledger) (off n : Nat) : List Byte :=
  let img := (bankImage l).drop off
  img.take n ++ List.replicate (min n (2 ^ 25 - off) - min n img.length) 0xFF#8

end Sys2Proof.Machine
end

