-- ==== Sys2Proof/Machine/Links.lean ====
section
/-! DEFINITION. The links inside the package, the PLLs and the guests while the part runs (R181, R333 to R347). -/

namespace Sys2Proof.Machine

/-- The dies are awake: step 6 of Table 13.1 is passed and no reset runs. -/
def diesRun (s : State) : Bool :=
  ((s.main == .bringup || s.main == .coldHold) && s.bringup.awake) || s.main == .ready || s.main == .discarding ||
    s.main == .faulted || s.main == .transit

/-! ## Die-to-die links (R336 to R338) -/

def d2dKey (pair dir : Nat) : Nat := 2 * pair + dir
def d2dAt (s : State) (pair dir : Nat) : D2d := SMap.get s.d2d (d2dKey pair dir) D2d.reset
def setD2d (s : State) (pair dir : Nat) (v : D2d) : State := { s with d2d := SMap.set s.d2d (d2dKey pair dir) v D2d.reset }

/-- The lanes of a direction in use. -/
def d2dLanes (s : State) (pair dir : Nat) : List Nat := SMap.get s.bringup.lanes (d2dKey pair dir) []

/-- The B-dies of a pair, the lower first (R23, R223). -/
def pairDies (pair : Nat) : Nat × Nat :=
  if pair < 2 then (pair, pair + 1) else if pair < 4 then (pair + 1, pair + 2) else (pair - 4, pair - 1)

/-- The receiving B-die of a direction: direction 0 runs toward the lower-numbered. -/
def receiver (pair dir : Nat) : Nat := if dir = 0 then (pairDies pair).1 else (pairDies pair).2

/-- The defect entry of a lane (Table 13.5, KIND 0x5). -/
def laneEntry (pair dir lane : Nat) : Nat := 5 * 2 ^ 28 + pair * 2 ^ 10 + dir * 2 ^ 9 + lane

def laneDefect (s : State) (source pair dir lane : Nat) : State :=
  defectRec s source true (receiver pair dir) (laneEntry pair dir lane)

/-- A link that cannot be kept up (R338): a record for every lane concerned, and 0xFFFF in the event where that is not one. -/
def linkLost (s : State) (pair dir : Nat) (lanes : List Nat) : State :=
  let s := lanes.foldl (fun s l => laneDefect s 6 pair dir l) s
  let lane := if lanes.length = 1 then lanes.headD 0xFFFF else 0xFFFF
  classC (logEvent s 0x9002 (leBytes 1 pair ++ leBytes 1 dir ++ leBytes 2 lane)) true

def d2dUp (s : State) (pair dir : Nat) : Bool :=
  diesRun s && s.power != .deep && pair < 7 && dir < 2 && !(d2dLanes s pair dir).isEmpty

/-- The replays of a direction in the second before a time (R337). -/
def inSecond (v : D2d) (now : Nat) : List (Nat × Nat) := v.replays.filter (fun r => decide (now < r.1 + 1000000000))

/-- The replays of a link, both its directions, in the second before a time (R333, R337). -/
def replayCount (s : State) (pair now : Nat) : Nat :=
  sumBy (fun r => r.2) (inSecond (d2dAt s pair 0) now) + sumBy (fun r => r.2) (inSecond (d2dAt s pair 1) now)

/-- Has a link raised its alarm for the second that runs? -/
def linkAlarmed (s : State) (pair : Nat) : Bool := (d2dAt s pair 0).alarmed || (d2dAt s pair 1).alarmed

/-- The alarm of both directions of a link set. -/
def setAlarmed (s : State) (pair : Nat) (b : Bool) : State :=
  let s := setD2d s pair 0 { d2dAt s pair 0 with alarmed := b }
  setD2d s pair 1 { d2dAt s pair 1 with alarmed := b }

/-- A replay asked for, counted with those of the second before it; the alarm can be raised again once a second has held no
more than its limit. -/
def countReplay (s : State) (pair dir chan : Nat) : State :=
  let s := if linkAlarmed s pair && decide (replayCount s pair s.time ≤ rd s 0x9013 2) then setAlarmed s pair false else s
  let v := d2dAt s pair dir
  let s := bump (setD2d s pair dir { v with replays := inSecond v s.time ++ [(s.time, 1)] }) 0x9012 (pair + 1)
  { s with out := .d2dReplay pair dir chan :: s.out }

/-- The failed attempts of the flit that a channel expects, with this one: only those of that flit count (R338). -/
def failCount (v : D2d) (chan : Nat) (c : FlitCheck) (seq : Nat) : Nat :=
  v.fails.getD chan 0 + (if !c.ok && seq == v.exp.getD chan 0 then 1 else 0)

/-- A flit on a channel (R336): passed on when its CRC passes and its sequence number is the next, else discarded and
replayed; the sixteenth failed replay of one flit loses the link, with the lanes on which it was damaged (R338). -/
def d2dFlit (s : State) (pair dir chan : Nat) (c : FlitCheck) (seq : Nat) : State :=
  let v := d2dAt s pair dir
  if c.ok && seq == v.exp.getD chan 0 then
    setD2d s pair dir { v with exp := v.exp.set chan (seq + 1), fails := v.fails.set chan 0 }
  else
    let n := failCount v chan c seq
    let s := countReplay (setD2d s pair dir { v with fails := v.fails.set chan n }) pair dir chan
    if 17 ≤ n then linkLost s pair dir (c.lanes.filter ((d2dLanes s pair dir).contains ·)) else s

def execD2dFlitReceive (pair dir chan : Nat) (crcOk : FlitCheck) (seq : Nat) (s : State) : Res :=
  ends s (if d2dUp s pair dir && chan < 5 then d2dFlit s pair dir chan crcOk seq else s)

/-- A lane in use loses signal or lock. -/
def execD2dLaneLoss (pair dir lane : Nat) (s : State) : Res :=
  ends s (if d2dUp s pair dir && (d2dLanes s pair dir).contains lane then linkLost s pair dir [lane] else s)

/-- The margin of a lane in use has stayed below the qualification margin for 1 s (R337). -/
def marginal (s : State) (pair dir lane : Nat) : State :=
  let v := d2dAt s pair dir
  if v.marginal.contains lane then s
  else
    let s := setD2d s pair dir { v with marginal := v.marginal ++ [lane] }
    let s := setEnt s 0x9013 1 (rd s 0x9013 1 + 1)
    laneDefect (logEvent s 0x9001 (leBytes 1 pair ++ leBytes 1 dir ++ leBytes 2 lane)) 5 pair dir lane

def execD2dMarginWindow (pair dir lane : Nat) (s : State) : Res :=
  ends s (if d2dUp s pair dir && (d2dLanes s pair dir).contains lane then marginal s pair dir lane else s)

/-- The replays of a link have exceeded D2D_REPLAY_ALARM within a second. -/
def replayAlarm (s : State) (pair dir : Nat) : State :=
  if rd s 0x9013 2 < replayCount s pair s.time && !linkAlarmed s pair then
    logEvent (setAlarmed s pair true) 0x9001 (leBytes 1 pair ++ leBytes 1 dir ++ leBytes 2 0xFFFF)
  else s

def execD2dReplayAlarm (pair dir : Nat) (s : State) : Res := ends s (if d2dUp s pair dir then replayAlarm s pair dir else s)

/-! ## PLLs and guests (R344, R347) -/

/-- In DEEP no clock of the main domain runs but the reference PLL and distribution clock where CLK_EN keeps them. -/
def pllRuns (s : State) (source : Nat) : Bool :=
  diesRun s && (s.power != .deep || (decide (source < 3) && s.clkDeep))

/-- A PLL of a B-die, 1 reference, 2 distribution clock or 3 of a PHY, loses lock. -/
def execPllLockLoss (die source : Nat) (s : State) : Res :=
  ends s (if pllRuns s source && die < 6 && 1 ≤ source && source ≤ 3 then
      classC (logEvent s 0x9004 (dieByte false die ++ leBytes 1 source)) true
    else s)

/-- The UCIe link of an optical site goes down: its port goes dark and trains again. -/
def execOpticalSiteLinkDown (p : Nat) (s : State) : Res :=
  ends s (if diesRun s && s.power != .deep && s.lay.ports.contains p then
      let s := logEvent s 0x9005 (leBytes 1 p)
      if portUp s p then leaveService s p else setPort s p { port s p with phase := .training, retryAt := none }
    else s)

/-- The host site's link is lost beyond its retry. -/
def execHostSiteLinkLost (s : State) : Res :=
  ends s (if diesRun s && s.power != .deep && s.bringup.guests.contains 16 then
      classC (logEvent s 0x9006 (leBytes 1 16)) false else s)

/-- A guest reports that it needs a reset; the optical engines lie on the forwarding path (R325). -/
def execGuestResetRequest (site : Nat) (s : State) : Res :=
  ends s (if diesRun s && s.bringup.guests.contains site then classC (logEvent s 0x9006 (leBytes 1 site)) (decide (site < 16)) else s)

/-! ## Routers (R181) -/

def routerExists (cdie : Bool) (die row col : Nat) : Bool :=
  row < 16 && (if cdie then die < 12 && col < 16 else die < 6 && col < 32)

/-- The defect entry of a router. -/
def routerEntry (cdie : Bool) (row col : Nat) : Nat := if cdie then 10 * 2 ^ 28 + col * 2 ^ 4 + row else 4 * 2 ^ 28 + col * 2 ^ 4 + row

/-- A router, or the mesh link from it, fails. -/
def execRouterOrMeshLinkFailed (cdie : Bool) (die row col link : Nat) (s : State) : Res :=
  ends s (if diesRun s && routerExists cdie die row col && (!cdie || cdiePresent s die) && (link < 4 || link = 255) then
      let s := defectRec s 7 (!cdie) die (routerEntry cdie row col)
      classC (logEvent s 0x6003 (dieByte cdie die ++ leBytes 1 row ++ leBytes 1 col ++ leBytes 1 link)) (!cdie)
    else s)

end Sys2Proof.Machine
end

