-- ==== Sys2Proof/Machine/Sequencer.lean ====
section
/-! DEFINITION. The sequencer: program fetch, generator words, signals, waits, barriers, fences and the end of a
program, and the completion of engine commands (R79, R80, R83, R84, R107 to R110, R130, R131). -/

namespace Sys2Proof.Machine

/-! ## Program fetch -/

/-- The program table entry of a tile checked (R79). -/
def entryOk (j : Job) (pos ltile e : Nat) : Bool :=
  bits e 255 224 == (crc32 ((leBytes 32 e).take 28)).toNat && bits e 111 96 == ltile && decide (jTileFirst j.desc + pos = ltile) &&
    bits e 223 176 == 0 && bits e 127 112 == 0 && bits e 95 84 == 0 && bits e 63 48 == 0 && decide (bits e 83 64 ≠ 0) &&
    bits e 47 0 % 64 == 0 && inWindows j.qwins (bits e 47 0) (bits e 47 0 + 16 * bits e 83 64 - 1)

/-- The table entry read and checked before a tile fetches its first word. -/
def readEntry (s : State) (t jn : Nat) (j : Job) : State :=
  let pos := t - jTileFirst j.desc
  let a := bits j.desc 319 272 + 32 * pos
  match readWord s (plain (.fetch t)) (a / 64 * 64) [] with
  | (.data d, s) =>
    let e := leNat ((d.drop (a % 64)).take 32)
    if entryOk j pos t e then
      setTile s t { tile s t with words := bits e 83 64, progAddr := bits e 47 0, argBase := bits e 175 128 }
    else jobFault s jn 0x2B t 0
  | (.poison, s) => jobFault s jn 0x31 t 0
  | (.failed, s) => failedReq s

/-- The next aligned 64 bytes of the program put into the buffer, while it has room for them (R80). -/
def fetchMore (s : State) (t : Nat) : State :=
  let v := tile s t
  if v.running && decide (v.fetched < v.words) && decide (v.buf.length ≤ 252) then
    let n := min 4 (v.words - v.fetched)
    match readWord s (plain (.fetch t)) (v.progAddr + 16 * v.fetched) [] with
    | (.data d, s) =>
      setTile s t { tile s t with fetched := v.fetched + n,
                                  buf := v.buf ++ (List.range n).map (fun i => some (leNat ((d.drop (16 * i)).take 16))) }
    | (.poison, s) => setTile s t { tile s t with fetched := v.fetched + n, buf := v.buf ++ List.replicate n none }
    | (.failed, s) => failedReq s
  else s

def fetchGo (s : State) (t : Nat) : State :=
  if s.main = .ready && s.power = .run && (tile s t).running then
    match jobOf s t with
    | some (jn, j) =>
      if (tile s t).words = 0 then
        let s := readEntry s t jn j
        if s.main = .ready then fetchMore s t else s
      else fetchMore s t
    | none => s
  else s

/-! ## Generators -/

def agenRun (t : Nat) (s : State) (w : Nat) : State :=
  let v := tile s t
  let g := bits w 111 109
  nextWord (setTile s t { v with gens := v.gens.set g (agenSet (gen v g) w) }) t

/-! ## Signals (R107) -/

def sigExec (t : Nat) (s : State) (w : Nat) : State :=
  if bits w 111 109 = 0 then
    let idx := (tile s t).word
    nextWord (raiseSig s t w idx) t
  else
    let e := engOf (bits w 111 109)
    if (qOf (tile s t) e).length ≥ 8 then s
    else
      wake (sigRun 9 (enqueue s t e (newEntry s t w [] [])) t e) t

/-! ## Waits, barriers, fences, END -/

/-- The sequencer blocked at the present word; it moves on at once where nothing holds it. -/
def blockOn (s : State) (t : Nat) (b : Block) (d : Option BarDesc) : State :=
  let v := tile s t
  let s := setTile s t { v with block := some b, blockIdx := v.word, blockAt := s.time, bar := d }
  wake (nextWord s t) t

def waitRun (t : Nat) (s : State) (w : Nat) : State := blockOn s t (.wait (sFlag w) (sN w)) none
def waitpRun (t : Nat) (s : State) (w : Nat) : State := blockOn s t (.waitp (sFlag w) (sN w)) none
def fenceRun (t : Nat) (s : State) (w : Nat) : State := blockOn s t (.fence (bits w 111 108)) none
def endRun (t : Nat) (s : State) (_ : Nat) : State := blockOn s t .finish none

/-- The descriptor of Table 3.20 from its 16 bytes and its children's. -/
def barDesc (d : Nat) (cs : List Nat) : BarDesc :=
  { acount := bits d 15 0, aflag := bits d 21 16, rflag := bits d 27 22, root := bit1 d 28, prem := bit1 d 29,
    pltile := bits d 47 32, pflag := bits d 53 48, pfaddr := bits d 78 64,
    children := cs.map (fun c => (bits c 15 0, bits c 21 16, bit1 c 22, bits c 37 23)) }

/-- The cause of a descriptor that the part refuses (R108, R131). -/
def barCause (d : Nat) (cs : List Nat) : Option Nat :=
  firstCause [
    (nz d 127 87 || bit1 d 79 || nz d 63 54 || nz d 31 30 || decide (bits d 86 80 > 64) || decide (bits d 21 16 > 47) ||
      decide (bits d 27 22 > 47) || (!bit1 d 28 && decide (bits d 53 48 > 47)) ||
      cs.any (fun c => bits c 63 38 != 0 || decide (bits c 21 16 > 47)), 0x22),
    (decide (bits d 15 0 < bits d 86 80 + 1) || bits d 21 16 == bits d 27 22, 0x2E)]

/-- The child entries behind a descriptor at `a`, at most 64. What entries past the end of the tile's own operand store are
is in no rule: DESIGN CHOICE, the read goes on at the next address, in the next tile's store (log 14). -/
def readKids (s : State) (j : Job) (t a n : Nat) : EAcc × List Nat × State :=
  (List.range (min n 64)).foldl (fun acc i =>
    match acc with
    | (.val z, l, s) =>
      match readElem s j (plain (.tile t)) (8 * (a + 16 + 8 * i)) 64 with
      | (.val c, s) => (.val z, l ++ [c], s)
      | (e, s) => (e, l, s)
    | r => r) (.val 0, [], s)

/-- The end of an access of the sequencer that gave no data. -/
def seqEnd (s : State) (jn t idx : Nat) (e : EAcc) : State :=
  let s := if e.fails then failedReq s else s
  match e.cause with
  | some c => jobFault s jn c t idx
  | none => s

/-- BAR: its descriptor and child entries are read, as program data of the tile (R108, R130). -/
def barRun (t : Nat) (s : State) (w : Nat) : State :=
  match jobOf s t with
  | none => s
  | some (jn, j) =>
    let idx := (tile s t).word
    let off := bits w 111 92
    let a := 0x002000000000 + t * 0x100000 + off
    if hazard (tile s t) (hazardParts s t (a, a + 16 + 8 * 64 - 1)) [] then s
    else
      match readElem s j (plain (.tile t)) (8 * a) 128 with
      | (.val d, s) =>
        match readKids s j t a (bits d 86 80) with
        | (.val _, cs, s) =>
          match barCause d cs with
          | some c => jobFault s jn c t idx
          | none => blockOn s t .barComplete (some (barDesc d cs))
        | (e, _, s) => seqEnd s jn t idx e
      | (e, s) => seqEnd s jn t idx e

/-! ## Completion (R84, Table 3.4) -/

/-- Does a request of a transfer still wait here to be sent: kept back, at an egress, or a write behind the host link? -/
def unsent (s : State) (n : Nat) (e : XEng) : Bool :=
  s.fab.waitReqs.any (fun r => r.x == some n) || s.fab.reqs.any (fun r => r.2.x == some n && atEgress s r) || hostWritesWait s e

/-- May an entry of a tile's queues leave as complete? -/
def completes (s : State) (t : Nat) (c : QCmd) : Bool :=
  c.done && (match c.xfer with
    | some n => !unsent s n (.tile t c.idx)
    | none => true)

/-- The entry at a place of an engine's queue leaves it; what waited for it goes on. -/
def dropEntry (s : State) (t : Nat) (e : Engine) (pos : Nat) : State :=
  let v := tile s t
  let s := setTile s t (withQ v e ((qOf v e).eraseIdx pos))
  wake (enginesGo (sigRun 9 s t e) t) t

def completeEntry (s : State) (t : Nat) (e : Engine) (pos : Nat) : State :=
  match (qOf (tile s t) e)[pos]? with
  | some c => if completes s t c && !isPass c && s.main = .ready then dropEntry s t e pos else s
  | none => s

/-- The oldest pass drains, if every row of it has left the column end (R53, R84); what waited for its drain goes on
(R49, R77). -/
def drainPass (s : State) (t : Nat) : State :=
  let v := tile s t
  match v.qArray.findIdx? isPass with
  | none => s
  | some pos =>
    if s.main = .ready && (v.qArray.getD pos (newEntry s t 0 [] [])).done then
      let more := decide ((v.qArray.filter isPass).length > 1)
      dropEntry (setTile s t { v with rampActive := more }) t .array pos
    else s

end Sys2Proof.Machine
end

