-- ==== Sys2Proof/Machine/FlagCmds.lean ====
section
/-! DEFINITION. Arriving signals, the wait watchdog, quiet tiles and loans (R114, R134 to R145). -/

namespace Sys2Proof.Machine

/-- A signal of n reaches flag f of logical tile t (R114, R118). -/
def execFlagSignal (t f : Nat) (n : BitVec 16) (s : State) : Res :=
  ends s (if f < 48 && n != 0#16 then signal s t f n.toNat else s)

/-! ## The watchdog (R134 to R136) -/

/-- The watchdog time of a job in ns. -/
def wdogNs (s : State) (j : Job) : Nat := (if jWdog j.desc = 0 then rd s 0x5010 1 else jWdog j.desc) * 1000000

/-- The flag a block waits on; the completion phase of BAR waits on none, and what is recorded is then open. -/
def blockFlag (s : State) (v : Tile) (b : Block) : Nat × State :=
  match b, v.bar with
  | .wait f _, _ => (f, s)
  | .waitp f _, _ => (f, s)
  | .barGather, some d => (d.aflag, s)
  | .barRelease, some d => (d.rflag, s)
  | _, _ =>
    let f := drawFree s
    (f.1 % 256, f.2)

/-- The timed interval of a tile that began first: when, the word index, the flag recorded. -/
def timedBlock (s : State) (t : Nat) : Option (Nat × Nat × Nat) × State :=
  let v := tile s t
  let seq : Option (Nat × Nat × Nat) × State := match v.block with
    | none => (none, s)
    | some (.fence _) => (none, s)
    | some .finish => (none, s)
    | some b =>
      let f := blockFlag s v b
      (some (v.blockAt, v.blockIdx, f.1), f.2)
  let vec := v.vecAt.map (fun a =>
    (a, ((v.qVec.find? (fun c => !c.done && wOpcode c.word == 0x07)).map (·.idx)).getD 0, 0xFF))
  match seq.1, vec with
  | some a, some b => (some (if b.1 < a.1 then b else a), seq.2)
  | some a, none => (some a, seq.2)
  | none, b => (b, seq.2)

/-- The expiry recorded, counted and logged. -/
def expiryNoted (s : State) (j : Job) (t at' word flag : Nat) : State :=
  let s := recordFault (advance s (at' + wdogNs s j)) 0x2D t word
  let s := setEnt (bump s 0x5010 2) 0x5010 3 flag
  logEvent s 0x5002 (leBytes 2 t ++ leBytes 4 word ++ leBytes 1 flag)

/-- An interval reaches the watchdog time (R135). In DISCARDING the job is covered already: the expiry is logged, once, and
changes no state (R460). -/
def execWaitWatchdog (t : Nat) (s : State) : Res :=
  ends s (match jobOf s t, timedBlock s t with
    | some (jn, j), (some (at', word, flag), s') =>
      if s.main = .ready && j.running then
        let s := expiryNoted s' j t at' word flag
        let s := spoil (endJob s jn) j
        let s := postComp s { q := j.q, slot := j.slot, jobId := jId j.desc, status := 3, cause := 0x2D, ltile := t, word := word }
        classB s 0x41
      else if s.main = .discarding && j.running then
        let s := expiryNoted s' j t at' word flag
        setTile s t { tile s t with block := none, vecAt := none }
      else s
    | _, _ => s)

/-! ## Quiet tiles -/

/-- A tile becomes quiet (R139). -/
def execTileQuiet (t : Nat) (s : State) : Res :=
  ends s (if t < tileCount s && canBeQuiet s t && !isQuiet s t then
      let from' := (SMap.get s.quiet t (s.regStart, false)).1
      let s := advance s (from' + loanVal s (tileHalf s t / 4) 2 * 1000)
      { s with quiet := SMap.put s.quiet t (from', true) }
    else s)

/-! ## Loans -/

def halfPresent (s : State) (h : Nat) : Bool := cdiePresent s (h / 2)

/-- Whole units a half can lend in all (R140). -/
def lendable (s : State) (h : Nat) : Nat := (ownLimit s h - loanVal s (h / 4) 4) / 15

/-- Units of a borrower that open reclaims have taken from its limit. -/
def lowered (s : State) (h : Nat) : Nat :=
  (s.reclaims.flatMap (·.owed)).foldl (fun n o => if o.1 = h then n + o.2 else n) 0

/-- The limit of a half, with loans (R141, R142); a half that warms keeps to WARM_ILIM_A as well (R377). -/
def halfLimit (s : State) (h : Nat) : Nat :=
  let own := if s.bringup.warm then min (rd s 0xB010 5) (ownLimit s h) else ownLimit s h
  let lent := (lentBy s h).length
  if 0 < lent then max (min (loanVal s (h / 4) 4) own) (own - 15 * lent)
  else own + 15 * ((heldBy s h).length - lowered s h)

/-- Does a half lend, or would it at this decision? -/
def lends (s : State) (h : Nat) : Bool :=
  !(lentBy s h).isEmpty || (mayLend s h && (heldBy s h).isEmpty && decide (0 < lendable s h))

/-- Units of one lender handed to the borrowers in turn; `k` is the place of the next in turn. -/
def handOut (lender : Nat) (bs : List Nat) : Nat → Nat → State → State
  | 0, _, s => s
  | n + 1, k, s =>
    match (List.range bs.length).find? (fun i => decide (halfLimit s (bs.getD ((k + i) % bs.length) 0) < loanVal s (lender / 4) 5)) with
    | none => s
    | some i =>
      let p := (k + i) % bs.length
      handOut lender bs n (p + 1)
        { s with loans := s.loans ++ [{ lender := lender, borrower := bs.getD p 0, seq := s.loanSeq }], loanSeq := s.loanSeq + 1 }

/-- The units a half holds go back to those who lent them (R144). Whether a return to several lenders is one reclaim or
several is in no rule: DESIGN CHOICE, one for each lender, each counted and confirmed on its own (log 30). -/
def returnHeld (s : State) (h : Nat) : State :=
  (List.range 24).foldl (fun s l => openReclaim s l (s.loans.filter (fun x => x.borrower == h && x.lender == l))) s

/-- Is a reclaim open among some halves? -/
def reclaiming (s : State) (hs : List Nat) : Bool := s.reclaims.any (fun r => hs.contains r.lender)

/-- The new loans of a decision (R140, R141). -/
def lendOut (s : State) (hs back : List Nat) : State :=
  let lenders := hs.filter (fun h => lends s h && mayLend s h)
  let bs := hs.filter (fun h => !lends s h && !throttled s h && !back.contains h)
  lenders.foldl (fun s l => handOut l bs (lendable s l - (lentBy s l).length) 0 s) s

/-- A loan decision on B-die b (R140 to R144): the committed entries are taken up, a lender that no longer may lend reclaims
what it has lent, a half that holds units and may lend returns them, and where no reclaim is open loans are granted. -/
def decide' (s : State) (b : Nat) : State :=
  let hs := ((List.range 4).map (· + 4 * b)).filter (halfPresent s)
  if reclaiming s hs then s
  else
    let s := { s with loanVals := SMap.put s.loanVals b ((List.range 5).map (fun i => rd s 0x5020 (i + 1))) }
    let s := (hs.filter (fun h => !(lentBy s h).isEmpty)).foldl checkLender s
    let back := hs.filter (fun h => mayLend s h && !(heldBy s h).isEmpty)
    let s := back.foldl returnHeld s
    if reclaiming s hs then s else lendOut s hs back

/-- When a B-die's next decision is due: every 10 µs of reference time, once at each (R140). DESIGN CHOICE: at its
multiples (log 30). -/
def loanDue (s : State) (b : Nat) : Nat :=
  let from' := match SMap.find? s.loanAt b with
    | some t => max s.time (t + 1)
    | none => s.time
  (from' + 9999) / 10000 * 10000

def execLoanDecision (b : Nat) (s : State) : Res :=
  ends s (if b < 6 && (s.main = .ready || s.main = .discarding) && s.power = .run then
      let s := advance s (loanDue s b)
      decide' { s with loanAt := SMap.put s.loanAt b s.time } b
    else s)

/-- The first `n` elements that meet a test taken out. -/
def dropN {α : Type} (p : α → Bool) : Nat → List α → List α
  | 0, l => l
  | _, [] => []
  | n + 1, x :: r => if p x then dropN p n r else x :: dropN p (n + 1) r

/-- A borrower confirms a lowering `ns` after the reclaim opened: the lender's limit rises by those units, and with the last
of them the reclaim closes (R142). -/
def confirmAt (s : State) (borrower lender ns : Nat) : State :=
  match takeFirst (fun (r : Reclaim) => r.lender == lender && r.owed.any (fun o => o.1 == borrower)) s.reclaims with
  | (none, _) => s
  | (some r, rest) =>
    let n := (r.owed.filter (fun o => o.1 == borrower)).foldl (fun n o => n + o.2) 0
    let s := advance s (r.opened + ns)
    let s := { s with loans := (dropN (fun (l : Loan) => l.lender == lender && l.borrower == borrower) n s.loans.reverse).reverse }
    let owed := r.owed.filter (fun o => o.1 != borrower)
    if owed.isEmpty then raise { s with reclaims := rest } 0x5030 4 (s.time - r.opened)
    else { s with reclaims := s.reclaims.map (fun x => if x = r then { x with owed := owed } else x) }

/-- No confirmation is later than 6 µs (Table 4.6); loans go on in READY and DISCARDING alone (R464). -/
def execBorrowerConfirm (borrower lender ns : Nat) (s : State) : Res :=
  ends s (if ns ≤ 6000 && (s.main == .ready || s.main == .discarding) then confirmAt s borrower lender ns else s)

/-- The most recently lent units of a list. -/
def latestUnits (ls : List Loan) (n : Nat) : List Loan := (ls.reverse).take n

/-- What a throttle step does to loans (R144): throttled borrowers return what they hold, and a lender whose lent units
exceed its lendable amount recovers the excess. -/
def throttleLoans (s : State) : State :=
  let s := ((List.range 24).filter (fun h => throttled s h && !(heldBy s h).isEmpty)).foldl returnHeld s
  (List.range 24).foldl (fun s h =>
    let ls := lentBy s h
    if lendable s h < ls.length then openReclaim s h (latestUnits ls (ls.length - lendable s h)) else s) s

end Sys2Proof.Machine
end

