-- ==== Sys2Proof/Machine/Power.lean ====
section
/-! DEFINITION. The standby supply, the clocks, the housekeeping round and the step machine (R348 to R352, R365 to R382,
R453, R469). -/

namespace Sys2Proof.Machine

/-! ## Standby supply and fallback oscillator (R348, R352, R453) -/

/-- The standby supply comes up: the fallback oscillator starts at time zero. -/
def execStandbySupplyApplied (s : State) : Res :=
  ends s (if s.con.standby then s else { s with time := 0, con := { s.con with standby := true } })

/-- The standby supply goes: only the flash keeps what it holds, and PERST_N is the baseboard's. -/
def standbyLost (s : State) : State :=
  { State.reset with
    pending := s.pending, out := s.out, free := s.free
    link := { HostLink.reset with perst := s.link.perst }
    ledger := { s.ledger with fails := 0, scanned := false } }

def execStandbySupplyRemoved (s : State) : Res := ends s (if s.con.standby then standbyLost s else s)

/-- The fallback reports settled `us` after the supply was good. -/
def execFallbackSettled (us : Nat) (s : State) : Res :=
  ends s (if s.con.standby && !s.con.settled && !s.con.held && us ≤ 2000 then
      let s := advance s (us * 1000)
      setEnt { s with main := .standby, con := { s.con with settled := true, roundAt := s.time + 2000000, tickAt := s.time + 1000000,
                                                            winAt := s.time + 100000 } } 0x9020 5 us
    else s)

/-- The fallback has not settled within 2 ms. -/
def execFallbackSettleTimeout (s : State) : Res :=
  ends s (if s.con.standby && !s.con.settled && !s.con.held then
      let s := advance s 2000000
      logEvent { s with main := .standbyFault, con := { s.con with held := true, faultN := true } } 0xC003 (leBytes 8 s.time)
    else s)

/-- A class-D fault on no housekeeping channel: what its record gives as the reading is open. -/
def classDPlain (s : State) (code : Nat) : State :=
  let f := drawFree s
  classD f.2 code 0xFFFF ((f.1 % 2 ^ 32 : Nat) : Int) 0

/-- The fallback stops after it has settled. -/
def execFallbackStop (s : State) : Res :=
  ends s (if s.con.settled then classDPlain (logEvent s 0xC003 (leBytes 8 s.time)) 8 else s)

/-! ## The clock monitor (R349 to R351) -/

/-- The end of the period that runs, or of the last one that has passed. -/
def dueAt (due now period : Nat) : Nat := if now < due + period then due else due + (now - due) / period * period

/-- A two's complement value of 32 bits. -/
def i32 (v : Int) : Nat := (v % ((2 ^ 32 : Nat) : Int)).toNat

/-- The reference becomes valid; bring-up that waits at its reference check goes on. -/
def refValid (s : State) : State :=
  let s := setEnt (setEnt s 0x9020 1 1) 0x9020 2 0
  if waitsRef s then
    let s := endWait s
    { s with bringup := { s.bringup with step := 5 } }
  else s

/-- The reference fails after it has been valid. -/
def refFail (s : State) : State :=
  let s := setEnt (setEnt s 0x9020 1 2) 0x9020 2 1
  let s := bump { s with con := { s.con with good := 0, bad := 0 } } 0x9020 4
  classC (logEvent s 0x9004 (dieByte false 0 ++ leBytes 1 0)) true

/-- A window of 100 µs has measured the reference, `ppm` from 100 MHz. -/
def monitorWindow (s : State) (ppm : Int) : State :=
  let s := setEnt s 0x9020 3 (i32 ppm)
  let ok := decide (-10000 ≤ ppm ∧ ppm ≤ 10000)
  let s := { s with con := { s.con with good := if ok then s.con.good + 1 else 0, bad := if ok then 0 else s.con.bad + 1 } }
  if rd s 0x9020 1 = 1 then (if 2 ≤ s.con.bad then refFail s else s)
  else if 10 ≤ s.con.good then refValid s else s

def execClockMonitorWindow (ppm : Int) (fallbackOk : Bool) (s : State) : Res :=
  ends s (if s.con.settled then
      let due := dueAt s.con.winAt s.time 100000
      let s := advance { s with con := { s.con with winAt := due + 100000 } } due
      if !fallbackOk && rd s 0x9020 1 == 1 then classDPlain s 8 else monitorWindow s ppm
    else s)

/-- No edge of the valid reference for 1 µs. -/
def execRefEdgeTimeout (s : State) : Res := ends s (if s.con.settled && rd s 0x9020 1 == 1 then refFail s else s)

/-! ## Readings (R370 to R372) -/

/-- The die of a sensor channel: C-die or not, and its number. -/
def sensorDie (ch : Nat) : Bool × Nat := if ch < 768 then (true, ch / 64) else (false, (ch - 768) / 32)

/-- The first sensor channel of a die, and how many it has. -/
def dieSensors (cdie : Bool) (d : Nat) : Nat × Nat := if cdie then (64 * d, 64) else (768 + 32 * d, 32)

/-- Is a half powered, so that its sensors are read (R371)? -/
def halfPowered (s : State) (h : Nat) : Bool :=
  halfUsed s h && (s.main == .ready || s.main == .discarding || s.main == .faulted ||
    ((s.main == .bringup || s.main == .coldHold) && decide (h % 6 < s.bringup.waves)))

/-- Is a channel sampled in this round? -/
def sampled (s : State) (ch : Nat) : Bool := if ch < 768 then halfPowered s (ch / 32) else decide (ch < 1023)

/-- The latest readings of a die's sensors that have not failed: channel and value. Those of a C-die count while its half is
powered, and from the last reset on (R371, R445). -/
def dieReadings (s : State) (cdie : Bool) (d : Nat) : List (Nat × Int) :=
  let r := dieSensors cdie d
  List.filter (fun (x : Nat × Int) => decide (r.1 ≤ x.1 ∧ x.1 < r.1 + r.2) && sampled s x.1 && !s.con.failed.contains x.1)
    (if cdie then s.hkShown else s.con.hk)

def maxInt (l : List (Nat × Int)) : Option Int :=
  l.foldl (fun m x => match m with
    | none => some x.2
    | some v => some (max v x.2)) none

/-- The highest valid reading of a die. -/
def dieMax (s : State) (cdie : Bool) (d : Nat) : Option Int := maxInt (dieReadings s cdie d)

def insertInt (x : Int) : List Int → List Int
  | [] => [x]
  | y :: l => if x ≤ y then x :: y :: l else y :: insertInt x l

/-- Twice the median. -/
def median2 (l : List Int) : Int :=
  let v := l.foldl (fun m x => insertInt x m) []
  v.getD ((v.length - 1) / 2) 0 + v.getD (v.length / 2) 0

def outOfRange (v : Int) : Bool := decide (v < -400 ∨ 1500 < v)

/-- The sensors of a die that fail in this round, of those it sampled. -/
def failing (s : State) (round : List (Nat × Int)) (cdie : Bool) (d : Nat) : List (Nat × Int) :=
  let l := dieReadings s cdie d
  let good := l.filter (fun x => !outOfRange x.2)
  let m := median2 (good.map (·.2))
  l.filter (fun x => round.contains x && (outOfRange x.2 || decide (400 < 2 * x.2 - m ∨ 2 * x.2 - m < -400)))

/-- A sensor dropped (R372). -/
def sensorFail (s : State) (x : Nat × Int) : State :=
  let d := sensorDie x.1
  let s := bump { s with con := { s.con with failed := s.con.failed ++ [x.1] } } 0xB034 2
  let s := logEvent s 0xB003 (leBytes 2 x.1 ++ leBytes 4 (i32 x.2))
  defectRec s 8 (!d.1) d.2 x.1

/-- The failures of one die; one left with fewer than three quarters of its sensors shuts the part down. -/
def checkDie (s : State) (round : List (Nat × Int)) (cdie : Bool) (d : Nat) : State :=
  let l := failing s round cdie d
  let s := l.foldl sensorFail s
  let r := dieSensors cdie d
  let bad := (s.con.failed.filter (fun c => decide (r.1 ≤ c ∧ c < r.1 + r.2))).length
  match l.getLast? with
  | some x => if r.2 / 4 < bad then classD s 7 x.1 x.2 (if cdie then throttleSteps s d else 0) else s
  | none => s

/-! ## Trips, warnings, the inlet (R373, R374, R378) -/

/-- The trigger of Table 12.6 that a reading meets. -/
def trigger (s : State) (ch : Nat) (v : Int) : Option Nat :=
  let hot (sub : Nat) : Bool := decide (((10 * rd s 0xB000 sub : Nat) : Int) ≤ v)
  if ch < 960 && s.con.failed.contains ch then none
  else if ch < 768 then (if hot 3 then some 1 else none)
  else if ch < 960 then (if hot 5 then some 2 else none)
  else if ch < 972 then (if hot 7 then some 3 else none)
  else if ch = 1016 then (if s.con.armed && decide (v < 40000 ∨ 60000 < v) then some 5 else none)
  else if ch = 1015 then (if 33000 < v then some 6 else none)
  else if ch = 1022 then (if 1250 ≤ v then some 9 else none)
  else none

/-- The first reading of the round that meets a trigger; in SHUTDOWN only a crossing counts. -/
def tripAt (s : State) (old : SMap Int) (l : List (Nat × Int)) (code : Nat) : Option (Nat × Int) :=
  l.find? (fun x => trigger s x.1 x.2 == some code &&
    !(s.main == .shutdown && (match SMap.find? old x.1 with
      | some v => trigger s x.1 v == some code
      | none => false)))

/-- The trips of a round, in the order of Table 12.6. -/
def trips (s : State) (old : SMap Int) (l : List (Nat × Int)) : State :=
  let hits := [1, 2, 3, 5, 6, 9].filterMap (fun c => (tripAt s old l c).map (fun x => (c, x)))
  hits.foldl (fun s h => classD s h.1 h.2.1 h.2.2 (if h.1 = 1 then throttleSteps s (h.2.1 / 64) else 0)) s

/-- A C-die whose reading has risen to the warning. -/
def warnDie (s0 s : State) (c : Nat) : State :=
  let w : Int := ((10 * rd s 0xB000 1 : Nat) : Int)
  match dieMax s true c with
  | none => s
  | some v =>
    let below := match dieMax s0 true c with
      | some o => decide (o < w)
      | none => true
    if w ≤ v && below then logEvent (bump s 0xB040 4) 0xB001 (leBytes 1 c ++ leBytes 4 (i32 v)) else s

/-- The inlet outside its range: one event for each excursion; a cold one in bring-up is COLD-HOLD's. -/
def checkInlet (s : State) : State :=
  match SMap.find? s.con.hk 1018 with
  | none => s
  | some v =>
    let rising := s.main == .bringup || s.main == .coldHold
    let out' := decide (((10 * rd s 0xB010 4 : Nat) : Int) < v) || (!rising && decide (v < ((10 * rd s 0xB010 3 : Nat) : Int)))
    let t := { s with con := { s.con with inletOut := out' } }
    if out' && !s.con.inletOut then logEvent t 0xB002 (leBytes 4 (i32 v)) else t

/-! ## Power and credit (R369, R379, R380) -/

/-- Module input power in units of 0.1 mW: millivolts times tenths of an ampere. -/
def inputPower (s : State) : Nat :=
  ((SMap.find? s.con.hk 1016).getD 0).toNat * ((SMap.find? s.con.hk 1017).getD 0).toNat

def powerAllowed (s : State) : Nat := if s.con.granted then rd s 0xA020 2 else rd s 0xA020 1

/-- H of R379 after a round of 2 ms, as a fraction in lowest terms. -/
def nextHeat (s : State) : Nat × Nat :=
  let tau := max 1 (rd s 0xB020 2)
  let d := s.con.hDen * 500 * tau * 10000
  let n : Int := ((s.con.hNum * (500 * tau - 1) * 10000 : Nat) : Int) +
    ((inputPower s : Int) - ((rd s 0xA020 1 * 10000 : Nat) : Int)) * ((s.con.hDen * tau : Nat) : Int)
  let g := Nat.gcd n.toNat d
  (n.toNat / max 1 g, d / max 1 g)

def heatLimit (s : State) : Nat := rd s 0xB020 1 * rd s 0xB020 4

/-- The credit store and whether credit is granted. -/
def creditUpdate (s : State) : State :=
  let h := nextHeat s
  let lim := heatLimit s
  let g := decide (0 < lim) && (if s.con.granted then decide (h.1 < lim * h.2) else decide (2 * h.1 ≤ lim * h.2))
  setEnt (setEnt { s with con := { s.con with hNum := h.1, hDen := h.2, granted := g } } 0xB020 7 (min (2 ^ 32 - 1) (h.1 / h.2)))
    0xB020 8 (if g then 1 else 0)

/-- The request for the coolant loop. -/
def coolRequest (s : State) : State :=
  let hot := (List.range 12).any (fun c => cdiePresent s c && (List.range 3).any (fun i => decide (0 < (stepOf s c i).n)))
  let raised := hot || decide (heatLimit s * s.con.hDen < 2 * s.con.hNum)
  let inlet := if raised then max (rd s 0xB010 3) (rd s 0xB020 3 - 5) else rd s 0xB020 3
  setEnt (setEnt s 0xB020 9 inlet) 0xB020 0xA (if raised then rd s 0xB020 6 else rd s 0xB020 5)

/-! ## What a round reports -/

/-- A reading put into an entry. -/
def report (s : State) (idx sub : Nat) (signed : Bool) (v : Option Int) : State :=
  match v with
  | none => s
  | some v => setEnt s idx sub (if signed then i32 v else min 65535 v.toNat)

def reports (s : State) : State :=
  let hk (c : Nat) : Option Int := SMap.find? s.con.hk c
  let s := (List.range 12).foldl (fun t c => report (report t 0xB030 (c + 1) true (dieMax s true c)) 0xB032 (c + 1) true (hk (960 + c))) s
  let s := (List.range 6).foldl (fun t b => report t 0xB031 (b + 1) true (dieMax s false b)) s
  let s := (List.range 24).foldl (fun t h => report t 0xA011 (h + 1) false (hk (972 + h))) s
  let s := report (report (report (report s 0xB033 1 true (hk 1018)) 0xB033 2 true (hk 1019)) 0xB033 3 false (hk 1020)) 0xB033 4 true (hk 1021)
  setEnt s 0xA020 3 (min 65535 (inputPower s / 10000))

/-! ## Cold hold and shutdown (R376, R382) -/

/-- The cold check: every valid B-die sensor and the inlet. -/
def coldOk (s : State) : Bool :=
  (List.range 6).all (fun b => (dieReadings s false b).all (fun x => decide (((10 * rd s 0xB010 1 : Nat) : Int) ≤ x.2))) &&
    (match SMap.find? s.con.hk 1018 with
     | some v => decide (((10 * rd s 0xB010 3 : Nat) : Int) ≤ v)
     | none => false)

/-- COLD-HOLD ends when both checks pass. -/
def coldCheck (s : State) : State :=
  if s.main = .coldHold && coldOk s then
    portsTrain (endWait { s with main := .bringup, bringup := { s.bringup with warm := false } })
  else s

/-- Every valid reading of the C-dies and B-dies, in tenths of a degree. -/
def validReadings (s : State) : List (Nat × Int) :=
  (List.range 12).flatMap (fun c => dieReadings s true c) ++ (List.range 6).flatMap (fun b => dieReadings s false b)

/-- Warming in COLD-HOLD (R377): the pattern stops once every valid sensor reads COLD_MIN_C + 2 K, and runs again when one
falls below COLD_MIN_C. -/
def warmCheck (s : State) : State :=
  if s.main = .coldHold && decide (0 < s.bringup.waves) then
    let m : Int := ((10 * rd s 0xB010 1 : Nat) : Int)
    let on := rd s 0xB010 2 == 1 && (if s.bringup.warm then !((validReadings s).all (fun x => decide (m + 20 ≤ x.2)))
      else (validReadings s).any (fun x => decide (x.2 < m)))
    { s with bringup := { s.bringup with warm := on } }
  else s

/-- The channels of the Conservator's four sensors, among B-die 0's (R370): which four is the build's. -/
def consSensors : List Nat :=
  ((List.range 4).foldl (fun (acc : List Nat × List Nat) n =>
    let i := Config.consSensor n % acc.2.length
    (acc.1 ++ [768 + acc.2.getD i 0], acc.2.eraseIdx i)) ([], List.range 32)).1

/-- Have the Conservator's sensors and the outlet read cool at this round? -/
def coolNow (s : State) : Bool :=
  ((1019 : Nat) :: consSensors).all (fun c =>
    match SMap.find? s.con.hk c with
    | some v => decide (v ≤ ((10 * rd s 0xB000 9 : Nat) : Int))
    | none => false)

def coolWatch (s : State) : State :=
  if s.main = .shutdown then
    { s with con := { s.con with coolAt := if coolNow s then some (s.con.coolAt.getD s.time) else none } }
  else s

/-! ## Half supplies (R363, R364, R385) -/

/-- The supply of a powered half, in mV, where `f` is what the manual leaves open: in RUN within 25 mV of the set-point while
the half draws less than its limit, else between 0.55 V and that. -/
def halfVolts (s : State) (h f : Nat) : Nat :=
  match s.power with
  | .deep => 450
  | .sleep => 550
  | .run =>
    let set := rd s 0xA000 4
    let top := min 850 (set + 25)
    let below := match SMap.find? s.con.hk (972 + h) with
      | some v => decide (v < ((10 * halfLimit s h : Nat) : Int))
      | none => false
    let low := if below then set - 25 else 550
    low + f % (top + 1 - low)

/-- HALF_MV of one half at a round: the supply of a powered half, and 0 of one without a supply. -/
def halfVoltage (s : State) (h : Nat) : State :=
  if halfPowered s h then
    let f := drawFree s
    setEnt f.2 0xA010 (h + 1) (halfVolts s h f.1)
  else if rd s 0xA010 (h + 1) = 0 then s
  else setEnt s 0xA010 (h + 1) 0

/-- HALF_MV of every half at a round (R389). -/
def halfVoltages (s : State) : State := (List.range 24).foldl halfVoltage s

/-- At step 1 of bring-up a round ends the wait for the module input, or begins one (R391, R470). -/
def inputWait (s : State) : State :=
  if waitsInput s && inputGood s then endWait s
  else if s.main == .bringup && s.bringup.step == 1 && s.bringup.waitFrom.isNone && !inputGood s then beginWait s
  else s

/-! ## The round and the tick -/

/-- A housekeeping round (R371). -/
def housekeeping (s0 : State) (readings : List (Nat × Int)) : State :=
  let l := readings.filter (fun x => sampled s0 x.1)
  let put (m : SMap Int) : SMap Int := l.foldl (fun (m : SMap Int) x => SMap.put m x.1 x.2) m
  let s : State := { s0 with hkShown := put s0.hkShown, con := { s0.con with oldThr := [], hk := put s0.con.hk } }
  let s := (List.range 12).foldl (fun s c => checkDie s l true c) s
  let s := (List.range 6).foldl (fun s b => checkDie s l false b) s
  let s := trips s s0.con.hk l
  let s := (List.range 12).foldl (warnDie s0) s
  let s := coolRequest (creditUpdate (checkInlet (reports s)))
  mbxSettle (inputWait (halfVoltages (coolWatch (warmCheck (coldCheck s)))))

def execHousekeepingRound (readings : List (Nat × Int)) (s : State) : Res :=
  ends s (if s.con.settled then
      let due := dueAt s.con.roundAt s.time 2000000
      housekeeping (advance { s with con := { s.con with roundAt := due + 2000000 } } due) readings
    else s)

/-- A threshold in force: one that was written takes effect at the next round (R375). -/
def threshold (s : State) (sub : Nat) : Nat := (SMap.find? s.con.oldThr (entKey 0xB000 sub)).getD (rd s 0xB000 sub)

/-- Where the reading of an input stands: at or above on (2), at or below off (0) or between (1). -/
def inputLevel (s : State) (c i : Nat) : Nat :=
  if i = 3 then
    let on := powerAllowed s * 10000
    if on ≤ inputPower s then 2 else if inputPower s + 1000000 ≤ on then 0 else 1
  else
    let x := if i = 0 then dieMax s true c else if i = 1 then dieMax s false (c / 2) else SMap.find? s.con.hk (960 + c)
    let on : Int := ((10 * threshold s (if i = 0 then 2 else if i = 1 then 4 else 6) : Nat) : Int)
    match x with
    | none => 0
    | some v => if on ≤ v then 2 else if v ≤ on - 30 then 0 else 1

/-- One input of one C-die at a tick (R367), and whether it stepped down. -/
def stepInput (p : Step) (level : Nat) : Step × Bool :=
  let r : Step × Bool :=
    if level = 2 then
      if p.down = 0 ∧ p.n < 9 then ({ n := p.n + 1, down := 5, up := 20 }, true) else ({ p with up := 20 }, false)
    else if level = 0 then
      (if p.up = 0 ∧ 0 < p.n then { p with n := p.n - 1, up := 20 } else p, false)
    else ({ p with up := 20 }, false)
  ({ r.1 with down := r.1.down - 1, up := r.1.up - 1 }, r.2)

def stepTick (s : State) : State :=
  let s := ((List.range 12).filter (cdiePresent s)).foldl (fun s c => (List.range 4).foldl (fun s i =>
    let r := stepInput (stepOf s c i) (inputLevel s c i)
    let s := { s with con := { s.con with steps := SMap.set s.con.steps (4 * c + i) r.1 Step.zero } }
    if r.2 then bump s 0xA040 1 else s) s) s
  if s.main = .ready ∨ s.main = .discarding then throttleLoans s else s

def execStepMachineTick (s : State) : Res :=
  ends s (if s.con.settled then
      let due := dueAt s.con.tickAt s.time 1000000
      stepTick (advance { s with con := { s.con with tickAt := due + 1000000 } } due)
    else s)

/-- A stack's catastrophic-temperature output (R211). -/
def execHbmCattripAssert (m : Nat) (s : State) : Res := ends s (if m < 12 && s.main != .off then classDPlain s 4 else s)

end Sys2Proof.Machine
end

