-- ==== Sys2Proof/Machine/Bringup.lean ====
section
/-! DEFINITION. The steps of bring-up (R390 to R408). -/

namespace Sys2Proof.Machine

/-- A step of Table 13.1 is reached. -/
def reach (s : State) (n : Nat) : State := { s with bringup := { s.bringup with step := max s.bringup.step n } }

def risingState (s : State) : Bool := s.main == .bringup || s.main == .coldHold

/-- Bring-up after the dies woke. -/
def risen (s : State) : Bool := risingState s && s.bringup.awake

/-! ## Steps 2 and 3 -/

def execPackageRailGood (s : State) : Res :=
  ends s (if s.main = .bringup && s.bringup.step == 1 && s.bringup.waitFrom.isNone then
      { reach s 2 with con := { s.con with armed := true } } else s)

/-- The package rail is not good 10 ms after step 1. -/
def execPackageRailTimeout (s : State) : Res :=
  ends s (if s.main = .bringup && s.bringup.step == 1 && s.bringup.waitFrom.isNone then
      bringupFault (advance s (s.bringup.startAt + (s.bringup.waited - s.bringup.waitBase) + 10000000)) 1 else s)

/-- Is a defect entry of a kind that Table 13.5 gives to a die type? -/
def kindOf (bdie : Bool) (e : Nat) : Bool :=
  let k := e / 2 ^ 28
  if bdie then within 1 8 k else within 9 11 k

/-- Bytes of a Provenance copy in one fuse word: 4,096 for a B-die and 1,024 for a C-die (Table 13.2). -/
def copySize (bdie : Bool) : Nat := if bdie then 0x1000 else 0x400

/-- A field of a copy: n bytes at an offset. -/
def copyAt (c : List Byte) (off n : Nat) : Nat := leNat ((c.drop off).take n)

/-- Does a copy pass its CRC with a correct TYPE and FORMAT (R393)? -/
def copyOk (bdie : Bool) (c : List Byte) : Bool :=
  c.length == copySize bdie && copyAt c 0 1 == (if bdie then 1 else 2) && copyAt c 2 2 == 1 &&
    (crc32 (c.take (copySize bdie - 4))).toNat == copyAt c (copySize bdie - 4) 4

/-- The copy of a record that is used: the first, in fuse order, that passes. -/
def copyOf (r : ProvRecord) : Option (List Byte) := [r.first, r.second].find? (copyOk r.bdie)

/-- The defect entries of a copy, up to the first of KIND 0 or to the CRC. -/
def entriesFrom (c : List Byte) (off : Nat) : Nat → List Nat
  | 0 => []
  | n + 1 => if copyAt c off 4 / 2 ^ 28 = 0 then [] else copyAt c off 4 :: entriesFrom c (off + 4) n

def listed (bdie : Bool) (c : List Byte) : List Nat :=
  if bdie then entriesFrom c 0x200 895 else entriesFrom c 0x160 167

def unreadableC (s : State) (c : Nat) : State :=
  logEvent { s with bringup := { s.bringup with badC := s.bringup.badC ++ [c] } } 0x2004 (dieByte true c ++ leBytes 4 0)

/-- The defects of a record taken (R394). -/
def takeDefects (s : State) (bdie : Bool) (die : Nat) (c : List Byte) : State :=
  (listed bdie c).foldl (fun s e =>
    if kindOf bdie e then
      { s with bringup := { s.bringup with units := s.bringup.units ++ [{ bdie := bdie, die := die, entry := e }] } }
    else logEvent s 0x2004 (dieByte (!bdie) die ++ leBytes 4 e)) s

/-- The copy used of a die's record, none where it is unreadable. -/
def recOf (recs : List ProvRecord) (bdie : Bool) (die : Nat) : Option (List Byte) :=
  (recs.find? (fun r => r.bdie == bdie && r.die == die)).bind copyOf

/-- The field defects the Ledger's live set holds, but for sensors (Table 14.11). -/
def fieldUnits (s : State) : List DefUnit :=
  (s.live.filter (fun r => r.ty == 2)).filterMap (fun r =>
    let p := leNat r.payload
    if bits p 47 40 = 8 then none else some { bdie := bits p 39 36 == 1, die := bits p 35 32, entry := bits p 31 0 })

/-- Steps 4 and 5, or the wait for the Ledger's scan. -/
def afterRecords (s : State) : State :=
  let s := reach s 3
  if s.ledger.scanned then reachLedger s
  else beginWait { s with bringup := { s.bringup with scanWait := true } }

/-- The Provenance records of every die have been read (R393, R406). -/
def provenance (s : State) (recs : List ProvRecord) : State :=
  match recOf recs true 0 with
  | none => bringupFault s 2
  | some r0 =>
    if !((List.range 6).all (fun b => (recOf recs true b).isSome)) || !variantOk (copyAt r0 0x18 8) then bringupFault s 2
    else
      let s := { s with con := { s.con with uid := some (copyAt r0 0x10 8) }, bringup := { s.bringup with uid := copyAt r0 0x10 8, variant := copyAt r0 0x18 8 } }
      let s := (List.range 6).foldl (fun s b => match recOf recs true b with
        | some r => takeDefects s true b r
        | none => s) s
      let s := ((List.range 12).filter (cdiePresent s)).foldl (fun s c => match recOf recs false c with
        | some r => takeDefects s false c r
        | none => unreadableC s c) s
      afterRecords s

def execProvenanceReadDone (recs : List ProvRecord) (s : State) : Res :=
  ends s (if s.main = .bringup && s.bringup.step == 2 then provenance s recs else s)

/-! ## Steps 6 to 8 -/

def parityOdd (n : Nat) (p : Bool) : Bool := (n + n / 2 + n / 4 + (if p then 1 else 0)) % 2 == 1

/-- Are two positions an adjacent pair (R23)? -/
def adjacent (a b : Nat) : Bool := (List.range 7).any (fun k => pairDies k == (min a b, max a b))

/-- The slot bit a C-die takes: the majority of its five bonds (R331). -/
def slotBit (d : CdieReport) : Bool := decide (3 ≤ ((List.range 5).filter (fun i => bit1 d.bonds.toNat i)).length)

/-- The number c = 2b + s that a C-die forms and returns (R331). -/
def cdieNumber (d : CdieReport) : Nat := 2 * d.pos + (if slotBit d then 1 else 0)

/-- PKG_ID_FAULT: the first check of R332 that fails. -/
def idFault (reports : List BdieReport) : Nat :=
  if reports.any (fun r => !parityOdd r.pos r.posp) then 1
  else if reports.any (fun r => decide (6 ≤ r.pos)) || !((List.range 6).all (fun b => (reports.filter (fun r => r.pos == b)).length == 1)) then 2
  else if reports.any (fun r => r.linked.any (fun q => !adjacent r.pos q)) then 3
  else if reports.any (fun r => r.cdies.any (fun d => cdieNumber d != 2 * r.pos + (if d.slot then 1 else 0) || d.kind != 2)) then 4
  else if reports.any (fun r => decide (1 < (r.cdies.filter slotBit).length) || decide (1 < (r.cdies.filter (fun d => !slotBit d)).length)) then 5
  else 0

/-- The settings that take effect at a reset (R152, R186, R355). -/
def settingsInForce (s : State) : State :=
  let s := { s with lay := { s.lay with ps := rd s 0x6010 1, pd := rd s 0x6010 2, pl := rd s 0x6010 3, pc := rd s 0x6010 4 } }
  setEnts s [(0x6010, 5, rd s 0x6010 1 + rd s 0x6010 3 * 2 ^ 8 + rd s 0x6010 2 * 2 ^ 16 + rd s 0x6010 4 * 2 ^ 24),
    (0x6800, 7, rd s 0x6800 6),
    (0x9040, 5, rd s 0x9040 1 + rd s 0x9040 2 * 2 ^ 8 + rd s 0x9040 3 * 2 ^ 16 + rd s 0x9040 4 * 2 ^ 24)]

/-- The cold check, and step 8 whether it passes or not (R376, R391). -/
def coldStep (s : State) : State :=
  let s := reach s 7
  reach (if coldOk s then s else beginWait { s with main := .coldHold }) 8

/-- The B-dies wake (R332, R347, R359). -/
def bdieWake (s : State) (locked : Bool) (reports : List BdieReport) : State :=
  if !locked then bringupFault s 4
  else if idFault reports ≠ 0 then bringupFault (setEnt s 0x9000 3 (idFault reports)) 3
  else
    let s := reach { s with bringup := { s.bringup with awake := true, units := s.bringup.units ++ fieldUnits s } } 6
    coldStep (settingsInForce (loadMain s))

def execBdieWakeDone (locked : Bool) (reports : List BdieReport) (s : State) : Res :=
  ends s (if s.main = .bringup && s.bringup.step == 5 then bdieWake s locked reports else s)

/-! ## Self-test (R395) -/

/-- A unit that fails self-test and was not taken out before. -/
def selfFail (s : State) (bdie : Bool) (die entry : Nat) : State :=
  if unitBad s bdie die entry then s
  else
    let s := { s with bringup := { s.bringup with units := s.bringup.units ++ [{ bdie := bdie, die := die, entry := entry }], found := s.bringup.found + 1 } }
    defectRec (logEvent s 0x2001 (defectPayload 1 (if bdie then 1 else 2) die entry)) 1 bdie die entry

/-- Step 9: Vault self-test and repair; a slice short of a spare fails too (R251). -/
def vaultTested (s : State) (fails : List (Nat × BitVec 32)) : State :=
  let s := (fails.filter (fun f => decide (f.1 < 6) && within 1 4 (f.2.toNat / 2 ^ 28))).foldl (fun s f => selfFail s true f.1 f.2.toNat) s
  let s := (List.range 6).foldl (fun s b => (spareUse s b).2.2.foldl (fun s n => selfFail s true b (2 ^ 28 + n)) s) s
  reach { s with bringup := { s.bringup with vault := true } } 9

def execVaultSelfTestDone (fails : List (Nat × BitVec 32)) (s : State) : Res :=
  ends s (if risen s && !s.bringup.vault then vaultTested s fails else s)

/-! ## Die-to-die links and guests (R339 to R343) -/

/-- The lanes a direction runs, none where the link fails. -/
def chooseLanes (bad : Nat → Bool) : List Nat :=
  let left := (List.range 272).filter (fun l => !bad l)
  if 256 ≤ left.length then
    let data := left.filter (fun l => decide (l < 256))
    data ++ (left.filter (fun l => decide (256 ≤ l))).take (256 - data.length)
  else if 128 ≤ left.length then left.take 128 else []

def laneBad (s : State) (pair dir lane : Nat) : Bool := unitBad s true (receiver pair dir) (laneEntry pair dir lane)

/-- The pair of a failed link, or the site of a host guest that failed, recorded (R339, R343). -/
def recordUnit (s : State) (n : Nat) : State := { s with con := { s.con with faultUnit := some n } }

/-- A direction's lanes chosen, or the link fails. -/
def settleLanes (s : State) (pair dir : Nat) : State :=
  let l := chooseLanes (laneBad s pair dir)
  if l.isEmpty then recordUnit (bringupFault s 6) pair
  else { s with bringup := { s.bringup with lanes := SMap.put s.bringup.lanes (d2dKey pair dir) l } }

/-- The optical sites that are present and not taken out. -/
def siteWanted (s : State) (site : Nat) : Bool := site == 16 || portExists s site

/-- Step 10 ends when every direction and every guest site is settled. -/
def linksDone (s : State) : Bool :=
  s.bringup.d2d.length == 14 && (List.range 17).all (fun g => !siteWanted s g || s.bringup.guests.contains g)

def noteLinks (s : State) : State := if linksDone s then reach s 10 else s

def linkTrained (s : State) (pair dir : Nat) (fails : List Nat) : State :=
  let s := (fails.filter (fun l => decide (l < 272))).foldl (fun s l => selfFail s true (receiver pair dir) (laneEntry pair dir l)) s
  let s := settleLanes s pair dir
  if s.main = .standbyFault then s
  else noteLinks { s with bringup := { s.bringup with d2d := s.bringup.d2d ++ [d2dKey pair dir] } }

def execDieToDieTrainingDone (pair dir : Nat) (fails : List Nat) (s : State) : Res :=
  ends s (if risen s && pair < 7 && dir < 2 && !s.bringup.d2d.contains (d2dKey pair dir) then linkTrained s pair dir fails else s)

/-- The rate a site runs at: the highest that the part and the guest support, of those at which the site trains (R340, R342). -/
def siteRate (d rate : Nat) : Nat := ([16, 24, 32].filter (fun r => decide (r ≤ bits d 71 64) && decide (r ≤ rate))).foldl max 0

/-- Does a guest's descriptor let it in (R342)? -/
def guestOk (site d rate : Nat) : Bool :=
  let host := site == 16
  bits d 31 0 == (crc32 ((leBytes 16 d).drop 4)).toNat && bits d 55 32 == 0 && bits d 79 74 == 0 &&
    bits d 95 88 == (if host then 2 else 1) && bit1 d (if host then 73 else 72) && bits d 63 56 == 4 &&
    decide ((if host then 24 else 32) ≤ siteRate d rate)

/-- A guest site has trained, or has not. -/
def guestTrained (s : State) (site d rate : Nat) : State :=
  let s := { s with guestDesc := SMap.set s.guestDesc site d 0 }
  if guestOk site d rate && !unitBad s true 0 (7 * 2 ^ 28 + site) then
    let s := setEnt { s with bringup := { s.bringup with guests := s.bringup.guests ++ [site] } } 0x9009 (site + 1) (siteRate d rate)
    noteLinks (if site = 16 then s
      else { setPort s site { port s site with phase := if s.main = .coldHold then .dark else .training } with
               lay := { s.lay with ports := (List.range 16).filter (fun p => p == site || s.lay.ports.contains p) } })
  else if site = 16 then recordUnit (bringupFault s 5) 16
  else noteLinks (setEnt (selfFail s true (portDie site) (7 * 2 ^ 28 + site)) 0x9009 (site + 1) 0)

def execGuestSiteTrainingDone (site : Nat) (desc : BitVec 128) (rate : Nat) (s : State) : Res :=
  ends s (if risen s && site < 17 && siteWanted s site && !s.bringup.guests.contains site then guestTrained s site desc.toNat rate else s)

/-! ## HBM (R206 to R209, R406) -/

def chanEntry (ch : Nat) : Nat := 6 * 2 ^ 28 + ch % 64
def rowEntry (ch row : Nat) : Nat := 8 * 2 ^ 28 + ch % 64 * 2 ^ 21 + row
def chanBad (s : State) (ch : Nat) : Bool := unitBad s true (ch / 64) (chanEntry ch)

/-- Is a channel in use or taken out? -/
def chanSettled (s : State) (ch : Nat) : Bool := s.bringup.trained.contains ch || chanBad s ch

def noteChans (s : State) : State := if (List.range 384).all (chanSettled s) then reach s 11 else s

/-- A channel has trained and been tested, or has failed; rows that repair cannot replace wait to be remapped. -/
def chanTrained (s : State) (ch : Nat) (ok : Bool) (rows : List Nat) : State :=
  if !ok || decide (64 < rows.length) then noteChans (selfFail s true (ch / 64) (chanEntry ch))
  else
    let s := rows.foldl (fun s r => selfFail s true (ch / 64) (rowEntry ch r)) s
    noteChans { s with bringup := { s.bringup with trained := (List.range 384).filter (fun c => c == ch || s.bringup.trained.contains c)
                                                   rows := SMap.set s.bringup.rows ch rows [] } }

/-- A stack that reports a capacity other than its variant's fails self-test: all its channels are taken out (R406). -/
def stackFails (s : State) (stack : Nat) : State :=
  let s := { s with bringup := { s.bringup with trained := s.bringup.trained.filter (fun c => c / 32 != stack) } }
  noteChans ((List.range 32).foldl (fun s i => selfFail s true (stack / 2) (chanEntry (32 * stack + i))) s)

def execHbmChannelTrainingDone (ch : Nat) (trained tested : Bool) (stackBytes : Nat) (unrepaired : List Nat) (s : State) : Res :=
  ends s (if risen s && ch < 384 && !chanSettled s ch then
      if stackBytes = stackBytesOf s.bringup.variant then chanTrained s ch (trained && tested) (unrepaired.filter (fun r => decide (r < 2 ^ 21)))
      else stackFails s (ch / 32)
    else s)

/-! ## Waves and tiles (R397) -/

def mayWave (s : State) : Bool :=
  s.bringup.vault && linksDone s && (s.main == .bringup || (s.main == .coldHold && rd s 0xB010 2 == 1))

/-- Wave w starts, 500 µs after the one before it at the earliest. -/
def waveStart (s : State) (w : Nat) : State :=
  let s := match s.bringup.waveAt.getLast? with
    | some t => advance s (t + 500000)
    | none => s
  reach { s with bringup := { s.bringup with waves := w + 1, waveAt := s.bringup.waveAt ++ [s.time], warm := s.main == .coldHold } }
    (if w = 5 then 12 else 0)

def execHalfWaveStart (w : Nat) (s : State) : Res :=
  ends s (if mayWave s && w < 6 && s.bringup.waves == w then waveStart s w else s)

/-- The releases a half needs: 132 tile sites, 32 at a time. -/
def halfReleases : Nat := 5

def releasedOf (s : State) (h : Nat) : Nat := SMap.get s.bringup.released h 0

/-- 32 more tiles of a half released: the first 100 µs and 20 µs after the wave's start, then every 20 µs. -/
def release (s : State) (h : Nat) : State :=
  let n := releasedOf s h
  let s := advance s (s.bringup.waveAt.getD (h % 6) 0 + 100000 + 20000 * n)
  { s with bringup := { s.bringup with released := SMap.put s.bringup.released h (n + 1) } }

def execTileRelease (h : Nat) (s : State) : Res :=
  ends s (if risen s && h < 24 && halfUsed s h && h % 6 < s.bringup.waves && releasedOf s h < halfReleases then release s h else s)

/-- Every half that comes up is up. -/
def wavesDone (s : State) : Bool :=
  s.bringup.waves == 6 && (List.range 24).all (fun h => !halfUsed s h || releasedOf s h == halfReleases)

/-- Step 13: bonds, tiles and C-die routers tested; the first qualification window begins. A group that finds more than its
4 spares can repair is taken out (R396). -/
def tilesTested (s : State) (fails : List (Nat × BitVec 32)) (bonds : List (Nat × Nat × Nat)) : State :=
  let s := (fails.filter (fun f => cdieUsed s f.1 && decide (f.1 < 12) && within 9 10 (f.2.toNat / 2 ^ 28))).foldl (fun s f => selfFail s false f.1 f.2.toNat) s
  let s := (bonds.filter (fun g => cdieUsed s g.1 && decide (g.1 < 12) && decide (g.2.1 < 32768) && decide (4 < g.2.2))).foldl
    (fun s g => selfFail s false g.1 (11 * 2 ^ 28 + g.2.1)) s
  reach { s with bringup := { s.bringup with tilesDone := true, qualAt := s.time } } 13

def execTileSelfTestDone (fails : TileTests) (s : State) : Res :=
  ends s (if s.main = .bringup && wavesDone s && !s.bringup.tilesDone then tilesTested s fails.units fails.bonds else s)

/-! ## Lane qualification (R399, R400) -/

/-- The errors a lane may show in its window and still qualify. -/
def qualErrors : Nat := 2240

/-- A lane of the window's that shows too many errors is taken out. -/
def qualFail (s : State) (f : Nat × Nat × Nat × Nat) : State :=
  let tested := (d2dLanes s f.1 f.2.1).contains f.2.2.1 && !(SMap.get s.bringup.passed (d2dKey f.1 f.2.1) []).contains f.2.2.1
  if !tested || decide (f.2.2.2 ≤ qualErrors) || laneBad s f.1 f.2.1 f.2.2.1 then s
  else
    laneDefect { s with bringup := { s.bringup with units := s.bringup.units ++
      [{ bdie := true, die := receiver f.1 f.2.1, entry := laneEntry f.1 f.2.1 f.2.2.1 }] } } 9 f.1 f.2.1 f.2.2.1

/-- The lanes of every direction chosen again; a lane brought into use needs a further window. -/
def requalify (s : State) : State :=
  let old := s.bringup.lanes
  let s := { s with bringup := { s.bringup with passed := old } }
  let s := (List.range 14).foldl (fun s k => if s.main = .standbyFault then s else settleLanes s (k / 2) (k % 2)) s
  if s.main = .standbyFault then s
  else
    let fresh := (List.range 14).any (fun k => (SMap.get s.bringup.lanes k []).any (fun l => !(SMap.get old k []).contains l))
    if fresh then s else reach { s with bringup := { s.bringup with qual := true } } 14

def qualWindow (s : State) (errors : List (Nat × Nat × Nat × Nat)) : State :=
  let s := advance s (s.bringup.qualAt + 20000000)
  let s := { s with bringup := { s.bringup with qualAt := s.time } }
  requalify ((errors.filter (fun f => decide (f.1 < 7 ∧ f.2.1 < 2))).foldl qualFail s)

def execLaneQualWindowEnd (errors : List (Nat × Nat × Nat × Nat)) (s : State) : Res :=
  ends s (if s.main = .bringup && s.bringup.tilesDone && !s.bringup.qual then qualWindow s errors else s)

/-! ## The Inventory and READY (R404 to R408) -/

/-- The rows that repair could not replace remapped (R208). -/
def remapRows (s : State) : State :=
  s.bringup.rows.foldl (fun s e => e.2.foldl (fun s r => remapRow s (e.1 / 64) e.1 r false) s) s

/-- The Inventory built at step 15. -/
def buildInventory (s : State) : State :=
  let b := resolve s
  let s := { s with lay := { s.lay with tiles := tileKeys b, slices := b.slices, p := b.p, chans := s.bringup.trained,
                                        halves := (List.range 24).filter (fun h => !(b.tiles.getD h []).isEmpty) } }
  let s := setEnt (unitEntries (tileEntries s b) b) 0x2020 4 (min 65535 s.bringup.found)
  let s := setEnts s (((List.range 17).filter (fun g => !s.bringup.guests.contains g)).map (fun g => (0x9009, g + 1, 0)))
  let s := setGcaps (reach { s with regOld := [] } 15)
  let s := rescale s (resources s)
  let s := setEnt s 0x2000 4 (invStatus s)
  setEnt s 0x2000 3 (crc32 (inventoryBytes s (faultMap b.meshes))).toNat

/-- READY: scrubbers, windows and the narrow channels' life start here. -/
def becomeReady (s : State) : State :=
  let ms := (s.time - s.bringup.startAt - (s.bringup.waited - s.bringup.waitBase)) / 1000000
  let s := setEnt (remapRows (reach s 16)) 0x2020 3 ms
  let s := { s with everReady := true, regStart := s.time, winStart := s.time, bringup := { s.bringup with inRun := false } }
  let s := setMain s .ready
  if rd s 0x2000 4 = 0 then s else logEvent s 0x2002 (leBytes 4 (rd s 0x2000 4))

def mayBuild (s : State) : Bool :=
  s.main == .bringup && s.bringup.vault && linksDone s && s.bringup.qual && (List.range 384).all (chanSettled s)

def execInventoryBuild (s : State) : Res := ends s (if mayBuild s then becomeReady (buildInventory s) else s)

end Sys2Proof.Machine
end

