-- ==== Sys2Proof/Machine/Host.lean ====
section
/-! DEFINITION. The host interface: what reaches the part over the link, BAR0 registers, queues and doorbells, BAR2
apertures, admission checks, admission and completion (Host interface, jobs and translation). -/

namespace Sys2Proof.Machine

/-! ## What reaches the part -/

/-- Memory requests of the host reach BAR0 and BAR2 in L0 and D0, in the states in which BAR0 answers. -/
def hostReaches (s : State) : Bool := bar0Answers s && s.link.l0 && !s.link.d3hot && !s.link.l12

/-- BAR2 reaches device memory from the first READY on, outside FAULTED and TRANSIT (R260, R454, R456). -/
def bar2Serves (s : State) : Bool := s.everReady && (s.main == .ready || s.main == .discarding)

/-! ## BAR2 (R260) -/

/-- The device address of a BAR2 offset. -/
def bar2Addr (s : State) (off : Nat) : Nat :=
  let a := 2 ^ s.link.bar2Log / 8
  s.apertures.getD (off / a % 8) 0 + off % a

/-- An access to an address with no home, counted (R156, R175). -/
def unmappedAccess (s : State) (a : Nat) : State := logEvent (bump s 0x6050 2) 0x6001 (leBytes 8 a)

/-- The 64 bytes of flag space or of two reduction contexts at a multiple of 64 (R121, Table 5.7). -/
def controlWord (s : State) (a : Nat) : List Byte :=
  match homeOf s a with
  | .flag t off => (List.range 16).flatMap (fun i => leBytes 4 (if off + 4 * i < 0xC0 then flagCount s t (off / 4 + i) else 0))
  | .ctx b n _ => leBytes 32 (redCtx s b n).word ++ leBytes 32 (redCtx s b (n + 1)).word
  | _ => List.replicate 64 0xFF#8

def isControl (s : State) (a : Nat) : Bool :=
  match homeOf s a with
  | .flag _ _ => true
  | .ctx _ _ _ => true
  | _ => false

def isUnmapped (s : State) (a : Nat) : Bool := homeOf s a == .unmapped

/-- The bytes [off, off + len) of BAR2 in parts that lie within one 64-byte word, with their device addresses. -/
def bar2Parts (s : State) : Nat → Nat → Nat → List (Nat × Nat)
  | 0, _, _ => []
  | k + 1, off, len =>
    if len = 0 then []
    else
      let a := bar2Addr s off
      let n := min len (64 - a % 64)
      (a, n) :: bar2Parts s k (off + n) (len - n)

/-- A word read for the host as the host I/O die receives it, with errors on its way (R235, R237). -/
def hostWord (s : State) (a : Nat) (transit : Upset) : RdRes × State :=
  match readWord s (plain .host) a [] with
  | (.data d, s) => if transit.isEmpty then (.data d, s) else received s .host a (rsEncode 6 d) transit
  | r => r

/-- One part of a BAR2 read (Table 8.4, R121, R156), and whether it failed. -/
def readPart (s : State) (tag a n : Nat) (transit : Upset) : Bool × State :=
  if isControl s a then (false, hostSend s (.cpl tag false (((controlWord s (a / 64 * 64)).drop (a % 64)).take n)))
  else if isUnmapped s a then (false, hostSend s (.cpl tag false (List.replicate n 0xFF#8)))
  else
    match hostWord s (a / 64 * 64) transit with
    | (.data d, s) => (false, hostSend s (.cpl tag false ((d.drop (a % 64)).take n)))
    | (r, s) => (r == .failed, hostSend (bump s 0x7800 9) (.cpl tag true (List.replicate n 0xFF#8)))

/-- A read of the host, which arrived at `at'`, completed: the time it took is the longest on record, or not (R257, R292). -/
def readEnds (s : State) (tag : ReadTag) (at' : Nat) : State :=
  let s := advance s (at' + tag.ns)
  raise s 0x3030 7 (s.time - at')

/-- The parts of a BAR2 read performed, one completion for each 64-byte word. A read with a failed part is counted once
(R177). -/
def readParts (s : State) (ps : List (Nat × Nat)) (tag : ReadTag) (at' : Nat) : State :=
  let s := match ps.find? (fun p => isUnmapped s p.1) with
    | some p => unmappedAccess s p.1
    | none => s
  let r := ps.zipIdx.foldl (fun acc p =>
    let r := readPart acc.2 tag.tag p.1.1 p.1.2 (if p.2 = 0 then tag.transit else [])
    (acc.1 || r.1, r.2)) (false, s)
  readEnds (if r.1 then failedReq r.2 else r.2) tag at'

/-- A BAR2 read, completed `ns` after it arrives, or once nothing holds it any more; before the first READY it returns all
ones. -/
def bar2Read (s : State) (off len : Nat) (tag : ReadTag) : State :=
  if !bar2Serves s then readEnds (hostSend s (.cpl tag.tag false (List.replicate len 0xFF#8))) tag s.time
  else
    let ps := bar2Parts s (len + 1) off len
    let at' := s.time
    inTurn s (.bar2Read ps tag at') (fun s => readParts s ps tag at')

/-- A host write of part of a word that met poison is dropped (R240). -/
def hostPoison (s : State) (a : Nat) : State := logEvent (bump s 0x7800 8) 0x7803 (leBytes 8 (a / 64 * 64))

/-- One part of a BAR2 write, and whether it failed. -/
def writePart (s : State) (a : Nat) (d : List Byte) : Bool × State :=
  match homeOf s a with
  | .flag t off => (false, flagWrite s t off d)
  | .ctx b n o => (false, ctxWrite s b n o d)
  | .unmapped => (false, s)
  | _ =>
    match writeBytes s (plain .host) a d with
    | (.poison, s) => (false, hostPoison s a)
    | (r, s) => (r == .failed, s)

/-- The parts of a write with their data. -/
def withData : List (Nat × Nat) → List Byte → List (Nat × List Byte)
  | [], _ => []
  | (a, n) :: r, d => (a, d.take n) :: withData r (d.drop n)

/-- The parts of a write in order; four that cover an HBM line are written as a line (Table 6.3). With whether one failed. -/
def writeParts : Nat → List (Nat × List Byte) → Bool → State → Bool × State
  | 0, _, bad, s => (bad, s)
  | _, [], bad, s => (bad, s)
  | k + 1, (a, d) :: r, bad, s =>
    let four := (a, d) :: r.take 3
    let whole := four.flatMap (fun p => p.2)
    if coversLine a whole && four.map (fun p => p.1) == [a, a + 64, a + 128, a + 192] && !isUnmapped s a then
      writeParts k (r.drop 3) bad (writeLine s (plain .host) a (lineWords whole))
    else
      let x := writePart s a d
      writeParts k r (bad || x.1) x.2

/-- The first part of a write whose bytes are lost in the packet buffer: poison in its word (R235, R236). -/
def putLost (s : State) (ps : List (Nat × List Byte)) : State :=
  match ps with
  | (a, _) :: _ => if (homeOf s a).isData then writePoison s (plain .host) (a / 64 * 64) else s
  | [] => s

/-- A BAR2 write performed at the homes of its words; `upset` is the errors of the packet buffer in the bytes of its first. -/
def putParts (s : State) (ps : List (Nat × List Byte)) (upset : Upset) : State :=
  let s := match ps.find? (fun p => isUnmapped s p.1) with
    | some p => unmappedAccess s p.1
    | none => s
  match fromBuffer s .host (ps.headD (0, [])).1 (ps.headD (0, [])).2 upset with
  | (none, s) => failedReq (writeParts (ps.length + 1) (ps.drop 1) false (putLost s ps)).2
  | (some d, s) =>
    let r := writeParts (ps.length + 1) ((ps.take 1).map (fun p => (p.1, d)) ++ ps.drop 1) false s
    if r.1 then failedReq r.2 else r.2

/-- A BAR2 write. One that reaches flag space or a reduction context is judged whole, whatever its size (R122, R172). -/
def bar2Write (s : State) (off : Nat) (x : SentBytes) : State :=
  if !bar2Serves s then s
  else
    let a := bar2Addr s off
    let d := x.bytes
    let ps := if isControl s a then [(a, d)] else withData (bar2Parts s (d.length + 1) off d.length) d
    inTurn s (.bar2Write ps x.upset) (fun s => putParts s ps x.upset)

/-- What a FetchAdd or a CAS makes of the old value. -/
def atomicOp (wide cas : Bool) (cmp v : Nat) : Nat → Option Nat := if cas then swapIf wide cmp v else addTo wide v

/-- A BAR2 AtomicOp performed at its home and completed. -/
def hostAtomic (s : State) (a : Nat) (wide cas : Bool) (cmp v tag : Nat) : State :=
  let n := if wide then 8 else 4
  match atomicAt s (plain .host) a wide (atomicOp wide cas cmp v) with
  | (.data _, old, s) => hostSend s (.cpl tag false (leBytes n old))
  | (.poison, _, s) => hostSend (hostPoison s a) (.cpl tag true (List.replicate n 0xFF#8))
  | (.failed, _, s) => hostSend (bump (failedReq s) 0x7800 9) (.cpl tag true (List.replicate n 0xFF#8))

/-- A BAR2 AtomicOp that the part performs (R175). -/
def bar2Atomic (s : State) (off : Nat) (wide cas : Bool) (cmp v tag : Nat) : State :=
  let n := if wide then 8 else 4
  let a := bar2Addr s off
  if !bar2Serves s then hostSend s (.cpl tag false (List.replicate n 0xFF#8))
  else if isControl s a then hostSend (unmappedAccess s a) (.cplUr tag)
  else if isUnmapped s a then hostSend (unmappedAccess s a) (.cpl tag false (List.replicate n 0xFF#8))
  else inTurn s (.bar2Atomic a wide cas cmp v tag) (fun s => hostAtomic s a wide cas cmp v tag)

/-! ## Queues (R261 to R266) -/

/-- The end of the mapped region of data that holds an address. -/
def regionEnd (s : State) (a : Nat) : Option Nat :=
  match homeOf s a with
  | .vault _ _ _ =>
    if a < 0x001000000000 then some (sharedBytes s)
    else if a < 0x001800000000 then some (a / 0x100000000 * 0x100000000 + dieBytes s)
    else some ((a - 0x001800000000) / 0x400000 * 0x400000 + 0x001800000000 + localBytes s)
  | .opstore _ _ => some (0x002000000000 + tileCount s * 0x100000)
  | .hbm b _ _ => some (0x100000000000 + b * 0x2000000000 + hbmRange s b)
  | _ => none

/-- Is every address of [lo, hi) that of a Vault pool, an operand store or HBM (R262)? -/
def mappedData (s : State) : Nat → Nat → Nat → Bool
  | 0, _, _ => false
  | k + 1, lo, hi =>
    if hi ≤ lo then true
    else
      match regionEnd s lo with
      | some e => mappedData s k e hi
      | none => false

/-- The windows of a queue that are in use. -/
def winsInUse (q : Queue) : List (Nat × Nat) := q.wins.filter (fun w => decide (w.1 < w.2))

def winOk (s : State) (w : Nat × Nat) : Bool :=
  w.1 % 4096 == 0 && (w.2 + 1) % 4096 == 0 && mappedData s 3100 w.1 (w.2 + 1)

/-- The fields of Q_CTRL that are kept (Table 9.6). -/
def ctrlMask (v : Nat) : Nat := v - bits v 57 55 * 2 ^ 55 - bits v 47 36 * 2 ^ 36

/-- The bit ENABLE of a Q_CTRL value. -/
def enBit (v : Nat) : Bool := bit1 v 63
def dropEn (v : Nat) : Nat := v % 2 ^ 63

/-- Is nothing of a queue left to complete? -/
def queueDone (s : State) (n : Nat) (q : Queue) : Bool :=
  q.sqHead == q.sqTail && !(s.comps.any (fun c => c.q == n)) && !(s.jobs.any (fun j => j.2.q == n))

/-- A queue that was disabled goes once its last completion is written (R263). -/
def settleQueue (s : State) (n : Nat) : State :=
  let q := queue s n
  if q.enabled && q.disabling && queueDone s n q then setQueue s n { q with enabled := false, disabling := false } else s

/-- A slot that is never run because its queue was disabled: JOB_ID as fetched, or open. -/
def rejectSlot (s : State) (n slot : Nat) : State :=
  if (queue s n).doneSlots.contains slot || s.comps.any (fun c => c.q == n && c.slot == slot) then s
  else
    match List.find? (fun (j : Nat × Job) => j.2.q == n && j.2.slot == slot) s.jobs with
    | some (j, jb) =>
      if jb.holds then s
      else postComp { s with jobs := SMap.erase s.jobs j } { q := n, slot := slot, jobId := jId jb.desc, status := 2, cause := 0x0B, ltile := 0xFFFF, word := 0 }
    | none =>
      let f := drawFree s
      postComp f.2 { q := n, slot := slot, jobId := f.1 % 2 ^ 32, status := 2, cause := 0x0B, ltile := 0xFFFF, word := 0 }

/-- Every job of a queue that is not admitted completes as REJECTED with cause 0x0B (R263). -/
def rejectOpen (s : State) (n : Nat) : State :=
  let s := (openSlots (queue s n)).foldl (fun s k =>
    match s.discard with
    | some d => if d.covered.any (fun c => c.q == n && c.slot == k) then s else rejectSlot s n k
    | none => rejectSlot s n k) s
  setQueue s n { queue s n with fetched := (queue s n).sqTail, offered := [] }

def disableQueue (s : State) (n : Nat) : State :=
  let q := queue s n
  settleQueue (rejectOpen (setQueue s n { q with disabling := true, ctrl := dropEn q.ctrl }) n) n

/-- A write of ENABLE 1 to a queue that is not enabled (R262, R388). -/
def enableQueue (s : State) (n v : Nat) : State :=
  let q := queue s n
  let s := { s with deepPending := false }
  if (winsInUse q).all (winOk s) then
    setQueue s n { q with ctrl := v, enabled := true, disabling := false, cfgErr := false, sqHead := 0, sqTail := 0, cqTail := 0,
                          cqHead := 0, fetched := 0, doneSlots := [], offered := [] }
  else setQueue s n { q with ctrl := dropEn v, cfgErr := true }

/-- A write to Q_CTRL. -/
def ctrlWrite (s : State) (n v : Nat) : State :=
  let q := queue s n
  let v := ctrlMask v
  if q.enabled then
    let s := if dropEn v = dropEn q.ctrl then s else bump s 0x3030 8
    if !enBit v && !q.disabling then disableQueue s n else s
  else if enBit v then enableQueue s n v
  else setQueue s n { q with ctrl := v }

/-- The part leaves SLEEP; stacks leave self-refresh (R386). -/
def leaveSleep (s : State) : State :=
  if s.power = .sleep then
    { s with power := .run, woken := [],
             chans := s.chans.map (fun (c : Nat × Chan) => (c.1, { c.2 with selfRefresh := false })) }
  else s

def dbErr (s : State) (n : Nat) : State := setQueue s n { queue s n with dbErr := true }

/-- A write to SQ_TAIL (R264). -/
def tailWrite (s : State) (n v : Nat) : State :=
  let q := queue s n
  if !q.enabled then s
  else if 512 ≤ v then dbErr s n
  else
    let d := (v + 512 - q.sqHead) % 512
    if 256 < d || d < (q.sqTail + 512 - q.sqHead) % 512 then dbErr s n
    else
      let s := setQueue s n { q with sqTail := v }
      let s := if q.disabling then rejectOpen s n else s
      if !(queue s n).disabling && (queue s n).fetched != (queue s n).sqTail then leaveSleep s else s

/-- A write to CQ_HEAD (R264). -/
def headWrite (s : State) (n v : Nat) : State :=
  let q := queue s n
  if !q.enabled then s
  else if 512 ≤ v || (q.cqTail + 512 - q.cqHead) % 512 < (v + 512 - q.cqHead) % 512 then dbErr s n
  else setQueue s n { q with cqHead := v }

/-- A write to a queue register but Q_CTRL: 64-bit registers, and the status whose DB_ERR is cleared by a 1. -/
def queueReg (s : State) (n o v : Nat) : State :=
  let q := queue s n
  if q.enabled then bump s 0x3030 8
  else if o = 0x18 then (if bit1 v 29 then setQueue s n { q with dbErr := false } else s)
  else if o = 0 then setQueue s n { q with sqBase := v }
  else if o = 8 then setQueue s n { q with cqBase := v }
  else
    let w := (o - 0x20) / 16
    let c := q.wins.getD w (0, 0)
    setQueue s n { q with wins := q.wins.set w (if o % 16 = 0 then (v, c.2) else (c.1, v)) }

/-- The 64-bit value of a queue register. -/
def queueVal (q : Queue) (o : Nat) : Nat :=
  if o = 0 then q.sqBase else if o = 8 then q.cqBase else if o = 0x10 then q.ctrl
  else
    let c := q.wins.getD ((o - 0x20) / 16) (0, 0)
    if o % 16 = 0 then c.1 else c.2

/-! ## BAR0 registers (R258 to R260) -/

def apertureWrite (s : State) (i v : Nat) : State :=
  if i < 8 && v % (2 ^ s.link.bar2Log / 8) == 0 then { s with apertures := s.apertures.set i v } else s

def discardReq (s : State) (v : Nat) : State := if v = 0xD15C then classB s 0x44 else s

/-- Events cleared by the bits written (Table 9.3). -/
def eventsClear (s : State) (v : Nat) : State :=
  { s with devEvents := (List.range 3).foldl (fun n i => if bit1 s.devEvents i && !bit1 v i then n + 2 ^ i else n) 0 }

/-- A 4-byte part of an MSI-X table entry written; a vector that was pending goes when its mask is cleared. -/
def msixWrite (s : State) (k v : Nat) : State :=
  let e := msixEntry s (k / 4)
  let lo := k % 4 * 32
  let s := { s with msixTable := SMap.set s.msixTable (k / 4) (setBits e (lo + 31) lo v) (2 ^ 96) }
  if bit1 s.msixPba (k / 4) && !bit1 (msixEntry s (k / 4)) 96 then
    hostSend { s with msixPba := s.msixPba - 2 ^ (k / 4) } (.msix (k / 4))
  else s

/-- Is an offset that of a 64-bit register? -/
def isWide (off : Nat) : Bool :=
  (decide (0x100 ≤ off) && decide (off < 0x140)) ||
    (decide (0x100000 ≤ off) && decide (off < 0x140000) && (off % 0x1000 < 0x18 || (decide (0x20 ≤ off % 0x1000) && off % 0x1000 < 0xA0)))

/-- A write to a 64-bit register. -/
def wideWrite (s : State) (off v : Nat) : State :=
  if off < 0x1000 then apertureWrite s ((off - 0x100) / 8) v
  else
    let n := (off - 0x100000) / 0x1000
    if off % 0x1000 = 0x10 then ctrlWrite s n v else queueReg s n (off % 0x1000) v

def wideVal (s : State) (off : Nat) : Nat :=
  if off < 0x1000 then s.apertures.getD ((off - 0x100) / 8) 0 else queueVal (queue s ((off - 0x100000) / 0x1000)) (off % 0x1000)

/-- A 4-byte write to BAR0, but the mailbox: a half of a 64-bit register keeps the other half. -/
def regWrite4 (s : State) (off v : Nat) : State :=
  if isWide off then
    let b := off / 8 * 8
    let w := wideVal s b
    wideWrite s b (if off % 8 = 0 then w / 2 ^ 32 * 2 ^ 32 + v else v * 2 ^ 32 + w % 2 ^ 32)
  else if off = 4 then eventsClear s v
  else if off = 0x10 then discardReq s v
  else if 0x100000 ≤ off ∧ off < 0x140000 ∧ off % 0x1000 = 0x18 then queueReg s ((off - 0x100000) / 0x1000) 0x18 v
  else if 0x200000 ≤ off ∧ off < 0x240000 then
    if off % 0x1000 = 0 then tailWrite s ((off - 0x200000) / 0x1000) v
    else if off % 0x1000 = 4 then headWrite s ((off - 0x200000) / 0x1000) v
    else s
  else if 0x3000000 ≤ off ∧ off < 0x3000800 then msixWrite s ((off - 0x3000000) / 4) v
  else s

/-! ## Reads of BAR0 (R257, R258) -/

def mbxByte (m : SMap Nat) (i : Nat) : Byte := BitVec.ofNat 8 (SMap.get m i 0)

/-- Four bytes of a mailbox buffer. -/
def mbxWord (m : SMap Nat) (i : Nat) : Nat := leNat ((List.range 4).map (fun k => mbxByte m (i + k)))

/-- Q_STATUS (Table 9.7). -/
def queueStatus (q : Queue) : Nat :=
  let b := fun (c : Bool) (n : Nat) => if c then 2 ^ n else 0
  b q.enabled 31 + b q.cfgErr 30 + b q.dbErr 29 + q.sqHead % 512 * 2 ^ 16 + q.cqTail % 512

/-- The 4-byte word of BAR0 at an offset (Tables 9.2, 9.3, 9.5, 14.6); what can only be written, and what is reserved, reads
zero. -/
def bar0Word (s : State) (off : Nat) : Nat :=
  if isWide off then wideVal s (off / 8 * 8) / 2 ^ (8 * (off % 8)) % 2 ^ 32
  else if off = 0 then devState s
  else if off = 4 then s.devEvents
  else if off = 8 then s.discardEpoch
  else if off = 0xC then s.discardCause % 2 ^ 8
  else if off = 0x10004 then (if s.mbx.done then 2 else 0) + (if s.mbx.busy.isSome then 1 else 0)
  else if off = 0x10008 then s.mbx.vector
  else if off = 0x1000C then s.mbx.drops
  else if 0x11000 ≤ off ∧ off < 0x12000 then mbxWord s.mbx.req (off - 0x11000)
  else if 0x12000 ≤ off ∧ off < 0x13000 then mbxWord s.mbx.resp (off - 0x12000)
  else if 0x100000 ≤ off ∧ off < 0x140000 ∧ off % 0x1000 = 0x18 then queueStatus (queue s ((off - 0x100000) / 0x1000))
  else if 0x3000000 ≤ off ∧ off < 0x3000800 then msixEntry s ((off - 0x3000000) / 16) / 2 ^ (8 * (off % 16)) % 2 ^ 32
  else if 0x3001000 ≤ off ∧ off < 0x3001010 then s.msixPba / 2 ^ (8 * (off % 16)) % 2 ^ 32
  else 0

/-- What a BAR0 read of `len` bytes returns: 4 and 8 bytes, naturally aligned; zero for any other access. -/
def bar0Value (s : State) (off len : Nat) : Nat :=
  if len = 4 ∧ off % 4 = 0 then bar0Word s off
  else if len = 8 ∧ off % 8 = 0 then bar0Word s off + bar0Word s (off + 4) * 2 ^ 32
  else 0

/-- A BAR0 read, completed `ns` after it arrives. Reading changes nothing but the longest time on record. -/
def bar0Read (s : State) (off len : Nat) (tag : ReadTag) : State :=
  let s := mbxSettle s
  readEnds (hostSend s (.cpl tag.tag false (leBytes len (bar0Value s off len)))) tag s.time

/-! ## Admission checks (R267, R268, R280) -/

/-- Does a range lie wholly within one queue window? An empty range does. -/
def inOne (ws : List (Nat × Nat)) (a n : Nat) : Bool := n == 0 || inWindows ws a (a + n - 1)

/-- The window list of a descriptor read: its bytes, and whether a word was poison or failed. -/
def readList (s : State) (a n : Nat) : EAcc × List Byte × State := readBytes (plain .none) (n + 2) s a n

/-- An output window entry (Table 9.9) that breaks the table or lies outside the queue windows. -/
def badOwin (ws : List (Nat × Nat)) (e : Nat) : Bool :=
  let base := bits e 127 64
  let len := bits e 39 0
  bits e 62 40 != 0 || base % 64 != 0 || len == 0 || len % 64 != 0 ||
    (!bit1 e 63 && (base / 2 ^ 48 != 0 || !inOne ws base len))

def owinOf (e : Nat) : Nat × Nat × Bool := (bits e 127 64, bits e 39 0, bit1 e 63)

/-- The entries of a list of 16-byte records. -/
def entries16 (d : List Byte) (n : Nat) : List Nat := (List.range n).map (fun i => leNat ((d.drop (16 * i)).take 16))

/-- What the checks of Table 9.10 find: a cause, a failed read, or the output windows. -/
inductive Admit where
  | refuse (cause : Nat)
  | failed
  | ok (owins : List (Nat × Nat × Bool))
deriving DecidableEq, Repr, Inhabited

def firstOf : List (Bool × Nat) → Option Nat
  | [] => none
  | (b, c) :: r => if b then some c else firstOf r

/-- The admission checks in the order of Table 9.10. -/
def checkDesc (s : State) (q : Queue) (d : Nat) : Admit × State :=
  let ws := winsInUse q
  let oc := bits d 447 444
  let mc := bits d 391 376
  let oa := bits d 439 392
  let tc := jTileCount d
  let head := firstOf [
    ((crc32 ((leBytes 64 d).take 60)).toNat != bits d 511 480, 0x01),
    (bits d 443 440 != 0 || bits d 327 320 != 0 || bits d 174 32 != 0, 0x02),
    (decide (tileCount s < jTileFirst d + tc) || (tc == 0 && mc == 0), 0x03),
    (decide (60000 < jWdog d), 0x04)]
  match head with
  | some c => (.refuse c, s)
  | none =>
    let readable := decide (oc ≤ 8) && oa % 16 == 0 && inOne ws oa (16 * oc)
    let r := if readable then readList s oa (16 * oc) else (.val 0, [], s)
    let s := r.2.2
    let es := if readable then entries16 r.2.1 oc else []
    if r.1 = .failed then (.failed, s)
    else
      let more := firstOf [
        ((jPasidEn d && !s.link.pasid) || (!jPasidEn d && es.any (fun e => bit1 e 63)) ||
          (bit1 q.ctrl 59 && (!jPasidEn d || jPasid d != bits q.ctrl 35 16)), 0x05),
        (bit1 q.ctrl 58 && jDomain d != bits q.ctrl 15 0, 0x06),
        (decide (8 < oc) || decide (4096 < mc) || oa % 16 != 0 || bits d 319 272 % 32 != 0 || bits d 375 328 % 64 != 0 ||
          !inOne ws (bits d 319 272) (32 * tc) || !inOne ws oa (16 * oc) || !inOne ws (bits d 375 328) (64 * mc), 0x07),
        (r.1 == .poison, 0x31),
        ((if oc = 0 then 0 else (crc32 r.2.1).toNat) != bits d 479 448 || es.any (badOwin ws), 0x08)]
      match more with
      | some c => (.refuse c, if c = 0x31 then bump s 0x7800 8 else s)
      | none => (.ok (es.map owinOf), s)

/-- A slot's completion posted for a job that does not run. -/
def refuseJob (s : State) (j status cause : Nat) : State :=
  match SMap.find? s.jobs j with
  | none => s
  | some jb =>
    postComp { s with jobs := SMap.erase s.jobs j } { q := jb.q, slot := jb.slot, jobId := jId jb.desc, status := status, cause := cause, ltile := 0xFFFF, word := 0 }

/-- A descriptor fetched from the next slot of a queue, by an untranslated read without PASID (R261), and checked. -/
def fetchDesc (s : State) (n d : Nat) : State :=
  let q := queue s n
  let j := s.nextJob
  let jb : Job := { q := n, slot := q.fetched, desc := d, running := false, fault := none, owins := [], qwins := winsInUse q, movers := [] }
  let s := setQueue { s with jobs := SMap.put s.jobs j jb, nextJob := j + 1 } n { q with fetched := (q.fetched + 1) % 512 }
  let s := hostSend { s with nextTag := s.nextTag + 1 } (.hostRead (q.sqBase + 64 * (q.fetched % 256)) false none 64 s.nextTag)
  match checkDesc s q d with
  | (.refuse c, s) => refuseJob s j 2 c
  | (.failed, s) => failedReq s
  | (.ok ws, s) =>
    if bit1 d 175 && bits d 183 176 != s.discardEpoch % 256 then refuseJob s j 1 0x4F
    else setQueue { s with jobs := SMap.put s.jobs j { jb with owins := ws } } n { queue s n with offered := (queue s n).offered ++ [j] }

/-- Jobs are fetched and admitted in READY, not in SLEEP or DEEP (R269, R386). -/
def jobsRun (s : State) : Bool := s.main == .ready && s.power == .run

/-- May the next descriptor of a queue be fetched? Its read goes out on the host link, which must carry requests. -/
def mayFetch (s : State) (n : Nat) : Bool :=
  let q := queue s n
  jobsRun s && linkSends s && q.enabled && !q.disabling && q.fetched != q.sqTail

/-! ## Admission and completion (R269 to R273) -/

/-- Offered jobs by queue, with their admission priority. -/
def offers (s : State) : List (Nat × Nat × Job × Nat) :=
  (List.range 64).filterMap (fun i =>
    let n := (s.robin + i) % 64
    let q := queue s n
    match q.offered.head? with
    | none => none
    | some j => (SMap.find? s.jobs j).map (fun jb => (n, j, jb, max (bits jb.desc 201 200) (bits q.ctrl 61 60))))

def sameTiles (a b : Job) : Bool :=
  decide (0 < jTileCount a.desc ∧ 0 < jTileCount b.desc) &&
    decide (jTileFirst a.desc < jTileFirst b.desc + jTileCount b.desc) && decide (jTileFirst b.desc < jTileFirst a.desc + jTileCount a.desc)

def tilesFree (s : State) (jb : Job) : Bool := s.jobs.all (fun o => !o.2.holds || !sameTiles o.2 jb)

/-- Has a queue written every completion that a discard owed it (R279)? -/
def owesNone (s : State) (n : Nat) : Bool := !(s.comps.any (fun c => c.q == n && ((c.status == 1 && c.cause != 0x4F) || c.status == 3)))

/-- The job to admit: the most urgent of those whose tiles are free and that pass no waiting job of the same or more
urgent priority with overlapping tiles; ties go round the queues. -/
def toAdmit (s : State) : Option (Nat × Nat × Job × Nat) :=
  let os := (offers s).filter (fun o => owesNone s o.1)
  let waiting := os.filter (fun o => !tilesFree s o.2.2.1)
  let ready := os.filter (fun o => tilesFree s o.2.2.1 && !waiting.any (fun w => decide (w.2.2.2 ≤ o.2.2.2) && sameTiles w.2.2.1 o.2.2.1))
  ready.foldl (fun m o =>
    match m with
    | none => some o
    | some b => if o.2.2.2 < b.2.2.2 then some o else some b) none

/-- A job admitted: its tiles are its own, in their state at job start (R87, R118). -/
def admitJob (s : State) (o : Nat × Nat × Job × Nat) : State :=
  let s := setQueue { s with jobs := SMap.put s.jobs o.2.1 { o.2.2.1 with running := true }, robin := (o.1 + 1) % 64 } o.1
    { queue s o.1 with offered := (queue s o.1).offered.drop 1 }
  (jobTiles o.2.2.1).foldl (fun s t => unquiet (setTile s t { Tile.reset with job := some o.2.1, running := true, rampLen := (tile s t).rampLen }) t) s

/-- Is a job complete (R272)? -/
def jobDone (s : State) (j : Nat) (jb : Job) : Bool :=
  jb.running && (jobTiles jb).all (fun t => (tile s t).ended) && jb.movers.length == bits jb.desc 391 376 &&
    jb.movers.all (fun m => m.2 == .done) && !(s.fab.reqs.any (fun r => r.2.job == j)) && !(s.fab.waitReqs.any (fun r => r.job == j)) &&
    !(s.xfers.any (fun x => x.2.job == j))

/-- The completion entry of Table 9.11 but its CRC. -/
def compWord (s : State) (q : Queue) (c : Comp) : Nat :=
  c.ltile % 2 ^ 16 * 2 ^ 16 + c.word % 2 ^ 20 * 2 ^ 32 + s.discardEpoch % 256 * 2 ^ 52 + c.status * 2 ^ 60 + c.cause * 2 ^ 64 +
    (1 - q.cqTail / 256 % 2) * 2 ^ 72 + c.q * 2 ^ 73 + c.slot % 256 * 2 ^ 79 + q.sqHead * 2 ^ 87 + c.jobId % 2 ^ 32 * 2 ^ 96

/-- SQ_HEAD moved past the slots whose entries are written (R265). -/
def passDone : Nat → Queue → Queue
  | 0, q => q
  | k + 1, q =>
    if q.doneSlots.contains q.sqHead then
      passDone k { q with sqHead := (q.sqHead + 1) % 512, doneSlots := q.doneSlots.filter (· != q.sqHead) }
    else q

/-- The vector of a queue, or note that one is due when the holdoff ends (R266). -/
def queueVector (s : State) (n : Nat) : State :=
  let q := queue s n
  if !bit1 q.ctrl 62 then s
  else if q.holdoff.isSome then setQueue s n { q with vectorDue := true }
  else sendVector (setQueue s n { q with holdoff := if rd s 0x3010 1 = 0 then none else some s.time }) (bits q.ctrl 54 48)

/-- A completion entry written to its queue (R265, R266, R273). -/
def writeComp (s : State) (n : Nat) (c : Comp) : State :=
  let q := passDone 257 { queue s n with doneSlots := (queue s n).doneSlots ++ [c.slot] }
  let w := compWord s q c
  let s := setQueue s n { q with cqTail := (q.cqTail + 1) % 512 }
  let s := bump s 0x3030 (match c.status with
    | 0 => 1 | 1 => 2 | 2 => 3 | _ => 4)
  let s := hostSend s (.hostWrite (q.cqBase + 16 * (q.cqTail % 256)) false none (leBytes 16 (sealWord w)))
  settleQueue (queueVector s n) n

def mayWriteComp (s : State) (n : Nat) : Bool :=
  (s.main == .ready || s.main == .discarding) && decide (((queue s n).cqTail + 512 - (queue s n).cqHead) % 512 < 256)

end Sys2Proof.Machine
end

