-- ==== Sys2Proof/Machine/Catalogue.lean ====
section
/-! DEFINITION. How a Catalogue request is served: availability, reads, writes by access class, staged values and commits,
and the commands behind WO entries (The Catalogue, the Conservator and the Ledger). -/

namespace Sys2Proof.Machine

/-! ## Status, transports, contexts -/

/-- Response status (Table 14.5). -/
inductive CatStatus where
  | ok | noEntry | access | range | malformed | rights | mainReset | notReady | refused | busy
deriving DecidableEq, Repr, Inhabited

def CatStatus.code : CatStatus → Nat
  | .ok => 0 | .noEntry => 1 | .access => 2 | .range => 3 | .malformed => 4 | .rights => 5 | .mainReset => 6
  | .notReady => 7 | .refused => 8 | .busy => 9

/-- The transport codes of event details. -/
def trCode : Transport → Nat
  | .cons => 0 | .mgmt => 1 | .mctp => 2 | .mailbox => 3 | .fragor _ => 4

/-- The staging context of a source (R424): none for a Fragor source that is no set manager while some are set. -/
def stageKey (s : State) : Transport → Option Nat
  | .cons => some 0
  | .mgmt => some 1
  | .mctp => some 2
  | .mailbox => some 3
  | .fragor a =>
    if (managers s).isEmpty then some (4 + 2 ^ 15) else if (managers s).contains a then some (4 + a) else none

def stageOf (s : State) (tr : Transport) : Stage :=
  match stageKey s tr with
  | some k => SMap.get s.stages k Stage.reset
  | none => Stage.reset

def setStage (s : State) (tr : Transport) (v : Stage) : State :=
  match stageKey s tr with
  | some k => { s with stages := SMap.set s.stages k v Stage.reset }
  | none => s

/-- What keeps a main-domain entry from being served, by main state (R422). -/
def mainBlock (s : State) : Option CatStatus :=
  match s.main with
  | .off => some .notReady
  | .standby => some .notReady
  | .standbyFault => some .notReady
  | .shutdown => some .notReady
  | .resetting => some .mainReset
  | .bringup => if s.bringup.step < 6 then some .mainReset else none
  | .coldHold => if s.bringup.step < 6 then some .mainReset else none
  | _ => none

/-- Does management addressed to the part reach it over the fabric (Table 10.8)? -/
def mgmtServed (s : State) : Bool :=
  s.main == .bringup || (s.main == .ready && s.power != .deep) || s.main == .discarding || s.main == .transit || s.main == .faulted

/-- Is a transport available (R422)? -/
def available (s : State) : Transport → Bool
  | .cons => s.main != .off
  | .mgmt => s.main != .off
  | .mctp => s.link.l0 && !s.link.l12 && (mainBlock s).isNone
  | .mailbox => hostReaches s
  | .fragor _ => mgmtServed s

/-- An Inventory entry (R404, Table 13.10). -/
def isInventory (idx : Nat) (sub : Nat) : Bool :=
  within 0x2000 0x2013 idx || [0x9010, 0x9011, 0x9008, 0x6018, 0x6808, 0x7300, 0x7830, 0x7831, 0x7832].contains idx ||
    [(0x9000, 2), (0x6000, 2), (0x6000, 3), (0x6040, 1), (0x6040, 2), (0x6040, 3), (0x6040, 4), (0x6800, 1), (0x6800, 2),
      (0x6800, 3), (0x6800, 5), (0x8000, 1), (0x8000, 2), (0x7000, 5)].contains (idx, sub)

/-- The entries of R452. -/
def isOwn (idx sub : Nat) : Bool :=
  [(0xF000, 1), (0xF000, 2), (0xF000, 3), (0xF010, 1), (0xF020, 1)].contains (idx, sub)

/-- Why an entry is not served now (R422, R452). -/
def entryBlock (s : State) (tr : Transport) (row : EntRow) (idx sub : Nat) : Option CatStatus :=
  if row.keep == .c || row.keep == .cp || (tr == .cons && isOwn idx sub) then none
  else
    match mainBlock s with
    | some st => some st
    | none => if isInventory idx sub && !invBuilt s then some .notReady else none

/-! ## Rights (Table 14.7, R322, R421) -/

def fabWriteOk (s : State) (a : Nat) : Bool :=
  rd s 0x8010 5 == 1 && ((managers s).isEmpty || (managers s).contains a)

def mayWrite (s : State) : Transport → Bool
  | .fragor a => fabWriteOk s a
  | _ => true

def resetRight (s : State) : Transport → Bool
  | .cons => true
  | .mgmt => bit1 (rd s 0xC000 3) 0
  | .mctp => bit1 (rd s 0xC000 3) 1
  | .mailbox => bit1 (rd s 0xC000 3) 2
  | .fragor a => fabWriteOk s a && rd s 0x8010 6 == 1

/-- A refusal over the fabric is counted (R322). -/
def countFab (s : State) : Transport → State
  | .fragor _ => bump s 0x8050 10
  | _ => s

/-! ## Values (R412 to R416, R446, R448, R450) -/

/-- A unit that is absent or excluded, whose entry reads zero (R446). -/
def unitAbsent (s : State) (idx sub : Nat) : Bool :=
  (within 0x7100 0x71A0 idx && !masterPresent s (idx - 0x7100)) ||
    ([0xA008, 0xA009, 0xB030].contains idx && !cdieUsed s (sub - 1)) ||
    ([0xA010, 0xA011].contains idx && !halfUsed s (sub - 1)) ||
    (idx == 0x9030 && within 0x15 0x24 sub && !portExists s (sub - 0x15)) || (idx == 0x9009 && within 1 16 sub && !portExists s (sub - 1))

def halfMask (l : List Nat) : Nat := sumBy (fun h => if l.contains h then 2 ^ h else 0) (List.range 24)

/-- Values that the part works out when they are read. -/
def derived (s : State) (tr : Transport) (idx sub : Nat) : Option Nat :=
  match idx, sub with
  | 0x1000, 1 => some Config.vendorId.toNat
  | 0x1000, 2 => some Config.deviceId.toNat
  | 0x1000, 3 => some s.bringup.uid
  | 0x1000, 5 => some Config.romRev.toNat
  | 0x2020, 1 => some s.bringup.step
  | 0x6800, 4 => some (stackBytesOf s.bringup.variant / 32)
  | 0x6810, 1 => some (cacheSets s)
  | 0x5030, 1 => some (halfMask (s.loans.map (·.lender)))
  | 0x5030, 2 => some (halfMask (s.loans.map (·.borrower)))
  | 0x8000, 4 => some (sumBy (fun p => if portUp s p then 2 ^ p else 0) (List.range 16))
  | 0x8000, 5 => some (sumBy (fun p => if portUp s p && (port s p).width == 4 then 2 ^ p else 0) (List.range 16))
  | 0x9020, 6 => some (s.time % 2 ^ 64)
  | 0xA008, _ => some (cdieLimit s (sub - 1))
  | 0xA009, _ => some (throttleSteps s (sub - 1))
  | 0xA020, 4 => some (powerAllowed s)
  | 0xA030, 1 => some (if s.deepPending then 3 else match s.power with
      | .run => 0
      | .sleep => 1
      | .deep => 2)
  | 0xC000, 1 => some s.main.code
  | 0xC000, 2 => some (if s.con.faultN then 1 else 0)
  | 0xD000, 2 => some ((activeBank s.ledger).gen.getD 0 % 2 ^ 32)
  | 0xD000, 3 => some (bankUsed (activeBank s.ledger))
  | 0xD000, 4 => some (goodRecs (activeBank s.ledger)).length
  | 0xD010, 4 => some s.ledgerQ.length
  | 0xF000, 3 => some (stageOf s tr).status
  | _, _ => none

/-- The committed value of a scalar. -/
def scalar (s : State) (tr : Transport) (idx sub : Nat) : Nat :=
  if unitAbsent s idx sub then 0 else (derived s tr idx sub).getD (rd s idx sub)

/-- One B-die's repeat table. -/
def repeatTable (s : State) (b : Nat) : List Byte :=
  let l := (s.repeats.filter (fun r => r.b == b)).flatMap (fun r =>
    leBytes 16 (r.kind * 2 ^ 120 + r.state * 2 ^ 112 + r.count % 2 ^ 8 * 2 ^ 104 + r.lastMs % 2 ^ 32 * 2 ^ 64 + r.loc % 2 ^ 34))
  l ++ List.replicate (1024 - l.length) 0#8

/-- The bytes of a BLOB but LEDGER_READ (Table 15.2). -/
def blobBytes (s : State) (idx sub : Nat) : List Byte :=
  match idx, sub with
  | 0x2013, _ => ltileMap s
  | 0x6040, _ => faultMap (resolveMeshes s)
  | 0x6800, _ => channelMap s
  | 0x6830, _ => bitBytes 48 (fun c => (SMap.get s.chans c Chan.reset).active.isSome)
  | 0x6838, _ => bitBytes 48 (fun c => (SMap.get s.chans c Chan.reset).full)
  | 0x7000, _ => groupMap s
  | 0x7310, _ => s.scale.flatMap (fun (e : Nat × Nat × Nat) => leBytes 4 e.1 ++ leBytes 4 (e.2.1 * 65536 / e.2.2))
  | 0x781A, 1 => (List.range 384).flatMap (fun c => leBytes 4 (min (2 ^ 32 - 1) (SMap.get s.hscrub c Scrub.reset).lapMs))
  | 0x781A, _ => (List.range 384).flatMap (fun c => leBytes 4 (min (2 ^ 32 - 1) (SMap.get s.hscrub c Scrub.reset).lapMaxMs))
  | 0x7820, _ => (List.range 6).flatMap (repeatTable s)
  | 0x8002, _ => leBytes 32 (port s (sub - 1)).neighbour
  | 0x9008, _ => leBytes 16 (guestDescOf s (sub - 1))
  | 0xB034, 1 => (List.range 1024).flatMap (fun c => leBytes 4 (i32 ((SMap.find? s.hkShown c).getD 0)))
  | 0xB034, _ => bitBytes 120 (fun c => s.con.failed.contains c)
  | 0xE000, _ => (List.range 1024).flatMap (fun i => leBytes 32 (SMap.get s.events i 0))
  | _, _ => []

/-- The size of an entry in bytes now. -/
def entSize (s : State) (row : EntRow) (idx sub : Nat) : Nat :=
  if row.ty = 8 then (if idx = 0x1000 then 32 else 16)
  else if row.ty = 9 then
    match idx, sub with
    | 0x2013, _ => 2 * s.lay.tiles.length
    | 0x6040, _ => 768
    | 0x6800, _ => 48
    | 0x6830, _ => 48
    | 0x6838, _ => 48
    | 0x7000, _ => s.lay.tiles.length
    | 0x7310, _ => 8 * s.scale.length
    | 0x781A, _ => 1536
    | 0x7820, _ => 6144
    | 0x8002, _ => 32
    | 0x9008, _ => 16
    | 0xB034, 1 => 4096
    | 0xB034, _ => 120
    | 0xD000, _ => 2 ^ 25
    | _, _ => 32768
  else tySize row.ty

/-- A command among the CONS entries. -/
def isConsCommand (idx sub : Nat) : Bool := idx == 0xB040 && sub == 2

/-- A READ or READ_STAGED of an entry (R417, R418). -/
def catRead (s : State) (tr : Transport) (staged : Bool) (r : CatReq) (row : EntRow) : CatStatus × List Byte × State :=
  let idx := r.index.toNat
  let sub := r.sub.toNat
  let off := r.offset.toNat
  let n := r.length.toNat
  if 8 ≤ row.ty then
    if entSize s row idx sub ≤ off then (.malformed, [], s)
    else if idx = 0xD000 then (.ok, ledgerRead s.ledger off n, s)
    else (.ok, ((if row.ty = 8 then leBytes (entSize s row idx sub) (rd s idx sub) else blobBytes s idx sub).drop off).take n, s)
  else if off ≠ 0 ∨ n ≠ tySize row.ty then (.malformed, [], s)
  else if row.acc = .wo ∨ isConsCommand idx sub then (.ok, List.replicate n 0#8, s)
  else
    (.ok, leBytes n (((if staged then SMap.find? (stageOf s tr).vals (entKey idx sub) else none).map (shown idx)).getD
      (scalar s tr idx sub)), s)

/-- Access codes of DESCRIBE (Table 14.4). -/
def Acc.code : Acc → Nat
  | .ro => 1 | .rw => 2 | .rws => 3 | .wo => 4 | .cons => 5

def describeBytes (ty : Nat) (acc : Acc) (keep : Keep) (size : Nat) : List Byte :=
  leBytes 8 (ty + acc.code * 2 ^ 8 + (if keep = .p ∨ keep = .cp then 2 ^ 16 else 0) + (if keep = .c ∨ keep = .cp then 2 ^ 17 else 0) +
    size * 2 ^ 32)

/-! ## Commands (R386 to R388, R325, R192, R201, R382, R429, R439) -/

/-- Is a descriptor pending in an enabled queue? -/
def descPending (s : State) : Bool :=
  s.queues.any (fun (q : Nat × Queue) => q.2.enabled && (q.2.fetched != q.2.sqTail || !q.2.offered.isEmpty))

/-- SLEEP entered: no loans, and the stacks whose enable is off are in self-refresh. -/
def enterSleep (s : State) : State :=
  { s with power := .sleep, deepPending := false, loans := [], reclaims := [], woken := [],
           chans := s.lay.chans.foldl (fun m c =>
             if bit1 (rd s 0x9030 (c / 32 + 2)) 1 then m else SMap.put m c { SMap.get m c Chan.reset with selfRefresh := true }) s.chans }

def powerRefused (s : State) : CatStatus × State := (.range, bump s 0xA030 3)

def powerRun (s : State) : CatStatus × State := (.ok, leaveSleep { s with deepPending := false })

def powerSleep (s : State) : CatStatus × State :=
  if s.main = .ready && s.power = .run && s.jobs.isEmpty && !descPending s then (.ok, enterSleep s) else powerRefused s

def powerDeep (s : State) : CatStatus × State :=
  if s.deepPending then (.ok, s)
  else if s.main = .ready && !(s.jobs.any (fun (j : Nat × Job) => j.2.holds)) && !(s.queues.any (fun (q : Nat × Queue) => q.2.enabled)) then
    (.ok, if s.power = .deep then s else { leaveSleep s with deepPending := true })
  else powerRefused s

def powerReq (s : State) (v : Nat) : CatStatus × State :=
  if v = 0 then powerRun s else if v = 1 then powerSleep s else if v = 2 then powerDeep s else (.range, s)

/-- FAB_TRANSIT_REQ (R325). -/
def transitReq (s : State) (tr : Transport) (v : Nat) : CatStatus × State :=
  if v ≠ 1 then (.range, s)
  else if !resetRight s tr then (.rights, countFab s tr)
  else if s.main = .ready || s.main = .discarding || (s.main = .faulted && s.offPath) then
    (.ok, enterTransit (if s.power = .deep then leaveDeep s else s) 0 (trCode tr))
  else (.notReady, s)

def keepRelease (s : State) (v : Nat) : CatStatus × State :=
  if 15 < v then (.range, s)
  else (.ok, { s with lines := s.lines.map (fun l => if l.prot = some v then { l with prot := none } else l) })

/-- A write of RETRAIN_REQ. A value above 383 while the part is not READY may be answered RANGE or NOT_READY: DESIGN CHOICE, RANGE
(R201, log 26). -/
def retrainReq (s : State) (v : Nat) : CatStatus × State :=
  if 383 < v then (.range, s)
  else if s.main ≠ .ready then (.notReady, s)
  else if !s.lay.chans.contains v then (.range, s)
  else
    let c := SMap.get s.chans v Chan.reset
    if c.wait.isSome || c.active.isSome then (.ok, s) else (.ok, { s with chans := SMap.put s.chans v { c with wait := some 1 } })

/-- Has the part been cool for 10 s in SHUTDOWN? -/
def cooled (s : State) : Bool :=
  match s.con.coolAt with
  | some t => s.main == .shutdown && decide (t + 10000000000 ≤ s.time)
  | none => false

/-- An accepted CONS write is counted and noted (R431). -/
def consNote (s : State) (key v : Nat) : State :=
  logEvent (bump s 0xC000 5) 0xC001 (leBytes 2 (key / 256) ++ leBytes 1 (key % 256) ++ leBytes 8 v)

def shutdownClear (s : State) (v : Nat) : CatStatus × State :=
  if v = 0xA5 && cooled s then
    (.ok, consNote { s with main := .standby, con := { s.con with faultN := false, coolAt := none } } (entKey 0xB040 2) v)
  else (.range, s)

/-- RESET_CMD (R429, R410). -/
def resetCmd (s : State) (tr : Transport) (v : Nat) : CatStatus × State :=
  let scope := v % 256
  if v / 2 ^ 16 ≠ 0x5EC7 ∨ v / 256 % 256 ≠ 0 ∨ 7 < scope then (.range, s)
  else if !resetRight s tr then
    (.rights, countFab (if scope = 0 then bump s 0xF010 2 else bump s 0x2020 6) tr)
  else
    match s.main with
    | .shutdown => (.notReady, s)
    | .standby => if s.link.perst then (.notReady, s) else (.ok, startBringup s s.time)
    | .standbyFault => if s.link.perst || s.con.held then (.notReady, s) else (.ok, startBringup s s.time)
    | _ => (.ok, logEvent { s with resetReq := some s.time } 0xF001 (leBytes 1 (trCode tr) ++ leBytes 1 scope))

def persistClear (s : State) (v : Nat) : CatStatus × State :=
  if v = 0xC1EA then (.ok, queueRecord s 5 (List.replicate 16 0#8)) else (.range, s)

/-! ## Staged writes and commit (R424 to R428) -/

def stageWrite (s : State) (tr : Transport) (key v : Nat) : State :=
  let c := stageOf s tr
  setStage s tr { c with vals := SMap.put c.vals key v, since := s.time }

/-- The state with the committed values: while the main domain holds none, those that persist (R415, R452). -/
def committed (s : State) : State := if (mainBlock s).isSome then loadedMain s else s

/-- The state with staged values taken together with the committed ones. -/
def trial (s : State) (vals : SMap Nat) : State :=
  let s := committed s
  { s with ent := vals.foldl (fun m e => SMap.put m e.1 e.2) s.ent, regOld := [] }

def differs (s : State) (e : Nat × Nat) : Bool := rd s (e.1 / 256) (e.1 % 256) != e.2

/-- The rules a commit must keep. -/
def commitRules (s t : State) (changed : Bool) : List Rule := partitionRule t :: (regRules t changed ++ fabricRules s t)

/-- Counts of R227 where a rule of regulation is broken. -/
def countRefusal (s t : State) (changed : Bool) : State :=
  if (brokenRule (regRules t changed)).isNone then s
  else
    let s := bump s 0x7310 1
    match failingResource t changed with
    | some r => setEnt s 0x7310 2 (resId r.1 r.2)
    | none => s

/-- The lowest-numbered staged entry that takes part in a rule. -/
def failingEntry (vals : SMap Nat) (r : Rule) : Nat := ((vals.map (·.1)).find? (fun k => r.parts.contains k)).getD 0

/-- Destinations to which ordered requests stay unanswered and whose entry's PRI or VC changes (R306). -/
def heldStreams (s t : State) : List Nat :=
  let pv (x : State) (d : Nat) : Nat := bits (routeEntry x d) 3 0 + 16 * entVc (routeEntry x d)
  let ds := (s.fab.reqs.filter (fun (r : Nat × FReq) => r.2.ordered)).map (fun (r : Nat × FReq) => r.2.dst)
  ds.foldl (fun l d =>
    if (orderedOpen s d || resyncAt s d) && !l.contains d && !s.fab.holdDst.contains d && pv s d != pv t d then l ++ [d] else l) []

/-- The old values of the regulation inputs that change stay in force until the next boundary. -/
def oldInputs (s : State) (vals : SMap Nat) : SMap Nat :=
  (vals.filter (fun e => isRegInput e.1 && differs s e)).foldl (fun m e =>
    if (SMap.find? m e.1).isSome then m else SMap.put m e.1 (rd s (e.1 / 256) (e.1 % 256))) s.regOld

/-- What a commit changes on the fabric (R306, R309, R424). -/
def fabricCommit (s t : State) : State :=
  let addr := rd s 0x8010 1 != rd t 0x8010 1 || rd s 0x8010 2 != rd t 0x8010 2
  let hold := heldStreams s t
  let t := { t with
    fab := { t.fab with holdDst := t.fab.holdDst ++ hold
                        tx := if addr then t.fab.tx.map (fun e => (e.1, (e.2.1, true))) else t.fab.tx }
    stages := t.stages.filter (fun e => decide (e.1 < 4) ||
      (if (managers t).isEmpty then e.1 == 4 + 2 ^ 15 else (managers t).contains (e.1 - 4))) }
  reroute t

/-- Staged values become committed values in one step (R425); in a state in which the main domain is not served they stand from
the next bring-up on. -/
def applyCommit (s : State) (vals : SMap Nat) : State :=
  let t := if (mainBlock s).isSome then putEnts s vals
    else fabricCommit s { s with ent := (trial s vals).ent, regOld := oldInputs s vals }
  vals.foldl (fun t e => if keepOf e.1 = some .p then persist t e.1 e.2 else t) t

/-- COMMIT (R425 to R427). -/
def commit (s : State) (tr : Transport) (v : Nat) : CatStatus × State :=
  if v ≠ 1 then (.range, s)
  else
    let c := stageOf s tr
    let t := trial s c.vals
    let changed := c.vals.any (fun e => isRegInput e.1 && differs s e)
    if c.vals.isEmpty then (.ok, setStage s tr { c with status := 2 ^ 24 })
    else
      match brokenRule (commitRules s t changed) with
      | some r =>
        (.refused, setStage (countRefusal s t changed) tr { c with since := s.time, status := 2 * 2 ^ 24 + failingEntry c.vals r })
      | none => (.ok, applyCommit (setStage s tr { vals := [], since := 0, status := 2 ^ 24 }) c.vals)

def abort (s : State) (tr : Transport) (v : Nat) : CatStatus × State :=
  if v ≠ 1 then (.range, s) else (.ok, setStage s tr { vals := [], since := 0, status := 3 * 2 ^ 24 })

/-- When a context's timeout passes. -/
def stageDue (s : State) (c : Stage) : Nat := c.since + rd s 0xF000 4 * 1000000000

/-- A context, by its key, emptied by expiry, with its notice. -/
def stageEmpty (s : State) (key : Nat) : State :=
  logEvent { s with stages := SMap.set s.stages key { vals := [], since := 0, status := 4 * 2 ^ 24 } Stage.reset } 0xF002 (leBytes 1 (min 4 key))

/-- A context expires (R428). -/
def stageExpire (s : State) (tr : Transport) : State :=
  let c := stageOf s tr
  if c.vals.isEmpty then s
  else
    let s := advance s (stageDue s c)
    match stageKey s tr with
    | some k => stageEmpty s k
    | none => s

/-- The contexts whose timeout has passed by now. -/
def stagesDue (s : State) : List Nat :=
  (s.stages.filter (fun e => !e.2.vals.isEmpty && decide (stageDue s e.2 ≤ s.time))).map (·.1)

def expireStages (s : State) : State := (stagesDue s).foldl stageEmpty s

/-! ## Writes (R414, R418) -/

/-- The thresholds that stay in force until the next round, one that is written now with them (R375). -/
def keepThr (s : State) (key : Nat) : SMap Nat :=
  if key / 256 = 0xB000 && (SMap.find? s.con.oldThr key).isNone then SMap.put s.con.oldThr key (rd s 0xB000 (key % 256)) else s.con.oldThr

/-- A CONS value written, alone: it acts at once, a threshold at the next round. -/
def consWrite (s : State) (key v : Nat) : CatStatus × State :=
  let t := { s with cons := SMap.put s.cons key v, con := { s.con with oldThr := keepThr s key } }
  if inRange (key / 256) (key % 256) v && (brokenRule (consRules t)).isNone then (.ok, consNote (persist t key v) key v)
  else (.range, s)

def rwWrite (s : State) (row : EntRow) (idx sub v : Nat) : CatStatus × State :=
  if !inRange idx sub v then (.range, s)
  else
    let t := setEnt s idx sub v
    (.ok, if row.keep = .p then persist t (entKey idx sub) v else t)

/-- A write to a WO entry. -/
def woWrite (s : State) (tr : Transport) (idx sub v : Nat) : CatStatus × State :=
  match idx, sub with
  | 0xF000, 1 => commit s tr v
  | 0xF000, 2 => abort s tr v
  | 0xF010, _ => resetCmd s tr v
  | 0xF020, _ => persistClear s v
  | 0xA030, _ => powerReq s v
  | 0x8040, _ => transitReq s tr v
  | 0x6810, _ => keepRelease s v
  | _, _ => retrainReq s v

/-- The reset commands, whose rights are checked with their value. -/
def isResetCmd (idx sub : Nat) : Bool := (idx == 0xF010 && sub == 1) || (idx == 0x8040 && sub == 1)

/-- A write whose shape is right. -/
def writeValue (s : State) (tr : Transport) (row : EntRow) (idx sub v : Nat) : CatStatus × State :=
  match row.acc with
  | .ro => (.access, s)
  | .cons =>
    if tr ≠ .cons then (.access, bump s 0xC000 6)
    else if isConsCommand idx sub then shutdownClear s v else consWrite s (entKey idx sub) (kept idx sub v)
  | .rw => if mayWrite s tr then rwWrite s row idx sub (kept idx sub v) else (.rights, countFab s tr)
  | .rws =>
    if !mayWrite s tr then (.rights, countFab s tr)
    else if inRange idx sub (kept idx sub v) then (.ok, stageWrite s tr (entKey idx sub) (kept idx sub v)) else (.range, s)
  | .wo => if isResetCmd idx sub || mayWrite s tr then woWrite s tr idx sub v else (.rights, countFab s tr)

def writeEntry (s : State) (tr : Transport) (r : CatReq) (row : EntRow) : CatStatus × State :=
  let idx := r.index.toNat
  let sub := r.sub.toNat
  if row.ty = 9 then (.access, s)
  else if r.offset ≠ 0#32 || (if row.ty = 8 then decide (entSize s row idx sub < r.length.toNat) else r.length.toNat != tySize row.ty) then
    (.malformed, s)
  else writeValue s tr row idx sub (leNat r.data)

/-! ## Requests (R412, R417, R418, R422, R423) -/

/-- Operations (Table 14.4). -/
inductive CatOp where
  | read | write | readStaged | describe
deriving DecidableEq, Repr, Inhabited

def CatOp.code : CatOp → Nat
  | .read => 1 | .write => 2 | .readStaged => 3 | .describe => 4

def CatOp.of? (n : Nat) : Option CatOp :=
  match n with
  | 1 => some .read
  | 2 => some .write
  | 3 => some .readStaged
  | 4 => some .describe
  | _ => none

/-- Is a header, with its data, as R417 and R418 have it? -/
def headerOk (op : CatOp) (r : CatReq) : Bool :=
  r.status == 0#8 && r.rsv == 0#32 && within 1 1024 r.length.toNat && r.data.length == (if op = .write then r.length.toNat else 0)

/-- Where subindex 0 of an index is held: in the Conservator for the ranges of R443 and where every entry of the index is,
otherwise in the main domain. -/
def countKeep (idx : Nat) : Keep :=
  if (entRows.filter (fun r => decide (r.lo ≤ idx ∧ idx ≤ r.hi))).all (fun r => r.keep == .c || r.keep == .cp) then .c else .v

/-- Subindex 0 of an index as an entry: a U8 that is only read. -/
def countRow (idx : Nat) : EntRow := ⟨idx, idx, 0, 0, 1, .ro, 0, countKeep idx, false⟩

/-- Subindex 0 of an index that holds entries (R412), served when its index is (R422). -/
def serveCount (s : State) (tr : Transport) (op : CatOp) (r : CatReq) : CatStatus × List Byte × State :=
  let n := maxSub r.index.toNat
  if n = 0 then (.noEntry, [], s)
  else
    match entryBlock s tr (countRow r.index.toNat) r.index.toNat 0 with
    | some st => (st, [], if st = .mainReset then bump s 0x9050 1 else s)
    | none =>
      if op = .write then (.access, [], s)
      else if r.offset ≠ 0#32 ∨ r.length.toNat ≠ (if op = .describe then 8 else 1) then (.malformed, [], s)
      else (.ok, if op = .describe then describeBytes 1 .ro (countKeep r.index.toNat) 1 else leBytes 1 n, s)

/-- A request to an entry the part defines. -/
def serveEntry (s : State) (tr : Transport) (op : CatOp) (r : CatReq) (row : EntRow) : CatStatus × List Byte × State :=
  match entryBlock s tr row r.index.toNat r.sub.toNat with
  | some st => (st, [], if st = .mainReset then bump s 0x9050 1 else s)
  | none =>
    match op with
    | .describe =>
      if r.offset ≠ 0#32 ∨ r.length ≠ 8#16 then (.malformed, [], s)
      else (.ok, describeBytes row.ty row.acc row.keep (entSize s row r.index.toNat r.sub.toNat), s)
    | .write =>
      let w := writeEntry s tr r row
      (w.1, [], w.2)
    | .read => catRead s tr false r row
    | .readStaged => catRead s tr true r row

def serveNow (s : State) (tr : Transport) (op : CatOp) (r : CatReq) : CatStatus × List Byte × State :=
  if !headerOk op r then (.malformed, [], s)
  else if r.sub = 0#8 then serveCount s tr op r
  else
    match findRow r.index.toNat r.sub.toNat with
    | none => (.noEntry, [], s)
    | some row => serveEntry s tr op r row

/-- A request served, after the contexts whose timeout has passed are empty. -/
def serve (s : State) (tr : Transport) (op : CatOp) (r : CatReq) : CatStatus × List Byte × State := serveNow (expireStages s) tr op r

/-- The bytes of a response (Table 14.3). -/
def response (op : Nat) (r : CatReq) (st : CatStatus) (data : List Byte) : List Byte :=
  leBytes 16 (op % 256 * 2 ^ 120 + r.tag.toNat * 2 ^ 112 + r.index.toNat * 2 ^ 96 + r.sub.toNat * 2 ^ 88 + st.code * 2 ^ 80 +
    data.length * 2 ^ 64) ++ data

/-! ## Responses on their transports (R419, R423) -/

/-- The Catalogue message within its MCTP message: type 0x7E, the vendor ID, the version byte (R419). -/
def mctpBody (msg : List Byte) : List Byte := 0x7E#8 :: ((leBytes 2 Config.vendorId.toNat).reverse ++ 1#8 :: msg)

/-- A message as packets of the 64-byte baseline transmission unit: the payload of each. -/
def mctpUnits : Nat → List Byte → List (List Byte)
  | 0, _ => []
  | n + 1, d => if d.length ≤ 64 then [d] else d.take 64 :: mctpUnits n (d.drop 64)

/-- A response of the mailbox: at once, or BUSY until it is due. -/
def mbxAnswer (s : State) (ns : Nat) (msg : List Byte) : State :=
  if ns = 0 then mbxDone s msg else { s with mbx := { s.mbx with busy := some (s.time + ns, msg) } }

/-- A response delivered on its transport, `ns` after its request. -/
def catDeliver (s : State) (tr : Transport) (ns : Nat) (msg : List Byte) : State :=
  match tr with
  | .mailbox => mbxAnswer s ns msg
  | .fragor _ => { s with out := .catalogue tr [msg] :: s.out }
  | _ => { s with out := .catalogue tr (mctpUnits 17 (mctpBody msg)) :: s.out }

/-- The times until the responses that a transport still owes. -/
def owing (s : State) (tr : Transport) : List Nat := (SMap.get s.owed (trCode tr) []).filter (fun t => decide (s.time < t))

/-- A response is owed for `ns`, of which the manual allows 5 ms; the reset of a RESET_CMD counts from it (R429). -/
def owe (s t : State) (tr : Transport) (ns : Nat) : State :=
  if ns = 0 then t
  else { t with owed := SMap.put t.owed (trCode tr) (owing s tr ++ [s.time + ns])
                resetReq := if t.resetReq = s.resetReq then t.resetReq else t.resetReq.map (· + ns) }

/-- A doorbell write or a write to MBX_REQ while BUSY is dropped and counted. -/
def mbxDrop (s : State) : State := { s with mbx := { s.mbx with drops := min (2 ^ 32 - 1) (s.mbx.drops + 1) } }

/-- Time until a response is sent. -/
def replyNs (ns : Nat) : Nat := min ns 5000000

/-- A request served and answered; one beyond 8 that are outstanding is answered BUSY, and one to a mailbox that is BUSY is
dropped and counted (R423, Table 14.6). -/
def request (s : State) (tr : Transport) (op : CatOp) (r : CatReq) : State :=
  let s := mbxSettle s
  if tr = .mailbox && s.mbx.busy.isSome then mbxDrop s
  else if 8 ≤ (owing s tr).length then catDeliver s tr 0 (response op.code r .busy [])
  else
    let a := serve s tr op r
    catDeliver (owe s a.2.2 tr (replyNs r.ns)) tr (replyNs r.ns) (response op.code r a.1 a.2.1)

/-- A request as it comes, where its transport is available. -/
def arrive (s : State) (tr : Transport) (op : CatOp) (r : CatReq) : State := if available s tr then request s tr op r else s

/-- The write of a value to an entry. -/
def writeReq (tag : BitVec 8) (idx sub n v : Nat) : CatReq :=
  { tag := tag, index := BitVec.ofNat 16 idx, sub := BitVec.ofNat 8 sub, status := 0#8, length := BitVec.ofNat 16 n, offset := 0#32,
    rsv := 0#32, ns := 0, data := leBytes n v }

/-- A message taken apart: its OP and its fields. -/
def parseMsg (d : List Byte) : Nat × CatReq :=
  let h := leNat (d.take 16)
  (bits h 127 120,
    { tag := BitVec.ofNat 8 (bits h 119 112), index := BitVec.ofNat 16 (bits h 111 96), sub := BitVec.ofNat 8 (bits h 95 88),
      status := BitVec.ofNat 8 (bits h 87 80), length := BitVec.ofNat 16 (bits h 79 64), offset := BitVec.ofNat 32 (bits h 63 32),
      rsv := BitVec.ofNat 32 (bits h 31 0), ns := 0, data := d.drop 16 })

/-- A whole message served: its response and the state after. One shorter than its header, or with a reserved OP, is
malformed. -/
def serveMessage (s : State) (tr : Transport) (d : List Byte) : List Byte × State :=
  let m := parseMsg d
  match CatOp.of? m.1 with
  | some op =>
    if d.length < 16 then (response m.1 m.2 .malformed [], s)
    else
      let a := serve s tr op m.2
      (response m.1 m.2 a.1 a.2.1, a.2.2)
  | none => (response m.1 m.2 .malformed [], s)

/-- The request in MBX_REQ: a write carries LENGTH bytes. -/
def mbxMessage (s : State) : List Byte :=
  let h := (List.range 16).map (mbxByte s.mbx.req)
  let n := leNat ((h.drop 8).take 2)
  if h.getD 15 0#8 = 2#8 then h ++ (List.range (min n 4080)).map (fun i => mbxByte s.mbx.req (16 + i)) else h

/-- A doorbell write of 1, answered after `ns`. -/
def mbxGo (s : State) (ns : Nat) : State :=
  let a := serveMessage s .mailbox (mbxMessage s)
  mbxAnswer (owe s a.2 .mailbox (replyNs ns)) (replyNs ns) a.1

/-- A doorbell write. -/
def mbxDoor (s : State) (v ns : Nat) : State :=
  let s := mbxSettle s
  if s.mbx.busy.isSome then mbxDrop s else if v = 1 then mbxGo s ns else s

/-- A 4-byte write within the mailbox; one to the doorbell is answered at once. -/
def mbxWrite (s : State) (o v : Nat) : State :=
  let s := mbxSettle s
  if o = 0 then mbxDoor s v 0
  else if o = 4 then (if bit1 v 1 then { s with mbx := { s.mbx with done := false } } else s)
  else if o = 8 then (if v ≤ 127 then { s with mbx := { s.mbx with vector := v } } else s)
  else if 0x1000 ≤ o ∧ o < 0x2000 then
    (if s.mbx.busy.isSome then mbxDrop s else { s with mbx := { s.mbx with req := putBytes s.mbx.req (o - 0x1000) (leBytes 4 v) } })
  else s

end Sys2Proof.Machine
end

