-- ==== Sys2Proof/Machine/CatalogueCmds.lean ====
section
/-! DEFINITION. The commands of the Catalogue, the mailbox and BAR0, management packets, MCTP control and I3C addresses
(The Catalogue, the Conservator and the Ledger; R258, R308, R320, R322, R419, R420). -/

namespace Sys2Proof.Machine

/-! ## Requests -/

def execCatalogueRead (tr : Transport) (r : CatReq) (s : State) : Res := ends s (arrive s tr .read r)
def execCatalogueWrite (tr : Transport) (r : CatReq) (s : State) : Res := ends s (arrive s tr .write r)
def execReadStaged (tr : Transport) (r : CatReq) (s : State) : Res := ends s (arrive s tr .readStaged r)
def execDescribe (tr : Transport) (r : CatReq) (s : State) : Res := ends s (arrive s tr .describe r)

/-- Does a request name an entry of an access class? -/
def names (r : CatReq) (acc : Acc) : Bool :=
  match findRow r.index.toNat r.sub.toNat with
  | some row => row.acc == acc
  | none => false

def execStagedEntryWrite (tr : Transport) (r : CatReq) (s : State) : Res := ends s (if names r .rws then arrive s tr .write r else s)
def execConsEntryWrite (tr : Transport) (r : CatReq) (s : State) : Res := ends s (if names r .cons then arrive s tr .write r else s)

/-- A request with a reserved OP is answered MALFORMED and acts on nothing (R418). -/
def execCatalogueReservedOp (tr : Transport) (op : BitVec 8) (r : CatReq) (s : State) : Res :=
  ends s (if available s tr && (CatOp.of? op.toNat).isNone then catDeliver s tr 0 (response op.toNat r .malformed []) else s)

/-- A write of a value to a command entry. -/
def cmdWrite (s : State) (tr : Transport) (tag : BitVec 8) (idx sub n v : Nat) : State := arrive s tr .write (writeReq tag idx sub n v)

def execCommit (tr : Transport) (tag v : BitVec 8) (s : State) : Res := ends s (cmdWrite s tr tag 0xF000 1 1 v.toNat)
def execAbort (tr : Transport) (tag v : BitVec 8) (s : State) : Res := ends s (cmdWrite s tr tag 0xF000 2 1 v.toNat)
def execStageContextExpiry (tr : Transport) (s : State) : Res := ends s (if s.main = .off then s else stageExpire s tr)
def execResetCmd (tr : Transport) (tag : BitVec 8) (v : BitVec 32) (s : State) : Res := ends s (cmdWrite s tr tag 0xF010 1 4 v.toNat)
def execPersistClear (tr : Transport) (tag : BitVec 8) (v : BitVec 32) (s : State) : Res := ends s (cmdWrite s tr tag 0xF020 1 4 v.toNat)
def execPowerReqRun (tr : Transport) (tag : BitVec 8) (s : State) : Res := ends s (cmdWrite s tr tag 0xA030 2 1 0)
def execPowerReqSleep (tr : Transport) (tag : BitVec 8) (s : State) : Res := ends s (cmdWrite s tr tag 0xA030 2 1 1)
def execPowerReqDeep (tr : Transport) (tag : BitVec 8) (s : State) : Res := ends s (cmdWrite s tr tag 0xA030 2 1 2)
def execFabTransitReq (tr : Transport) (tag v : BitVec 8) (s : State) : Res := ends s (cmdWrite s tr tag 0x8040 1 1 v.toNat)
def execKeepRelease (tr : Transport) (tag v : BitVec 8) (s : State) : Res := ends s (cmdWrite s tr tag 0x6810 4 1 v.toNat)
def execRetrainReq (tr : Transport) (tag : BitVec 8) (v : BitVec 16) (s : State) : Res := ends s (cmdWrite s tr tag 0x6830 3 2 v.toNat)
def execShutdownClear (tr : Transport) (tag v : BitVec 8) (s : State) : Res := ends s (cmdWrite s tr tag 0xB040 2 1 v.toNat)

/-! ## BAR0 (R258, Table 14.6) -/

def execMbxDoorbell (d : Doorbell) (s : State) : Res := ends s (if hostReaches s then mbxDoor s d.v.toNat d.ns else s)

def regWord (s : State) (off v : Nat) : State :=
  if 0x10000 ≤ off ∧ off < 0x13000 then mbxWrite s (off - 0x10000) v else regWrite4 s off v

/-- A BAR0 write of 4 or 8 bytes, aligned; one of 8 bytes to 4-byte registers writes both. -/
def registerWrite (s : State) (off size v : Nat) : State :=
  if size = 4 && off % 4 == 0 then regWord s off (v % 2 ^ 32)
  else if size = 8 && off % 8 == 0 then
    if isWide off then wideWrite s off v else regWord (regWord s off (v % 2 ^ 32)) (off + 4) (v / 2 ^ 32)
  else s

def execRegisterWrite (off size : Nat) (v : BitVec 64) (s : State) : Res :=
  ends s (if hostReaches s then registerWrite s off size v.toNat else s)

/-! ## Management packets (R308, R320, R322) -/

/-- Has a source-routed packet reached the end of its route? -/
def atRouteEnd (pk : Packet) : Bool :=
  let w := routeBlock pk
  decide (32 ≤ pk.payload.length) && decide (1 ≤ rbHops w) && decide (rbHops w ≤ 60) && rbIdx w == rbHops w

/-- Does a management packet arrive for this part? -/
def mgmtArrives (s : State) (p : Nat) (pk : Packet) (op : Nat) : Bool :=
  (portUp s p || p == 16) && pkOp pk == op && hcrcOk pk && pkWhole pk &&
    (if pkSrt pk then atRouteEnd pk else ownAddr s == some (pkDst pk))

/-- Its payload without the route block. -/
def mgmtBody (pk : Packet) : List Byte := if pkSrt pk then pk.payload.drop 32 else pk.payload

def mgmtBad (pk : Packet) : Bool :=
  !pkAdaptive pk || pkArgs pk != 0 || decide ((mgmtBody pk).length < 5) || decide (256 < pkLen pk)

/-- The message of a payload that ends in its CRC. -/
def bodyMsg (d : List Byte) : List Byte := d.take (d.length - 4)
def bodyOk (d : List Byte) : Bool := leNat (d.drop (d.length - 4)) == (crc32 (bodyMsg d)).toNat

/-- A response that fits into one packet; one that does not becomes a refusal. -/
def fitMsg (room : Nat) (d : List Byte) : List Byte :=
  if d.length + 4 ≤ room then d else response (leNat ((d.drop 15).take 1)) (parseMsg d).2 .malformed []

/-- The MGMT_RESP of a request with its message. -/
def sendMgmtResp (s : State) (p : Nat) (rq : Packet) (msg : List Byte) : State :=
  respondMgmt s p rq (fitMsg (if pkSrt rq then 224 else 256) msg)

/-- A MGMT_REQ for this part; one that breaks Table 10.5 is answered with status MALFORMED (R300, R301). -/
def mgmtIn (s : State) (p : Nat) (pk : Packet) : State :=
  if tooOld s pk then ageDrop s p pk
  else if mgmtBad pk then
    let m := parseMsg (bodyMsg (mgmtBody pk))
    sendMgmtResp (bump s 0x8050 11) p pk (response m.1 m.2 .malformed [])
  else if !bodyOk (mgmtBody pk) then bump s 0x8050 10
  else
    let a := serveMessage s (.fragor (pkSrc pk)) (bodyMsg (mgmtBody pk))
    sendMgmtResp a.2 p pk a.1

def execMgmtReq (p : Nat) (pk : Packet) (s : State) : Res :=
  ends s (if mgmtServed s && mgmtArrives s p pk 4 then mgmtIn (giveCredit s p pk) p pk else s)

/-- A MGMT_RESP for this part: its message goes to the one that asked. -/
def mgmtBack (s : State) (pk : Packet) : State :=
  if tooOld s pk then bump s 0x8050 7
  else if mgmtBad pk then bump s 0x8050 11
  else if !bodyOk (mgmtBody pk) then bump s 0x8050 10
  else { s with out := .catalogue (.fragor (pkSrc pk)) [bodyMsg (mgmtBody pk)] :: s.out }

def execMgmtResp (p : Nat) (pk : Packet) (s : State) : Res :=
  ends s (if mgmtServed s && mgmtArrives s p pk 5 then mgmtBack (giveCredit s p pk) pk else s)

/-! ## MCTP control and I3C (R419, R420) -/

/-- Is the endpoint of a port reachable: 0 Conservator port, 1 management port, 2 PCIe? -/
def endpointOn (s : State) (port : Nat) : Bool :=
  if port = 2 then available s .mctp else decide (port < 2) && s.main != .off

/-- An MCTP control response: command, completion code, data. -/
def mctpAnswer (s : State) (port cmd cc : Nat) (data : List Byte) : State :=
  if endpointOn s port then { s with out := .mctp port (leBytes 1 cmd ++ leBytes 1 cc ++ data) :: s.out } else s

/-- Endpoint IDs 0x00 and 0xFF are refused as invalid data. -/
def setEid (s : State) (port : Nat) (eid : BitVec 8) : State :=
  if !endpointOn s port then s
  else if eid = 0#8 ∨ eid = 0xFF#8 then mctpAnswer s port 1 2 []
  else mctpAnswer { s with eids := SMap.put s.eids port eid.toNat } port 1 0 [0#8, eid, 0#8]

def execSetEndpointId (port : Nat) (eid : BitVec 8) (s : State) : Res := ends s (setEid s port eid)

def execGetEndpointId (port : Nat) (s : State) : Res :=
  ends s (mctpAnswer s port 2 0 (leBytes 1 (SMap.get s.eids port 0) ++ [0#8, 0#8]))

def execGetEndpointUuid (port : Nat) (s : State) : Res :=
  ends s (mctpAnswer s port 3 0 (leBytes 16 (Config.endpointUuid port).toNat))

def execGetMctpVersionSupport (port : Nat) (s : State) : Res :=
  ends s (mctpAnswer s port 4 0 (1#8 :: leBytes 4 Config.mctpVersion.toNat))

def execGetMessageTypeSupport (port : Nat) (s : State) : Res := ends s (mctpAnswer s port 5 0 [1#8, 0x7E#8])

/-- The one vendor ID set: no further set, the PCI format, the vendor ID, high byte first. -/
def execGetVendorDefinedMsgSupport (port : Nat) (s : State) : Res :=
  ends s (mctpAnswer s port 6 0 ([0xFF#8, 0#8] ++ (leBytes 2 Config.vendorId.toNat).reverse ++ leBytes 2 Config.vdmVersion.toNat))

/-- Any other control command is answered ERROR_UNSUPPORTED_CMD. -/
def execMctpUnsupportedCmd (port : Nat) (cmd : BitVec 8) (s : State) : Res :=
  ends s (if 1 ≤ cmd.toNat ∧ cmd.toNat ≤ 6 then s else mctpAnswer s port cmd.toNat 5 [])

/-- A dynamic address given to an I3C port that has none. -/
def i3cAssign (s : State) (port addr : Nat) : State :=
  if s.main = .off || (SMap.find? s.i3c port).isSome || decide (128 ≤ addr) then s else { s with i3c := SMap.put s.i3c port addr }

def execSetdasa (static addr : Nat) (s : State) : Res :=
  ends s (if static = 0x2E then i3cAssign s 0 addr else if static = 0x2F then i3cAssign s 1 addr else s)

/-- The 48-bit provisional ID (R420). UNIQUE_ID is a fuse value: where no bring-up has read it since the standby supply came,
it is open. -/
def provisionalId (s : State) : Nat := Config.mipiId.toNat * 2 ^ 33 + (s.con.uid.getD Config.unreadUid.toNat) % 2 ^ 32

/-- The port sends its provisional ID and takes the address. -/
def entdaa (s : State) (port addr : Nat) : State :=
  if s.main = .off || (SMap.find? s.i3c port).isSome then s
  else i3cAssign { s with out := .mctp port (leBytes 6 (provisionalId s)) :: s.out } port addr

def execEntdaa (port addr : Nat) (s : State) : Res := ends s (if port < 2 then entdaa s port addr else s)

end Sys2Proof.Machine
end

