-- ==== Sys2Proof/Machine/HostCmds.lean ====
section
/-! DEFINITION. The commands of the host interface: doorbells, queue control, BAR2 accesses, configuration requests,
descriptor fetch, admission and completion. -/

namespace Sys2Proof.Machine

/-- What a host request does once it reaches the part. -/
def fromHost (s : State) (f : State → State) : State := if hostReaches s then f s else s

def execSqTailDoorbell (q : Nat) (v : BitVec 32) (s : State) : Res := ends s (fromHost s (fun s => if q < 64 then tailWrite s q v.toNat else s))
def execCqHeadDoorbell (q : Nat) (v : BitVec 32) (s : State) : Res := ends s (fromHost s (fun s => if q < 64 then headWrite s q v.toNat else s))

/-- A write of Q_CTRL with ENABLE 1 (R262). -/
def execQueueEnable (q : Nat) (v : BitVec 64) (s : State) : Res :=
  ends s (fromHost s (fun s => if q < 64 && enBit v.toNat then ctrlWrite s q v.toNat else s))

/-- A write of Q_CTRL with ENABLE 0 (R263). -/
def execQueueDisable (q : Nat) (v : BitVec 64) (s : State) : Res :=
  ends s (fromHost s (fun s => if q < 64 && !enBit v.toNat then ctrlWrite s q v.toNat else s))

def execDiscardReq (v : BitVec 32) (s : State) : Res := ends s (fromHost s (fun s => discardReq s v.toNat))
def execApertureBaseWrite (i : Nat) (v : BitVec 64) (s : State) : Res := ends s (fromHost s (fun s => apertureWrite s i v.toNat))

/-- A read through BAR2, or one of BAR0, for which the table of operations has no row: completed `ns` after it arrives,
never later than 50 µs (R257). -/
def execBar2Read (off : BarOffset) (len : Nat) (tag : ReadTag) (s : State) : Res :=
  ends s (fromHost s (fun s =>
    if tag.ns ≤ 50000 then (if off.bar0 then bar0Read s off.off len tag else bar2Read s off.off len tag) else s))
def execBar2Write (off : Nat) (data : SentBytes) (s : State) : Res := ends s (fromHost s (fun s => bar2Write s off data))

/-- A host write that reaches flag space (R122). -/
def execFlagWordWrite (a : Nat) (data : List Byte) (s : State) : Res :=
  ends s (fromHost s (fun s => if bar2Serves s then
      match homeOf s a with
      | .flag t off => inTurn s (.flag a data) (fun s => flagWrite s t off data)
      | _ => s
    else s))

/-- A host write that reaches a reduction context (R172). -/
def execReductionContextWrite (a : Nat) (data : List Byte) (s : State) : Res :=
  ends s (fromHost s (fun s => if bar2Serves s then
      match homeOf s a with
      | .ctx b n o => inTurn s (.context a data) (fun s => ctxWrite s b n o data)
      | _ => s
    else s))

def execBar2AtomicFetchadd (off : Nat) (wide : Bool) (v : BitVec 64) (tag : Nat) (s : State) : Res :=
  ends s (fromHost s (fun s => if bar2Addr s off % (if wide then 8 else 4) = 0 then bar2Atomic s off wide false 0 v.toNat tag else s))
def execBar2AtomicCas (off : Nat) (wide : Bool) (cmp swap : BitVec 64) (tag : Nat) (s : State) : Res :=
  ends s (fromHost s (fun s => if bar2Addr s off % (if wide then 8 else 4) = 0 then
    bar2Atomic s off wide true cmp.toNat swap.toNat tag else s))

/-- Swap and 128-bit CAS complete with Unsupported Request (R175). -/
def execBar2AtomicUnsupported (_off tag : Nat) (s : State) : Res := ends s (fromHost s (fun s => hostSend s (.cplUr tag)))

/-- What a capability of the function reads, as Table 9.1 gives it, in the fields that PCIe gives the capability: PRESUMED
(log 20). -/
def capValue (s : State) (c : Cap) : Nat :=
  match c with
  | .powerState => (if s.link.d3hot then 3 else 0) + 2 ^ 3
  | .msixControl => 127
  | .msixTable => 0x3000000
  | .msixPba => 0x3001000
  | .aer => 1
  | .ats => 2 ^ 5 + 2 ^ 6
  | .atsControl => if s.link.ats then 2 ^ 15 else 0
  | .pasid => 20 * 2 ^ 8
  | .pasidControl => if s.link.pasid then 1 else 0
  | .priCapacity => 1024
  | .priAlloc => s.link.priAlloc
  | .priControl => (if s.link.pri then 1 else 0) + (if s.link.priStopped then 2 ^ 24 else 0)
  | .atomicOps => 2 ^ 7 + 2 ^ 8
  | .bar0Size => 0x4000000
  | .bar2Sizes => 2 ^ 25 - 2 ^ 14
  | .bar2Size => s.link.bar2Log - 20
  | .bar0Type => 2 * 2
  | .bar2Type => 2 * 2 + 2 ^ 3
  | .linkMost => 6 + 16 * 2 ^ 4
  | .linkRates => 2 ^ 7 - 2

/-- A configuration request answered (Table 9.1). -/
def configAnswer (s : State) (op : ConfigOp) (tag : Nat) : State :=
  let done (s : State) (v : Nat) : State := { s with out := .cfg tag (BitVec.ofNat 64 v) :: s.out }
  match op with
  | .readIds => done s (Config.vendorId.toNat + Config.deviceId.toNat * 2 ^ 16)
  | .readClass => done s 0x120000
  | .readSerial => done s s.bringup.uid
  | .readCap c => done s (capValue s c)
  | .setPasid b => done { s with link := { s.link with pasid := b } } 0
  | .setAts b => done { s with link := { s.link with ats := b }, atc := if b then s.atc else [] } 0
  | .setPri b => done { s with link := { s.link with pri := b } } 0
  | .setPriAlloc n => done { s with link := { s.link with priAlloc := n } } 0
  | .setPriStopped b => done { s with link := { s.link with priStopped := b } } 0
  | .setBar2Log n =>
    if 30 ≤ n ∧ n ≤ 40 then done (setEnt { s with link := { s.link with bar2Log := n } } 0x3000 4 (2 ^ n)) 0 else done s 0

/-- A configuration request: Request Retry Status until step 8 of bring-up (R290). -/
def execConfigRequest (op : ConfigOp) (tag : Nat) (s : State) : Res :=
  ends s (if !s.link.l0 || s.link.l12 then s
    else if bar0Answers s then configAnswer s op tag
    else if s.main = .bringup || s.main = .coldHold || s.main = .resetting then { s with out := .cfgRetry tag :: s.out }
    else s)

def execDescriptorFetch (q : Nat) (desc : BitVec 512) (s : State) : Res :=
  ends s (if q < 64 && mayFetch s q then whole s 0 (fun s => fetchDesc s q desc.toNat) else s)

def execJobAdmit (s : State) : Res :=
  ends s (if jobsRun s then
      match toAdmit s with
      | some o => admitJob s o
      | none => s
    else s)

/-- A job is complete: its COMPLETE entry is due (R272). -/
def execJobComplete (j : Nat) (s : State) : Res :=
  ends s (match SMap.find? s.jobs j with
    | some jb =>
      if s.main = .ready && jobDone s j jb then
        postComp (endJob s j) { q := jb.q, slot := jb.slot, jobId := jId jb.desc, status := 0, cause := 0, ltile := 0xFFFF, word := 0 }
      else s
    | none => s)

def execCompletionEntryWrite (q : Nat) (s : State) : Res :=
  ends s (if mayWriteComp s q then
      match takeFirst (fun (c : Comp) => c.q == q) s.comps with
      | (some c, rest) => writeComp { s with comps := rest } q c
      | (none, _) => s
    else s)

/-- A queue's interrupt holdoff ends, and the last vector due goes (R266). -/
def execMsixHoldoffEnd (q : Nat) (s : State) : Res :=
  ends s (match (queue s q).holdoff with
    | none => s
    | some t =>
      let s := advance s (t + rd s 0x3010 1 * 1000)
      let v := queue s q
      if v.vectorDue then sendVector (setQueue s q { v with vectorDue := false, holdoff := some s.time }) (bits v.ctrl 54 48)
      else setQueue s q { v with holdoff := none })

end Sys2Proof.Machine
end

