-- ==== Sys2Proof/Machine/Movers.lean ====
section
/-! DEFINITION. Mover descriptors: their checks, triggers, the operations COPY, FILL, BCAST, REDUCE and CAS, and their
signals (R128, R166, R254, R271, R275 to R277). -/

namespace Sys2Proof.Machine

/-! ## Fields of a mover descriptor (Table 9.13) -/

def mTrigArg (d : Nat) : Nat := bits d 391 376
def mTrig (d : Nat) : Nat := bits d 375 374
def mAck (d : Nat) : Bool := bit1 d 373
def mSigRem (d : Nat) : Bool := bit1 d 372
def mSigN (d : Nat) : Nat := bits d 356 341
def mFaddr (d : Nat) : Nat := bits d 318 304
def mFclass (d : Nat) : Nat := bits d 303 303
def mDrem (d : Nat) : Bool := bit1 d 302
def mSrem (d : Nat) : Bool := bit1 d 301
def mDhost (d : Nat) : Bool := bit1 d 300
def mShost (d : Nat) : Bool := bit1 d 299
def mRop (d : Nat) : Nat := bits d 294 291
def mCid (d : Nat) : Nat := bits d 290 275
def mCas64 (d : Nat) : Bool := bit1 d 274
def mOp (d : Nat) : Nat := bits d 272 270
def mAux (d : Nat) : Nat := bits d 255 192
def mLen (d : Nat) : Nat := bits d 191 128
def mDst (d : Nat) : Nat := bits d 127 64
def mSrc (d : Nat) : Nat := bits d 63 0
def mHint (d : Nat) : Hint := hintOf (bits d 298 297)
def mPrio (d : Nat) : Nat := bits d 296 295

/-- How descriptor i of job j makes its device accesses. -/
def mHow (j i d : Nat) : How := { rq := .mover j i, hint := mHint d, prio := mPrio d, narrow := false }

/-! ## Checks (R275, R276, Tables 9.14 and 9.15) -/

/-- A descriptor that breaks its layout, Table 9.14 or Table 9.15. -/
def badMover (jb : Job) (i d : Nat) : Bool :=
  let op := mOp d
  let arg := mTrigArg d
  let inSet (t : Nat) : Bool := (jobTiles jb).contains t
  let sides := ([mShost d, mDhost d, mSrem d, mDrem d].filter id).length
  let lay := (crc32 ((leBytes 64 d).take 60)).toNat != bits d 511 480 || bits d 479 392 != 0 || bits d 269 256 != 0 ||
    decide (4 < op) || mPrio d == 3
  let trig := match mTrig d with
    | 1 => decide (i ≤ arg)
    | 2 => !inSet arg
    | _ => arg != 0
  let sig := if mSigN d = 0 then mAck d || mSigRem d || bits d 371 357 != 0 || bits d 340 319 != 0
    else decide (47 < bits d 340 335) || (!mSigRem d && (bits d 371 357 != 0 || !inSet (bits d 334 319)))
  let side := decide (1 < sides) || (decide (0 < sides) && (op == 1 || op == 2 || op == 4)) || (op == 3 && (mDhost d || mSrem d)) ||
    (!(mSrem d || mDrem d) && bits d 318 303 != 0)
  let fields := (op != 3 && bits d 294 275 != 0) || (op == 3 && (decide (9 < mRop d) || (mRop d != 5 && mCid d != 0))) ||
    (mCas64 d && op != 4) || (bit1 d 273 && op != 2) || (mDrem d && decide (2 ^ 48 ≤ mDst d)) || (mSrem d && decide (2 ^ 48 ≤ mSrc d))
  let w := if mCas64 d then 8 else 4
  let g := if 0x100000000000 ≤ mDst d ∧ mDst d < 0x200000000000 then 256 else 64
  let args := match op with
    | 0 => mAux d != 0 || mLen d == 0 || decide (2 ^ 40 ≤ mLen d)
    | 1 => mAux d != 0 || mDst d % g != 0 || mLen d % g != 0
    | 2 => bits d 255 224 != 0 || mDst d % 64 != 0 || mLen d % 64 != 0
    | 3 => mAux d != 0 || mLen d % 64 != 0 || mDst d % 64 != 0
    | _ => bits d 255 240 != 0 || mDst d % w != 0 || decide (2 ^ (8 * w) ≤ mSrc d) || decide (2 ^ (8 * w) ≤ mLen d)
  lay || trig || sig || side || fields || args

def mFault (s : State) (j cause : Nat) : State := jobFault s j cause 0xFFFF 0

/-- The job's list fetched and checked in index order, up to descriptor i (R276). -/
def fetchMovers (j i : Nat) : Nat → State → State
  | 0, s => s
  | k + 1, s =>
    match SMap.find? s.jobs j with
    | none => s
    | some jb =>
      let n := jb.movers.length
      if i < n || bits jb.desc 391 376 ≤ n then s
      else
        match readWord s (plain .none) (bits jb.desc 375 328 + 64 * n) [] with
        | (.data w, s) =>
          let d := leNat w
          if badMover jb n d then mFault s j 0x33
          else fetchMovers j i k { s with jobs := SMap.put s.jobs j { jb with movers := jb.movers ++ [(d, .waiting)] } }
        | (.poison, s) => mFault s j 0x31
        | (.failed, s) => failedReq s

/-! ## Starting (R276) -/

/-- Has a descriptor's trigger occurred (Table 9.15)? -/
def triggered (s : State) (jb : Job) (d : Nat) : Bool :=
  match mTrig d with
  | 0 => true
  | 1 => (jb.movers.getD (mTrigArg d) (0, .waiting)).2 == .done
  | 2 => (tile s (mTrigArg d)).ended
  | _ => (jobTiles jb).all (fun t => (tile s t).ended)

/-- The B-die whose movers run a descriptor. -/
def moverDie (s : State) (d : Nat) : Nat :=
  homeDie s (if mOp d = 4 then mDst d else if mOp d = 2 || mDhost d || mDrem d then mSrc d else mDst d)

/-- Movers in use. -/
def busyMovers (s : State) : List Nat :=
  s.jobs.flatMap (fun (j : Nat × Job) => j.2.movers.filterMap (fun m =>
    match m.2 with
    | .running n => some n
    | .worked n => some n
    | _ => none))

def setMover (s : State) (j i : Nat) (st : MvState) : State :=
  match SMap.find? s.jobs j with
  | none => s
  | some jb => { s with jobs := SMap.put s.jobs j { jb with movers := jb.movers.set i ((jb.movers.getD i (0, .done)).1, st) } }

/-- A descriptor whose trigger has occurred starts on a free mover, after those of lower index. -/
def startMover (s : State) (j i : Nat) : State :=
  match SMap.find? s.jobs j with
  | none => s
  | some jb =>
    match jb.movers[i]? with
    | some (d, .waiting) =>
      let b := moverDie s d
      let earlier := (jb.movers.take i).any (fun m => m.2 == .waiting && triggered s jb m.1)
      match (List.range 8).find? (fun n => !(busyMovers s).contains (8 * b + n)) with
      | some n => if triggered s jb d && !earlier then setMover s j i (.running (8 * b + n)) else s
      | none => s
    | _ => s

/-! ## COPY -/

/-- The bytes [o, o + n) of a copy cut where the device side leaves a word and at every 4,096 bytes. -/
def spans (dev len : Nat) : Nat → Nat → List (Nat × Nat)
  | 0, _ => []
  | k + 1, o =>
    if len ≤ o then []
    else
      let n := min (min (64 - (dev + o) % 64) (4096 - o % 4096)) (len - o)
      (o, n) :: spans dev len k (o + n)

/-- The pieces of a copy between a far and a device address. -/
def copyPieces (far dev len : Nat) : List Piece :=
  (spans dev len (len + 1) 0).flatMap (fun p => splitPiece { far := 8 * (far + p.1), dev := 8 * (dev + p.1), width := 8 * p.2, data := none, kind := .element })

/-- How one part of a copy was read: its bytes, none for poison; whether a read failed; what the next read may use. -/
abbrev Part := EAcc × Option (List Byte) × Bool × RBuf × State

/-- The source bytes of one part of a copy on the package, for the destination `to`; a part that overlaps takes an open function of
what it is (R34, R275). The words of a line that a descriptor reads one after the other are one access to the line (R194). -/
def copySource (s : State) (jb : Job) (how : How) (b : RBuf) (a dst n : Nat) (clash : Bool) : Part :=
  if !allowed s jb false how.hint a (a + n - 1) then (.outside, none, false, b, s)
  else
    match readBytesB how (n + 1) b s a n with
    | (.val _, d, b, s) =>
      (.val 0, some (if clash then leBytes n (Config.overlapChoice dst n (leNat d)).toNat else d), false, b, s)
    | (.poison, _, b, s) => (.val 0, none, false, b, s)
    | (_, _, b, s) => (.val 0, none, true, b, s)

/-- The parts of one destination unit: a whole HBM line, or less than a word's worth more. -/
def unitSpans (dst : Nat) (l : List (Nat × Nat)) : List (List (Nat × Nat)) :=
  let rec go : List (Nat × Nat) → List (List (Nat × Nat)) → List (List (Nat × Nat))
    | [], acc => (acc.map (·.reverse)).reverse
    | p :: r, acc =>
      match acc with
      | (q :: u) :: rest => if (dst + q.1) / 256 = (dst + p.1) / 256 then go r ((p :: q :: u) :: rest) else go r ([p] :: acc)
      | _ => go r ([p] :: acc)
  go l []

/-- The sources of one unit read. -/
def readUnit (jb : Job) (how : How) (src dst len : Nat) :
    List (Nat × Nat) → RBuf → List (Option (List Byte) × Nat) → Bool → State →
    EAcc × List (Option (List Byte) × Nat) × Bool × RBuf × State
  | [], b, acc, bad, s => (.val 0, acc.reverse, bad, b, s)
  | (o, n) :: r, b, acc, bad, s =>
    let meets' (a b : Nat) : Bool := decide (a < b + len) && decide (b < a + n)
    match copySource s jb how b (src + o) (dst + o) n (meets' (dst + o) src || meets' (src + o) dst) with
    | (.val _, d, f, b, s) => readUnit jb how src dst len r b ((d, n) :: acc) (bad || f) s
    | (e, _, _, b, s) => (e, acc, bad, b, s)

/-- A copy on the package, unit by unit; `bad` notes a failed part. -/
def copyUnits (jb : Job) (how : How) (src dst len : Nat) : List (List (Nat × Nat)) → RBuf → Bool → State → Work × State
  | [], _, bad, s => (if bad then .failed else .done, s)
  | u :: r, b, bad, s =>
    match readUnit jb how src dst len u b [] false s with
    | (.val _, ps, f, b, s) =>
      match storeCopy s jb how (dst + (u.headD (0, 0)).1) ps with
      | (.val _, s) => copyUnits jb how src dst len r b (bad || f) s
      | (.failed, s) => copyUnits jb how src dst len r b true s
      | (e, s) => faultWith (bad || f) e s
    | (e, _, f, _, s) => faultWith (bad || f) e s

/-- A transfer of a mover entered and begun. -/
def moverXfer (s : State) (j i d : Nat) (toDev : Bool) (far dev : Nat) (rop : Option (Nat × Nat)) : Work × State :=
  let ps := copyPieces far dev (mLen d)
  let remote := if mSrem d || mDrem d then some (mFaddr d, mFclass d) else none
  let n := newXfer s { job := j, eng := .mover j i, toDev := toDev, remote := remote, hint := mHint d, prio := mPrio d, rop := rop,
                       blocks := farBlocks remote.isSome toDev ps, started := false, ats := none,
                       prg := none, tags := [], ack := mDhost d && mAck d, last := 0, pend := [] }
  (.xfer n.1, n.2)

def copyWork (j i d : Nat) (jb : Job) (s : State) : Work × State :=
  if mShost d || mSrem d then moverXfer s j i d true (mSrc d) (mDst d) none
  else if mDhost d || mDrem d then moverXfer s j i d false (mDst d) (mSrc d) none
  else copyUnits jb (mHow j i d) (mSrc d) (mDst d) (mLen d) (unitSpans (mDst d) (spans (mDst d) (mLen d) (mLen d + 1) 0)) none false s

/-! ## FILL, BCAST, REDUCE, CAS -/

/-- The pattern written word by word, lines whole (R254). -/
def fillWork (j i d : Nat) (jb : Job) (s : State) : Work × State :=
  let w := (List.replicate 8 (leBytes 8 (mSrc d))).flatten
  let n := mLen d / 64
  if mLen d = 0 then (.done, s)
  else if !allowed s jb true (mHint d) (mDst d) (mDst d + mLen d - 1) then (.fault 0x25, s)
  else
    match storeParts (mHow j i d) (n + 1) s (mDst d) (List.replicate n (some w, 64)) with
    | (e, s) => (e.work, s)

/-- The destinations of a broadcast: the base of each tile's operand store or slice-local pool, and its size. -/
def bcastBases (s : State) (d : Nat) : List (Nat × Nat) :=
  (List.range (bits d 223 208)).map (fun k =>
    let t := bits d 207 192 + k
    if bit1 d 273 then (0x001800000000 + t * 0x400000, localBytes s) else (0x002000000000 + t * 0x100000, 0x100000))

/-- One word delivered to every destination. -/
def bcastWord (jb : Job) (how : How) (d : Nat) (v : Option (List Byte)) : List (Nat × Nat) → Nat → State → EAcc × State
  | [], _, s => (.val 0, s)
  | b :: r, o, s =>
    match storeCopy s jb how (b.1 + mDst d + o) [(v, 64)] with
    | (.val _, s) => bcastWord jb how d v r o s
    | e => e

def bcastWords (jb : Job) (how : How) (d : Nat) (bs : List (Nat × Nat)) : Nat → Nat → RBuf → Bool → State → Work × State
  | 0, _, _, bad, s => (if bad then .failed else .done, s)
  | k + 1, o, b, bad, s =>
    match copySource s jb how b (mSrc d + o) 0 64 false with
    | (.val _, v, f, b, s) =>
      match bcastWord jb how d v bs o s with
      | (.val _, s) => bcastWords jb how d bs k (o + 64) b (bad || f) s
      | (e, s) => faultWith (bad || f) e s
    | (e, _, _, _, s) => faultWith bad e s

/-- A broadcast read (R166): every destination must be allowed before any read. -/
def bcastWork (j i d : Nat) (jb : Job) (s : State) : Work × State :=
  let bs := bcastBases s d
  let tiles := (List.range (bits d 223 208)).map (fun k => bits d 207 192 + k)
  if mLen d = 0 then (.done, s)
  else if tiles.any (fun t => !(jobTiles jb).contains t) || bs.any (fun b => decide (b.2 < mDst d + mLen d)) ||
    bs.any (fun b => !allowed s jb true .normal (b.1 + mDst d) (b.1 + mDst d + mLen d - 1)) then (.fault 0x25, s)
  else bcastWords jb (mHow j i d) d bs (mLen d / 64) 0 none false s

/-- Contributions on the package combined at their target word by word. -/
def reduceGo (jb : Job) (how : How) (d : Nat) : Nat → Nat → RBuf → Bool → State → Work × State
  | 0, _, _, bad, s => (if bad then .failed else .done, s)
  | k + 1, o, b, bad, s =>
    match copySource s jb how b (mSrc d + o) 0 64 false with
    | (.val _, some v, _, b, s) =>
      match reduceWords jb how (mRop d) (mCid d) [(mDst d + o, v)] s with
      | (.val _, s) => reduceGo jb how d k (o + 64) b bad s
      | (.failed, s) => reduceGo jb how d k (o + 64) b true s
      | (e, s) => faultWith bad e s
    | (.val _, none, true, b, s) => reduceGo jb how d k (o + 64) b true s
    | (.val _, none, false, _, s) => faulted bad 0x31 s
    | (e, _, _, _, s) => faultWith bad e s

def moverReduceWork (j i d : Nat) (jb : Job) (s : State) : Work × State :=
  if mShost d then moverXfer s j i d true (mSrc d) (mDst d) (some (mRop d, mCid d))
  else if mDrem d then moverXfer s j i d false (mDst d) (mSrc d) (some (mRop d, mCid d))
  else reduceGo jb (mHow j i d) d (mLen d / 64) 0 none false s

def casWork (j i d : Nat) (jb : Job) (s : State) : Work × State :=
  let how := mHow j i d
  let n := if mCas64 d then 8 else 4
  if !allowed s jb true how.hint (mDst d) (mDst d + n - 1) || !allowed s jb true how.hint (mAux d) (mAux d + 7) then (.fault 0x25, s)
  else
    match atomicAt s how (mDst d) (mCas64 d) (swapIf (mCas64 d) (mSrc d) (mLen d)) with
    | (.data _, old, s) =>
      match flush s how (pendElem [] (8 * mAux d) 64 old false) with
      | (.val _, s) => (.done, s)
      | (e, s) => (e.work, s)
    | (.poison, _, s) => (.fault 0x31, s)
    | (.failed, _, s) => (.failed, s)

/-! ## Running and completing -/

/-- A descriptor that runs does its work: it is done with it, waits for a transfer, faults, or never completes. -/
def runMover (s : State) (j i op : Nat) (work : Nat → Job → State → Work × State) : State :=
  match SMap.find? s.jobs j with
  | none => s
  | some jb =>
    match jb.movers[i]? with
    | some (d, .running m) =>
      if s.main != .ready || !jb.running || mOp d != op || s.xfers.any (fun x => x.2.eng == .mover j i) then s
      else
        whole s 0 (fun s => match work d jb s with
        | (.done, s) => setMover s j i (.worked m)
        | (.fault c, s) => mFault (if c = 0x30 then failedReq s else s) j c
        | (.xfer n, s) => xGo s false n
        | (_, s) => failedReq s)
    | _ => s

/-- Has every write of a descriptor been sent on its link (R84, R277): no request of it is kept back or at an egress, and no host
write of it waits for the link; with ACK also none is unanswered (R128)? -/
def moverSent (s : State) (j i d : Nat) : Bool :=
  let mine (r : FReq) : Bool := r.job == j && r.mover == some i
  !(s.fab.waitReqs.any mine) && !(s.fab.reqs.any (fun r => mine r.2 && atEgress s r)) &&
    !hostWritesWait s (.mover j i) && (!mAck d || !(s.fab.reqs.any (fun r => mine r.2)))

/-- The signal of a complete descriptor (R277). -/
def moverSignal (s : State) (j d : Nat) : State :=
  if mSigN d = 0 then s
  else if mSigRem d then
    let r := remoteSignal s j 0xFFFF 0 (bits d 371 357) (bits d 334 319) (bits d 340 335) (mSigN d) none
    if r.1 then r.2 else mFault s j 0x25
  else signal s (bits d 334 319) (bits d 340 335) (mSigN d)

/-- A descriptor complete: its mover is free, and it signals. -/
def completeMover (s : State) (j i : Nat) : State :=
  match SMap.find? s.jobs j with
  | none => s
  | some jb =>
    match jb.movers[i]? with
    | some (d, .worked _) =>
      if moverSent s j i d then
        let s := if mOp d = 2 then bump s 0x6020 3 else s
        moverSignal (setMover s j i .done) j d
      else s
    | _ => s

/-! ## The commands -/

def execMoverDescriptorStart (j i : Nat) (s : State) : Res :=
  ends s (if s.main = .ready && s.jobs.any (fun (b : Nat × Job) => b.1 == j && b.2.running) then
      whole s 0 (fun s => startMover (fetchMovers j i (i + 1) s) j i)
    else s)
def execMoverCopy (j i : Nat) (s : State) : Res := ends s (runMover s j i 0 (fun d jb s => copyWork j i d jb s))
def execMoverFill (j i : Nat) (s : State) : Res := ends s (runMover s j i 1 (fun d jb s => fillWork j i d jb s))
def execMoverBcast (j i : Nat) (s : State) : Res := ends s (runMover s j i 2 (fun d jb s => bcastWork j i d jb s))
def execMoverReduce (j i : Nat) (s : State) : Res := ends s (runMover s j i 3 (fun d jb s => moverReduceWork j i d jb s))
def execMoverCas (j i : Nat) (s : State) : Res := ends s (runMover s j i 4 (fun d jb s => casWork j i d jb s))
/-- A descriptor complete, with what its mover received: one that has lost a word fails (R178, R236, R277). -/
def execMoverDescriptorComplete (j : Nat) (i : MoverEnd) (s : State) : Res :=
  ends s (if s.main = .ready then
      match SMap.find? s.jobs j with
      | some jb =>
        if (jb.movers[i.i]?).isSome then
          match takeReport s (.mover j i.i) i.got with
          | (true, s) => s
          | (false, s) => completeMover s j i.i
        else s
      | none => s
    else s)

end Sys2Proof.Machine
end

