-- ==== Sys2Proof/Machine/Xlate.lean ====
section
/-! DEFINITION. Translation of host memory and the host's answers: translation completions, page requests,
invalidations, host reads (R283 to R288). -/

namespace Sys2Proof.Machine

/-- A translation put into the cache of ATC_ENTRIES entries, the oldest leaving (R283). -/
def atcPut (s : State) (pasid : Nat) (g : PageGrant) : State :=
  let l := s.atc.filter (fun a => !(a.pasid == pasid && a.page == g.page))
  if g.read || g.write then
    let l := l ++ [{ pasid := pasid, page := g.page, read := g.read, write := g.write, host := g.host }]
    { s with atc := l.drop (l.length - rd s 0x3020 1) }
  else { s with atc := l }

/-- Pages of outstanding groups. -/
def prgPages (s : State) : Nat := s.prgs.foldl (fun n p => n + p.2.pages.length) 0

/-- A block whose pages withhold the access it needs (R286): a Page Request Group, or a fault. -/
def stallBlock (s : State) (n : Nat) (x : Xfer) (jb : Job) (missing : List Nat) : State :=
  if !s.link.pri || s.link.priStopped || decide (s.link.priAlloc < missing.length) then xFault s x 0x32
  else if s.link.priAlloc < prgPages s + missing.length then s
  else
    let k := s.nextPrg
    let s := { setX s n { x with prg := some k } with
      nextPrg := k + 1, prgs := SMap.put s.prgs k { x := n, pages := missing, sent := s.time, abandoned := false } }
    hostSend (bump s 0x3020 3) (.pageRequest k (jPasid jb.desc) missing (!x.toDev))

/-- Host transfers that wait for room in the allocation are translated again. -/
def retryStalled (s : State) : State :=
  s.xfers.foldl (fun s x =>
    match SMap.find? s.xfers x.1 with
    | some v => if v.remote.isNone && !v.started && v.ats.isNone && v.prg.isNone && v.tags.isEmpty then hostStart s false x.1 else s
    | none => s) s

/-- The translations of a block's pages arrive (R283 to R286). An answer that an invalidation has overtaken is not used:
the block translates again (R287); so does one whose answer leaves out a page. -/
def translated (s : State) (n : Nat) (pages : List PageGrant) : State :=
  match SMap.find? s.xfers n with
  | none => s
  | some x =>
    match x.ats, SMap.find? s.jobs x.job with
    | some k, some jb =>
      let x := { x with ats := none }
      if k = 2 then hostStart (setX s n x) false n
      else
        let s := setX (pages.foldl (fun s g => atcPut s (jPasid jb.desc) g) s) n x
        let withheld := (missingPages s (jPasid jb.desc) x).filter (fun p => pages.any (fun g => g.page == p))
        if s.main != .ready then s
        else if withheld.isEmpty then hostStart s false n else stallBlock s n x jb withheld
    | _, _ => s

def execAtsTranslationCompletion (x : Nat) (pages : List PageGrant) (s : State) : Res := ends s (enginesAll (translated s x pages))

/-- The answer to a Page Request Group (R286, R288). -/
def prgAnswer (s : State) (k : Nat) (success : Bool) : State :=
  match SMap.find? s.prgs k with
  | none => s
  | some p =>
    let s := { s with prgs := SMap.erase s.prgs k }
    let s := if p.abandoned then s
      else
        match SMap.find? s.xfers p.x with
        | none => s
        | some x => if success then hostStart (setX s p.x { x with prg := none }) false p.x else xFault s x 0x32
    retryStalled s

def execPrgResponse (prg : Nat) (success : Bool) (s : State) : Res := ends s (enginesAll (prgAnswer s prg success))

/-- No answer within PRI_TIMEOUT_MS (R286). -/
def execPriTimeout (prg : Nat) (s : State) : Res :=
  ends s (match SMap.find? s.prgs prg with
    | none => s
    | some p => enginesAll (prgAnswer (advance s (p.sent + rd s 0x3010 2 * 1000000)) prg false))

/-- Does an invalidation name a page? -/
def invalidates (pasid : Option Nat) (page pages : Nat) (p q : Nat) : Bool :=
  (match pasid with
   | none => true
   | some i => i == p) && decide (page ≤ q) && decide (q < page + pages)

/-- The PASID of a transfer's job. -/
def xPasid (s : State) (x : Xfer) : Nat :=
  match SMap.find? s.jobs x.job with
  | some jb => jPasid jb.desc
  | none => 0

/-- A transfer whose block has read through an affected translation and written nothing replays from the start; a read
that confirms its writes is made again. -/
def replayX (s : State) (n : Nat) (x : Xfer) : State :=
  let s := { s with reads := s.reads.map (fun (r : Nat × HostRead) => if r.2.x = n then (r.1, { r.2 with dropped := true }) else r) }
  let x := match x.blocks with
    | [] => { x with ack := true, tags := [] }
    | b :: r => { x with blocks := b.map (fun p => { p with data := none }) :: r, started := false, tags := [] }
  hostStart (setX s n x) false n

/-- The pages that a transfer reads now. -/
def readPages (s : State) (x : Xfer) : List Nat :=
  x.tags.flatMap (fun t => ((SMap.find? s.reads t).map (·.pages)).getD [])

/-- What an invalidation does to one transfer (R287): reads through an affected translation are made again, and a block
whose translations are on their way translates again. -/
def invalidateX (hit : Nat → Nat → Bool) (s : State) (n : Nat) : State :=
  match SMap.find? s.xfers n with
  | none => s
  | some x =>
    let hits (ps : List Nat) : Bool := ps.any (hit (xPasid s x))
    if x.remote.isSome then s
    else if x.ats.isSome then (if hits (wantPages x) then setX s n { x with ats := some 2 } else s)
    else if !x.tags.isEmpty && (hits (readPages s x) || hits (wantPages x)) then replayX s n x
    else s

/-- An ATS Invalidate Request served, `ns` from its arrival to its completion (R287). -/
def invalidate (s : State) (pasid : Option Nat) (page pages ns : Nat) : State :=
  let hit (p q : Nat) : Bool := invalidates pasid page pages p q
  let s := { advance s (s.time + ns) with atc := s.atc.filter (fun a => !hit a.pasid a.page) }
  let s := (s.xfers.map (·.1)).foldl (invalidateX hit) s
  hostSend (raise s 0x3020 5 ns) .invalidated

def execAtsInvalidate (pasid : Option Nat) (page pages : Nat) (ns : Nat) (s : State) : Res :=
  ends s (if hostReaches s && ns ≤ 200000 then invalidate s pasid page pages ns else s)

def execHostReadCompletion (tag : Nat) (ok : Bool) (data : List Byte) (s : State) : Res :=
  ends s (enginesAll (hostReadDone s tag ok data))
def execHostCompletionTimeout (tag : Nat) (s : State) : Res := ends s (enginesAll (hostReadDone s tag false []))

end Sys2Proof.Machine
end

