-- ==== Sys2Proof/Machine/Held.lean ====
section
/-! DEFINITION. Requests that wait for a line on its way or for a channel that a retrain holds, and how they are performed
when the line or the channel is there again (R190, R202 to R205). -/

namespace Sys2Proof.Machine

/-- A held request performed, or held again where it meets another line out of reach; `paid` where its regulator has admitted
it (R220). -/
def perform (s : State) (paid : Bool) (h : HeldReq) : State :=
  match h with
  | .acc c => homeServe s c
  | .bar2Read ps tag at' => wholeOr s paid h (fun s => readParts s ps tag at')
  | .bar2Write ps u => wholeOr s paid h (fun s => putParts s ps u)
  | .bar2Atomic a wide cas cmp v tag => wholeOr s paid h (fun s => hostAtomic s a wide cas cmp v tag)
  | .context a data =>
    match homeOf s a with
    | .ctx b n o => wholeOr s paid h (fun s => ctxWrite s b n o data)
    | _ => s
  | .flag a data =>
    match homeOf s a with
    | .flag t off => wholeOr s paid h (fun s => flagWrite s t off data)
    | _ => s
  | .start x => xGo s paid x
  | .land x => hostLand s paid x
  | .fabric p pk => wholeOr s paid h (fun s => if pkOp pk = 3 then performSignal s pk else performReq s p pk)
  | .fabricData x k data => fabricLand s paid x k data
  | .engine _ => s

/-- What waited behind earlier requests performed, in order, where nothing that it must follow waits any more (R127, R164). -/
def performBehind (s : State) : State :=
  s.behind.foldl (fun s h => if follows s h then { s with behind := s.behind ++ [h] } else perform s false h) { s with behind := [] }

/-! ## A line that its home fetches (R190) -/

/-- The accesses at a home among what is held. -/
def accsOf (held : List HeldReq) : List HAcc :=
  held.filterMap (fun h => match h with
    | .acc c => some c
    | _ => none)

/-- The sectors of a line that come from its channel, and which of them a held access read without success. -/
def fillSectors (s : State) (b line : Nat) (held : List HAcc) (u : Upset) : List (List Byte) × List Nat × State :=
  let sec (c : HAcc) : Nat := c.a % 256 / 64
  let first := (held.head?.map sec).getD 0
  (List.range 4).foldl (fun acc i =>
    match held.find? (fun c => c.reads && sec c == i) with
    | some c =>
      let r := readChan acc.2.2 c.rq b line i (if i = first then u else [])
      (acc.1 ++ [lineCopy r.1], if r.1 = .failed then acc.2.1 ++ [i] else acc.2.1, r.2)
    | none =>
      let r := sectorCopy acc.2.2 b line i
      (acc.1 ++ [r.1], acc.2.1, r.2)) ([], [], s)

/-- The held requests in arrival order; the first access that reads a failed sector is answered as failed (R177). The one
that the line was fetched for, `first`, was counted as the miss. -/
def releaseHeld (s : State) (failed : List Nat) (first : Bool) : List HeldReq → State
  | [] => s
  | .acc c :: r =>
    let i := c.a % 256 / 64
    if c.reads && failed.contains i then
      releaseHeld (answerHome (failedReq s) c true false []) (failed.filter (· != i)) false r
    else if first then releaseHeld (wholeOr s true (.acc c) (fun s => performAcc s true c)) failed false r
    else releaseHeld (perform s true (.acc c)) failed false r
  | h :: r => releaseHeld (perform s true h) failed false r

/-- A fetch ends: the line is allocated and what was held behind it is performed. -/
def lineFill (s : State) (b line : Nat) (u : Upset) : State :=
  match s.fetches.find? (sameLine b line) with
  | none => s
  | some f =>
    let s := { s with fetches := s.fetches.filter (fun x => !sameLine b line x) }
    if (findLine s b line).isSome then releaseHeld s [] true f.held
    else
      let accs := accsOf f.held
      let r := fillSectors s b line accs u
      let how : How := { rq := .none, hint := (accs.head?.map (·.hint)).getD .normal, prio := 0, narrow := false, free := true }
      let a := (accs.head?.map (·.a)).getD 0
      releaseHeld (allocLine r.2.2 b line r.1 false (keepProt r.2.2 how b line a) false).1 r.2.1 true f.held

/-- The line a home fetches arrives, with the symbol errors of the sector it was fetched for, and whether the stack's on-die
ECC reports an error (R190, R232). -/
def execHbmLineFill (b line : Nat) (upset : SectorUpset) (s : State) : Res :=
  ends s (if s.fetches.any (sameLine b line) then enginesAll (performBehind (lineFill (eccReport s upset.ecc) b line upset.stored)) else s)

/-! ## The end of a retrain (R202 to R205) -/

/-- A retrain ends `ns` after it started, at most 30 µs: what it held is released in arrival order, or the channel has
failed. -/
def retrainDone (s : State) (ch : Nat) (ok : Bool) (ns : Nat) : State :=
  match (chan s ch).active with
  | none => s
  | some t =>
    let s := advance s (t + ns)
    if !ok then channelFail s ch
    else
      let held := (chan s ch).held
      let s := setChan s ch { chan s ch with active := none, held := [] }
      let s := raise s 0x6830 5 ns
      let s := logEvent s 0x6802 (leBytes 2 ch ++ leBytes 4 ns)
      enginesAll (performBehind (held.foldl (fun s h => perform s true h) (rescale s [(5, ch)])))

def execRetrainEnd (ch : Nat) (ok : Bool) (ns : Nat) (s : State) : Res :=
  ends s (if ns ≤ 30000 then retrainDone s ch ok ns else s)

end Sys2Proof.Machine
end

