-- ==== Sys2Proof/Machine/Regulate.lean ====
section
/-! DEFINITION. The windows of bandwidth regulation: their boundaries, what is admitted at one, and the commands of
regulation (R218, R220). -/

namespace Sys2Proof.Machine

/-! ## Windows (R218, R220) -/

/-- The parts of a request that waits admitted as far as they may be, its first in any case; the request is performed once all
of them are, and an engine goes on. -/
def letIn (s : State) (w : RegPart) (forced : Bool) : State :=
  match admitParts (admitPart s w.m w.target forced) w.m forced w.rest, w.req with
  | (s, p :: r), _ => { s with regWait := s.regWait ++ [{ w with target := p, rest := r }] }
  | (s, []), none => s
  | (s, []), some (.engine ps) => setPaid s { m := w.m, eng := w.eng, parts := ps } ps
  | (s, []), some h => perform s true h

/-- Parts that waited, oldest first, admitted while their ceilings allow, each behind what its engine has waiting. -/
def admitWaiting (s : State) (l : List RegPart) : State :=
  l.foldl (fun s w =>
    if mayAdmit s w.m w.target && !regQueued s w.m w.eng then letIn s w false
    else { s with regWait := s.regWait ++ [w] }) { s with regWait := [] }

/-- `n` window boundaries: what each master charged beyond its ceilings is carried on. -/
def passBoundaries (s : State) (n : Nat) : State :=
  let full := fun (k : Nat) => s.regU.foldl (fun x u =>
    if u.1 % 16 = k then max x (u.2 / max 1 (ceilOf s (u.1 / 16) k)) else x) 0
  let counts := (List.range 16).map full
  let us := s.regU.map (fun u => (u.1, u.2 - n * ceilOf s (u.1 / 16) (u.1 % 16)))
  let s := (List.range 16).foldl (fun s k => if counts.getD k 0 = 0 then s else bumpBy s 0x7202 (k + 1) (min n (counts.getD k 0))) s
  { s with regU := us, lcUsed := [] }

/-- A committed change of the regulation entries comes into force: every factor is computed again (R229). -/
def applyRegulation (s : State) : State :=
  if s.regOld.isEmpty then s else rescale { s with regOld := [] } (resources s)

/-- Does anything wait for a window, or may an engine? -/
def regBusy (s : State) : Bool :=
  !s.regWait.isEmpty || s.regU.any (fun u => decide (ceilOf s (u.1 / 16) (u.1 % 16) ≤ u.2))

/-- One window boundary for those that wait. -/
def boundary (s : State) : State :=
  let w := max 1 (rd (inForce s) 0x7000 1)
  let s := { passBoundaries s 1 with winStart := s.winStart + w }
  let s := applyRegulation s
  enginesAll (performBehind (admitWaiting s s.regWait))

/-- `n` window boundaries: one by one while anything waits for one. -/
def boundaries : Nat → State → State
  | 0, s => s
  | n + 1, s =>
    if regBusy s then boundaries n (boundary s)
    else { passBoundaries s (n + 1) with winStart := s.winStart + (n + 1) * max 1 (rd (inForce s) 0x7000 1) }

/-- The next window boundary: the clock moves on to it, or those that have passed are taken in turn. A committed change
takes effect at the first. -/
def windowBoundary (s : State) : State :=
  let w := max 1 (rd (inForce s) 0x7000 1)
  let s := boundary (advance s (s.winStart + w))
  boundaries ((s.time - s.winStart) / max 1 (rd (inForce s) 0x7000 1)) s

/-- The main states in which the part divides reference time into windows (R218). -/
def windowsRun (s : State) : Bool :=
  [MainState.bringup, .coldHold, .ready, .discarding, .faulted, .transit].contains s.main

/-! ## The commands -/

def execRegWindowBoundary (s : State) : Res := ends s (if windowsRun s then windowBoundary s else s)

/-- A request of an engine of a master reaches its regulator, which divides it into parts, one for each home (R216, R220). -/
def execRequestPartAdmit (m : PartSource) (p : PartTarget) (s : State) : Res :=
  ends s (if windowsRun s && m.m < 161 then (divide s (targetUnits p)).foldl (fun s q => partArrives s m.m m.eng q false) s else s)

/-- The oldest part of host ingress that still waits is admitted, unmarked, 20 µs after it arrived. -/
def execHostIngressForcedAdmit (s : State) : Res :=
  ends s (match s.regWait.findIdx? (fun w => w.m == 144) with
    | some i =>
      let w := s.regWait.getD i default
      performBehind (letIn (advance { s with regWait := s.regWait.eraseIdx i } (w.arrived + 20000)) w true)
    | none => s)

end Sys2Proof.Machine
end

