-- ==== Sys2Proof/Machine/TileCmds.lean ====
section
/-! DEFINITION. The commands of tile programs: one meaning per operation. Each acts on the word that has reached
decode at its tile, and leaves everything as it is where that word is not its own or cannot issue yet. -/

namespace Sys2Proof.Machine

/-- A word of one opcode given to its engine, and the engines run on (R83, R85). -/
def toEngine (s : State) (t : Nat) (mine : Nat → Bool) (e : Engine) (reads writes : State → Nat → List (Nat × Nat)) : State :=
  issue s t mine (fun s w => enginesGo (submit s t e w (reads s w) (writes s w)) t)

def opIs (o w : Nat) : Bool := wOpcode w == o
def noRange (_ : State) (_ : Nat) : List (Nat × Nat) := []

def passExec (o : Nat) (s : State) (t : Nat) : State :=
  toEngine s t (opIs o) .array (fun s w => passReads s t w) (fun s w => passWrites s t w)

def topkExec (sub : Nat) (s : State) (t : Nat) (reads writes : State → Nat → List (Nat × Nat)) : State :=
  toEngine s t (fun w => wOpcode w == 0x06 && bits w 111 108 == sub) .selector reads writes

def vecExec (vop : Nat) (s : State) (t : Nat) : State :=
  toEngine s t (fun w => wOpcode w == 0x07 && vVop w == vop) .vector (fun s w => vecReads s t w) (fun s w => vecWrites s t w)

def agenExec (lo hi : Nat) (s : State) (t : Nat) : State :=
  issue s t (fun w => wOpcode w == 0x30 && decide (lo ≤ bits w 108 106) && decide (bits w 108 106 ≤ hi)) (agenRun t)

/-- Is a word's operation reserved (R21)? -/
def reservedWord (w : Nat) : Bool :=
  !knownOpcode (wOpcode w) || (wOpcode w == 0x07 && decide (vVop w > 14)) ||
    (wOpcode w == 0x06 && decide (bits w 111 108 > 3)) || (wOpcode w == 0x30 && bits w 108 106 == 7)

/-- LDS: a stationary block loaded into a bank (R94, R47). -/
def execLds (t : Nat) (s : State) : Res := ends s (toEngine s t (opIs 0x01) .array (fun s w => ldsReads s t w) noRange)

/-- MMA: rows streamed against the bank (R95). -/
def execMma (t : Nat) (s : State) : Res := ends s (passExec 0x02 s t)

/-- CONV: a pass over generated positions (R96, R46). -/
def execConv (t : Nat) (s : State) : Res := ends s (passExec 0x03 s t)

/-- PQS: sums of looked-up table entries (R97, R71). -/
def execPqs (t : Nat) (s : State) : Res := ends s (passExec 0x04 s t)

/-- BDS: sums of Hamming distances (R97, R70). -/
def execBds (t : Nat) (s : State) : Res := ends s (passExec 0x05 s t)

/-- TOPK OPEN (R100). -/
def execTopkOpen (t : Nat) (s : State) : Res := ends s (topkExec 0 s t noRange noRange)

/-- TOPK LOAD (R100). -/
def execTopkLoad (t : Nat) (s : State) : Res := ends s (topkExec 1 s t (fun s w => topkSpan s t w) noRange)

/-- TOPK EMIT (R77, R100). -/
def execTopkEmit (t : Nat) (s : State) : Res := ends s (topkExec 2 s t noRange (fun s w => topkSpan s t w))

/-- TOPK CLOSE (R100). -/
def execTopkClose (t : Nat) (s : State) : Res := ends s (topkExec 3 s t noRange noRange)

/-- VEC with VOP 0 (R102, Table 3.15). -/
def execVecMov (t : Nat) (s : State) : Res := ends s (vecExec 0 s t)

/-- VEC with VOP 1 (R102, Table 3.15). -/
def execVecAdd (t : Nat) (s : State) : Res := ends s (vecExec 1 s t)

/-- VEC with VOP 2 (R102, Table 3.15). -/
def execVecSub (t : Nat) (s : State) : Res := ends s (vecExec 2 s t)

/-- VEC with VOP 3 (R102, Table 3.15). -/
def execVecMul (t : Nat) (s : State) : Res := ends s (vecExec 3 s t)

/-- VEC with VOP 4 (R102, Table 3.15). -/
def execVecFma (t : Nat) (s : State) : Res := ends s (vecExec 4 s t)

/-- VEC with VOP 5 (R102, Table 3.15). -/
def execVecMin (t : Nat) (s : State) : Res := ends s (vecExec 5 s t)

/-- VEC with VOP 6 (R102, Table 3.15). -/
def execVecMax (t : Nat) (s : State) : Res := ends s (vecExec 6 s t)

/-- VEC with VOP 7 (R102, Table 3.15). -/
def execVecExp2 (t : Nat) (s : State) : Res := ends s (vecExec 7 s t)

/-- VEC with VOP 8 (R102, Table 3.15). -/
def execVecLog2 (t : Nat) (s : State) : Res := ends s (vecExec 8 s t)

/-- VEC with VOP 9 (R102, Table 3.15). -/
def execVecRcp (t : Nat) (s : State) : Res := ends s (vecExec 9 s t)

/-- VEC with VOP 10 (R102, Table 3.15). -/
def execVecRsqrt (t : Nat) (s : State) : Res := ends s (vecExec 10 s t)

/-- VEC with VOP 11 (R102, Table 3.15). -/
def execVecRsum (t : Nat) (s : State) : Res := ends s (vecExec 11 s t)

/-- VEC with VOP 12 (R102, Table 3.15). -/
def execVecRmin (t : Nat) (s : State) : Res := ends s (vecExec 12 s t)

/-- VEC with VOP 13 (R102, Table 3.15). -/
def execVecRmax (t : Nat) (s : State) : Res := ends s (vecExec 13 s t)

/-- VEC with VOP 14 (R102, Table 3.15). -/
def execVecMxq (t : Nat) (s : State) : Res := ends s (vecExec 14 s t)

/-- MOVE (R103). -/
def execMove (t : Nat) (s : State) : Res :=
  ends s (toEngine s t (opIs 0x10) .move (fun s w => moveReads s t w) (fun s w => moveWrites s t w))

/-- MOVEX (R104). -/
def execMovex (t : Nat) (s : State) : Res :=
  ends s (toEngine s t (opIs 0x11) .move (fun s w => moveReads s t w) (fun s w => moveWrites s t w))

/-- GATHER (R105). -/
def execGather (t : Nat) (s : State) : Res :=
  ends s (toEngine s t (opIs 0x12) .move (fun s w => gatherReads s t w) (fun s w => gatherWrites s t w))

/-- SCATTERADD (R106). -/
def execScatteradd (t : Nat) (s : State) : Res :=
  ends s (toEngine s t (opIs 0x13) .move (fun s w => scatterReads s t w) (fun s w => gatherTable s t w))

/-- SIG (R107). -/
def execSig (t : Nat) (s : State) : Res := ends s (issue s t (opIs 0x20) (sigExec t))

/-- WAIT (R116). -/
def execWait (t : Nat) (s : State) : Res := ends s (issue s t (opIs 0x21) (waitRun t))

/-- WAITP (R116). -/
def execWaitp (t : Nat) (s : State) : Res := ends s (issue s t (opIs 0x22) (waitpRun t))

/-- BAR (R130). -/
def execBar (t : Nat) (s : State) : Res := ends s (whole s 4 (fun s => issue s t (opIs 0x23) (barRun t)))

/-- FENCE (R109). -/
def execFence (t : Nat) (s : State) : Res := ends s (issue s t (opIs 0x24) (fenceRun t))

/-- AGEN, PART 0 (R87, Table 3.6). -/
def execAgenBase (t : Nat) (s : State) : Res := ends s (agenExec 0 0 s t)

/-- AGEN, PART 1 (R87, Table 3.6). -/
def execAgenBounds (t : Nat) (s : State) : Res := ends s (agenExec 1 1 s t)

/-- AGEN, PARTs 2 to 6 (R87, Table 3.6). -/
def execAgenLoop (t : Nat) (s : State) : Res := ends s (agenExec 2 6 s t)

/-- END (R110). -/
def execEndCmd (t : Nat) (s : State) : Res := ends s (issue s t (opIs 0x3F) (endRun t))

/-- A word whose operation is reserved reaches decode (R21, R82). -/
def execReservedOpcode (t : Nat) (s : State) : Res := ends s (issue s t reservedWord (fun s _ => s))

/-- A refill of the program buffer (R80). -/
def execProgramFetch (t : Nat) (s : State) : Res := ends s (whole s 0 (fun s => fetchGo s t))

/-- An engine command complete, or at its end by an error of the engine or by a word that it has lost (R84, R178, R235, R274). -/
def execEngineCommandComplete (t : Nat) (e : Engine) (pos : EntryEnd) (s : State) : Res :=
  ends s (if ((qOf (tile s t) e)[pos.pos]?).isNone then s
    else
      match takeReport s (.tile t) pos.got with
      | (true, s) => s
      | (false, s) => if pos.internal then classB s 0x42 else completeEntry s t e pos.pos)

/-- A pass drains (R53). -/
def execArrayPassDrain (t : Nat) (s : State) : Res := ends s (drainPass s t)

end Sys2Proof.Machine
end

