-- ==== Sys2Proof/Machine/Dispatch.lean ====
section
/-! DEFINITION. One arm per command: its meaning, which is its effect on everything but the queue. -/

namespace Sys2Proof.Machine

/-- The effect of a command. -/
def exec (i : Instr) (s : State) : Host.Outcome State Fault Refusal :=
  match i with
  | .lds t => Sys2Proof.Machine.execLds t s
  | .mma t => Sys2Proof.Machine.execMma t s
  | .conv t => Sys2Proof.Machine.execConv t s
  | .pqs t => Sys2Proof.Machine.execPqs t s
  | .bds t => Sys2Proof.Machine.execBds t s
  | .topkOpen t => Sys2Proof.Machine.execTopkOpen t s
  | .topkLoad t => Sys2Proof.Machine.execTopkLoad t s
  | .topkEmit t => Sys2Proof.Machine.execTopkEmit t s
  | .topkClose t => Sys2Proof.Machine.execTopkClose t s
  | .vecMov t => Sys2Proof.Machine.execVecMov t s
  | .vecAdd t => Sys2Proof.Machine.execVecAdd t s
  | .vecSub t => Sys2Proof.Machine.execVecSub t s
  | .vecMul t => Sys2Proof.Machine.execVecMul t s
  | .vecFma t => Sys2Proof.Machine.execVecFma t s
  | .vecMin t => Sys2Proof.Machine.execVecMin t s
  | .vecMax t => Sys2Proof.Machine.execVecMax t s
  | .vecExp2 t => Sys2Proof.Machine.execVecExp2 t s
  | .vecLog2 t => Sys2Proof.Machine.execVecLog2 t s
  | .vecRcp t => Sys2Proof.Machine.execVecRcp t s
  | .vecRsqrt t => Sys2Proof.Machine.execVecRsqrt t s
  | .vecRsum t => Sys2Proof.Machine.execVecRsum t s
  | .vecRmin t => Sys2Proof.Machine.execVecRmin t s
  | .vecRmax t => Sys2Proof.Machine.execVecRmax t s
  | .vecMxq t => Sys2Proof.Machine.execVecMxq t s
  | .move t => Sys2Proof.Machine.execMove t s
  | .movex t => Sys2Proof.Machine.execMovex t s
  | .gather t => Sys2Proof.Machine.execGather t s
  | .scatteradd t => Sys2Proof.Machine.execScatteradd t s
  | .sig t => Sys2Proof.Machine.execSig t s
  | .wait t => Sys2Proof.Machine.execWait t s
  | .waitp t => Sys2Proof.Machine.execWaitp t s
  | .bar t => Sys2Proof.Machine.execBar t s
  | .fence t => Sys2Proof.Machine.execFence t s
  | .agenBase t => Sys2Proof.Machine.execAgenBase t s
  | .agenBounds t => Sys2Proof.Machine.execAgenBounds t s
  | .agenLoop t => Sys2Proof.Machine.execAgenLoop t s
  | .endCmd t => Sys2Proof.Machine.execEndCmd t s
  | .programFetch t => Sys2Proof.Machine.execProgramFetch t s
  | .engineCommandComplete t eng pos => Sys2Proof.Machine.execEngineCommandComplete t eng pos s
  | .arrayPassDrain t => Sys2Proof.Machine.execArrayPassDrain t s
  | .flagSignal t f n => Sys2Proof.Machine.execFlagSignal t f n s
  | .waitWatchdog t => Sys2Proof.Machine.execWaitWatchdog t s
  | .tileQuiet t => Sys2Proof.Machine.execTileQuiet t s
  | .loanDecision b => Sys2Proof.Machine.execLoanDecision b s
  | .borrowerConfirm borrower lender ns => Sys2Proof.Machine.execBorrowerConfirm borrower lender ns s
  | .homeRead rq a hint upset => Sys2Proof.Machine.execHomeRead rq a hint upset s
  | .homeWrite rq a hint data => Sys2Proof.Machine.execHomeWrite rq a hint data s
  | .homeSubwordWrite rq a hint data => Sys2Proof.Machine.execHomeSubwordWrite rq a hint data s
  | .redInt32Add rq a data => Sys2Proof.Machine.execRedInt32Add rq a data s
  | .redInt64Add rq a data => Sys2Proof.Machine.execRedInt64Add rq a data s
  | .redWidePartialAdd rq a data => Sys2Proof.Machine.execRedWidePartialAdd rq a data s
  | .redBf16Add rq a data => Sys2Proof.Machine.execRedBf16Add rq a data s
  | .redFp32Add rq a data => Sys2Proof.Machine.execRedFp32Add rq a data s
  | .redFp32OrderedAdd rq a cid data => Sys2Proof.Machine.execRedFp32OrderedAdd rq a cid data s
  | .redInt32Min rq a data => Sys2Proof.Machine.execRedInt32Min rq a data s
  | .redInt32Max rq a data => Sys2Proof.Machine.execRedInt32Max rq a data s
  | .redFp32Min rq a data => Sys2Proof.Machine.execRedFp32Min rq a data s
  | .redFp32Max rq a data => Sys2Proof.Machine.execRedFp32Max rq a data s
  | .compareAndSwap rq a wide cmp swap => Sys2Proof.Machine.execCompareAndSwap rq a wide cmp swap s
  | .fetchAdd rq a wide v => Sys2Proof.Machine.execFetchAdd rq a wide v s
  | .hbmLineFill b line upset => Sys2Proof.Machine.execHbmLineFill b line upset s
  | .hbmRefresh ch => Sys2Proof.Machine.execHbmRefresh ch s
  | .hbmParityTrigger ch => Sys2Proof.Machine.execHbmParityTrigger ch s
  | .retrainStart ch => Sys2Proof.Machine.execRetrainStart ch s
  | .retrainEnd ch ok ns => Sys2Proof.Machine.execRetrainEnd ch ok ns s
  | .hbmSelfRefreshIdle m => Sys2Proof.Machine.execHbmSelfRefreshIdle m s
  | .vaultScrubAccess b site upset => Sys2Proof.Machine.execVaultScrubAccess b site upset s
  | .hbmScrubAccess ch upset => Sys2Proof.Machine.execHbmScrubAccess ch upset s
  | .scrubLapAlarm vault n => Sys2Proof.Machine.execScrubLapAlarm vault n s
  | .discardEnd us => Sys2Proof.Machine.execDiscardEnd us s
  | .regWindowBoundary => Sys2Proof.Machine.execRegWindowBoundary s
  | .requestPartAdmit m p => Sys2Proof.Machine.execRequestPartAdmit m p s
  | .hostIngressForcedAdmit => Sys2Proof.Machine.execHostIngressForcedAdmit s
  | .sqTailDoorbell q v => Sys2Proof.Machine.execSqTailDoorbell q v s
  | .cqHeadDoorbell q v => Sys2Proof.Machine.execCqHeadDoorbell q v s
  | .queueEnable q v => Sys2Proof.Machine.execQueueEnable q v s
  | .queueDisable q v => Sys2Proof.Machine.execQueueDisable q v s
  | .registerWrite off size v => Sys2Proof.Machine.execRegisterWrite off size v s
  | .discardReq v => Sys2Proof.Machine.execDiscardReq v s
  | .apertureBaseWrite k v => Sys2Proof.Machine.execApertureBaseWrite k v s
  | .bar2Read off len tag => Sys2Proof.Machine.execBar2Read off len tag s
  | .bar2Write off data => Sys2Proof.Machine.execBar2Write off data s
  | .flagWordWrite a data => Sys2Proof.Machine.execFlagWordWrite a data s
  | .reductionContextWrite a data => Sys2Proof.Machine.execReductionContextWrite a data s
  | .bar2AtomicFetchadd off wide v tag => Sys2Proof.Machine.execBar2AtomicFetchadd off wide v tag s
  | .bar2AtomicCas off wide cmp swap tag => Sys2Proof.Machine.execBar2AtomicCas off wide cmp swap tag s
  | .bar2AtomicUnsupported off tag => Sys2Proof.Machine.execBar2AtomicUnsupported off tag s
  | .configRequest op tag => Sys2Proof.Machine.execConfigRequest op tag s
  | .descriptorFetch q desc => Sys2Proof.Machine.execDescriptorFetch q desc s
  | .jobAdmit => Sys2Proof.Machine.execJobAdmit s
  | .jobComplete j => Sys2Proof.Machine.execJobComplete j s
  | .completionEntryWrite q => Sys2Proof.Machine.execCompletionEntryWrite q s
  | .msixHoldoffEnd q => Sys2Proof.Machine.execMsixHoldoffEnd q s
  | .moverDescriptorStart j k => Sys2Proof.Machine.execMoverDescriptorStart j k s
  | .moverCopy j k => Sys2Proof.Machine.execMoverCopy j k s
  | .moverFill j k => Sys2Proof.Machine.execMoverFill j k s
  | .moverBcast j k => Sys2Proof.Machine.execMoverBcast j k s
  | .moverReduce j k => Sys2Proof.Machine.execMoverReduce j k s
  | .moverCas j k => Sys2Proof.Machine.execMoverCas j k s
  | .moverDescriptorComplete j k => Sys2Proof.Machine.execMoverDescriptorComplete j k s
  | .atsTranslationCompletion x pages => Sys2Proof.Machine.execAtsTranslationCompletion x pages s
  | .prgResponse prg success => Sys2Proof.Machine.execPrgResponse prg success s
  | .priTimeout prg => Sys2Proof.Machine.execPriTimeout prg s
  | .atsInvalidate pasid page pages ns => Sys2Proof.Machine.execAtsInvalidate pasid page pages ns s
  | .hostReadCompletion tag ok data => Sys2Proof.Machine.execHostReadCompletion tag ok data s
  | .hostCompletionTimeout tag => Sys2Proof.Machine.execHostCompletionTimeout tag s
  | .perstNAssert => Sys2Proof.Machine.execPerstNAssert s
  | .perstNRelease => Sys2Proof.Machine.execPerstNRelease s
  | .hotReset => Sys2Proof.Machine.execHotReset s
  | .linkDisable => Sys2Proof.Machine.execLinkDisable s
  | .dlDown => Sys2Proof.Machine.execDlDown s
  | .functionLevelReset => Sys2Proof.Machine.execFunctionLevelReset s
  | .linkRecoveryEntry => Sys2Proof.Machine.execLinkRecoveryEntry s
  | .linkL0Entry => Sys2Proof.Machine.execLinkL0Entry s
  | .d3hotTransition into => Sys2Proof.Machine.execD3hotTransition into s
  | .l12Entry => Sys2Proof.Machine.execL12Entry s
  | .l12Exit => Sys2Proof.Machine.execL12Exit s
  | .resettingEnd => Sys2Proof.Machine.execResettingEnd s
  | .faultedResetStart => Sys2Proof.Machine.execFaultedResetStart s
  | .flitReceive p fecOk flit => Sys2Proof.Machine.execFlitReceive p fecOk flit s
  | .portBerWindow p lane errs bits => Sys2Proof.Machine.execPortBerWindow p lane errs bits s
  | .portLossOfSignal p => Sys2Proof.Machine.execPortLossOfSignal p s
  | .portTrainingDone p lanes same => Sys2Proof.Machine.execPortTrainingDone p lanes same s
  | .portTrainRetry p => Sys2Proof.Machine.execPortTrainRetry p s
  | .helloSend p => Sys2Proof.Machine.execHelloSend p s
  | .hello p pk => Sys2Proof.Machine.execHello p pk s
  | .packetForward p pk us => Sys2Proof.Machine.execPacketForward p pk us s
  | .holdExpiry n => Sys2Proof.Machine.execHoldExpiry n s
  | .fabWrite p pk => Sys2Proof.Machine.execFabWrite p pk s
  | .fabRead p pk => Sys2Proof.Machine.execFabRead p pk s
  | .fabReduce p pk => Sys2Proof.Machine.execFabReduce p pk s
  | .fabSignal p pk => Sys2Proof.Machine.execFabSignal p pk s
  | .mgmtReq p pk => Sys2Proof.Machine.execMgmtReq p pk s
  | .mgmtResp p pk => Sys2Proof.Machine.execMgmtResp p pk s
  | .ack p pk => Sys2Proof.Machine.execAck p pk s
  | .readData p pk => Sys2Proof.Machine.execReadData p pk s
  | .fabResyncResend dst => Sys2Proof.Machine.execFabResyncResend dst s
  | .fabReqTimeout tag => Sys2Proof.Machine.execFabReqTimeout tag s
  | .d2dFlitReceive pair dir chan crcOk seq => Sys2Proof.Machine.execD2dFlitReceive pair dir chan crcOk seq s
  | .d2dLaneLoss pair dir lane => Sys2Proof.Machine.execD2dLaneLoss pair dir lane s
  | .d2dMarginWindow pair dir lane => Sys2Proof.Machine.execD2dMarginWindow pair dir lane s
  | .d2dReplayAlarm pair dir => Sys2Proof.Machine.execD2dReplayAlarm pair dir s
  | .pllLockLoss die source => Sys2Proof.Machine.execPllLockLoss die source s
  | .opticalSiteLinkDown p => Sys2Proof.Machine.execOpticalSiteLinkDown p s
  | .hostSiteLinkLost => Sys2Proof.Machine.execHostSiteLinkLost s
  | .guestResetRequest site => Sys2Proof.Machine.execGuestResetRequest site s
  | .standbySupplyApplied => Sys2Proof.Machine.execStandbySupplyApplied s
  | .standbySupplyRemoved => Sys2Proof.Machine.execStandbySupplyRemoved s
  | .fallbackSettled us => Sys2Proof.Machine.execFallbackSettled us s
  | .fallbackSettleTimeout => Sys2Proof.Machine.execFallbackSettleTimeout s
  | .fallbackStop => Sys2Proof.Machine.execFallbackStop s
  | .clockMonitorWindow ppm fallbackOk => Sys2Proof.Machine.execClockMonitorWindow ppm fallbackOk s
  | .refEdgeTimeout => Sys2Proof.Machine.execRefEdgeTimeout s
  | .housekeepingRound readings => Sys2Proof.Machine.execHousekeepingRound readings s
  | .stepMachineTick => Sys2Proof.Machine.execStepMachineTick s
  | .hbmCattripAssert m => Sys2Proof.Machine.execHbmCattripAssert m s
  | .bringupWaitEvent => Sys2Proof.Machine.execBringupWaitEvent s
  | .halfWaveStart w => Sys2Proof.Machine.execHalfWaveStart w s
  | .tileRelease h => Sys2Proof.Machine.execTileRelease h s
  | .laneQualWindowEnd errors => Sys2Proof.Machine.execLaneQualWindowEnd errors s
  | .inventoryBuild => Sys2Proof.Machine.execInventoryBuild s
  | .bringupTimeLimit => Sys2Proof.Machine.execBringupTimeLimit s
  | .ledgerScan => Sys2Proof.Machine.execLedgerScan s
  | .ledgerRecordWrite ok => Sys2Proof.Machine.execLedgerRecordWrite ok s
  | .ledgerCompaction => Sys2Proof.Machine.execLedgerCompaction s
  | .catalogueRead tr r => Sys2Proof.Machine.execCatalogueRead tr r s
  | .catalogueWrite tr r => Sys2Proof.Machine.execCatalogueWrite tr r s
  | .readStaged tr r => Sys2Proof.Machine.execReadStaged tr r s
  | .describe tr r => Sys2Proof.Machine.execDescribe tr r s
  | .stagedEntryWrite tr r => Sys2Proof.Machine.execStagedEntryWrite tr r s
  | .consEntryWrite tr r => Sys2Proof.Machine.execConsEntryWrite tr r s
  | .commit tr tag v => Sys2Proof.Machine.execCommit tr tag v s
  | .abort tr tag v => Sys2Proof.Machine.execAbort tr tag v s
  | .stageContextExpiry tr => Sys2Proof.Machine.execStageContextExpiry tr s
  | .resetCmd tr tag v => Sys2Proof.Machine.execResetCmd tr tag v s
  | .persistClear tr tag v => Sys2Proof.Machine.execPersistClear tr tag v s
  | .powerReqRun tr tag => Sys2Proof.Machine.execPowerReqRun tr tag s
  | .powerReqSleep tr tag => Sys2Proof.Machine.execPowerReqSleep tr tag s
  | .powerReqDeep tr tag => Sys2Proof.Machine.execPowerReqDeep tr tag s
  | .fabTransitReq tr tag v => Sys2Proof.Machine.execFabTransitReq tr tag v s
  | .keepRelease tr tag v => Sys2Proof.Machine.execKeepRelease tr tag v s
  | .retrainReq tr tag v => Sys2Proof.Machine.execRetrainReq tr tag v s
  | .shutdownClear tr tag v => Sys2Proof.Machine.execShutdownClear tr tag v s
  | .mbxDoorbell v => Sys2Proof.Machine.execMbxDoorbell v s
  | .setEndpointId port eid => Sys2Proof.Machine.execSetEndpointId port eid s
  | .getEndpointId port => Sys2Proof.Machine.execGetEndpointId port s
  | .getEndpointUuid port => Sys2Proof.Machine.execGetEndpointUuid port s
  | .getMctpVersionSupport port => Sys2Proof.Machine.execGetMctpVersionSupport port s
  | .getMessageTypeSupport port => Sys2Proof.Machine.execGetMessageTypeSupport port s
  | .getVendorDefinedMsgSupport port => Sys2Proof.Machine.execGetVendorDefinedMsgSupport port s
  | .mctpUnsupportedCmd port cmd => Sys2Proof.Machine.execMctpUnsupportedCmd port cmd s
  | .setdasa static addr => Sys2Proof.Machine.execSetdasa static addr s
  | .entdaa port addr => Sys2Proof.Machine.execEntdaa port addr s
  | .reservedOpcode t => Sys2Proof.Machine.execReservedOpcode t s
  | .hcrcOrReservedOpPacket p pk => Sys2Proof.Machine.execHcrcOrReservedOpPacket p pk s
  | .catalogueReservedOp tr op r => Sys2Proof.Machine.execCatalogueReservedOp tr op r s
  | .routerOrMeshLinkFailed cdie die row col link => Sys2Proof.Machine.execRouterOrMeshLinkFailed cdie die row col link s
  | .resetByCommandStart => Sys2Proof.Machine.execResetByCommandStart s
  | .packageRailGood => Sys2Proof.Machine.execPackageRailGood s
  | .packageRailTimeout => Sys2Proof.Machine.execPackageRailTimeout s
  | .provenanceReadDone recs => Sys2Proof.Machine.execProvenanceReadDone recs s
  | .bdieWakeDone locked reports => Sys2Proof.Machine.execBdieWakeDone locked reports s
  | .vaultSelfTestDone fails => Sys2Proof.Machine.execVaultSelfTestDone fails s
  | .dieToDieTrainingDone pair dir fails => Sys2Proof.Machine.execDieToDieTrainingDone pair dir fails s
  | .guestSiteTrainingDone site desc rate => Sys2Proof.Machine.execGuestSiteTrainingDone site desc rate s
  | .hbmChannelTrainingDone ch trained tested stackBytes unrepaired => Sys2Proof.Machine.execHbmChannelTrainingDone ch trained tested stackBytes unrepaired s
  | .tileSelfTestDone fails => Sys2Proof.Machine.execTileSelfTestDone fails s

end Sys2Proof.Machine
end

