-- ==== Sys2Proof/Safety.lean ====
section
/-! DEFINITION. What counts as a safe run, and the terms in which the statements speak of a state: the invariant, the
words and jobs a state holds, and the conditions under which a command word issues. -/

namespace Sys2Proof.Machine

/-- The invariant of the block: memory is in its one form, and between commands nothing touched is left to charge and nothing
is noted as out of reach. -/
structure State.Inv (s : State) : Prop where
  form : Memory.wf s.mem
  charged : s.touched = []
  inReach : s.stalled = none

/-- What no command takes back: what has been sent stays sent, and no free value is drawn twice. -/
structure Forward (s t : State) : Prop where
  sent : s.out <:+ t.out
  drawn : s.free ≤ t.free

/-- The commands that can change CONS values: a write through the Conservator port, the Ledger's scan, and the end of the
standby supply (R30, R431, R433). -/
def mayWriteCons (c : Instr) : Bool :=
  match c with
  | .consEntryWrite .cons _ => true
  | .catalogueWrite .cons _ => true
  | .ledgerScan => true
  | .standbySupplyRemoved => true
  | _ => false

/-- The commands that end the supply, after which time is counted anew (R8). -/
def endsSupply (c : Instr) : Bool :=
  match c with
  | .standbySupplyApplied => true
  | .standbySupplyRemoved => true
  | _ => false

/-- The byte stored at a place of memory, if one is. -/
def storedByte (m : List Host.Cell) (x : Nat) : Option Byte := (m.find? (fun (c : Host.Cell) => c.1 == x)).map (·.2)

/-- Nothing stored outside the place of the word at `key` differs. -/
def SameBut (key : Nat) (m m' : List Host.Cell) : Prop := ∀ x, x < key ∨ key + 128 ≤ x → storedByte m' x = storedByte m x

/-- The place of the codeword of a word of a Vault slice or an operand store. -/
def sramKey (s : State) (a : Nat) : Option Nat :=
  match homeOf s a with
  | .vault b site n => some (vaultKey b site n)
  | .opstore t n => some (opstoreKey t n)
  | _ => none

/-- A word of a Vault slice or an operand store that stores data without an error: its address, the place of its
codeword, its data. -/
structure SramWord (s : State) (a key : Nat) (d : List Byte) : Prop where
  known : indetAt s a = false
  home : sramKey s a = some key
  stored : ∃ w, storedAt s.mem key 70 = some w ∧ rsDecode 6 w = .clean d

/-- The data of the word at `a`, where a Vault slice or an operand store holds it without an error. -/
def peekWord (s : State) (a : Nat) : Option (List Byte) :=
  if indetAt s a then none
  else
    match sramKey s a with
    | none => none
    | some key =>
      match (storedAt s.mem key 70).map (rsDecode 6) with
      | some (.clean d) => some d
      | _ => none

/-- Every byte of a range lies in such a word; a byte address wraps modulo 2^48. -/
def Clean (s : State) (a n : Nat) : Prop := ∀ i, i < n → (peekWord s ((a + i) % 2 ^ 48 / 64 * 64)).isSome = true

def peekBytes (s : State) (a n : Nat) : List Byte :=
  (List.range n).map (fun i => ((peekWord s ((a + i) % 2 ^ 48 / 64 * 64)).getD []).getD ((a + i) % 64) 0#8)

/-- The value of `w` bits at a bit address. -/
def peekBits (s : State) (ba w : Nat) : Nat := leNat (peekBytes s (ba / 8) ((ba % 8 + w + 7) / 8)) / 2 ^ (ba % 8) % 2 ^ w

/-- An element that a job may read, in words without an error. -/
def Readable (s : State) (jb : Job) (hint : Hint) (ba w : Nat) : Prop :=
  elemOk s jb false hint ba w = true ∧ Clean s (ba / 8) ((ba % 8 + w + 7) / 8)

/-- Row m of a generator is readable, and what it reads; a padded position is none (R89). -/
def RowReadable (s : State) (t : Nat) (jb : Job) (g : Gen) (m : Nat) : Prop :=
  ∀ r, r < g.rows → g.padded (g.index r m) = false → Readable s jb .normal (g.bitAddr (g.a0 s t) (g.index r m)) g.width

def peekRow (s : State) (t : Nat) (g : Gen) (m : Nat) : List (Option Nat) :=
  (List.range g.rows).map (fun r =>
    if g.padded (g.index r m) then none else some (peekBits s (g.bitAddr (g.a0 s t) (g.index r m)) g.width))

/-- The words that a command puts together can be written: each lies in a Vault slice or an operand store without an error. -/
def Lands (s : State) (p : List PendWord) : Prop := ∀ x ∈ p, (peekWord s x.addr).isSome = true

/-- None of the words that a command puts together lies in a range that it reads. -/
def Apart (r : Nat × Nat) (p : List PendWord) : Prop := ∀ x ∈ p, x.addr + 63 < r.1 ∨ r.2 < x.addr

/-- Device memory once they are written for a tile. -/
def landed (s : State) (t : Nat) (p : List PendWord) : List Host.Cell := (flush s (plain (.tile t)) p).2.mem

/-- The words that a byte range meets. -/
def wordsOf (a n : Nat) : List Nat := (List.range ((a % 64 + n + 63) / 64)).map (fun k => a / 64 * 64 + 64 * k)

/-- Words of the Vault or of operand stores that stand each in a place of its own. -/
def OwnPlaces (s : State) (l : List Nat) : Prop :=
  ∀ x ∈ l, (sramKey s x).isSome = true ∧ ∀ y ∈ l, sramKey s x = sramKey s y → x = y

/-- A job may make every access within a range, which does not wrap. -/
def Permitted (s : State) (jb : Job) (wr : Bool) (hint : Hint) (a n : Nat) : Prop :=
  a + n ≤ 2 ^ 48 ∧ ∀ o k, 0 < k → o + k ≤ n → allowed s jb wr hint (a + o) (a + o + k - 1) = true

/-- Two ranges of one length that do not meet. -/
def Disjoint (a b n : Nat) : Prop := a + n ≤ b ∨ b + n ≤ a

/-- No word in a place other than those of some words differs. -/
def OnlyWords (s t : State) (l : List Nat) : Prop :=
  ∀ x, x % 64 = 0 → (∀ y ∈ l, sramKey s y ≠ sramKey s x) → peekWord t x = peekWord s x

/-- No request waits, at a regulator or for a line, and every master is below its ceilings (R190, R203, R220). -/
structure NothingWaits (s : State) : Prop where
  regs : s.regWait = []
  paid : s.paid = []
  reqs : waitingReqs s = []
  below : ∀ m p, m < 161 → mayAdmit s m p = true

/-- The accesses that lead from `s` to `u`, by engine `e` of a tile, wait for no line, and their regulator admits all of them at
once (R190, R220). -/
def Admits (s u : State) (e : Nat) : Prop :=
  let k := requestParts u e
  u.stalled = none ∧ (k.parts = [] ∨ (regQueued s k.m k.eng = false ∧ (admitParts s k.m false (unpaid s k)).2 = []))

/-- No engine goes on by itself: what it is at waits for its transfer, or has a failed request. -/
def EnginesHeld (s : State) : Prop := ∀ n e c, currentOf (tile s n) e = some c → c.xfer.isSome = true ∨ c.stuck = true

/-- The completion of a job that faults. -/
def rejected (jb : Job) (cause ltile word : Nat) : Comp :=
  { q := jb.q, slot := jb.slot, jobId := jId jb.desc, status := 2, cause := cause, ltile := ltile, word := word }

/-- A job has faulted: its completion is made ready, or kept while it owes accesses (R278). -/
def FaultedWith (t : State) (j : Nat) (c : Comp) (owes : Bool) : Prop :=
  if owes then (SMap.find? t.jobs j).map (·.fault) = some (some c) else SMap.find? t.jobs j = none ∧ c ∈ t.comps

/-- Does a transfer stand still until something arrives for it? -/
def Xfer.stands (x : Xfer) : Bool := x.remote.isSome || x.started || x.ats.isSome || x.prg.isSome || !x.tags.isEmpty

/-- A packet as it leaves on a virtual channel after `us` in the part, its payload free of what a packet buffer had put into it. -/
def sentPacket (pk : Packet) (vc us : Nat) : Packet := { withVc (aged pk us) vc with upset := [] }

/-- What a mover does for its descriptor, by its OP (Table 9.13). -/
def moverDoes (j i d : Nat) (jb : Job) (s : State) : State :=
  match mOp d with
  | 0 => (copyWork j i d jb s).2
  | 1 => (fillWork j i d jb s).2
  | 2 => (bcastWork j i d jb s).2
  | 3 => (moverReduceWork j i d jb s).2
  | _ => (casWork j i d jb s).2

/-- A response to a request of another part leaves, where its route is open. -/
def Answered (s t : State) (rq : Packet) (op status : Nat) (data : List Byte) : Prop :=
  let e := routeEntry s (pkSrc rq)
  let vc := entVc e + 2
  let pk : Packet := { hdr := mkHdr op true false (pkSrc rq) ((ownAddr s).getD 0) 0 (pkDomain rq) data.length 0 (pkTag rq) (status * 2 ^ 50),
                       payload := data }
  ∀ q, ownAddr s ≠ some (pkSrc rq) → entValid e = true → egress s e true vc = some q → heldAt s q vc = false → canSend s q vc pk = true →
    Out.packet q (withVc (aged pk 1) vc) ∈ t.out

/-- A tile held by a running job while the part is READY and no wait blocks the tile: a signal only adds to its flag. -/
structure Signalled (s : State) (t : Nat) (j : Nat) (jb : Job) : Prop where
  inv : s.Inv
  held : jobOf s t = some (j, jb)
  running : jb.running = true
  ready : s.main = .ready
  open' : (tile s t).block = none

/-- A word that has reached decode at a tile and passes every check of Table 3.21. -/
structure AtDecode (s : State) (t w : Nat) : Prop where
  inv : s.Inv
  head : headWord s t = some (some w)
  checked : checkWord s t w = none
  notLast : (tile s t).word + 1 = (tile s t).words → wOpcode w = 0x3F

/-- A checked word that its engine takes now: there is room and no hazard, every engine of the tile has done what it was given,
and the regulators admit at once what its work accesses. -/
structure EngineReady (s : State) (t w : Nat) (e : Engine) (j : Nat) (jb : Job) (reads writes : List (Nat × Nat)) : Prop where
  atDecode : AtDecode s t w
  job : jobOf s t = some (j, jb)
  room : canIssue s t e reads writes = true
  idle : ∀ x, currentOf (tile s t) x = none
  admitted : Admits (submit s t e w reads writes)
    (engineWork e t (newEntry s t w reads writes) (submit s t e w reads writes) jb).2 (engNo e)

/-- The children of a barrier are other tiles of its job here, none of them blocked, each signalled at a flag of its own. -/
structure KidsHere (s : State) (t j : Nat) (jb : Job) (b : BarDesc) : Prop where
  apart : (b.children.map (fun c => (c.1, c.2.1))).Nodup
  here : ∀ c ∈ b.children, c.2.2.1 = false ∧ c.1 ≠ t ∧ jobOf s c.1 = some (j, jb) ∧ (tile s c.1).block = none ∧
    flagCount s c.1 c.2.1 < 65535

/-- Each child of a barrier has one more in its flag, and no other flag of another tile differs (phase 5 of R130). -/
def Released (s r : State) (t : Nat) (b : BarDesc) : Prop :=
  ∀ x f, x ≠ t → flagCount r x f = flagCount s x f + (if (x, f) ∈ b.children.map (fun c => (c.1, c.2.1)) then 1 else 0)

/-- The word has left decode, and its command stands in its engine's queue with its work done; no other queue, tile, job or
CONS value differs, and of the tile no flag, generator or block. -/
structure Worked (s r : State) (t : Nat) (e : Engine) : Prop where
  left : (tile r t).word = (tile s t).word + 1
  queued : (qOf (tile r t) e).length = (qOf (tile s t) e).length + 1
  done : ∀ x, currentOf (tile r t) x = none
  queues : ∀ x, x ≠ e → qOf (tile r t) x = qOf (tile s t) x
  tiles : ∀ x, x ≠ t → tile r x = tile s x
  flags : (tile r t).flags = (tile s t).flags
  gens : (tile r t).gens = (tile s t).gens
  block : (tile r t).block = (tile s t).block
  jobs : r.jobs = s.jobs
  cons : r.cons = s.cons

/-- The passes: their constructors with their opcodes. -/
def passWords : List ((Nat → Instr) × Nat) := [(.mma, 2), (.conv, 3), (.pqs, 4), (.bds, 5)]

/-- What the rows of a pass make, from the slots it starts with: the slots, and the converted rows (Table 2.3). -/
def passRun (w active : Nat) (keeps : Bool) (b : Bank) (row : Nat → List (Option Nat)) (scales : Nat → List Nat) (slots : SMap Slot) :
    Nat → SMap Slot × List (List Nat)
  | 0 => (slots, [])
  | m + 1 =>
    let x := passRun w active keeps b row scales slots m
    let r := rowSum w b (row m) (scales m)
    let sl := if keeps then putRowSlots w m active r x.1 else x.1
    (sl, x.2 ++ [(convertRow w (if keeps then SMap.get sl (bits w 97 90 + m) Slot.reset else updateSlot w active (pAcc w) Slot.reset r)).1])

/-- The slots seeded with rows of wide partials. -/
def seeded (w : Nat) (row : Nat → List (Option Nat)) (n : Nat) (slots : SMap Slot) : SMap Slot :=
  (List.range n).foldl (fun m k => SMap.put m (bits w 97 90 + k) (seedSlot (row k))) slots

/-- A selection offered rows of results, indexed from its base on. -/
def offered (x : Selection) (rows : List (List Nat)) : Selection :=
  rows.zipIdx.foldl (fun y r => r.1.zipIdx.foldl (fun z c => offer z c.2 (BitVec.ofNat 32 c.1, x.base + r.2)) y) x

/-- Rows put together for a generator, from its first beat on. -/
def stagedRows (s : State) (t : Nat) (jb : Job) (g : Gen) (rows : List (List Nat)) : Option (List PendWord) :=
  rows.zipIdx.foldl (fun p r => p.bind (fun p => stageRow s jb (plain (.tile t)) g (g.a0 s t) r.2 0 r.1 p)) (some [])

/-- The operand of a VEC of one repetition (R102). -/
def vecOperand (s : State) (t w spec : Nat) : List F32 :=
  if spec < 32 then vreg (tile s t) spec
  else if spec = 32 then (tile s t).vq.headD (lanes 0#32)
  else if spec = 33 then lanes (BitVec.ofNat 32 (bits w 47 16))
  else if spec = 34 then
    (List.range 64).map (fun i => match (peekRow s t (gen (tile s t) (vGen w)) 0)[i]? with
      | some (some x) => f32Enc (decodeOfmt (bits w 62 59) x)
      | _ => 0#32)
  else lanes 0#32

/-- What a VEC of one repetition computes. -/
def vecResult (s : State) (t w : Nat) : List F32 :=
  let a := vecOperand s t w (vA w)
  vecOp (vVop w) a (if vArity (vVop w) ≥ 2 then vecOperand s t w (vB w) else a) (if vArity (vVop w) ≥ 3 then vecOperand s t w (vC w) else a)

/-- The words it puts together: none for a register, its row, or the elements and the two scales of MXQ. -/
def vecWords (s : State) (t w : Nat) (jb : Job) : Option (List PendWord) :=
  let how := plain (.tile t)
  let gd := gen (tile s t) (vGen w + 1)
  let gs := gen (tile s t) (vGen w + 2)
  if vVop w = 14 then
    let b0 := mxBlock (bits w 58 55) ((vecResult s t w).take 32)
    let b1 := mxBlock (bits w 58 55) ((vecResult s t w).drop 32)
    (stageRow s jb how gd (gd.a0 s t) 0 0 (b0.2 ++ b1.2) []).bind (stageRow s jb how gs (gs.a0 s t) 0 0 [b0.1, b1.1])
  else if vD w = 34 then
    stageRow s jb how gd (gd.a0 s t) 0 0 ((vecResult s t w).map (fun x => encodeOfmt (bits w 58 55) false (f32Dec x))) []
  else some []

/-- Elements of one width put together in order: destination bit address and value. -/
def pended (w : Nat) (l : List (Nat × Nat)) : List PendWord := l.foldl (fun p x => pendElem p x.1 w x.2 false) []

/-- Elements that a job may copy: each source readable, each destination writable, and none that another meets (R103). -/
structure Copyable (s : State) (jb : Job) (hint : Hint) (w : Nat) (els : List CopyEl) : Prop where
  sources : ∀ e ∈ els, ∀ a, e.1 = some a → Readable s jb hint a w
  targets : ∀ e ∈ els, elemOk s jb true hint e.2 w = true
  apart : ∀ e ∈ els, clashOf w els e = false

/-- Their words: each destination with its source's value, a padded source with zero. -/
def copied (s : State) (w : Nat) (els : List CopyEl) : List PendWord :=
  pended w (els.map (fun e => (e.2, match e.1 with
    | none => 0
    | some a => peekBits s a w)))

/-- The index of row i of a GATHER or SCATTERADD: from its generator, or i itself. -/
def rowIndex (s : State) (t w i : Nat) : Nat :=
  let g := gen (tile s t) (wSgen w)
  if bit1 w 119 then i else if g.padded (g.flat i) then 0 else peekBits s (g.bitAddr (g.a0 s t) (g.flat i)) g.width

/-- Every index is readable. -/
def IndicesReadable (s : State) (t w : Nat) (jb : Job) (hint : Hint) : Prop :=
  let g := gen (tile s t) (wSgen w)
  bit1 w 119 = false → ∀ i, i < g.total → g.padded (g.flat i) = false → Readable s jb hint (g.bitAddr (g.a0 s t) (g.flat i)) g.width

/-- The word k of the table row that row i names. -/
def tableWord (s : State) (t w i k : Nat) : Nat := (gTable s t w + rowIndex s t w i * gStride w + 64 * k) % 2 ^ 48

/-- The words that a GATHER reads, row after row; an index of all ones gives zeros (R105). -/
def gathered (s : State) (t w : Nat) : List (Option (List Byte)) :=
  (List.range (gRows w (tile s t))).flatMap (fun i =>
    (List.range (gLen w / 64)).map (fun k =>
      if rowIndex s t w i = 0xFFFFFFFF then some (List.replicate 64 0#8) else peekWord s (tableWord s t w i k)))

/-- The destination elements of a GATHER with their values. -/
def gatherEls (s : State) (t w : Nat) : List (Nat × Nat) :=
  let g := gen (tile s t) (wDgen w)
  (List.range g.total).filterMap (fun n =>
    if g.padded (g.flat n) then none
    else some (g.bitAddr (g.a0 s t) (g.flat n), (rowElem (gathered s t w) (n * g.width) g.width).getD 0))

/-- The contributions of a SCATTERADD: table word and data, row after row (R106). -/
def scattered (s : State) (t w : Nat) : List (Nat × List Byte) :=
  let g := gen (tile s t) (wDgen w)
  let els := (List.range g.total).map (fun n => if g.padded (g.flat n) then 0 else peekBits s (g.bitAddr (g.a0 s t) (g.flat n)) g.width)
  (List.range (gRows w (tile s t))).flatMap (fun i =>
    if rowIndex s t w i = 0xFFFFFFFF then []
    else
      match rowBits (els.map EAcc.val) g.width (i * gLen w * 8) (gLen w * 8) with
      | .val v => (List.range (gLen w / 64)).map (fun k => (tableWord s t w i k, leBytes 64 (v / 2 ^ (512 * k))))
      | _ => [])

/-- The entries of a stored list offered to their column; the lists of every column (R100). -/
def loaded (s : State) (base k : Nat) (x : Selection) : Selection :=
  (List.range 64).foldl (fun y c =>
    (List.range (leNat (peekBytes s (base + 64 * k * 8 + 4 * c) 4))).foldl (fun y i =>
      let e := leNat (peekBytes s (base + c * k * 8 + i * 8) 8)
      offer y c (BitVec.ofNat 32 e, e / 2 ^ 32)) y) x

/-- The vector operations, their constructors with their codes, but MXQ. -/
def vectorOps : List ((Nat → Instr) × Nat) :=
  [(.vecMov, 0), (.vecAdd, 1), (.vecSub, 2), (.vecMul, 3), (.vecFma, 4), (.vecMin, 5), (.vecMax, 6), (.vecExp2, 7),
   (.vecLog2, 8), (.vecRcp, 9), (.vecRsqrt, 10), (.vecRsum, 11), (.vecRmin, 12), (.vecRmax, 13)]

/-- The reductions in place with their ROP (Table 5.6). -/
def reductions : List ((Requester → Nat → BitVec 512 → Instr) × Nat) :=
  [(.redInt32Add, 0), (.redInt64Add, 1), (.redWidePartialAdd, 2), (.redBf16Add, 3), (.redFp32Add, 4), (.redInt32Min, 6),
   (.redInt32Max, 7), (.redFp32Min, 8), (.redFp32Max, 9)]

/-- The halves of a B-die that may take units (R141): present, not lending, not THROTTLED, with none to return. -/
def MayTake (u : State) (b h : Nat) : Prop :=
  h / 4 = b ∧ halfPresent u h = true ∧ lends u h = false ∧ throttled u h = false ∧ (mayLend u h && !(heldBy u h).isEmpty) = false

/-- Has a half not reached the ceiling (R141)? -/
def HasRoom (u : State) (h : Nat) : Prop := halfLimit u h < loanVal u (h / 4) 5

/-- What is lent at a decision on B-die `b`, from `s` to `r` (R140, R141): from halves that may lend, at most their lendable
amount, in ascending order; each unit to the next in turn of those that may take one and have room. -/
structure Lent (s r : State) (b : Nat) : Prop where
  kept : s.loans <+: r.loans
  closed : r.loans ≠ s.loans → ∀ h, h / 4 = b → halfPresent r h = true → ∀ x ∈ r.reclaims, x.lender ≠ h
  lender : ∀ l ∈ r.loans.drop s.loans.length, l.lender / 4 = b ∧ halfPresent r l.lender = true ∧ mayLend r l.lender = true ∧
    (lentBy r l.lender).length ≤ lendable r l.lender
  taker : ∀ i l, (r.loans.drop s.loans.length)[i]? = some l →
    MayTake { r with loans := s.loans } b l.borrower ∧ HasRoom { r with loans := s.loans ++ (r.loans.drop s.loans.length).take i } l.borrower
  ascending : ((r.loans.drop s.loans.length).map (·.lender)).Pairwise (· ≤ ·)
  lowest : ∀ i l, (r.loans.drop s.loans.length)[i]? = some l →
    (∀ k, i = k + 1 → ((r.loans.drop s.loans.length)[k]?).map (·.lender) ≠ some l.lender) →
    ∀ h, MayTake { r with loans := s.loans } b h →
      HasRoom { r with loans := s.loans ++ (r.loans.drop s.loans.length).take i } h → l.borrower ≤ h
  inTurn : ∀ i l m, (r.loans.drop s.loans.length)[i]? = some l → (r.loans.drop s.loans.length)[i + 1]? = some m → l.lender = m.lender →
    ∀ h, MayTake { r with loans := s.loans } b h →
      HasRoom { r with loans := s.loans ++ (r.loans.drop s.loans.length).take (i + 1) } h →
      (m.borrower + 3 - l.borrower % 4) % 4 ≤ (h + 3 - l.borrower % 4) % 4
  whole : ∀ h, h / 4 = b → halfPresent r h = true → (∀ x ∈ r.reclaims, ∀ g, g / 4 = b → halfPresent r g = true → x.lender ≠ g) →
    lends { r with loans := s.loans } h = true → mayLend r h = true →
    lendable r h ≤ (lentBy r h).length ∨ ∀ g, MayTake { r with loans := s.loans } b g → ¬ HasRoom r g

/-- The state of a part in READY with BAR0 serving, reached by the host. -/
structure HostReady (s : State) : Prop where
  ready : s.main = .ready
  reaches : hostReaches s = true

/-- A request whose header names one scalar entry whole, on a transport that is available, for an entry that is served
(R417, R418, R422). -/
structure EntryRequest (s : State) (tr : Transport) (r : CatReq) (row : EntRow) : Prop where
  reached : available s tr = true
  entry : findRow r.index.toNat r.sub.toNat = some row
  named : r.sub ≠ 0#8
  served : entryBlock s tr row r.index.toNat r.sub.toNat = none
  scalar : row.ty < 8
  whole : r.length.toNat = tySize row.ty
  clear : r.status = 0#8 ∧ r.offset = 0#32 ∧ r.rsv = 0#32
  fresh : stagesDue s = []
  prompt : r.ns = 0
  idle : s.mbx.busy = none ∧ (owing s tr).length < 8

/-- A command written to its entry on a transport that may write, while the main domain serves its entries (R422, R423). -/
structure MayCommand (s : State) (tr : Transport) : Prop where
  reached : available s tr = true
  serves : mainBlock s = none
  allowed : mayWrite s tr = true
  fresh : stagesDue s = []
  idle : s.mbx.busy = none ∧ (owing s tr).length < 8

end Sys2Proof.Machine
end

