-- ==== Sys2Proof/Certificates/Slice0/Obligations.lean ====
section
/-! DEFINITION. The statements about the block, for the provers. -/

open Sys2Proof Sys2Proof.Machine

/-! ## The block -/

/-- A command at the front of the queue runs on the state with the rest of the queue; with no command waiting the block idles
(the block's own step; idling is the model's choice, log entry 4). -/
def Obligations.StepRunsFrontCommand : Prop :=
  (∀ (c : Instr) (r : List Instr) (s : State), step { s with pending := c :: r } = exec c { s with pending := r }) ∧
  (∀ s : State, s.pending = [] → step s = .next s)

/-- No command is refused or faults, and none touches the queue (model's choice, log entry 1). -/
def Obligations.EveryCommandAnswers : Prop :=
  ∀ (c : Instr) (s : State), ∃ t, exec c s = .next t ∧ t.pending = s.pending

/-- Every step keeps the invariant: memory in its one form, nothing left to charge, nothing noted as out of reach. -/
def Obligations.StepKeepsInvariant : Prop := ∀ s t : State, s.Inv → step s = .next t → t.Inv

/-- Every step keeps what has been sent and draws no free value twice; the clock never runs back while the standby supply
stays (R8). -/
def Obligations.StepGoesForward : Prop :=
  ∀ (c : Instr) (s t : State), exec c s = .next t → Forward s t ∧ (endsSupply c = false → s.time ≤ t.time)

/-- No command but a write through the Conservator port, the Ledger's scan and the loss of the standby supply changes a
CONS value (Table 0.3, R30, R431, R433). -/
def Obligations.ConsValuesOnlyThroughConservator : Prop :=
  ∀ (c : Instr) (s t : State), mayWriteCons c = false → exec c s = .next t → t.cons = s.cons

/-- At reset the part is in OFF in RUN, no job, queue or event stands, every entry reads its default, and memory is in its form
(R22, Table 16.1). -/
def Obligations.ResetIsOffAndInForm : Prop :=
  (State.reset.main = .off ∧ State.reset.power = .run ∧ State.reset.jobs = [] ∧ State.reset.queues = [] ∧
     State.reset.events = [] ∧ State.reset.pending = [] ∧ State.reset.link.perst = true ∧
     ∀ idx sub row, findRow idx sub = some row → rd State.reset idx sub = row.dflt) ∧
  (State.Inv State.reset)

/-! ## The codes of stored words -/

/-- A word that was encoded decodes as clean, with its data, in either code; the poison word of either code decodes as poison,
and no data has it for a codeword. Every error in one symbol of a stored word is corrected, with its place and value (R231, R233,
R234). -/
def Obligations.CodesReadBackAndPoison : Prop :=
  (∀ d : List Byte, d.length = 64 → rsDecode 6 (rsEncode 6 d) = .clean d ∧ rsDecode 8 (rsEncode 8 d) = .clean d) ∧
  ((rsDecode 6 (poisonWord 6) = .poison ∧ rsDecode 8 (poisonWord 8) = .poison) ∧
     ∀ d : List Byte, d.length = 64 → rsEncode 6 d ≠ poisonWord 6 ∧ rsEncode 8 d ≠ poisonWord 8) ∧
  (∀ (d : List Byte) (p : Nat) (e : Byte), d.length = 64 → e ≠ 0#8 →
    (p < 70 → rsDecode 6 (xorAt (rsEncode 6 d) p e) = .corrected d [(p, e)]) ∧
    (p < 72 → rsDecode 8 (xorAt (rsEncode 8 d) p e) = .corrected d [(p, e)]))

/-! ## Memory -/

/-- A word stored is read back, and every byte outside its place reads as before. Two device addresses of different words of one
pool lie in different words of storage. A shared-pool, die-local or HBM address has the home and offset that the interleave
gives (R153 to R155, R187, R188). -/
def Obligations.MemoryKeepsWordsApart : Prop :=
  (∀ (m : List Host.Cell) (k : Nat) (w : List Byte), Memory.wf m → w.length ≤ 128 →
     storedAt (storeAt m k w) k w.length = some w ∧ Memory.wf (storeAt m k w) ∧ SameBut k m (storeAt m k w)) ∧
  ((∀ b x w b' x' w', x < 528 → x' < 528 → w < 65536 → w' < 65536 → vaultKey b x w = vaultKey b' x' w' →
       b = b' ∧ x = x' ∧ w = w') ∧
     (∀ t w t' w', w < 16384 → w' < 16384 → opstoreKey t w = opstoreKey t' w' → t = t' ∧ w = w') ∧
     (∀ c n c' n', n < 2 ^ 25 → n' < 2 ^ 25 → hbmKey c n = hbmKey c' n' → c = c' ∧ n = n') ∧
     (∀ b x w t w' c n, b < 6 → x < 528 → w < 65536 → t < 3072 → w' < 16384 →
       vaultKey b x w < opstoreKey t w' ∧ opstoreKey t w' < hbmKey c n)) ∧
  ((∀ s a, a < sharedBytes s → a < 0x001000000000 →
     let q := a / 4096 / 6
     homeOf s a = .vault (a / 4096 % 6) (slice s (a / 4096 % 6) (q % s.lay.p)) ((q / s.lay.p * 4096 + a % 4096) / 64)) ∧
   (∀ s b e, b < 6 → e < dieBytes s → e < 2 ^ 32 → homeOf s (0x001000000000 + b * 2 ^ 32 + e) =
     .vault b (slice s b (e / 256 % s.lay.p)) ((s.lay.ps * 2 ^ 18 + (e / (256 * s.lay.p) * 256 + e % 256)) / 64)) ∧
   (∀ s b h, b < 6 → h < hbmRange s b → h < 2 ^ 37 → homeOf s (0x100000000000 + b * 2 ^ 37 + h) = .hbm b (h / 256) (h % 256 / 64) ∧
     lineKey s b (h / 256) (h % 256 / 64) =
       hbmKey ((dieChans s b).getD (h / 256 % (dieChans s b).length) 0) ((h / 256 / (dieChans s b).length * 256 + h % 256) / 64)))

/-! ## Tile programs -/

/-- A word with a reserved operation that has reached decode faults its job: it is REJECTED with the first cause of Table 3.21,
the tile and the word, and its tiles are free; a job with accesses still out posts its entry when they have ended, and until then
holds its tiles, stopped, with their flags. A tile blocked in WAIT for its watchdog time ends its job as TIMEOUT with cause 0x2D and
begins a discard (R21, R82, R112, R134, R135, R278). -/
def Obligations.TileFaultsEndJobs : Prop :=
  (∀ (s : State) (t w j : Nat) (jb : Job), s.Inv → headWord s t = some (some w) → reservedWord w = true → bits w 15 0 = wordCrc w →
     jobOf s t = some (j, jb) → jb.running = true →
     let x := if knownOpcode (wOpcode w) then 0x22 else 0x21
     let c : Comp := { q := jb.q, slot := jb.slot, jobId := jId jb.desc, status := 2, cause := x, ltile := t, word := (tile s t).word }
     checkWord s t w = some x ∧
     ∃ u, exec (.reservedOpcode t) s = .next u ∧ u.mem = s.mem ∧ u.cons = s.cons ∧
       (owesAccess (stopJob s j) j = false → (∀ n ∈ jobTiles jb, (tile u n).job = none ∧ ∀ f, flagCount u n f = 0) ∧
         SMap.find? u.jobs j = none ∧ u.comps = s.comps ++ [c]) ∧
       (owesAccess (stopJob s j) j = true →
         (∀ n ∈ jobTiles jb, (tile u n).job = some j ∧ (tile u n).running = false ∧ (tile u n).flags = (tile s n).flags) ∧
         (SMap.find? u.jobs j).map (·.fault) = some (some c) ∧ u.comps = s.comps)) ∧
  (∀ (s : State) (t j f n : Nat) (jb : Job), s.Inv → s.main = .ready → s.power ≠ .deep → jobOf s t = some (j, jb) → jb.running = true →
     (tile s t).block = some (.wait f n) → (tile s t).vecAt = none →
     ∃ r, exec (.waitWatchdog t) s = .next r ∧ r.main = .discarding ∧ SMap.find? r.jobs j = none ∧
       ({ q := jb.q, slot := jb.slot, jobId := jId jb.desc, status := 3, cause := 0x2D, ltile := t, word := (tile s t).blockIdx } : Comp) ∈ r.comps ∧
       rd r 0x5010 3 = f ∧ rd r 0x4030 1 = 0x2D ∧ rd r 0x4030 2 = t ∧ rd r 0x4030 3 = (tile s t).blockIdx ∧
       s.time ≤ r.time ∧ (tile s t).blockAt + wdogNs s jb ≤ r.time ∧ r.discardCause = 0x41)

/-- The exact sum of integer contributions is their integer sum, modulo 2^96 with 36 fraction bits and whatever their
order; within range it is the sum itself, and no special flag is set (R59, R61). -/
def Obligations.IntegerColumnsAreExact : Prop :=
  ∀ xs ys : List Int, xs.Perm ys →
    let sum (l : List Int) : Exact := l.foldl (fun (a : Exact) x => a.addNum (Machine.Num.ofInt x)) Exact.zero
    (sum xs).value = BitVec.ofInt 96 (xs.sum * 2 ^ 36) ∧ (sum xs).flags = Exact.zero.flags ∧ sum ys = sum xs ∧
      (-(2 ^ 59 : Int) ≤ xs.sum → xs.sum < 2 ^ 59 → (sum xs).value.toInt = xs.sum * 2 ^ 36)

/-- LDS that issues loads the rows and scales that its word names into its bank and records their layout; while a pass on that
bank has not drained it waits, the bank as it was (R49, R94). -/
def Obligations.LoadsFillABank : Prop :=
  ∀ (s : State) (t w j : Nat) (jb : Job), EngineReady s t w .array j jb (ldsReads s t w) [] → wOpcode w = 0x01 →
    let o := 0x002000000000 + t * 0x100000
    let lw := bits w 111 110
    let n := bits w 109 104 + 1
    let row (k : Nat) : Nat := o + bits w 103 84 + k * bits w 83 64
    let srow (k : Nat) : Nat := o + bits w 63 44 + k * 64
    let b := if bit1 w 119 then 1 else 0
    let mine (c : QCmd) : Bool := isPass c && bit1 c.word 119 == bit1 w 119
    ((tile s t).qArray.any mine = false →
      (∀ k, k < n → Clean s (row k) (ldsRowBytes lw)) → (bit1 w 118 = true → ∀ k, k < ldsScaleBlocks lw n → Clean s (srow k) 64) →
      ∃ r, exec (.lds t) s = .next r ∧ Worked s r t .array ∧ r.mem = s.mem ∧
        (tile r t).banks = (tile s t).banks.set b
          { loaded := true, lw := lw, rows := n, scl := bit1 w 118,
            cells := (List.range n).map (fun k => peekBytes s (row k) (ldsRowBytes lw)),
            scales := if bit1 w 118 then (List.range (ldsScaleBlocks lw n)).map (fun k => peekBytes s (srow k) 64) else [] } ∧
        (tile r t).slots = (tile s t).slots ∧ (tile r t).sel = (tile s t).sel ∧ (tile r t).regs = (tile s t).regs ∧
        (tile r t).vq = (tile s t).vq) ∧
    ((tile s t).qArray.any mine = true → (∀ c ∈ (tile s t).qArray, c.idx ≠ (tile s t).word) →
      ∃ r, exec (.lds t) s = .next r ∧ (tile r t).banks = (tile s t).banks ∧ (currentOf (tile r t) .array).isSome = true ∧
        (tile r t).word = (tile s t).word + 1 ∧ r.mem = s.mem)

/-- A pass that issues with none of the causes of its execution runs its streamed rows: its slots take their sums, and each
converted row goes where DEST says, to memory, to the selection, and to the vector queue while that has room (R44 to R47, R59 to
R74, R95 to R102, Table 2.3). A lane of the vector queue beyond the output columns of the pass holds +0: R74 and R102 leave it
open, and that is the model's choice (log entry 10). -/
def Obligations.PassesRunTheirRows : Prop :=
  ∀ (o : (Nat → Instr) × Nat) (s : State) (t w j : Nat) (jb : Job) (p : List PendWord), o ∈ passWords →
    EngineReady s t w .array j jb (passReads s t w) (passWrites s t w) → wOpcode w = o.2 → passCause s t (newEntry s t w [] []) = none →
    let v := tile s t
    let sg := gen v (wSgen w)
    let og := gen v (bits w 76 74)
    let ag := gen v (bits w 69 67)
    let n := sg.beats
    let start := if pSeed w then seeded w (peekRow s t ag) n v.slots else v.slots
    let scales (m : Nat) : List Nat := if pMx w then (peekRow s t ag m).map (·.getD 0) else []
    let run := passRun w (pActive w sg.rows) (decide (n ≤ 256)) (v.banks.getD (bits w 119 119) Bank.empty) (peekRow s t sg) scales start n
    (∀ m, m < n → RowReadable s t jb sg m) → (pMx w = true ∨ pSeed w = true → ∀ m, m < n → RowReadable s t jb ag m) →
    (bit1 (pDest w) 0 = true → v.vq.length + n ≤ 32) →
    (if bit1 (pDest w) 2 then stagedRows s t jb og run.2 else some []) = some p → Lands s p →
    Apart (sg.span s t) p → (pMx w = true → Apart (ag.span s t) p) →
    ∃ r, exec (o.1 t) s = .next r ∧ Worked s r t .array ∧ (tile r t).slots = run.1 ∧ r.mem = landed s t p ∧
      (tile r t).vq = (if bit1 (pDest w) 0 then
        v.vq ++ run.2.map (fun l => (List.range 64).map (fun i => match l[i]? with
          | some x => f32Enc (decodeOfmt (pOfmt w) x)
          | none => 0#32)) else v.vq) ∧
      (tile r t).sel = (if bit1 (pDest w) 1 then v.sel.map (fun x => { offered x run.2 with base := x.base + n }) else v.sel) ∧
      (tile r t).banks = v.banks ∧ (tile r t).regs = v.regs ∧ (tile r t).rampActive = true

/-- TOPK OPEN makes a selection of the word's depth, mode, format and base with no candidates, LOAD offers it the entries of the
stored lists, EMIT writes its lists and counts and closes it unless KEEP is set, CLOSE ends it. A candidate offered to a column
leaves at most k there, every one of them the new one or one that was there, and no other column changes (R74, R76, R77, R100). -/
def Obligations.SelectorKeepsCandidates : Prop :=
  (∀ (s : State) (t w j : Nat) (jb : Job), wOpcode w = 0x06 → EngineReady s t w .selector j jb [] [] →
     (bits w 111 108 = 0 → (tile s t).sel = none →
       ∃ r, exec (.topkOpen t) s = .next r ∧ Worked s r t .selector ∧ r.mem = s.mem ∧
         (tile r t).sel = some { k := bits w 107 99 + 1, maximum := bit1 w 98, fp := bit1 w 97, base := bits w 95 64,
                                 cands := List.replicate 64 [] }) ∧
     (bits w 111 108 = 3 → (tile s t).sel.isSome = true →
       ∃ r, exec (.topkClose t) s = .next r ∧ Worked s r t .selector ∧ r.mem = s.mem ∧ (tile r t).sel = none)) ∧
  (∀ (s : State) (t w j : Nat) (jb : Job) (x : Selection), wOpcode w = 0x06 → bits w 111 108 = 1 →
     EngineReady s t w .selector j jb (topkSpan s t w) [] → (tile s t).sel = some x →
     let base := tkBase s t w
     let k := tkK w
     let count (c : Nat) : Nat := leNat (peekBytes s (base + 64 * k * 8 + 4 * c) 4)
     base % 8 = 0 →
     (∀ c, c < 64 → Readable s jb .normal ((base + 64 * k * 8 + 4 * c) % 2 ^ 48 * 8) 32 ∧ count c ≤ k ∧
       ∀ i, i < count c → Readable s jb .normal ((base + c * k * 8 + i * 8) % 2 ^ 48 * 8) 64) →
     ∃ r, exec (.topkLoad t) s = .next r ∧ Worked s r t .selector ∧ r.mem = s.mem ∧ (tile r t).sel = some (loaded s base k x)) ∧
  (∀ (s : State) (t w j : Nat) (jb : Job) (x : Selection) (p : List PendWord), wOpcode w = 0x06 → bits w 111 108 = 2 →
     EngineReady s t w .selector j jb [] (topkSpan s t w) → (tile s t).sel = some x → tkK w = x.k →
     emitWaits (tile s t) (newEntry s t w [] []) = false →
     let base := tkBase s t w
     base % 8 = 0 → (stageList s t 64 jb (emitEntries x base) []).bind (stageList s t 32 jb (emitCounts x base)) = some p → Lands s p →
     ∃ r, exec (.topkEmit t) s = .next r ∧ Worked s r t .selector ∧ r.mem = landed s t p ∧
       (tile r t).sel = (if bit1 w 119 then some x else none)) ∧
  (∀ (x : Selection) (j : Nat) (c : F32 × Nat),
     ((offer x j c).cands.getD j []).length ≤ max x.k ((x.cands.getD j []).length) ∧
     (∀ y ∈ (offer x j c).cands.getD j [], y = c ∨ y ∈ x.cands.getD j []) ∧
     (∀ i, i ≠ j → (offer x j c).cands.getD i [] = x.cands.getD i []) ∧
     (j < x.cands.length → (x.cands.getD j []).length < x.k → c ∈ (offer x j c).cands.getD j []))

/-- A VEC word of one repetition puts the result of its operation on its operands (registers, the oldest row of the vector queue,
the immediate, a row of memory) into its destination register or into the words of its destination; MXQ writes elements and
scales. Nothing else of the tile, of memory or of a job changes (R78, R102, Tables 2.13 and 3.15). -/
def Obligations.VectorOperationsRun : Prop :=
  ∀ (o : (Nat → Instr) × Nat) (s : State) (t w j : Nat) (jb : Job) (p : List PendWord), o ∈ vectorOps ∨ o = (.vecMxq, 14) →
    EngineReady s t w .vector j jb (vecReads s t w) (vecWrites s t w) → wOpcode w = 0x07 → vVop w = o.2 → vReps w = 1 →
    ((vSources w).contains 32 = true → (tile s t).vq ≠ []) →
    ((vSources w).contains 34 = true → RowReadable s t jb (gen (tile s t) (vGen w)) 0) →
    vecWords s t w jb = some p → Lands s p →
    ∃ r, exec (o.1 t) s = .next r ∧ Worked s r t .vector ∧ r.mem = landed s t p ∧
      (vD w < 32 → vVop w ≠ 14 → vreg (tile r t) (vD w) = vecResult s t w) ∧
      (∀ i, i < 32 → (vD w < 32 ∧ vVop w ≠ 14 → i ≠ vD w) → vreg (tile r t) i = vreg (tile s t) i) ∧
      (tile r t).vq = (if (vSources w).contains 32 then (tile s t).vq.drop 1 else (tile s t).vq) ∧
      (tile r t).slots = (tile s t).slots ∧ (tile r t).sel = (tile s t).sel ∧ (tile r t).banks = (tile s t).banks ∧
      (tile r t).vecAt = none

/-- MOVE and MOVEX on the package leave each destination element with its source's value, transposed by blocks of 64 × 64 in
MOVEX, zeros for padded sources; nothing else of memory changes. Words that a command puts together are written bit by bit, and
no byte stored outside their places differs (R57, R103, R104, R254). -/
def Obligations.MovesCopyElements : Prop :=
  (∀ (s : State) (t w j : Nat) (jb : Job),
     EngineReady s t w .move j jb (moveReads s t w) (moveWrites s t w) →
     let sg := gen (tile s t) (wSgen w)
     let dg := gen (tile s t) (wDgen w)
     let hint := hintOf (bits w 88 87)
     let els := moveEls sg dg (sg.a0 s t) (dg.a0 s t)
     let xels := movexEls sg dg (sg.a0 s t) (dg.a0 s t)
     (wOpcode w = 0x10 → bits w 119 116 = 0 → Copyable s jb hint sg.width els → Lands s (copied s sg.width els) →
       ∃ r, exec (.move t) s = .next r ∧ Worked s r t .move ∧ r.mem = landed s t (copied s sg.width els) ∧
         (tile r t).regs = (tile s t).regs ∧ (tile r t).slots = (tile s t).slots) ∧
     (wOpcode w = 0x11 → Copyable s jb hint sg.width xels → Lands s (copied s sg.width xels) →
       ∃ r, exec (.movex t) s = .next r ∧ Worked s r t .move ∧ r.mem = landed s t (copied s sg.width xels) ∧
         (tile r t).regs = (tile s t).regs ∧ (tile r t).slots = (tile s t).slots)) ∧
  (∀ (s : State) (how : How) (p : List PendWord), Lands s p → (∀ x ∈ p, x.addr % 64 = 0 ∧ x.poison = false) →
     (p.map (fun x => sramKey s x.addr)).Nodup →
     ∃ r, flush s how p = (.val 0, r) ∧
       (∀ x ∈ p, peekWord r x.addr = (peekWord s x.addr).map (fun d => leBytes 64 ((leNat d &&& (fullMask - x.m)) ||| x.v))) ∧
       ∀ y, (∀ x ∈ p, ∀ k, sramKey s x.addr = some k → y < k ∨ k + 128 ≤ y) → storedByte r.mem y = storedByte s.mem y)

/-- GATHER leaves in its destination elements the rows of the table that its indices name, zeros for an index of all ones;
SCATTERADD combines its rows into the table at their homes, in order, by its ROP, and leaves out a row whose index is all ones
(R105, R106). An ordered ROP goes by its context, as the statement about ordered adds has it. -/
def Obligations.TablesAreGatheredAndScattered : Prop :=
  ∀ (s : State) (t w j : Nat) (jb : Job), gTable s t w % 64 = 0 →
    let dg := gen (tile s t) (wDgen w)
    let hint := hintOf (bits w 83 82)
    let words (f : Nat → Prop) : Prop := ∀ i k, i < gRows w (tile s t) → k < gLen w / 64 → rowIndex s t w i ≠ 0xFFFFFFFF → f (tableWord s t w i k)
    let p := pended dg.width (gatherEls s t w)
    (wOpcode w = 0x12 → EngineReady s t w .move j jb (gatherReads s t w) (gatherWrites s t w) → IndicesReadable s t w jb hint →
      words (fun a => allowed s jb false hint a (a + 63) = true ∧ (peekWord s a).isSome = true) →
      (∀ e ∈ gatherEls s t w, elemOk s jb true hint e.1 dg.width = true) → Lands s p →
      ∃ r, exec (.gather t) s = .next r ∧ Worked s r t .move ∧ r.mem = landed s t p ∧
        (tile r t).regs = (tile s t).regs ∧ (tile r t).slots = (tile s t).slots) ∧
    (wOpcode w = 0x13 → EngineReady s t w .move j jb (scatterReads s t w) (gatherTable s t w) → IndicesReadable s t w jb .normal →
      (∀ n, n < dg.total → dg.padded (dg.flat n) = false → Readable s jb .normal (dg.bitAddr (dg.a0 s t) (dg.flat n)) dg.width) →
      words (fun a => allowed s jb true .normal a (a + 63) = true ∧ (peekWord s a).isSome = true) → bits w 85 82 ≠ 5 →
      ∃ r, exec (.scatteradd t) s = .next r ∧ Worked s r t .move ∧
        r.mem = ((scattered s t w).foldl (fun u x =>
          (modifyWord u (plain (.tile t)) x.1 true (fun y => reduceWord (bits w 85 82) y x.2)).2) s).mem ∧
        (tile r t).regs = (tile s t).regs ∧ (tile r t).slots = (tile s t).slots)

/-- AGEN sets one part of the generator it names as Table 3.6 has it, and changes no other generator, no other tile state,
no memory and no entry (R87). -/
def Obligations.GeneratorWordsSetOnePart : Prop :=
  ∀ (s : State) (t w : Nat) (j : Nat), AtDecode s t w → wOpcode w = 0x30 → (tile s t).job = some j →
    let g := gen (tile s t) (bits w 111 109)
    let leaves (c : Instr) (k : Gen) : Prop :=
      exec c s = .next (noteState s (setTile s t { tile s t with gens := (tile s t).gens.set (bits w 111 109) k,
                                                                 word := (tile s t).word + 1, buf := (tile s t).buf.drop 1 }))
    (bits w 108 106 = 0 → leaves (.agenBase t)
      { g with bsel := bits w 105 104, base := bits w 103 56, esz := bits w 55 53, rowmask := bits w 52 48,
               y0 := signedOf 16 (bits w 47 32), x0 := signedOf 16 (bits w 31 16) }) ∧
    (bits w 108 106 = 1 → leaves (.agenBounds t) { g with pad := bit1 w 105, h := bits w 104 89, w := bits w 88 73 }) ∧
    (2 ≤ bits w 108 106 → bits w 108 106 ≤ 6 → leaves (.agenLoop t)
      { g with loops := g.loops.set (bits w 108 106 - 2) (GLoop.mk (bits w 105 90) (signedOf 32 (bits w 89 58))
                                                            (signedOf 8 (bits w 57 50)) (signedOf 8 (bits w 49 42))) })

/-- A signal to a flag of a tile that a running job holds adds to the flag and changes nothing else; a sum above 65,535 is counted,
leaves 65,535 in the flag until the job ends, and faults the job with cause 0x2C; a signal outside the tile sets of running jobs is
dropped and counted; a SIG word with ENG 0 to its own tile signals at once (R107, R114, R115, R118). That the completion names the
tile of the flag and that tile's next word is the model's choice: R115 leaves it open (log entry 30). -/
def Obligations.SignalsAddToFlags : Prop :=
  (∀ (s : State) (t f : Nat) (n : BitVec 16), f < 48 → n ≠ 0#16 →
     (∀ j jb, Signalled s t j jb → flagCount s t f + n.toNat ≤ 65535 →
       exec (.flagSignal t f n) s = .next (noteState s (setFlag s t f (flagCount s t f + n.toNat)))) ∧
     (∀ j jb, Signalled s t j jb → 65535 < flagCount s t f + n.toNat →
       let c : Comp := { q := jb.q, slot := jb.slot, jobId := jId jb.desc, status := 2, cause := 0x2C, ltile := t,
                         word := (tile s t).word }
       ∃ r, exec (.flagSignal t f n) s = .next r ∧ rd r 0x5040 2 = rd (bump s 0x5040 2) 0x5040 2 ∧ r.mem = s.mem ∧
         (owesAccess (stopJob s j) j = false → SMap.find? r.jobs j = none ∧ r.comps = s.comps ++ [c]) ∧
         (owesAccess (stopJob s j) j = true → flagCount r t f = 65535 ∧ (∀ g, g ≠ f → flagCount r t g = flagCount s t g) ∧
           (SMap.find? r.jobs j).map (·.fault) = some (some c) ∧ r.comps = s.comps)) ∧
     (s.Inv → (∀ j jb, jobOf s t = some (j, jb) → jb.running = false) → (tile s t).block = none →
       exec (.flagSignal t f n) s = .next (noteState s (noteArmed (bump s 0x5040 1) t)))) ∧
  (∀ (s : State) (t w j : Nat) (jb : Job), AtDecode s t w → wOpcode w = 0x20 → bits w 111 109 = 0 → bit1 w 70 = true →
     bit1 w 69 = false → Signalled s t j jb → flagCount s t (sFlag w) + sN w ≤ 65535 →
     ∃ r, exec (.sig t) s = .next r ∧ flagCount r t (sFlag w) = flagCount s t (sFlag w) + sN w ∧
       (∀ g, g ≠ sFlag w → flagCount r t g = flagCount s t g) ∧ (tile r t).word = (tile s t).word + 1 ∧
       (∀ x, x ≠ t → tile r x = tile s x) ∧ r.mem = s.mem ∧ r.jobs = s.jobs)

/-- WAIT n takes n from a flag that holds it, WAITP takes nothing, and either blocks on one that holds less until a signal brings the
count to n; nothing takes part of n. FENCE passes once the engines it names are idle, END ends a program whose engines are
idle (R109, R110, R116). -/
def Obligations.WaitsTakeTheirCount : Prop :=
  (∀ (s : State) (t w j : Nat) (jb : Job), AtDecode s t w → jobOf s t = some (j, jb) →
     (wOpcode w = 0x21 → sN w ≤ flagCount s t (sFlag w) → ∃ r, exec (.wait t) s = .next r ∧ (tile r t).block = none ∧
       flagCount r t (sFlag w) = flagCount s t (sFlag w) - sN w ∧ (∀ g, g ≠ sFlag w → flagCount r t g = flagCount s t g) ∧
       (tile r t).word = (tile s t).word + 1 ∧ r.mem = s.mem) ∧
     (wOpcode w = 0x21 → flagCount s t (sFlag w) < sN w → ∃ r, exec (.wait t) s = .next r ∧
       (tile r t).block = some (.wait (sFlag w) (sN w)) ∧ (tile r t).blockAt = s.time ∧ (∀ g, flagCount r t g = flagCount s t g)) ∧
     (wOpcode w = 0x22 → sN w ≤ flagCount s t (sFlag w) → ∃ r, exec (.waitp t) s = .next r ∧ (tile r t).block = none ∧
       (∀ g, flagCount r t g = flagCount s t g) ∧ (tile r t).word = (tile s t).word + 1 ∧ r.mem = s.mem) ∧
     (wOpcode w = 0x24 → maskIdle (tile s t) (bits w 111 108) = true → ∃ r, exec (.fence t) s = .next r ∧
       (tile r t).block = none ∧ (tile r t).word = (tile s t).word + 1 ∧ r.mem = s.mem) ∧
     (wOpcode w = 0x3F → enginesIdle (tile s t) = true → ∃ r, exec (.endCmd t) s = .next r ∧ (tile r t).ended = true ∧
       (tile r t).running = false ∧ r.mem = s.mem ∧ r.jobs = s.jobs)) ∧
  (∀ (s : State) (t f n j : Nat) (m : BitVec 16) (jb : Job), s.Inv → jobOf s t = some (j, jb) → jb.running = true → s.main = .ready →
     f < 48 → m ≠ 0#16 → flagCount s t f + m.toNat ≤ 65535 →
     let stays := exec (.flagSignal t f m) s = .next (noteState s (noteArmed (setFlag s t f (flagCount s t f + m.toNat)) t))
     ((tile s t).block = some (.wait f n) →
       (n ≤ flagCount s t f + m.toNat → ∃ r, exec (.flagSignal t f m) s = .next r ∧ (tile r t).block = none ∧
         flagCount r t f = flagCount s t f + m.toNat - n ∧ (∀ g, g ≠ f → flagCount r t g = flagCount s t g) ∧ r.mem = s.mem) ∧
       (flagCount s t f + m.toNat < n → stays)) ∧
     ((tile s t).block = some (.waitp f n) →
       (n ≤ flagCount s t f + m.toNat → ∃ r, exec (.flagSignal t f m) s = .next r ∧ (tile r t).block = none ∧
         flagCount r t f = flagCount s t f + m.toNat ∧ (∀ g, g ≠ f → flagCount r t g = flagCount s t g) ∧ r.mem = s.mem) ∧
       (flagCount s t f + m.toNat < n → stays)))

/-- BAR reads its descriptor and child entries. With engines busy it blocks there; with them idle it adds its own arrival and waits
for the others; with all arrived a root without children is done, and any other takes its count, reports to its parent and waits
for its release, which a signal to its release flag brings. The arrival that completes a gather moves the barrier on, one before it
does not. A barrier that is done, or released, signals each of its children (R108, R130). -/
def Obligations.BarriersGatherAndRelease : Prop :=
  (∀ (s : State) (t w j : Nat) (jb : Job), AtDecode s t w → wOpcode w = 0x23 → jobOf s t = some (j, jb) → jb.running = true →
     Admits s (issue s t (opIs 0x23) (barRun t)) 4 →
     let a := 0x002000000000 + t * 0x100000 + bits w 111 92
     let d := peekBits s (8 * a) 128
     let kid (i : Nat) : Nat := 8 * (a + 16 + 8 * i)
     let cs := (List.range (min (bits d 86 80) 64)).map (fun i => peekBits s (kid i) 64)
     let b := barDesc d cs
     let k := flagCount s t b.aflag + 1
     hazard (tile s t) (hazardParts s t (a, a + 16 + 8 * 64 - 1)) [] = false → Readable s jb .normal (8 * a) 128 →
     (∀ i, i < min (bits d 86 80) 64 → Readable s jb .normal (kid i) 64) → barCause d cs = none →
     let goes (p : State → Prop) : Prop :=
       ∃ r, exec (.bar t) s = .next r ∧ (tile r t).word = (tile s t).word + 1 ∧ r.mem = s.mem ∧ r.jobs = s.jobs ∧ p r
     (enginesIdle (tile s t) = false → goes (fun r => (tile r t).block = some .barComplete ∧ (tile r t).bar = some b ∧
       ∀ f, flagCount r t f = flagCount s t f)) ∧
     (enginesIdle (tile s t) = true → k ≤ 65535 →
       (k < b.acount → goes (fun r => (tile r t).block = some .barGather ∧ (tile r t).bar = some b ∧ flagCount r t b.aflag = k ∧
         ∀ f, f ≠ b.aflag → flagCount r t f = flagCount s t f)) ∧
       (b.acount ≤ k → b.root = true → KidsHere s t j jb b → goes (fun r => (tile r t).block = none ∧
         flagCount r t b.aflag = k - b.acount ∧ (∀ f, f ≠ b.aflag → flagCount r t f = flagCount s t f) ∧ Released s r t b)) ∧
       (b.acount ≤ k → b.root = false → b.prem = false → b.pltile ≠ t → flagCount s t b.rflag = 0 →
         jobOf s b.pltile = some (j, jb) → (tile s b.pltile).block = none → flagCount s b.pltile b.pflag < 65535 →
         goes (fun r => (tile r t).block = some .barRelease ∧ (tile r t).bar = some b ∧ flagCount r t b.aflag = k - b.acount ∧
           flagCount r b.pltile b.pflag = flagCount s b.pltile b.pflag + 1)))) ∧
  (∀ (s : State) (t j : Nat) (jb : Job) (b : BarDesc), s.Inv → jobOf s t = some (j, jb) → jb.running = true → s.main = .ready →
     (tile s t).block = some .barRelease → (tile s t).bar = some b → b.root = false → KidsHere s t j jb b → b.rflag < 48 →
     flagCount s t b.rflag = 0 →
     ∃ r, exec (.flagSignal t b.rflag 1#16) s = .next r ∧ (tile r t).block = none ∧ (tile r t).bar = none ∧
       (∀ f, flagCount r t f = flagCount s t f) ∧ Released s r t b ∧ r.mem = s.mem ∧ r.jobs = s.jobs) ∧
  (∀ (s : State) (t j : Nat) (m : BitVec 16) (jb : Job) (b : BarDesc), s.Inv → jobOf s t = some (j, jb) → jb.running = true →
     s.main = .ready → (tile s t).block = some .barGather → (tile s t).bar = some b → b.aflag < 48 → m ≠ 0#16 →
     let k := flagCount s t b.aflag + m.toNat
     let goes (p : State → Prop) : Prop :=
       ∃ r, exec (.flagSignal t b.aflag m) s = .next r ∧ r.mem = s.mem ∧ r.jobs = s.jobs ∧ p r
     k ≤ 65535 →
     (k < b.acount → exec (.flagSignal t b.aflag m) s = .next (noteState s (noteArmed (setFlag s t b.aflag k) t))) ∧
     (b.acount ≤ k → b.root = true → KidsHere s t j jb b → goes (fun r => (tile r t).block = none ∧ (tile r t).bar = none ∧
       flagCount r t b.aflag = k - b.acount ∧ (∀ f, f ≠ b.aflag → flagCount r t f = flagCount s t f) ∧ Released s r t b)) ∧
     (b.acount ≤ k → b.root = false → b.prem = false → b.pltile ≠ t → b.aflag ≠ b.rflag → flagCount s t b.rflag = 0 →
       jobOf s b.pltile = some (j, jb) → (tile s b.pltile).block = none → flagCount s b.pltile b.pflag < 65535 →
       goes (fun r => (tile r t).block = some .barRelease ∧ (tile r t).bar = some b ∧ flagCount r t b.aflag = k - b.acount ∧
         (∀ f, f ≠ b.aflag → flagCount r t f = flagCount s t f) ∧
         flagCount r b.pltile b.pflag = flagCount s b.pltile b.pflag + 1)))

/-- PROGRAM_FETCH puts the next aligned 64 bytes of the program behind the words in the buffer, while it has room; a command that
has done its work leaves its engine's queue when its engine reports it complete, the oldest pass when it has drained, and an
internal error of an engine begins a discard with cause 0x42. A command that has lost a word has failed: it does not complete, and
a discard with cause 0x40 begins (R53, R80, R84, R178, R235, R274). -/
def Obligations.FetchesAndCompletions : Prop :=
  (∀ (s : State) (t j : Nat) (jb : Job) (d : List Byte), s.Inv → s.main = .ready → s.power = .run → (tile s t).running = true →
     jobOf s t = some (j, jb) → (tile s t).words ≠ 0 → (tile s t).fetched < (tile s t).words → (tile s t).buf.length ≤ 252 →
     peekWord s ((tile s t).progAddr + 16 * (tile s t).fetched) = some d →
     let n := min 4 ((tile s t).words - (tile s t).fetched)
     exec (.programFetch t) s = .next (noteState s (setTile s t { tile s t with
       fetched := (tile s t).fetched + n,
       buf := (tile s t).buf ++ (List.range n).map (fun i => some (leNat ((d.drop (16 * i)).take 16))) }))) ∧
  (∀ (s : State) (t : Nat), s.Inv → s.main = .ready → (tile s t).block = none → (∀ e, currentOf (tile s t) e = none) →
     (∀ e c, c ∈ qOf (tile s t) e → isSig c = false) →
     (∀ (e : Engine) (pos : Nat) (c : QCmd), (qOf (tile s t) e)[pos]? = some c → completes s t c = true → isPass c = false →
       ∃ r, exec (.engineCommandComplete t e ⟨pos, false, ⟨0, none⟩⟩) s = .next r ∧ qOf (tile r t) e = (qOf (tile s t) e).eraseIdx pos ∧
         (∀ x, x ≠ e → qOf (tile r t) x = qOf (tile s t) x) ∧ r.mem = s.mem ∧ r.jobs = s.jobs) ∧
     (∀ (e : Engine) (pos : Nat), s.power ≠ .deep → ((qOf (tile s t) e)[pos]?).isSome = true →
       (∃ r, exec (.engineCommandComplete t e ⟨pos, true, ⟨0, none⟩⟩) s = .next r ∧ r.main = .discarding ∧ r.discardCause = 0x42 ∧
         r.mem = s.mem) ∧
       ∀ internal n a, ∃ r, exec (.engineCommandComplete t e ⟨pos, internal, ⟨n, some a⟩⟩) s = .next r ∧ r.main = .discarding ∧
         r.discardCause = 0x40 ∧ rd r 0x6050 1 = rd (bump s 0x6050 1) 0x6050 1 ∧ r.tiles = s.tiles ∧ r.mem = s.mem) ∧
     (∀ pos c, (tile s t).qArray.findIdx? isPass = some pos → (tile s t).qArray[pos]? = some c → c.done = true →
       ∃ r, exec (.arrayPassDrain t) s = .next r ∧ (tile r t).qArray = (tile s t).qArray.eraseIdx pos ∧
         ((tile r t).rampActive = true ↔ 1 < ((tile s t).qArray.filter isPass).length) ∧ r.mem = s.mem ∧ r.jobs = s.jobs))

/-- A tile that has been armed for its quiet time becomes quiet, and nothing but that and the clock changes; a loan decision, at
its next due time, hands whole units from halves that may lend to others of its B-die in turn, none above the ceiling; a borrower's
confirmation gives the units back (R139 to R142). That decisions fall on multiples of 10 µs (log entry 30), and that a tile without
an entry counts its quiet time from READY (log entry 17), are the model's choices. -/
def Obligations.QuietTilesAndLoans : Prop :=
  (∀ (s : State) (t : Nat), s.Inv → t < tileCount s → canBeQuiet s t = true → isQuiet s t = false →
    let since := (SMap.get s.quiet t (s.regStart, false)).1
    let s' := advance s (since + loanVal s (tileHalf s t / 4) 2 * 1000)
    exec (.tileQuiet t) s = .next (noteState s { s' with quiet := SMap.put s.quiet t (since, true) })) ∧
  (∀ (s : State) (b : Nat), b < 6 → s.main = .ready ∨ s.main = .discarding → s.power = .run →
    ∃ r, exec (.loanDecision b) s = .next r ∧ r.time = max s.time (loanDue s b) ∧ r.time % 10000 = 0 ∧
      SMap.find? r.loanAt b = some r.time ∧ r.mem = s.mem ∧ Lent s r b) ∧
  (∀ (s : State) (rc : Reclaim) (rest : List Reclaim) (br n ns : Nat), s.reclaims = rc :: rest → rc.owed = [(br, n)] → ns ≤ 6000 →
    s.main = .ready ∨ s.main = .discarding →
    ∃ r, exec (.borrowerConfirm br rc.lender ns) s = .next r ∧ r.reclaims = rest ∧ rc.opened + ns ≤ r.time ∧
      (∀ l ∈ s.loans, l.lender ≠ rc.lender ∨ l.borrower ≠ br → l ∈ r.loans) ∧
      (lentBy r rc.lender).length + min n ((s.loans.filter (fun l => l.lender == rc.lender && l.borrower == br)).length) =
        (lentBy s rc.lender).length)

/-! ## Homes and reductions -/

/-- In a part that is not in DEEP, a read at a home answers the word's data and changes no word; a write of a whole word leaves exactly that word stored,
a sub-word write lays its bytes over it, and no byte outside the word's place changes. A word corrected on its way is counted, an
internal error of a home fails its request as a class-B fault (R31, R161, R162, R176, R234, R274). -/
def Obligations.HomesReadAndWriteWords : Prop :=
  ∀ (s : State) (rq : Requester) (a key : Nat) (hint : Hint), s.Inv → homesServe s = true → a % 64 = 0 →
    (∀ d, SramWord s a key d →
      (∃ t, exec (.homeRead rq a hint ⟨[], [], false⟩) s = .next t ∧ t.out = .home rq a false true d :: s.out ∧ t.mem = s.mem ∧
        t.tiles = s.tiles ∧ t.jobs = s.jobs ∧ t.cons = s.cons ∧ t.main = s.main ∧
        ((∀ r ∈ s.recent, r.1 ≠ a) → t.ent = s.ent)) ∧
      (∀ p e, p < 70 → e ≠ 0#8 → ∃ t, exec (.homeRead rq a hint ⟨[], [(p, e)], false⟩) s = .next t ∧
        Out.home rq a false true d ∈ t.out ∧ rd t 0x7800 3 = rd (bump s 0x7800 3) 0x7800 3 ∧ t.mem = s.mem) ∧
      (s.main = .ready → ∃ t, exec (.homeRead rq a hint ⟨[], [], true⟩) s = .next t ∧ Out.home rq a true false [] ∈ t.out ∧
        t.main = .discarding ∧ t.discardCause = 0x42 ∧ t.mem = s.mem)) ∧
    (∀ data : BitVec 512, sramKey s a = some key →
      ∃ t, exec (.homeWrite rq a hint ⟨data, []⟩) s = .next t ∧ SramWord t a key (leBytes 64 data.toNat) ∧ SameBut key s.mem t.mem ∧
        Out.home rq a false true [] ∈ t.out ∧ t.cons = s.cons ∧ t.main = s.main) ∧
    (∀ (d x : List Byte) (o : Nat), SramWord s a key d → 0 < x.length → x.length < 64 → o + x.length ≤ 64 →
      ∃ t, exec (.homeSubwordWrite rq (a + o) hint x) s = .next t ∧ SramWord t a key (overlay d o x) ∧ SameBut key s.mem t.mem ∧
        Out.home rq (a + o) false true [] ∈ t.out ∧ t.cons = s.cons ∧ t.main = s.main)

/-- A reduction at its home stores the word combined with the contribution by its ROP, answers it as done, and changes no
byte outside the word's place; each ROP makes of an element wrapping sums of 4 and 8 bytes, sums of wide partials, BF16 and FP32
sums, or the lesser or greater of signed and FP32 elements (R168 to R170, Table 5.6). -/
def Obligations.ReductionsCombineInPlace : Prop :=
  (∀ (o : (Requester → Nat → BitVec 512 → Instr) × Nat) (s : State) (rq : Requester) (a key : Nat) (d : List Byte)
     (data : BitVec 512), o ∈ reductions → s.Inv → homesServe s = true → a % 64 = 0 → SramWord s a key d →
     ∃ t, exec (o.1 rq a data) s = .next t ∧ SramWord t a key (reduceWord o.2 d (leBytes 64 data.toNat)) ∧
       SameBut key s.mem t.mem ∧ Out.home rq a false true [] ∈ t.out ∧ t.cons = s.cons ∧ t.main = s.main) ∧
  (∀ (x y : List Byte) (i : Nat), x.length = 64 → y.length = 64 →
    let at' (n : Nat) (w : List Byte) : Nat := leNat ((w.drop (n * i)).take n)
    (i < 16 → at' 4 (reduceWord 0 x y) = (at' 4 x + at' 4 y) % 2 ^ 32) ∧
    (i < 8 → at' 8 (reduceWord 1 x y) = (at' 8 x + at' 8 y) % 2 ^ 64) ∧
    (i < 4 → at' 16 (reduceWord 2 x y) = (wideAdd (BitVec.ofNat 128 (at' 16 x)) (BitVec.ofNat 128 (at' 16 y))).toNat) ∧
    (i < 32 → at' 2 (reduceWord 3 x y) = (bf16Add (BitVec.ofNat 16 (at' 2 x)) (BitVec.ofNat 16 (at' 2 y))).toNat) ∧
    (i < 16 → at' 4 (reduceWord 4 x y) = (f32Add (BitVec.ofNat 32 (at' 4 x)) (BitVec.ofNat 32 (at' 4 y))).toNat) ∧
    (i < 16 → signedOf 32 (at' 4 (reduceWord 6 x y)) = min (signedOf 32 (at' 4 x)) (signedOf 32 (at' 4 y))) ∧
    (i < 16 → signedOf 32 (at' 4 (reduceWord 7 x y)) = max (signedOf 32 (at' 4 x)) (signedOf 32 (at' 4 y))) ∧
    (i < 16 → at' 4 (reduceWord 8 x y) = (f32Min (BitVec.ofNat 32 (at' 4 x)) (BitVec.ofNat 32 (at' 4 y))).toNat) ∧
    (i < 16 → at' 4 (reduceWord 9 x y) = (f32Max (BitVec.ofNat 32 (at' 4 x)) (BitVec.ofNat 32 (at' 4 y))).toNat))

/-- A contribution to an ordered add is kept in its hold area and its arrival bit set while others are missing; the last adds all
of them to the word in order of CID and counts the word as done. One that no open context covers, or that has arrived already, is
refused and counted (R171 to R173). -/
def Obligations.OrderedAddWaitsForAll : Prop :=
  ∀ (s : State) (rq : Requester) (a cid k : Nat) (c : RedCtx) (data : BitVec 512), s.Inv → homesServe s = true →
    a % 64 = 0 → (sramKey s a).isSome = true →
    let d := leBytes 64 data.toNat
    let how : How := { rq := rq, hint := .stream, prio := 0, narrow := false, free := true }
    let area := c.hold + (a - c.target) / 64 * (c.contributors + 2) * 64
    let word (x : Nat) : List Byte := (peekWord s x).getD []
    let slot' (i : Nat) : Nat := area + (i + 2) * 64
    let m := leNat (word area ++ word (area + 64))
    let known := (peekWord s area).isSome = true ∧ (peekWord s (area + 64)).isSome = true
    let last := (List.range c.contributors).all (fun i => bit1 (m + 2 ^ cid) i)
    (ctxOf s a = some (k, c) → SMap.find? s.ctx k = some c → cid < c.contributors → known → bit1 m cid = false → (sramKey s (slot' cid)).isSome = true →
      (last = false →
        exec (.redFp32OrderedAdd rq a cid data) s = .next (noteState s (answerHome
          (writeWord (writeWord s how (slot' cid) d) how (area + cid / 512 * 64)
            (leBytes 64 ((m + 2 ^ cid) / 2 ^ (cid / 512 * 512) % 2 ^ 512)))
          { rq := rq, a := a, hint := .normal, op := .ordered cid d } false true []))) ∧
      (last = true → c.sigaddr = 0 → (peekWord s a).isSome = true → slot' cid % 64 = 0 →
        (∀ i, i < c.contributors → i ≠ cid → (peekWord s (slot' i)).isSome = true) →
        ((a :: area :: (area + 64) :: (List.range c.contributors).map slot').map (sramKey s)).Nodup →
        ∃ t, exec (.redFp32OrderedAdd rq a cid data) s = .next t ∧ Out.home rq a false true [] ∈ t.out ∧
          peekWord t a = some ((List.range c.contributors).foldl
            (fun y i => reduceWord 4 y (if i = cid then d else word (slot' i))) (word a)) ∧
          SMap.get t.ctx k RedCtx.reset =
            { c with doneWords := c.doneWords + 1, st := if c.doneWords + 1 = c.words then 2 else c.st })) ∧
    (rq = .host ∨ rq = .none →
      (ctxOf s a = none ∨ (ctxOf s a = some (k, c) ∧ (c.contributors ≤ cid ∨ (known ∧ bit1 m cid = true))) →
        ∃ t, exec (.redFp32OrderedAdd rq a cid data) s = .next t ∧ Out.home rq a false false [] ∈ t.out ∧ t.mem = s.mem ∧
          rd t 0x6030 4 = min (2 ^ 32 - 1) (rd s 0x6030 4 + 1)))

/-- Compare-and-swap stores the new value where the old one is the comparand and otherwise leaves the word as it is;
fetch-add stores the wrapping sum; both answer the old value (R168, R175, Table 5.6). -/
def Obligations.AtomicsAnswerOldValue : Prop :=
  ∀ (s : State) (rq : Requester) (a o key : Nat) (d : List Byte) (wide : Bool) (x y : BitVec 64),
    let n := if wide then 8 else 4
    s.Inv → homesServe s = true → a % 64 = 0 → o < 64 → o % n = 0 → SramWord s a key d →
    let old := leNat ((d.drop o).take n)
    ∃ t u, exec (.compareAndSwap rq (a + o) wide x y) s = .next t ∧ exec (.fetchAdd rq (a + o) wide x) s = .next u ∧
      SramWord t a key (if old = x.toNat % 2 ^ (8 * n) then overlay d o (leBytes n y.toNat) else d) ∧
      SramWord u a key (overlay d o (leBytes n (old + x.toNat))) ∧ SameBut key s.mem t.mem ∧ SameBut key s.mem u.mem ∧
      Out.home rq (a + o) false true (leBytes n old) ∈ t.out ∧ Out.home rq (a + o) false true (leBytes n old) ∈ u.out

/-! ## HBM channels, scrubbers, discards -/

/-- A line fetch that ends allocates the line and answers the read it was for with the sector's data; refresh changes
nothing; a stack left idle in SLEEP, with no retrain of its channels running, goes back to self-refresh (R184, R190, R354). -/
def Obligations.LineFetchesEnd : Prop :=
  (∀ (s : State) (b line a way : Nat) (rq : Requester) (d : Nat → List Byte), s.Inv → a % 64 = 0 → s.power = .run → s.indet = [] →
    (∀ n e, currentOf (tile s n) e = none) → s.behind = [] →
    s.fetches = [{ b := b, line := line, held := [.acc { rq := rq, a := a, hint := .normal, op := .read [] [] }] }] →
    homeOf s a = .hbm b line (a % 256 / 64) → findLine s b line = none → victimWay s b line = some (way, none) →
    (∀ i, i < 4 → ∃ w, storedAt s.mem (lineKey s b line i) 72 = some w ∧ rsDecode 8 w = .clean (d i)) →
    ∃ t, exec (.hbmLineFill b line ⟨[], false⟩) s = .next t ∧ t.fetches = [] ∧ t.mem = s.mem ∧
      (findLine t b line).map (·.sectors) = some ((List.range 4).map (fun i => rsEncode 6 (d i))) ∧
      Out.home rq a false true (d (a % 256 / 64)) ∈ t.out) ∧
  (∀ (s : State) (ch : Nat), exec (.hbmRefresh ch) s = .next s) ∧
  (∀ (s : State) (m at' : Nat), s.power = .sleep → SMap.find? s.woken m = some at' → (∀ c, c / 32 = m → (chan s c).active = none) →
    ∃ t, exec (.hbmSelfRefreshIdle m) s = .next t ∧ SMap.find? t.woken m = none ∧ at' + 1000000 ≤ t.time ∧ s.time ≤ t.time ∧
      (∀ c ∈ t.chans, c.1 / 32 = m → c.2.selfRefresh = true) ∧ t.mem = s.mem)

/-- Parity errors of a channel are counted by the second; those that reach the threshold make a retrain pending, the third such
trigger within 10 s fails the channel; a retrain starts as the only one of its stack, which leaves self-refresh for it, and ends
within 30 µs with the channel free again, or failed (R184, R201, R202, R205, R464). -/
def Obligations.RetrainsStartAndEnd : Prop :=
  ∀ (s : State) (ch : Nat), s.Inv → channelsRun s = true → s.lay.chans.contains ch = true → 0 < rd s 0x6830 1 →
    let l := (chan s ch).parity.filter (fun e => decide (s.time < e.1 + 1000000000))
    let sum := l.foldl (fun m e => m + e.2) 0
    let recent := ((chan s ch).triggers.filter (fun x => decide (s.time < x + 10000000000))).length
    (∀ n, 0 < n → sum + n < rd s 0x6830 1 →
      exec (.hbmParityTrigger ⟨ch, n⟩) s = .next (noteState s (setChan s ch { chan s ch with parity := l ++ [(s.time, n)] }))) ∧
    (∀ n, 0 < n → sum + n = rd s 0x6830 1 →
      (recent < 2 → ∃ t, exec (.hbmParityTrigger ⟨ch, n⟩) s = .next t ∧ (chan t ch).wait = some ((chan s ch).wait.getD 0) ∧
        s.time ∈ (chan t ch).triggers ∧ (chan t ch).parity = [] ∧ (∀ c, c ≠ ch → chan t c = chan s c) ∧ t.mem = s.mem) ∧
      (2 ≤ recent → rd s 0x8040 2 ≠ 1 →
        ∃ t, exec (.hbmParityTrigger ⟨ch, n⟩) s = .next t ∧ t.main = .faulted ∧ t.jobs = [])) ∧
    (∀ due, retrainDue s ch = some due → (∀ c, c / 32 = ch / 32 → (chan s c).active = none) →
      (∀ c, c / 32 = ch / 32 → c < ch → (chan s c).wait = none) →
      ∃ t, exec (.retrainStart ch) s = .next t ∧ (chan t ch).active = some (max s.time due) ∧ (chan t ch).wait = none ∧
        t.time = max s.time due ∧ (∀ c, c / 32 ≠ ch / 32 ∨ s.power ≠ .sleep → c ≠ ch → chan t c = chan s c) ∧
        (s.power = .sleep → ∀ c, c / 32 = ch / 32 → (chan t c).selfRefresh = false ∧
          (c ≠ ch → chan t c = { chan s c with selfRefresh := false })) ∧ t.mem = s.mem) ∧
    (∀ (at' ns : Nat), (chan s ch).active = some at' → (chan s ch).held = [] → s.behind = [] → (∀ n e, currentOf (tile s n) e = none) → ns ≤ 30000 →
      ∃ t, exec (.retrainEnd ch true ns) s = .next t ∧ (chan t ch).active = none ∧ t.time = max s.time (at' + ns) ∧
        (∀ c, c ≠ ch → chan t c = chan s c) ∧ t.mem = s.mem) ∧
    (∀ (at' ns : Nat), (chan s ch).active = some at' → ns ≤ 30000 → rd s 0x8040 2 ≠ 1 →
      ∃ t, exec (.retrainEnd ch false ns) s = .next t ∧ t.main = .faulted ∧ t.jobs = [])

/-- A scrubber passes a word or sector without an error to the next and leaves memory as it is, a report of the stack's on-die ECC
is only counted; a lap that takes too long raises its alarm once (R232, R242 to R245). -/
def Obligations.ScrubbersWalkOn : Prop :=
  ∀ s : State, s.Inv → scrubsRun s = true →
    (∀ (b site : Nat) (w d : List Byte), (s.lay.slices.getD b []).contains site = true →
      let c := scrubAt s.vscrub s.regStart (scrubKey b site)
      c.pos < 65535 → cachedAt s b site c.pos = none → storedAt s.mem (vaultKey b site c.pos) 70 = some w → rsDecode 6 w = .clean d →
      ∃ t, exec (.vaultScrubAccess b site []) s = .next t ∧ t.mem = s.mem ∧ t.ent = s.ent ∧
        (scrubAt t.vscrub t.regStart (scrubKey b site)).pos = c.pos + 1 ∧ s.time ≤ t.time) ∧
    (∀ (ch : Nat) (w d : List Byte), s.lay.chans.contains ch = true → (chan s ch).active = none → (chan s ch).selfRefresh = false →
      let c := scrubAt s.hscrub s.regStart ch
      let line := c.pos / 4 * (dieChans s (ch / 64)).length + (dieChans s (ch / 64)).findIdx (· == ch)
      findLine s (ch / 64) line = none → s.fetches = [] → c.pos + 1 < rd s 0x6800 4 / 64 →
      storedAt s.mem (hbmKey ch c.pos) 72 = some w → rsDecode 8 w = .clean d →
      (∃ t, exec (.hbmScrubAccess ch ⟨[], false⟩) s = .next t ∧ t.mem = s.mem ∧ t.ent = s.ent ∧
        (scrubAt t.hscrub t.regStart ch).pos = c.pos + 1) ∧
      ∃ t, exec (.hbmScrubAccess ch ⟨[], true⟩) s = .next t ∧ t.mem = s.mem ∧
        (scrubAt t.hscrub t.regStart ch).pos = c.pos + 1 ∧ rd t 0x7800 0xB = rd (bump s 0x7800 0xB) 0x7800 0xB) ∧
    (∀ b, b < 6 → (scrubAt s.vscrub s.regStart (dieScrubKey b)).alarmed = false →
      ∃ t, exec (.scrubLapAlarm true b) s = .next t ∧ (scrubAt t.vscrub t.regStart (dieScrubKey b)).alarmed = true ∧
        (scrubAt s.vscrub s.regStart (dieScrubKey b)).started + rd s 0x7810 4 * 1000000000 ≤ t.time) ∧
    (∀ ch, s.lay.chans.contains ch = true → (scrubAt s.hscrub s.regStart ch).alarmed = false →
      ∃ t, exec (.scrubLapAlarm false ch) s = .next t ∧ (scrubAt t.hscrub t.regStart ch).alarmed = true ∧
        (scrubAt s.hscrub s.regStart ch).started + rd s 0x7810 4 * 1000000000 ≤ t.time)

/-- The end of a discard makes the part READY with no job left, every covered completion due and every open reduction
context closed; what the ended jobs may have written, and the ranges of the contexts that were open when it began, are
indeterminate (R36, R174, R279, Table 9.16). -/
def Obligations.DiscardEndsInReady : Prop :=
  ∀ (s : State) (d : Discard) (us : Nat), s.main = .discarding → s.discard = some d → s.reads = [] → jobHeld s = false →
    ∃ t, exec (.discardEnd us) s = .next t ∧ t.main = .ready ∧ t.jobs = [] ∧ t.discard = none ∧ t.comps = s.comps ++ d.covered ∧
      (∀ c ∈ t.ctx, c.2.st = 0) ∧ (∀ j ∈ s.jobs, ∀ r ∈ deviceWins j.2, r ∈ t.indet) ∧ (∀ r ∈ d.opened, r ∈ t.indet) ∧ t.mem = s.mem ∧
      d.began + us * 1000 ≤ t.time

/-! ## Regulation -/

/-- A request is divided into parts that together charge what it charges; a part below its master's ceiling is admitted and
charged, one at the ceiling or behind a part of its engine that waits is held; the oldest host part is admitted after 20 µs at
the latest; a boundary moves the window on, takes the ceiling from what each master has charged in each class, and admits what
waits where that is below the ceiling then (R216, R218 to R220, Table 7.2). -/
def Obligations.RegulatorsChargeAndHold : Prop :=
  ∀ s : State, s.Inv → windowsRun s = true →
    (∀ p : PartTarget, sumBy charge (divide s (targetUnits p)) = charge p) ∧
    (∀ (m eng : Nat) (p : PartTarget), m < 161 → divide s (targetUnits p) = [p] →
      let behind := s.regWait.any (fun w => w.m == m && w.eng == eng)
      (mayAdmit s m p = true → behind = false →
        ∃ t, exec (.requestPartAdmit ⟨m, eng⟩ p) s = .next t ∧
          SMap.get t.regU (16 * m + partClass s p) 0 = SMap.get s.regU (16 * m + partClass s p) 0 + charge p ∧
          (∀ k, k ≠ 16 * m + partClass s p → SMap.get t.regU k 0 = SMap.get s.regU k 0) ∧ t.regWait = s.regWait ∧ t.mem = s.mem) ∧
      (mayAdmit s m p = false ∨ behind = true →
        exec (.requestPartAdmit ⟨m, eng⟩ p) s = .next (noteState s
          { s with regWait := s.regWait ++ [{ m := m, eng := eng, target := p, arrived := s.time, req := none }] }))) ∧
    (∀ (p : PartTarget) (x eng : Nat) (rest : List RegPart), s.behind = [] →
      s.regWait = { m := 144, eng := eng, target := p, arrived := x, req := none } :: rest →
      ∃ t, exec .hostIngressForcedAdmit s = .next t ∧ t.regWait = rest ∧ t.time = max s.time (x + 20000) ∧
        SMap.get t.regU (16 * 144 + partClass s p) 0 = SMap.get s.regU (16 * 144 + partClass s p) 0 + charge p) ∧
    (s.regOld = [] → s.behind = [] → (∀ n e, currentOf (tile s n) e = none) → let w := max 1 (rd s 0x7000 1)
      (s.regWait = [] → let n := max 1 ((s.time - s.winStart) / w)
        ∃ t, exec .regWindowBoundary s = .next t ∧ t.winStart = s.winStart + n * w ∧ t.winStart ≤ t.time ∧ s.time ≤ t.time ∧
          t.regWait = [] ∧ t.mem = s.mem ∧
          ∀ m k, k < 16 → SMap.get t.regU (16 * m + k) 0 = SMap.get s.regU (16 * m + k) 0 - n * ceilOf s m k) ∧
      (∀ (m eng x : Nat) (p : PartTarget), s.regWait = [{ m := m, eng := eng, target := p, arrived := x, req := none }] →
        s.time < s.winStart + 2 * w → partClass s p < 16 →
        let ceil := ceilOf s m (partClass s p)
        let u := SMap.get s.regU (16 * m + partClass s p) 0 - ceil
        ∃ t, exec .regWindowBoundary s = .next t ∧ t.winStart = s.winStart + w ∧ t.mem = s.mem ∧
          (u < ceil → t.regWait = [] ∧ SMap.get t.regU (16 * m + partClass s p) 0 = u + charge p) ∧
          (ceil ≤ u → t.regWait = s.regWait ∧ SMap.get t.regU (16 * m + partClass s p) 0 = u)))

/-! ## Host interface -/

/-- A tail that moves on within a queue's free slots is taken, one of 512 or more or out of range sets DB_ERR; a head within the
entries written is taken; a part in SLEEP with a descriptor pending leaves it. Enabling a queue whose windows are mapped starts
it empty, one with a bad window sets CFG_ERR; disabling ends it or leaves it disabling with every slot to its tail taken (R262 to R264,
R386). -/
def Obligations.QueueRegistersAct : Prop :=
  (∀ (s : State) (q : Nat) (v : BitVec 32), s.Inv → hostReaches s = true → q < 64 → (queue s q).enabled = true →
     let x := queue s q
     let moved := (v.toNat + 512 - x.sqHead) % 512
     (x.disabling = false → v.toNat < 512 → moved ≤ 256 → (x.sqTail + 512 - x.sqHead) % 512 ≤ moved →
       (s.power = .run → exec (.sqTailDoorbell q v) s = .next (noteState s (setQueue s q { x with sqTail := v.toNat }))) ∧
       (s.power = .sleep → x.fetched ≠ v.toNat → ∃ t, exec (.sqTailDoorbell q v) s = .next t ∧
         queue t q = { x with sqTail := v.toNat } ∧ t.power = .run ∧ t.mem = s.mem)) ∧
     (512 ≤ v.toNat ∨ 256 < moved ∨ moved < (x.sqTail + 512 - x.sqHead) % 512 →
       exec (.sqTailDoorbell q v) s = .next (noteState s (setQueue s q { x with dbErr := true }))) ∧
     (v.toNat < 512 → (v.toNat + 512 - x.cqHead) % 512 ≤ (x.cqTail + 512 - x.cqHead) % 512 →
       exec (.cqHeadDoorbell q v) s = .next (noteState s (setQueue s q { x with cqHead := v.toNat }))) ∧
     (512 ≤ v.toNat ∨ (x.cqTail + 512 - x.cqHead) % 512 < (v.toNat + 512 - x.cqHead) % 512 →
       exec (.cqHeadDoorbell q v) s = .next (noteState s (setQueue s q { x with dbErr := true })))) ∧
  (∀ (s : State) (q : Nat) (v : BitVec 64), s.Inv → hostReaches s = true → q < 64 →
     let x := queue s q
     (x.enabled = false → bit1 v.toNat 63 = true → (winsInUse x).all (winOk s) = true →
       ∃ t, exec (.queueEnable q v) s = .next t ∧
         queue t q = { x with ctrl := ctrlMask v.toNat, enabled := true, disabling := false, cfgErr := false, sqHead := 0,
                              sqTail := 0, cqTail := 0, cqHead := 0, fetched := 0, doneSlots := [], offered := [] } ∧
         (∀ n, n ≠ q → queue t n = queue s n) ∧ t.mem = s.mem ∧ t.jobs = s.jobs) ∧
     (x.enabled = false → bit1 v.toNat 63 = true → (winsInUse x).all (winOk s) = false →
       ∃ t, exec (.queueEnable q v) s = .next t ∧ (queue t q).cfgErr = true ∧ (queue t q).enabled = false ∧
         (∀ n, n ≠ q → queue t n = queue s n)) ∧
     (x.enabled = true → x.disabling = false → bit1 v.toNat 63 = false → x.sqHead = x.sqTail →
       s.comps.any (fun c => c.q == q) = false → s.jobs.any (fun j => j.2.q == q) = false →
       ∃ t, exec (.queueDisable q v) s = .next t ∧ (queue t q).enabled = false ∧ (∀ n, n ≠ q → queue t n = queue s n) ∧
         t.comps = s.comps ∧ t.mem = s.mem) ∧
     (x.enabled = true → x.disabling = false → bit1 v.toNat 63 = false →
       ∃ t, exec (.queueDisable q v) s = .next t ∧ ((queue t q).disabling = true ∨ (queue t q).enabled = false) ∧
         (queue t q).fetched = x.sqTail ∧ (queue t q).offered = [] ∧ s.comps <+: t.comps ∧
         (∀ c ∈ t.comps.drop s.comps.length, c.q = q ∧ c.status = 2 ∧ c.cause = 0x0B) ∧ t.mem = s.mem))

/-- A write of DEV_EVENTS clears exactly the events written as 1; the registers of a queue take a value while it is not enabled
and are counted as dropped while it is; an aperture base that is a multiple of the aperture is taken, any other dropped. A
configuration request is answered once BAR0 answers and sets what it names; before that it is told to retry (R256, R258 to R262,
R290). That turning ATS off empties the translation cache (log entry 16), and the fields in which a capability shows what Table 9.1
gives it (log entry 20), are the model's choices, taken from PCI Express. -/
def Obligations.RegistersTakeEffect : Prop :=
  (∀ s : State, s.Inv → hostReaches s = true →
    (∀ v : BitVec 64, v.toNat < 2 ^ 32 →
      exec (.registerWrite 4 4 v) s = .next (noteState s (eventsClear s v.toNat)) ∧
      ∀ i, i < 3 → bit1 (eventsClear s v.toNat).devEvents i = (bit1 s.devEvents i && !bit1 v.toNat i)) ∧
    (∀ (q : Nat) (v : BitVec 64), q < 64 → let x := queue s q
      (x.enabled = false →
        exec (.registerWrite (0x100000 + 0x1000 * q) 8 v) s = .next (noteState s (setQueue s q { x with sqBase := v.toNat })) ∧
        exec (.registerWrite (0x100008 + 0x1000 * q) 8 v) s = .next (noteState s (setQueue s q { x with cqBase := v.toNat })) ∧
        (∀ w, w < 8 → exec (.registerWrite (0x100020 + 0x1000 * q + 16 * w) 8 v) s =
          .next (noteState s (setQueue s q { x with wins := x.wins.set w (v.toNat, (x.wins.getD w (0, 0)).2) }))) ∧
        (v.toNat < 2 ^ 32 → exec (.registerWrite (0x100018 + 0x1000 * q) 4 v) s =
          .next (noteState s (if bit1 v.toNat 29 then setQueue s q { x with dbErr := false } else s)))) ∧
      (x.enabled = true → ∀ o, o < 0xA0 → o % 8 = 0 → o ≠ 0x10 → o ≠ 0x18 →
        exec (.registerWrite (0x100000 + 0x1000 * q + o) 8 v) s = .next (noteState s (bump s 0x3030 8)))) ∧
    (∀ (i : Nat) (v : BitVec 64), i < 8 → v.toNat % (2 ^ s.link.bar2Log / 8) = 0 →
      exec (.apertureBaseWrite i v) s = .next (noteState s { s with apertures := s.apertures.set i v.toNat })) ∧
    (∀ (i : Nat) (v : BitVec 64), 8 ≤ i ∨ v.toNat % (2 ^ s.link.bar2Log / 8) ≠ 0 → exec (.apertureBaseWrite i v) s = .next s)) ∧
  (∀ (s : State) (tag : Nat), s.Inv → s.link.l0 = true → s.link.l12 = false →
    let answered (op : ConfigOp) (v : Nat) : Prop :=
      exec (.configRequest op tag) s = .next (noteState s { s with out := .cfg tag (BitVec.ofNat 64 v) :: s.out })
    (bar0Answers s = true →
      answered .readClass 0x120000 ∧ answered .readSerial s.bringup.uid ∧
      answered .readIds (Config.vendorId.toNat + Config.deviceId.toNat * 2 ^ 16) ∧
      (∀ c, answered (.readCap c) (capValue s c)) ∧
      (∀ b, ∃ t, exec (.configRequest (.setPasid b) tag) s = .next t ∧ t.link = { s.link with pasid := b } ∧ t.ent = s.ent) ∧
      (∀ b, ∃ t, exec (.configRequest (.setAts b) tag) s = .next t ∧ t.link = { s.link with ats := b } ∧
        t.atc = (if b then s.atc else []) ∧ t.ent = s.ent) ∧
      (∀ b, ∃ t, exec (.configRequest (.setPri b) tag) s = .next t ∧ t.link = { s.link with pri := b }) ∧
      (∀ b, ∃ t, exec (.configRequest (.setPriStopped b) tag) s = .next t ∧ t.link = { s.link with priStopped := b }) ∧
      (∀ n, ∃ t, exec (.configRequest (.setPriAlloc n) tag) s = .next t ∧ t.link = { s.link with priAlloc := n }) ∧
      (∀ n, 30 ≤ n → n ≤ 40 → ∃ t, exec (.configRequest (.setBar2Log n) tag) s = .next t ∧ t.link = { s.link with bar2Log := n } ∧
        rd t 0x3000 4 = 2 ^ n)) ∧
    ((s.main = .bringup ∨ s.main = .coldHold) ∧ s.bringup.step < 8 ∨ s.main = .resetting → ∀ op,
      exec (.configRequest op tag) s = .next (noteState s { s with out := .cfgRetry tag :: s.out })))

/-- 0xD15C written to DISCARD_REQ in READY begins a discard with cause 0x44 and the next epoch; any other value, and any write in
another state, is dropped (R259, R279). -/
def Obligations.DiscardRequestBeginsDiscard : Prop :=
  (∀ s : State, s.Inv → HostReady s →
    (∃ t, exec (.discardReq 0xD15C#32) s = .next t ∧ t.main = .discarding ∧ t.discardCause = 0x44 ∧
      t.discardEpoch = (s.discardEpoch + 1) % 2 ^ 32 ∧ t.discard.isSome = true ∧ bit1 t.devEvents 0 = true ∧ t.jobs = s.jobs ∧
      t.mem = s.mem) ∧
    ∀ v : BitVec 32, v ≠ 0xD15C#32 → exec (.discardReq v) s = .next s) ∧
  ∀ (s : State) (v : BitVec 32), s.Inv → s.main ≠ .ready → exec (.discardReq v) s = .next s

/-- While no request waits, a host read is completed in the time it takes, which is kept where it is the longest: of BAR0 with what its register reads, of
BAR2 before the first READY with ones. BAR2 accesses within a word of the Vault or an operand store read and write it through the
aperture, atomics answer the old value; those the part does not perform are answered Unsupported Request (R175, R257, R258, R260,
R292). -/
def Obligations.Bar2ReachesDeviceMemory : Prop :=
  (∀ (s : State) (off len tag ns : Nat), s.Inv → hostReaches s = true → ns ≤ 50000 →
    let answers (bar0 : Bool) (d : List Byte) : Prop :=
      ∃ t, exec (.bar2Read ⟨bar0, off⟩ len ⟨tag, ns, []⟩) s = .next t ∧ t.out = .cpl tag false d :: s.out ∧ t.mem = s.mem ∧
        t.time = s.time + ns ∧ rd t 0x3030 7 = max (rd s 0x3030 7) ns
    (s.mbx.busy = none → answers true (leBytes len (bar0Value s off len))) ∧ (bar2Serves s = false → answers false (List.replicate len 0xFF#8)) ∧
    exec (.bar2AtomicUnsupported off tag) s = .next (noteState s { s with out := .cplUr tag :: s.out })) ∧
  (∀ (s : State) (off o a key tag : Nat) (d : List Byte), s.Inv → NothingWaits s → hostReaches s = true → bar2Serves s = true →
    a % 64 = 0 → bar2Addr s off = a + o → SramWord s a key d →
    (∀ len ns, 0 < len → o + len ≤ 64 → ns ≤ 50000 →
      ∃ t, exec (.bar2Read ⟨false, off⟩ len ⟨tag, ns, []⟩) s = .next t ∧ t.out = .cpl tag false ((d.drop o).take len) :: s.out ∧ t.mem = s.mem ∧
        t.time = s.time + ns ∧ rd t 0x3030 7 = max (rd s 0x3030 7) ns) ∧
    (∀ x : List Byte, 0 < x.length → o + x.length ≤ 64 →
      ∃ t, exec (.bar2Write off ⟨x, []⟩) s = .next t ∧ SramWord t a key (overlay d o x) ∧ SameBut key s.mem t.mem ∧ t.cons = s.cons) ∧
    (∀ (wide : Bool) (x y : BitVec 64), let n := if wide then 8 else 4
      o < 64 → o % n = 0 →
      let old := leNat ((d.drop o).take n)
      (∃ t, exec (.bar2AtomicFetchadd off wide x tag) s = .next t ∧ SramWord t a key (overlay d o (leBytes n (old + x.toNat))) ∧
        SameBut key s.mem t.mem ∧ Out.cpl tag false (leBytes n old) ∈ t.out) ∧
      ∃ t, exec (.bar2AtomicCas off wide x y tag) s = .next t ∧
        SramWord t a key (if old = x.toNat % 2 ^ (8 * n) then overlay d o (leBytes n y.toNat) else d) ∧
        SameBut key s.mem t.mem ∧ Out.cpl tag false (leBytes n old) ∈ t.out))

/-- A 4-byte host write to a flag word signals its value, any other form is dropped and counted; a context is opened by a
write that meets its rules, refused by one that does not, and closed by STATE 0 (R122, R172). That a refused context keeps the
fields written (log entry 17), and that a write is judged by its whole size (log entry 20), are the model's readings. -/
def Obligations.ControlSpaceWrites : Prop :=
  ∀ (s : State) (a : Nat) (x : List Byte), s.Inv → waitingReqs s = [] → hostReaches s = true → bar2Serves s = true →
    (∀ t off j jb, homeOf s a = .flag t off → x.length = 4 → off % 4 = 0 → off < 0xC0 → leNat x < 65536 → leNat x ≠ 0 →
      Signalled s t j jb → flagCount s t (off / 4) + leNat x ≤ 65535 →
      exec (.flagWordWrite a x) s = .next (noteState s (setFlag s t (off / 4) (flagCount s t (off / 4) + leNat x)))) ∧
    (∀ t off, homeOf s a = .flag t off → x.length ≠ 4 ∨ off % 4 ≠ 0 ∨ 0xC0 ≤ off ∨ 65536 ≤ leNat x ∨ leNat x = 0 →
      exec (.flagWordWrite a x) s = .next (noteState s (bump s 0x5040 1))) ∧
    (∀ b n, homeOf s a = .ctx b n 0 → x.length = 32 → bits (leNat x) 185 184 = 1 → (redCtx s b n).st ≠ 1 →
      (ctxOpens s b n (leNat x) = true → s.fetches = [] → (∀ ch, (chan s ch).active = none) →
        ∃ t, exec (.reductionContextWrite a x) s = .next t ∧ redCtx t b n = ctxOfWord (leNat x) 1 ∧
          ∀ b' n', b' * 64 + n' ≠ b * 64 + n → redCtx t b' n' = redCtx s b' n') ∧
      (ctxOpens s b n (leNat x) = false →
        exec (.reductionContextWrite a x) s = .next (noteState s (setCtx s b n (ctxOfWord (leNat x) 3))))) ∧
    (∀ b n, homeOf s a = .ctx b n 0 → x.length = 32 → bits (leNat x) 185 184 = 0 → (redCtx s b n).st = 1 →
      exec (.reductionContextWrite a x) s = .next (noteState s (setCtx s b n { redCtx s b n with st := 0 })))

/-- A descriptor fetched from the next slot of a queue is offered when it passes the checks of Table 9.10, and completes as REJECTED
with the cause of the first that it breaks; one whose EPOCH is stale completes as DISCARDED. The output window list is read without
an error (R261, R267, R268, R280). That a table address that is not aligned has cause 0x07, and that EPOCH is compared after all the
checks of Table 9.10, are the model's readings (log entry 20). -/
def Obligations.DescriptorsAreFetchedAndChecked : Prop :=
  ∀ (s : State) (q : Nat) (desc : BitVec 512), s.Inv → q < 64 → mayFetch s q = true →
    let x := queue s q
    let j := s.nextJob
    let d := desc.toNat
    let ws := winsInUse x
    let oa := bits d 439 392
    let oc := bits d 447 444
    let readable := decide (oc ≤ 8) && oa % 16 == 0 && inOne ws oa (16 * oc)
    let l := if readable then peekBytes s oa (16 * oc) else []
    let es := if readable then entries16 l oc else []
    let cause := firstOf [
      ((crc32 ((leBytes 64 d).take 60)).toNat != bits d 511 480, 0x01),
      (bits d 443 440 != 0 || bits d 327 320 != 0 || bits d 174 32 != 0, 0x02),
      (decide (tileCount s < jTileFirst d + jTileCount d) || (jTileCount d == 0 && bits d 391 376 == 0), 0x03),
      (decide (60000 < jWdog d), 0x04),
      ((jPasidEn d && !s.link.pasid) || (!jPasidEn d && es.any (fun e => bit1 e 63)) ||
        (bit1 x.ctrl 59 && (!jPasidEn d || jPasid d != bits x.ctrl 35 16)), 0x05),
      (bit1 x.ctrl 58 && jDomain d != bits x.ctrl 15 0, 0x06),
      (decide (8 < oc) || decide (4096 < bits d 391 376) || oa % 16 != 0 || bits d 319 272 % 32 != 0 || bits d 375 328 % 64 != 0 ||
        !inOne ws (bits d 319 272) (32 * jTileCount d) || !inOne ws oa (16 * oc) || !inOne ws (bits d 375 328) (64 * bits d 391 376), 0x07),
      ((if oc = 0 then 0 else (crc32 l).toNat) != bits d 479 448 || es.any (badOwin ws), 0x08)]
    let stale := bit1 d 175 = true ∧ bits d 183 176 ≠ s.discardEpoch % 256
    let ends' (status cause : Nat) : Prop :=
      ∃ t, exec (.descriptorFetch q desc) s = .next t ∧ SMap.find? t.jobs j = none ∧ (∀ i, i ≠ j → SMap.find? t.jobs i = SMap.find? s.jobs i) ∧
        queue t q = { x with fetched := (x.fetched + 1) % 512 } ∧ t.mem = s.mem ∧
        t.comps = s.comps ++ [{ q := q, slot := x.fetched, jobId := jId d, status := status, cause := cause, ltile := 0xFFFF, word := 0 }]
    (readable = true → Clean s oa (16 * oc)) →
      (∀ c, cause = some c → ends' 2 c) ∧ (cause = none → stale → ends' 1 0x4F) ∧
      (cause = none → ¬ stale →
        ∃ t, exec (.descriptorFetch q desc) s = .next t ∧ queue t q = { x with fetched := (x.fetched + 1) % 512, offered := x.offered ++ [j] } ∧
          SMap.find? t.jobs j = some
            { q := q, slot := x.fetched, desc := d, running := false, fault := none, owins := es.map owinOf, qwins := ws, movers := [] } ∧
          Out.hostRead (x.sqBase + 64 * (x.fetched % 256)) false none 64 s.nextTag ∈ t.out ∧
          t.comps = s.comps ∧ t.mem = s.mem)

/-- The job chosen for admission runs and holds its tiles in their state at job start; a complete one gives its tiles back
and its COMPLETE entry is due; entries are written in order behind the last, with their CRC; the last vector that a holdoff kept
back is sent when it ends (R51, R68, R87, R102, R265, R266, R269, R272, R273). What else the model holds of a tile at its job's start
and end, and the ramp length that outlives a job, are the model's readings (log entry 27). -/
def Obligations.JobsRunAndComplete : Prop :=
  ∀ s : State, s.Inv →
    (∀ o : Nat × Nat × Job × Nat, jobsRun s = true → toAdmit s = some o →
      ∃ t, exec .jobAdmit s = .next t ∧ SMap.find? t.jobs o.2.1 = some { o.2.2.1 with running := true } ∧
        (∀ x ∈ jobTiles o.2.2.1, tile t x = { Tile.reset with job := some o.2.1, running := true, rampLen := (tile s x).rampLen }) ∧
        (∀ x, x ∉ jobTiles o.2.2.1 → tile t x = tile s x) ∧
        (queue t o.1).offered = (queue s o.1).offered.drop 1 ∧ t.robin = (o.1 + 1) % 64 ∧ t.mem = s.mem) ∧
    (∀ (j : Nat) (jb : Job), s.main = .ready → SMap.find? s.jobs j = some jb → jobDone s j jb = true →
      ∃ t, exec (.jobComplete j) s = .next t ∧ SMap.find? t.jobs j = none ∧
        (∀ x ∈ jobTiles jb, tile t x = { Tile.reset with rampLen := (tile s x).rampLen }) ∧
        (∀ x, x ∉ jobTiles jb → tile t x = tile s x) ∧
        t.comps = s.comps ++ [{ q := jb.q, slot := jb.slot, jobId := jId jb.desc, status := 0, cause := 0, ltile := 0xFFFF,
                                word := 0 }] ∧ t.mem = s.mem ∧ t.indet = s.indet) ∧
    (∀ (q : Nat) (c : Comp) (rest : List Comp), mayWriteComp s q = true → takeFirst (fun (c : Comp) => c.q == q) s.comps = (some c, rest) →
      let x := passDone 257 { queue s q with doneSlots := (queue s q).doneSlots ++ [c.slot] }
      ∃ t, exec (.completionEntryWrite q) s = .next t ∧ t.comps = rest ∧ (queue t q).cqTail = (x.cqTail + 1) % 512 ∧
        (queue t q).sqHead = x.sqHead ∧ t.mem = s.mem ∧ t.jobs = s.jobs ∧
        (hostReaches s = true →
          Out.hostWrite (x.cqBase + 16 * (x.cqTail % 256)) false none (leBytes 16 (sealWord (compWord s x c))) ∈ t.out)) ∧
    (∀ q at' : Nat, (queue s q).holdoff = some at' → let due := (queue s q).vectorDue
      ∃ t, exec (.msixHoldoffEnd q) s = .next t ∧ t.time = max s.time (at' + rd s 0x3010 1 * 1000) ∧ (queue t q).vectorDue = false ∧
        (queue t q).holdoff = (if due then some t.time else none) ∧
        (due = true → hostReaches s = true → bit1 (msixEntry s (bits (queue s q).ctrl 54 48)) 96 = false →
          Out.msix (bits (queue s q).ctrl 54 48) ∈ t.out))

/-- A mover descriptor starts on a free mover once triggered. On the package COPY leaves the source's bytes at the destination, FILL
the pattern, BCAST the source in every store or pool it names, REDUCE each word combined with the source's, CAS the old value at AUX
and the new one where the old was the comparand; the mover has then done its work and no other word differs. A complete descriptor is
done and sends its signal; one that has lost a word fails (R166, R178, R235, R254, R275 to R277). -/
def Obligations.MoversRunDescriptors : Prop :=
  ∀ (s : State) (j i : Nat) (jb : Job) (d m : Nat), s.Inv → s.main = .ready → SMap.find? s.jobs j = some jb → jb.running = true →
    let src := mSrc d
    let dst := mDst d
    let len := mLen d
    let moved (t : State) (st : MvState) : Prop := (SMap.find? t.jobs j).map (·.movers) = some (jb.movers.set i (d, st))
    let gives (c : Instr) (l : List Nat) (p : State → Prop) : Prop :=
      ∃ t, exec c s = .next t ∧ p t ∧ OnlyWords s t l ∧ moved t (.worked m) ∧ t.tiles = s.tiles
    let reads := Permitted s jb false (mHint d) src len ∧ Clean s src len
    (jb.movers[i]? = some (d, .waiting) → triggered s jb d = true →
      (jb.movers.take i).any (fun x => x.2 == .waiting && triggered s jb x.1) = false →
      (List.range 8).find? (fun n => !(busyMovers s).contains (8 * moverDie s d + n)) = some m →
      exec (.moverDescriptorStart j i) s = .next (noteState s (setMover s j i (.running (8 * moverDie s d + m))))) ∧
    (jb.movers[i]? = some (d, .running m) → m < 48 → s.xfers.any (fun x => x.2.eng == .mover j i) = false →
      Admits s (moverDoes j i d jb s) 0 → mShost d = false → mDhost d = false → mSrem d = false → mDrem d = false →
      (mOp d = 0 → reads → Permitted s jb true (mHint d) dst len → Clean s dst len → OwnPlaces s (wordsOf src len ++ wordsOf dst len) →
        Disjoint src dst len →
        gives (.moverCopy j i) (wordsOf dst len) (fun t => Clean t dst len ∧ peekBytes t dst len = peekBytes s src len)) ∧
      (mOp d = 1 → dst % 64 = 0 → len % 64 = 0 → Permitted s jb true (mHint d) dst len → OwnPlaces s (wordsOf dst len) →
        gives (.moverFill j i) (wordsOf dst len) (fun t => Clean t dst len ∧
          peekBytes t dst len = (List.range len).map (fun k => (leBytes 8 src).getD (k % 8) 0#8))) ∧
      (mOp d = 2 → dst % 64 = 0 → len % 64 = 0 → reads → let bs := bcastBases s d
        (∀ k, k < bits d 223 208 → (jobTiles jb).contains (bits d 207 192 + k) = true) →
        (∀ b ∈ bs, dst + len ≤ b.2 ∧ Permitted s jb true .normal (b.1 + dst) len ∧ Disjoint src (b.1 + dst) len) →
        OwnPlaces s (wordsOf src len ++ bs.flatMap (fun b => wordsOf (b.1 + dst) len)) →
        gives (.moverBcast j i) (bs.flatMap (fun b => wordsOf (b.1 + dst) len)) (fun t => ∀ b ∈ bs,
          Clean t (b.1 + dst) len ∧ peekBytes t (b.1 + dst) len = peekBytes s src len)) ∧
      (mOp d = 3 → mRop d ≠ 5 → dst % 64 = 0 → len % 64 = 0 → reads → Permitted s jb true (mHint d) dst len → Clean s dst len →
        OwnPlaces s (wordsOf src len ++ wordsOf dst len) → Disjoint src dst len →
        gives (.moverReduce j i) (wordsOf dst len) (fun t => ∀ k, k < len / 64 →
          peekWord t (dst + 64 * k) = (peekWord s (dst + 64 * k)).map (fun w => reduceWord (mRop d) w (peekBytes s (src + 64 * k) 64)))) ∧
      (mOp d = 4 → let n := if mCas64 d then 8 else 4
        let old := leNat (peekBytes s dst n)
        dst % n = 0 → Permitted s jb true (mHint d) dst n → Permitted s jb true (mHint d) (mAux d) 8 → Clean s dst n → Clean s (mAux d) 8 →
        OwnPlaces s (wordsOf dst n ++ wordsOf (mAux d) 8) → dst + n ≤ mAux d ∨ mAux d + 8 ≤ dst →
        gives (.moverCas j i) (wordsOf dst n ++ wordsOf (mAux d) 8) (fun t => peekBytes t (mAux d) 8 = leBytes 8 old ∧
          peekBytes t dst n = leBytes n (if old = src % 2 ^ (8 * n) then len else old)))) ∧
    (jb.movers[i]? = some (d, .worked m) → moverSent s j i d = true →
      (mSigN d = 0 → exec (.moverDescriptorComplete j ⟨i, ⟨0, none⟩⟩) s =
        .next (noteState s (setMover (if mOp d = 2 then bump s 0x6020 3 else s) j i .done))) ∧
      (mSigN d ≠ 0 → mSigRem d = false → let x := bits d 334 319
        let f := bits d 340 335
        Signalled s x j jb → flagCount s x f + mSigN d ≤ 65535 →
        ∃ t, exec (.moverDescriptorComplete j ⟨i, ⟨0, none⟩⟩) s = .next t ∧ moved t .done ∧
          flagCount t x f = flagCount s x f + mSigN d ∧ (∀ g, g ≠ f → flagCount t x g = flagCount s x g) ∧
          (∀ y, y ≠ x → tile t y = tile s y) ∧ t.mem = s.mem)) ∧
    (jb.movers[i]? = some (d, .worked m) → s.power ≠ .deep → ∀ n a,
      ∃ t, exec (.moverDescriptorComplete j ⟨i, ⟨n, some a⟩⟩) s = .next t ∧ t.main = .discarding ∧ t.discardCause = 0x40 ∧
        t.jobs = s.jobs ∧ t.tiles = s.tiles ∧ t.mem = s.mem)

/-- Translations that arrive are kept; where they grant what a block needs its reads or writes go out with the job's PASID, pages
withheld stall the transfer on a Page Request Group or fault its job with 0x32. A group answered asks again, one that fails or is
overdue faults the job; an invalidation takes its pages out of the cache and overtakes translations on their way. A host read's data
is stored; one that fails or times out faults the job with 0x34 (R278, R283 to R288). That completions of causes 0x32 and 0x34 name
no tile and no word (log entry 11), and that a group larger than the allocation faults at once (log entry 16), are the model's
readings. -/
def Obligations.TranslationsAndHostReads : Prop :=
  (∀ (s : State) (n : Nat) (x : Xfer) (jb : Job) (b : List Piece) (rest : List (List Piece)) (pages : List PageGrant), s.Inv →
    s.main = .ready → EnginesHeld s → SMap.find? s.xfers n = some x → x.ats = some 1 → x.remote = none → x.prg = none → x.tags = [] →
    x.blocks = b :: rest → SMap.find? s.jobs x.job = some jb → jb.running = true → jPasidEn jb.desc = true →
    let pasid := jPasid jb.desc
    let s1 := pages.foldl (fun s g => atcPut s pasid g) s
    let missing := missingPages s1 pasid x
    let withheld := missing.filter (fun p => pages.any (fun g => g.page == p))
    let runs := runsOf (b.zipIdx.filter (fun p => p.1.data.isNone)) none
    let u := setX s1 n { x with ats := none }
    let admitted := waitingReqs s = [] ∧ s.paid = [] ∧ Admits u (hostGo (x.blocks.length + 2) u n) 0
    (withheld ≠ [] → s.link.pri = false ∨ s.link.priStopped = true ∨ s.link.priAlloc < withheld.length →
      ∃ t, exec (.atsTranslationCompletion n pages) s = .next t ∧ FaultedWith t x.job (rejected jb 0x32 0xFFFF 0)
        (owesAccess (stopJob s x.job) x.job) ∧ t.atc = s1.atc) ∧
    (withheld ≠ [] → s.link.pri = true → s.link.priStopped = false → prgPages s + withheld.length ≤ s.link.priAlloc → hostReaches s = true →
      ∃ t, exec (.atsTranslationCompletion n pages) s = .next t ∧ t.atc = s1.atc ∧
        SMap.find? t.prgs s.nextPrg = some { x := n, pages := withheld, sent := s.time, abandoned := false } ∧
        Out.pageRequest s.nextPrg pasid withheld (!x.toDev) ∈ t.out) ∧
    (missing = [] → x.toDev = true → admitted → hostReaches s = true →
      ∃ t y, exec (.atsTranslationCompletion n pages) s = .next t ∧ SMap.find? t.xfers n = some y ∧ y.ats = none ∧ y.started = true ∧
        y.tags.length = runs.length ∧ t.atc = s1.atc ∧ t.mem = s.mem ∧
        ∀ r ∈ runs, let h := hostAddr s1 pasid r.lo false
          ∃ tag ∈ y.tags, Out.hostRead h.1 h.2 (some pasid) (r.hi + 1 - r.lo) tag ∈ t.out ∧ (SMap.find? t.reads tag).isSome = true) ∧
    (missing = [] → x.toDev = false → admitted → hostReaches s = true → (∃ i k, x.eng = .mover i k) → rest = [] → x.ack = false →
      x.pend = [] → (∀ p ∈ b, p.kind = .element ∧ p.data = none ∧ Readable s jb x.hint p.dev p.width) →
      (∀ r ∈ blockRuns b, covered (hostWins jb) r.lo r.hi = true) →
      ∃ t, exec (.atsTranslationCompletion n pages) s = .next t ∧ SMap.find? t.xfers n = none ∧ t.mem = s.mem ∧
        ∀ r ∈ blockRuns b, let h := hostAddr s1 pasid r.lo true
          Out.hostWrite h.1 h.2 (some pasid) (runBytes (b.map (fun p => { p with data := some (peekBits s p.dev p.width) })) r) ∈ t.out)) ∧
  (∀ (s : State) (k : Nat) (p : Prg), s.Inv → EnginesHeld s → SMap.find? s.prgs k = some p →
    (p.abandoned = true → s.xfers.all (fun y => y.2.stands) = true → ∀ ok,
      exec (.prgResponse k ok) s = .next (noteState s { s with prgs := SMap.erase s.prgs k })) ∧
    (∀ x jb, p.abandoned = false → s.main = .ready → SMap.find? s.xfers p.x = some x → SMap.find? s.jobs x.job = some jb →
      jb.running = true →
      (s.xfers.all (fun y => y.2.job == x.job) = true →
        let owes := owesAccess (stopJob s x.job) x.job
        (∃ t, exec (.prgResponse k false) s = .next t ∧ FaultedWith t x.job (rejected jb 0x32 0xFFFF 0) owes) ∧
        (∃ t, exec (.priTimeout k) s = .next t ∧ FaultedWith t x.job (rejected jb 0x32 0xFFFF 0) owes ∧
          t.time = max s.time (p.sent + rd s 0x3010 2 * 1000000))) ∧
      (∀ b rest, s.xfers.all (fun y => y.2.stands) = true → x.remote = none → x.ats = none → x.tags = [] → x.toDev = true →
        x.blocks = b :: rest → jPasidEn jb.desc = true → waitingReqs s = [] → hostReaches s = true →
        let missing := missingPages s (jPasid jb.desc) x
        missing ≠ [] → ∃ t, exec (.prgResponse k true) s = .next t ∧ SMap.find? t.prgs k = none ∧
          SMap.find? t.xfers p.x = some { x with prg := none, ats := some 1, started := false } ∧
          Out.atsRequest p.x (jPasid jb.desc) missing false ∈ t.out))) ∧
  (∀ (s : State) (pasid : Option Nat) (page pages ns : Nat), s.Inv → hostReaches s = true → ns ≤ 200000 →
    let gone (t : State) : Prop := t.atc = s.atc.filter (fun a => !invalidates pasid page pages a.pasid a.page) ∧ Out.invalidated ∈ t.out ∧
      t.time = s.time + ns ∧ t.mem = s.mem
    (s.xfers.all (fun x => x.2.remote.isSome || (x.2.ats.isNone && x.2.tags.isEmpty)) = true →
      ∃ t, exec (.atsInvalidate pasid page pages ns) s = .next t ∧ gone t ∧ t.xfers = s.xfers) ∧
    (∀ n x, s.xfers = [(n, x)] → x.remote = none → x.ats.isSome = true →
      (wantPages x).any (invalidates pasid page pages (xPasid s x)) = true →
      ∃ t, exec (.atsInvalidate pasid page pages ns) s = .next t ∧ gone t ∧ SMap.find? t.xfers n = some { x with ats := some 2 })) ∧
  (∀ (s : State) (tag : Nat) (r : HostRead) (data : List Byte), s.Inv → s.main = .ready → EnginesHeld s → SMap.find? s.reads tag = some r →
    let v : State := { s with reads := SMap.erase s.reads tag }
    (r.dropped = true → ∀ ok, ∃ t, exec (.hostReadCompletion tag ok data) s = .next t ∧ SMap.find? t.reads tag = none ∧ t.mem = s.mem ∧
      t.xfers = s.xfers ∧
      ∀ jb c, SMap.find? s.jobs r.job = some jb → jb.fault = some c → owesAccess v r.job = false →
        SMap.find? t.jobs r.job = none ∧ t.comps = s.comps ++ [c]) ∧
    (∀ x jb, r.dropped = false → SMap.find? s.xfers r.x = some x → x.job = r.job → SMap.find? s.jobs x.job = some jb → jb.running = true →
      jPasidEn jb.desc = true → let owes := owesAccess (stopJob v x.job) x.job
      ((∃ y ∈ x.tags, y ≠ tag) →
        ∃ t y, exec (.hostReadCompletion tag true data) s = .next t ∧ SMap.find? t.reads tag = none ∧ SMap.find? t.xfers r.x = some y ∧
          y.tags = x.tags.filter (· != tag) ∧ t.mem = s.mem) ∧
      (∀ p : Piece, x.tags = [tag] → r.pieces = [0] → x.blocks = [[p]] → p.width = 512 → p.far % 8 = 0 → p.kind = .element → p.dev % 512 = 0 →
        data.length = 64 → x.toDev = true → x.rop = none → x.pend = [] → x.remote = none → x.ats = none → x.prg = none → x.ack = false →
        (∃ i k, x.eng = .mover i k) → NothingWaits s → elemOk s jb true x.hint p.dev 512 = true → (sramKey s (p.dev / 8)).isSome = true →
        ∃ t, exec (.hostReadCompletion tag true data) s = .next t ∧ SMap.find? t.xfers r.x = none ∧ peekWord t (p.dev / 8) = some data) ∧
      (∃ t u, exec (.hostReadCompletion tag false data) s = .next t ∧ exec (.hostCompletionTimeout tag) s = .next u ∧
        FaultedWith t x.job (rejected jb 0x34 0xFFFF 0) owes ∧ FaultedWith u x.job (rejected jb 0x34 0xFFFF 0) owes)))

/-! ## Resets, the host link, power states -/

/-- Every event of Table 9.17 takes the main domain into RESETTING: no job, queue or reset entry of it is left, the fabric counts a
new incarnation, its ports are dark, and CONS values, the log, the Ledger's queue and the flash stay. Resets end in
bring-up at step 1, those that neither a pin nor the link holds 10 µs after they began at the earliest (R289, R290, R324, R391, R454,
R455). -/
def Obligations.ResetsClearAndEnd : Prop :=
  (∀ s : State, s.Inv → resettable s = true →
     let cleared (t : State) : Prop := t.main = .resetting ∧ t.jobs = [] ∧ t.queues = [] ∧ t.xfers = [] ∧ t.tiles = [] ∧
       t.comps = [] ∧ t.discard = none ∧ t.mem = [] ∧ t.everReady = false ∧ t.fab.incarn = (s.fab.incarn + 1) % 65536 ∧
       t.ports = [] ∧
       t.cons = s.cons ∧ ((∀ p ∈ s.lay.ports, portUp s p = false) → t.events = s.events) ∧ t.ledgerQ = s.ledgerQ ∧ t.live = s.live ∧ t.ledger = s.ledger ∧ s.time ≤ t.time ∧
       ∀ idx sub r, findRow idx sub = some r → r.keep = .v ∨ r.keep = .p → r.acc ≠ .cons → rd t idx sub = r.dflt
     (s.link.perst = false → ∃ t, exec .perstNAssert s = .next t ∧ cleared t ∧ t.resetBy = 1 ∧ t.link.perst = true) ∧
     (linkIsUp s = true → s.resetBy ≠ 1 →
       (∃ t, exec .hotReset s = .next t ∧ cleared t ∧ t.resetBy = 2) ∧ (∃ t, exec .linkDisable s = .next t ∧ cleared t ∧ t.resetBy = 2) ∧
       ∃ t, exec .dlDown s = .next t ∧ cleared t ∧ t.resetBy = 2) ∧
     (s.link.l0 = true → s.link.l12 = false → bar0Answers s = true →
       ∃ t, exec .functionLevelReset s = .next t ∧ cleared t ∧ t.resetBy = 3 ∧ t.link.l0 = true) ∧
     (s.main = .faulted → ∃ t, exec .faultedResetStart s = .next t ∧ cleared t ∧ t.resetAt = s.resetAt) ∧
     (∀ at', s.resetReq = some at' → ∃ t, exec .resetByCommandStart s = .next t ∧ cleared t ∧ at' + 100000 ≤ t.time)) ∧
  (∀ s : State, s.Inv →
     (s.link.perst = true → s.main = .standby ∨ (s.main = .resetting ∧ s.resetBy = 1) →
       ∃ t, exec .perstNRelease s = .next t ∧ t.main = .bringup ∧ t.bringup.step = 1 ∧ t.link.perst = false ∧
         (t.bringup.waitFrom.isSome = !inputGood s)) ∧
     (s.link.perst = true → s.main = .off →
       exec .perstNRelease s = .next (noteState s { s with link := { s.link with perst := false, everL0 := false } })) ∧
     (s.main = .resetting → s.resetBy = 2 ∨ s.resetBy = 3 →
       ∃ t, exec .resettingEnd s = .next t ∧ t.main = .bringup ∧ t.bringup.step = 1 ∧ (s.resetBy = 3 → s.resetAt + 10000 ≤ t.time)) ∧
     (s.main = .resetting → s.resetBy = 1 → exec .resettingEnd s = .next s))

/-- Recovery, L0, D3hot and L1.2 change the host link, and what waited for the link leaves in order;
with DEEP pending, L1.2 in D3hot enters DEEP and its exit leaves it (R256, R291, R387, R388). -/
def Obligations.HostLinkStates : Prop :=
  ∀ s : State, s.Inv →
    (s.link.l0 = true → s.link.l12 = false →
      exec .linkRecoveryEntry s = .next (noteState s { s with link := { s.link with l0 := false, recovery := true } })) ∧
    (hostDieRuns s = true → s.link.perst = false → s.link.l12 = false → s.link.d3hot = false →
      ∃ t, exec .linkL0Entry s = .next t ∧ t.link.l0 = true ∧ t.link.recovery = false ∧ (s.link.waiting.reverse ++ s.out) <:+ t.out ∧
        t.main = s.main ∧ t.mem = s.mem ∧ t.jobs = s.jobs) ∧
    (s.link.l0 = true → s.link.l12 = false → bar0Answers s = true →
      (∃ t, exec (.d3hotTransition true) s = .next t ∧ t.link.d3hot = true ∧ t.main = s.main ∧ t.jobs = s.jobs) ∧
      ∃ t, exec (.d3hotTransition false) s = .next t ∧ t.link.d3hot = false ∧ (s.link.waiting.reverse ++ s.out) <:+ t.out) ∧
    (s.link.l0 = true → s.link.d3hot = true →
      (s.deepPending = false → ∃ t, exec .l12Entry s = .next t ∧ t.link.l12 = true ∧ t.power = s.power ∧ t.main = s.main) ∧
      (s.deepPending = true → s.main = .ready → ∃ t, exec .l12Entry s = .next t ∧ t.link.l12 = true ∧ t.power = .deep ∧
        t.loans = [] ∧ t.deepPending = false ∧ (∀ p ∈ s.lay.ports, portUp t p = false) ∧ t.mem = s.mem)) ∧
    (s.link.l12 = true →
      (s.power ≠ .deep → exec .l12Exit s = .next (noteState s { s with link := { s.link with l12 := false } })) ∧
      (s.power = .deep → ∃ t, exec .l12Exit s = .next t ∧ t.link.l12 = false ∧ t.power = .run ∧
        (∀ p ∈ s.lay.ports, (port s p).phase = .dark → (port t p).phase = .training) ∧ (∀ c ∈ t.chans, c.2.selfRefresh = false) ∧ t.mem = s.mem))

/-! ## The fabric -/

/-- A flit that fails is answered by NAK with the last good sequence number; one in order is acknowledged, the next is expected, and
the buffer space it reports comes back; NAK sends again what is not acknowledged. A lane that errs too often or a lost signal takes a
port out of service to train, and what was queued there is held; training brings it up with the lanes that qualified, x8 or x4, or
dark for a second, after which it tries again. A link goes on where it stopped when the other end is the one it was, and begins anew
otherwise (R295 to R298, R307, R324). -/
def Obligations.PortsCarryFlitsAndTrain : Prop :=
  (∀ (s : State) (p : Nat) (f : BitVec 2048), s.Inv → portUp s p = true →
     let v := port s p
     let w := f.toNat
     (v.failed < 8 → ∃ t, exec (.flitReceive p false f) s = .next t ∧ (port t p).failed = v.failed + 1 ∧ (port t p).rxSeq = v.rxSeq ∧
       Out.flit p (idleFlit v true 0 0) ∈ t.out ∧ t.mem = s.mem) ∧
     (8 ≤ v.failed → ∃ t, exec (.flitReceive p false f) s = .next t ∧ (port t p).phase = .training ∧ (port t p).width = 0) ∧
     (flCrcOk w = true → v.txWait = [] →
       let left := match v.replay.findIdx? (fun r => r.seq == bits w 51 40 && r.full) with
         | some i => v.replay.drop (i + 1)
         | none => v.replay
       let given (t : State) : Prop := (port t p).replay = left ∧
         (port t p).credits = v.credits.set (bits w 38 37) (min 1024 (v.credits.getD (bits w 38 37) 0 + bits w 36 27))
       (bits w 26 24 = 1 → bits w 17 0 = 0 → bits w 63 52 = v.rxSeq → startOk v w = true →
         ∃ t, exec (.flitReceive p true f) s = .next t ∧ given t ∧ (port t p).rxSeq = (v.rxSeq + 1) % 4096 ∧ (port t p).failed = 0 ∧
           (port t p).rxBytes = takePackets 9 (v.rxBytes ++ flPayload w) ∧ Out.flit p (idleFlit (port t p) false 0 0) ∈ t.out) ∧
       (bits w 26 24 = 0 → bit1 w 39 = true →
         ∃ t, exec (.flitReceive p true f) s = .next t ∧ given t ∧ rd t 0x8050 1 = rd (bump s 0x8050 1) 0x8050 1 ∧
           ∀ x ∈ left, x.full = true → Out.flit p (mkFlit v 1 x.seq x.start x.data false 0 0) ∈ t.out))) ∧
  (∀ (s : State) (p : Nat), s.Inv →
     (portUp s p = true →
       ((port s p).txWait = [] →
         (∀ lane errs n, laneUsed (port s p) lane = true → n < errs * 10000 →
           ∃ t, exec (.portBerWindow p lane errs n) s = .next t ∧ (port t p).phase = .training ∧ (port t p).width = 0 ∧ t.mem = s.mem) ∧
         ∃ t, exec (.portLossOfSignal p) s = .next t ∧ (port t p).phase = .training ∧ (port t p).width = 0 ∧ t.mem = s.mem) ∧
       (∀ lane errs n, errs * 10000 ≤ n → exec (.portBerWindow p lane errs n) s = .next s) ∧
       ∀ w, (port s p).txWait = [w] → s.fab.held = [] → managers s = [] → pkSrt w.pk = false → pkOp w.pk ≠ 12 →
         ownAddr s ≠ some (pkDst w.pk) → pkAdaptive w.pk = false →
         let e := routeEntry s (pkDst w.pk)
         let h : HeldPk := { n := s.fab.nextHeld, port := p, vc := if pkIsRequest w.pk then entVc e else entVc e + 2, inp := w.inp,
                             us := w.us, pk := w.pk, since := w.since, first := w.first.getD s.time }
         entValid e = true → bits e 3 0 = p → s.time < holdEnd s h →
         ∃ t, exec (.portLossOfSignal p) s = .next t ∧ (port t p).phase = .training ∧ (port t p).txWait = [] ∧ t.fab.held = [h]) ∧
     ((port s p).phase = .training → s.lay.ports.contains p = true → s.fab.held = [] → managers s = [] → (port s p).txWait = [] →
       ∀ (lanes : List (Nat × Nat)) (peer : LinkPeer), lanes.length = 8 →
       let begun (t : State) : Prop := (port t p).phase = .up ∧
         (samePeer (port s p) peer = true → (port t p).credits = (port s p).credits ∧ (port t p).replay = (port s p).replay ∧
           (port t p).rxSeq = (port s p).rxSeq) ∧
         (samePeer (port s p) peer = false → (port t p).credits = [1024, 1024, 1024, 1024] ∧ (port t p).replay = [])
       let good (l : List (Nat × Nat)) : Prop := ∀ x ∈ l, 0 < x.2 ∧ x.1 * 100000 ≤ x.2
       (good lanes → ∃ t, exec (.portTrainingDone p lanes peer) s = .next t ∧ begun t ∧ (port t p).width = 8) ∧
       (¬ good lanes → good (lanes.take 4) ∨ good (lanes.drop 4) →
         ∃ t, exec (.portTrainingDone p lanes peer) s = .next t ∧ begun t ∧ (port t p).width = 4 ∧
           ((port t p).upper = true ↔ ¬ good (lanes.take 4))) ∧
       (¬ good (lanes.take 4) → ¬ good (lanes.drop 4) →
         ∃ t, exec (.portTrainingDone p lanes peer) s = .next t ∧ (port t p).phase = .dark ∧
           (port t p).retryAt = some (s.time + 1000000000))) ∧
     (∀ at', (port s p).phase = .dark → (port s p).retryAt = some at' →
       ∃ t, exec (.portTrainRetry p) s = .next t ∧ (port t p).phase = .training ∧ t.time = max s.time at'))

/-- HELLO goes out with the part's state, address and identity, again at its interval; one received with a good CRC is kept, one with
a bad CRC counted. A management request for this part is served and its response sent back; a management response goes to the one
that asked; either with a bad CRC is dropped and counted. The buffer space that a packet took is given back (R304, R308, R318, R320,
R322, Table 10.9). -/
def Obligations.HelloAndManagementPackets : Prop :=
  (∀ (s : State) (p : Nat), s.Inv → portUp s p = true →
     let v := port s p
     (v.txWait = [] → v.replay.length < 2048 → (∀ vc, vc < 4 → 1 ≤ v.credits.getD vc 0) →
       let sent (t : State) : Prop := (port t p).helloSent = helloBits s p ∧ (port t p).helloAt = some t.time ∧
         ∃ pk, Out.packet p pk ∈ t.out ∧ pkOp pk = 12 ∧ pk.payload.length = 32 ∧ leNat (pk.payload.take 28) = helloBits s p % 2 ^ 224 ∧
           leNat (pk.payload.drop 28) = (crc32 (pk.payload.take 28)).toNat
       (v.helloAt = none → ∃ t, exec (.helloSend p) s = .next t ∧ sent t ∧ t.time = s.time) ∧
       (∀ at', v.helloAt = some at' → v.helloSent = helloBits s p →
         ∃ t, exec (.helloSend p) s = .next t ∧ sent t ∧ t.time = max s.time (at' + rd s 0x8030 5 * 1000000)) ∧
       (∀ at', v.helloAt = some at' → v.helloSent ≠ helloBits s p → ∃ t, exec (.helloSend p) s = .next t ∧ sent t ∧ t.time = s.time)) ∧
     (∀ pk, pkOp pk = 12 → hcrcOk pk = true → pkWhole pk = true → pkLen pk = 32 → pkSrt pk = false → pkArgs pk = 0 →
       (bits (leNat pk.payload) 255 224 = (crc32 (pk.payload.take 28)).toNat →
         ∃ t, exec (.hello p pk) s = .next t ∧ (port t p).neighbour = leNat pk.payload ∧ t.mem = s.mem) ∧
       (bits (leNat pk.payload) 255 224 ≠ (crc32 (pk.payload.take 28)).toNat →
         exec (.hello p pk) s = .next (noteState s (bump (giveCredit s p pk) 0x8050 10))))) ∧
  (∀ (s : State) (p : Nat) (pk : Packet), s.Inv → mgmtServed s = true → tooOld s pk = false → mgmtBad pk = false →
     let u := giveCredit s p pk
     (bodyOk (mgmtBody pk) = true →
       (mgmtArrives s p pk 4 = true →
         let a := serveMessage u (.fragor (pkSrc pk)) (bodyMsg (mgmtBody pk))
         exec (.mgmtReq p pk) s = .next (noteState s (sendMgmtResp a.2 p pk a.1))) ∧
       (mgmtArrives s p pk 5 = true → exec (.mgmtResp p pk) s =
         .next (noteState s { u with out := .catalogue (.fragor (pkSrc pk)) [bodyMsg (mgmtBody pk)] :: u.out }))) ∧
     (bodyOk (mgmtBody pk) = false →
       (mgmtArrives s p pk 4 = true → exec (.mgmtReq p pk) s = .next (noteState s (bump u 0x8050 10))) ∧
       (mgmtArrives s p pk 5 = true → exec (.mgmtResp p pk) s = .next (noteState s (bump u 0x8050 10)))))

/-- A packet for another part leaves on the port its routing entry names, or its route block, with a hop less and its age raised; it
is held where no port of its route is up. Without a route, with no hop left, held too long, with a bad header or a reserved operation
it is dropped and counted, and a request among them is answered NO_ROUTE or EXPIRED; the buffer space that it took is given back
(R300 to R304, R307, R311, R320, Table 10.7). -/
def Obligations.PacketsAreForwardedOrDropped : Prop :=
  ∀ (s : State) (p us own : Nat) (pk : Packet), s.Inv → portUp s p = true → pkWhole pk = true →
    let dropped (sub : Nat) : State := giveCredit (bump s 0x8050 sub) p pk
    (hcrcOk pk = false →
      (pkSrt pk = true ∨ ownAddr s ≠ some (pkDst pk) → exec (.packetForward p pk us) s = .next (noteState s (dropped 3))) ∧
      exec (.hcrcOrReservedOpPacket p pk) s = .next (noteState s (dropped 3))) ∧
    (hcrcOk pk = true → reservedOp (pkOp pk) = true →
      (pkSrt pk = true ∨ ownAddr s ≠ some (pkDst pk) → exec (.packetForward p pk us) s = .next (noteState s (dropped 11))) ∧
      exec (.hcrcOrReservedOpPacket p pk) s = .next (noteState s (dropped 11))) ∧
    (hcrcOk pk = true → reservedOp (pkOp pk) = false → pkOp pk ≠ 12 → pkSrt pk = false → ownAddr s = some own → pkDst pk ≠ own →
      s.main ≠ .bringup →
      let e := routeEntry s (pkDst pk)
      let vc := if pkIsRequest pk then entVc e else entVc e + 2
      (pkHops pk ≠ 0 → tooOld s (aged pk us) = false →
        (∀ q, entValid e = true → egress s e (pkAdaptive pk) vc = some q → heldAt s q vc = false →
          exec (.packetForward p pk us) s = .next (noteState s (emit s q vc us p (hopped pk))) ∧
          (canSend s q vc (hopped pk) = true →
            Out.packet q (sentPacket (hopped pk) vc us) ∈ (emit s q vc us p (hopped pk)).out)) ∧
        (entValid e = true → egress s e (pkAdaptive pk) vc = none →
          exec (.packetForward p pk us) s = .next (noteState s (holdPacket s (bits e 3 0) vc us p (hopped pk) s.time))) ∧
        (entValid e = false → pkIsRequest pk = false → exec (.packetForward p pk us) s = .next (noteState s (dropped 8))) ∧
        (entValid e = false → pkIsRequest pk = true → pkOp pk ≠ 4 → pkSrc pk ≠ own →
          exec (.packetForward p pk us) s = .next (noteState s (answer (dropped 8) pk 5)))) ∧
      (pkHops pk = 0 ∨ tooOld s (aged pk us) = true →
        (pkIsRequest pk = false → exec (.packetForward p pk us) s = .next (noteState s (bump (giveCredit s p pk) 0x8050 7))) ∧
        (pkIsRequest pk = true → pkOp pk ≠ 4 → pkSrc pk ≠ own →
          exec (.packetForward p pk us) s = .next (noteState s (answer (bump (giveCredit s p pk) 0x8050 7) pk 6))))) ∧
    (hcrcOk pk = true → pkSrt pk = true → pkOp pk = 4 ∨ pkOp pk = 5 → 32 ≤ pk.payload.length →
      let w := routeBlock pk
      let q := rbPort w (rbIdx w)
      let x := hopped (stamped pk p)
      let y := withBlock x (setBits (routeBlock x) 15 8 (rbIdx w + 1))
      1 ≤ rbIdx w → rbIdx w < rbHops w → rbHops w ≤ 60 → pkHops pk ≠ 0 → tooOld s (aged pk us) = false → portUp s q = true →
      (∀ vc, vc < 4 → canSend s q vc y = true) →
      ∃ t vc, exec (.packetForward p pk us) s = .next t ∧ vc < 4 ∧ Out.packet q (sentPacket y vc us) ∈ t.out ∧ t.mem = s.mem) ∧
    (∀ h, s.fab.held.find? (fun x => x.n == h.n) = some h →
      let kept := s.fab.held.filter (fun x => x.n != h.n)
      let u := giveCredit (bump { advance s (holdEnd s h) with fab := { s.fab with held := kept } } 0x8050 6) h.inp h.pk
      (pkIsRequest h.pk = false → exec (.holdExpiry h.n) s = .next (noteState s u) ∧ u.time = max s.time (holdEnd s h) ∧
        rd u 0x8050 6 = min (2 ^ 32 - 1) (rd s 0x8050 6 + 1)) ∧
      (pkIsRequest h.pk = true → pkOp h.pk ≠ 4 → ownAddr s ≠ some (pkSrc h.pk) →
        exec (.holdExpiry h.n) s = .next (noteState s (answer u h.pk 6))))

/-- While no request waits, a request of another part that its stream and a running job let in is performed at its home and answered;
outside every job it is answered REFUSED, or a signal dropped and counted, outside READY TARGET_DOWN, and nothing is performed. One
whose data is lost in the packet buffer is answered with failure and begins a discard (R118, R123, R235, R299, R309, R313, R317,
Table 10.7). -/
def Obligations.RequestsArePerformedForJobs : Prop :=
  ∀ (s : State) (p : Nat) (pk : Packet), s.Inv → waitingReqs s = [] → s.paid = [] → tooOld s pk = false → badRequest pk = false →
    let v := (streamCheck (giveCredit s p pk) pk).2
    let a := pkAddr pk
    let len := pkLen pk
    let x := bits (pkArgs pk) 57 42
    let f := bits (pkArgs pk) 41 36
    let n := bits (pkArgs pk) 35 20
    let inOrder := pkAdaptive pk = true ∨ pkSync pk = true ∨ SMap.find? s.fab.rx (pkSrc pk) = some (pkSeq pk, false)
    let counted (t : State) (idx sub : Nat) : Prop := rd t idx sub = rd (bump s idx sub) idx sub
    (s.main = .ready → inOrder → (jobTest s pk).isSome = true →
      (Admits v (performReq v p pk) 0 → pk.upset = [] →
        (arrives s p pk 0 = true → Clean s a len → OwnPlaces s (wordsOf a len) → a + len ≤ 2 ^ 48 →
          ∃ t, exec (.fabWrite p pk) s = .next t ∧ Clean t a len ∧ peekBytes t a len = pk.payload ∧ OnlyWords s t (wordsOf a len) ∧
            Answered s t pk 8 0 []) ∧
        (arrives s p pk 1 = true → Clean s a len →
          ∃ t, exec (.fabRead p pk) s = .next t ∧ t.mem = s.mem ∧ Answered s t pk 9 0 (peekBytes s a len)) ∧
        (arrives s p pk 2 = true → bits (pkArgs pk) 57 54 ≠ 5 → Clean s a len → OwnPlaces s (wordsOf a len) → a + len ≤ 2 ^ 48 →
          ∃ t, exec (.fabReduce p pk) s = .next t ∧ OnlyWords s t (wordsOf a len) ∧ Answered s t pk 8 0 [] ∧
            ∀ k, k < len / 64 → peekWord t (a + 64 * k) = (peekWord s (a + 64 * k)).map (fun w =>
              reduceWord (bits (pkArgs pk) 57 54) w ((pk.payload.drop (64 * k)).take 64)))) ∧
      (Admits v (performReq v p pk) 0 → s.power ≠ .deep →
        rsDecode 6 (applyUpset (rsEncode 6 (pk.payload.take 64 ++ List.replicate (64 - pk.payload.length) 0#8)) pk.upset) = .uncorrectable →
        (arrives s p pk 0 = true → ∃ t, exec (.fabWrite p pk) s = .next t ∧ t.main = .discarding ∧ t.discardCause = 0x40 ∧
          Answered s t pk 8 9 []) ∧
        (arrives s p pk 2 = true → ∃ t, exec (.fabReduce p pk) s = .next t ∧ t.main = .discarding ∧ t.discardCause = 0x40 ∧
          Answered s t pk 8 9 [])) ∧
      (arrives s p pk 3 = true → f < 48 → ∀ j jb, Signalled s x j jb → flagCount s x f + n ≤ 65535 →
        ∃ t, exec (.fabSignal p pk) s = .next t ∧ flagCount t x f = flagCount s x f + n ∧ (∀ g, g ≠ f → flagCount t x g = flagCount s x g) ∧
          (∀ y, y ≠ x → tile t y = tile s y) ∧ t.mem = s.mem ∧ t.jobs = s.jobs ∧ Answered s t pk 8 0 [])) ∧
    (s.main = .ready → inOrder → jobTest s pk = none →
      (arrives s p pk 0 = true → ∃ t, exec (.fabWrite p pk) s = .next t ∧ counted t 0x8050 9 ∧ t.mem = s.mem ∧ Answered s t pk 8 2 []) ∧
      (arrives s p pk 1 = true → ∃ t, exec (.fabRead p pk) s = .next t ∧ counted t 0x8050 9 ∧ t.mem = s.mem ∧ Answered s t pk 9 2 []) ∧
      (arrives s p pk 2 = true → ∃ t, exec (.fabReduce p pk) s = .next t ∧ counted t 0x8050 9 ∧ t.mem = s.mem ∧ Answered s t pk 8 2 []) ∧
      (arrives s p pk 3 = true → ∃ t, exec (.fabSignal p pk) s = .next t ∧ counted t 0x5040 1 ∧ t.tiles = s.tiles ∧ t.mem = s.mem ∧
        Answered s t pk 8 0 [])) ∧
    (s.main ≠ .ready →
      (arrives s p pk 0 = true → ∃ t, exec (.fabWrite p pk) s = .next t ∧ t.mem = s.mem ∧ t.tiles = s.tiles ∧ Answered s t pk 8 7 []) ∧
      (arrives s p pk 1 = true → ∃ t, exec (.fabRead p pk) s = .next t ∧ t.mem = s.mem ∧ t.tiles = s.tiles ∧ Answered s t pk 9 7 []) ∧
      (arrives s p pk 2 = true → ∃ t, exec (.fabReduce p pk) s = .next t ∧ t.mem = s.mem ∧ t.tiles = s.tiles ∧ Answered s t pk 8 7 []) ∧
      (arrives s p pk 3 = true → ∃ t, exec (.fabSignal p pk) s = .next t ∧ counted t 0x5040 1 ∧ t.mem = s.mem ∧ t.tiles = s.tiles ∧
        Answered s t pk 8 7 []))

/-- An ordered request out of sequence, in a stream that is known, is answered SEQ_GAP and marks a gap; one of a stream that
is not known is answered RESYNC; one in sequence moves the stream on. Requests answered RESYNC go out again in sequence once no
other of their stream is open, and stay undone where another of it failed (R309, R310). -/
def Obligations.OrderedStreamsKeepSequence : Prop :=
  (∀ (s : State) (pk : Packet) (e : Nat), pkAdaptive pk = false →
     (pkSync pk = true → (streamCheck s pk).1 = none ∧
       SMap.find? (streamCheck s pk).2.fab.rx (pkSrc pk) = some ((pkSeq pk + 1) % 65536, false)) ∧
     (pkSync pk = false → SMap.find? s.fab.rx (pkSrc pk) = none → (streamCheck s pk).1 = some 0x0A) ∧
     (pkSync pk = false → SMap.find? s.fab.rx (pkSrc pk) = some (e, false) → pkSeq pk = e → (streamCheck s pk).1 = none ∧
       SMap.find? (streamCheck s pk).2.fab.rx (pkSrc pk) = some ((e + 1) % 65536, false)) ∧
     (∀ gap, pkSync pk = false → SMap.find? s.fab.rx (pkSrc pk) = some (e, gap) → gap = true ∨ pkSeq pk ≠ e →
       (streamCheck s pk).1 = some 4 ∧ SMap.find? (streamCheck s pk).2.fab.rx (pkSrc pk) = some (e, true))) ∧
  (∀ (s : State) (dst : Nat), s.Inv → resyncAt s dst = true → orderedOpen s dst = false →
     (s.fab.badDst.contains dst = false → exec (.fabResyncResend dst) s = .next (noteState s (resend s dst))) ∧
     (s.fab.badDst.contains dst = true → s.fab.waitReqs = [] →
       ∃ t, exec (.fabResyncResend dst) s = .next t ∧ t.fab.badDst.contains dst = false ∧
         ∀ r ∈ t.fab.reqs, r.2.resync = true → r.2.dst = dst → r.2.abandoned = true))

/-- A response closes its request: OK frees its tag and stores the data that a transfer read, REFUSED faults its job with 0x25, RESYNC
keeps an ordered one to go again once its stream is quiet; one unanswered for FAB_REQ_TIMEOUT_MS begins a discard (R278, R310, R314 to
R316, Table 10.7). -/
def Obligations.ResponsesCloseRequests : Prop :=
  ∀ (s : State) (p : Nat) (pk : Packet) (r : FReq), s.Inv → SMap.find? s.fab.reqs (pkTag pk) = some r → r.resync = false →
    r.abandoned = false → s.fab.waitReqs = [] → EnginesHeld s → (∀ jb, SMap.find? s.jobs r.job = some jb → jb.fault = none) →
    let u := giveCredit s p pk
    let st := bits (pkArgs pk) 57 50
    let owes := owesAccess (stopJob { s with fab := { s.fab with reqs := SMap.erase s.fab.reqs (pkTag pk) } } r.job) r.job
    (tooOld s pk = false → badResponse s pk = false → arrives s p pk 8 = true →
      (st = 0 → pkOp r.pk ≠ 1 → (∀ n x, r.x = some n → SMap.find? s.xfers n = some x → packetsOrdered x = false) →
        ∃ t, exec (.ack p pk) s = .next t ∧ SMap.find? t.fab.reqs (pkTag pk) = none ∧ t.jobs = s.jobs ∧ t.mem = s.mem) ∧
      (st = 2 → ∀ jb, s.main = .ready → SMap.find? s.jobs r.job = some jb → jb.running = true →
        ∃ t, exec (.ack p pk) s = .next t ∧ SMap.find? t.fab.reqs (pkTag pk) = none ∧
          FaultedWith t r.job (rejected jb 0x25 r.t r.word) owes) ∧
      (st = 0x0A → r.ordered = true → s.jobs.any (fun j => j.1 == r.job && j.2.running) = true →
        exec (.ack p pk) s = .next (noteState s
          { u with fab := { u.fab with reqs := SMap.put s.fab.reqs (pkTag pk) { r with resync := true } } }))) ∧
    (tooOld s pk = false → badResponse s pk = false → arrives s p pk 9 = true → st = 0 → pkOp r.pk = 1 →
      (r.x = none → ∃ t, exec (.readData p pk) s = .next t ∧ SMap.find? t.fab.reqs (pkTag pk) = none ∧ t.jobs = s.jobs ∧ t.mem = s.mem) ∧
      (∀ n x jb q c, r.x = some n → r.pieces = [0] → SMap.find? s.xfers n = some x → x.job = r.job → x.remote = some c → x.toDev = true →
        x.rop = none → x.pend = [] → x.blocks = [[q]] → q.width = 512 → q.far % 8 = 0 → q.kind = .element → q.dev % 512 = 0 →
        (∃ i k, x.eng = .mover i k) → pk.payload.length = 64 → pk.upset = [] → SMap.find? s.jobs x.job = some jb → NothingWaits s →
        elemOk s jb true x.hint q.dev 512 = true → (sramKey s (q.dev / 8)).isSome = true →
        ∃ t, exec (.readData p pk) s = .next t ∧ SMap.find? t.fab.reqs (pkTag pk) = none ∧ SMap.find? t.xfers n = none ∧
          peekWord t (q.dev / 8) = some pk.payload)) ∧
    (s.main = .ready → s.power ≠ .deep →
      ∃ t, exec (.fabReqTimeout (pkTag pk)) s = .next t ∧ SMap.find? t.fab.reqs (pkTag pk) = none ∧ t.main = .discarding ∧
        t.discardCause = 0x43 ∧ t.time = max s.time (r.sentAt + rd s 0x8030 1 * 1000000) ∧
        rd t 0x8050 5 = min (2 ^ 32 - 1) (rd s 0x8050 5 + 1) ∧ rd State.reset 0x8030 1 = 130)

/-! ## Links inside the package, clocks, power -/

/-- A die-to-die flit in order is passed on, any other discarded and its replay counted, and the sixteenth replay of one flit that
fails is a class-C fault on the forwarding path; a lane that loses signal does the same; the replays of a link in any one second
raise an alarm, and a lane of too little margin is noted (R325, R336 to R338). That sequence numbers have no bound, and that a replay
is counted for each discarded flit, are the model's choices (log entry 24). -/
def Obligations.DieToDieFlitsReplay : Prop :=
  ∀ (s : State) (pair dir chan : Nat), s.Inv → d2dUp s pair dir = true → chan < 5 → (d2dAt s pair dir).exp.length = 5 →
    (d2dAt s pair dir).fails.length = 5 →
    let v := d2dAt s pair dir
    let next := v.exp.getD chan 0
    (∀ lanes, exec (.d2dFlitReceive pair dir chan ⟨true, lanes⟩ next) s =
      .next (noteState s (setD2d s pair dir { v with exp := v.exp.set chan (next + 1), fails := v.fails.set chan 0 }))) ∧
    (∀ ok lanes seq, ok = false ∨ seq ≠ next → v.fails.getD chan 0 < 16 →
      ∃ t, exec (.d2dFlitReceive pair dir chan ⟨ok, lanes⟩ seq) s = .next t ∧
        (d2dAt t pair dir).fails.getD chan 0 = v.fails.getD chan 0 + (if seq = next then 1 else 0) ∧ (d2dAt t pair dir).exp = v.exp ∧
        Out.d2dReplay pair dir chan ∈ t.out ∧ rd t 0x9012 (pair + 1) = rd (bump s 0x9012 (pair + 1)) 0x9012 (pair + 1) ∧
        replayCount t pair s.time = replayCount s pair s.time + 1 ∧ t.main = s.main ∧ t.mem = s.mem) ∧
    (s.main = .ready →
      (∀ lanes, v.fails.getD chan 0 = 16 → ∃ t, exec (.d2dFlitReceive pair dir chan ⟨false, lanes⟩ next) s = .next t ∧
        t.main = .faulted ∧ t.jobs = [] ∧ t.offPath = false) ∧
      (∀ lane, (d2dLanes s pair dir).contains lane = true →
        ∃ t, exec (.d2dLaneLoss pair dir lane) s = .next t ∧ t.main = .faulted ∧ t.jobs = [] ∧ t.offPath = false)) ∧
    (∀ lane, (d2dLanes s pair dir).contains lane = true → v.marginal.contains lane = false →
      ∃ t, exec (.d2dMarginWindow pair dir lane) s = .next t ∧ (d2dAt t pair dir).marginal = v.marginal ++ [lane] ∧
        rd t 0x9013 1 = rd s 0x9013 1 + 1 ∧ t.main = s.main ∧ t.mem = s.mem) ∧
    (rd s 0x9013 2 < replayCount s pair s.time → linkAlarmed s pair = false →
      exec (.d2dReplayAlarm pair dir) s = .next (noteState s (logEvent (setAlarmed s pair true) 0x9001
        (leBytes 1 pair ++ leBytes 1 dir ++ leBytes 2 0xFFFF))))

/-- PLL lock loss, a lost host site, a guest's reset request and a failed router or mesh link are class-C faults of the part in
READY, on the forwarding path or off it; an optical site whose link goes down only takes its port out of service (R181, R325, R344,
R347, Table 16.2). -/
def Obligations.PackageFaultsEndService : Prop :=
  ∀ s : State, s.Inv → s.main = .ready → s.power = .run →
    let faulted (t : State) : Prop := t.main = .faulted ∧ t.jobs = [] ∧ t.comps = [] ∧ t.resetAt = s.time ∧ t.mem = s.mem
    (rd s 0x8040 2 ≠ 1 →
      (∀ die source, die < 6 → 1 ≤ source → source ≤ 3 → ∃ t, exec (.pllLockLoss die source) s = .next t ∧ faulted t ∧ t.offPath = false) ∧
      (s.bringup.guests.contains 16 = true → ∃ t, exec .hostSiteLinkLost s = .next t ∧ faulted t ∧ t.offPath = true) ∧
      (∀ site, s.bringup.guests.contains site = true →
        ∃ t, exec (.guestResetRequest site) s = .next t ∧ faulted t ∧ t.offPath = decide (16 ≤ site)) ∧
      (∀ cdie die row col link, routerExists cdie die row col = true → (cdie = true → cdiePresent s die = true) → link < 4 ∨ link = 255 →
        ∃ t, exec (.routerOrMeshLinkFailed cdie die row col link) s = .next t ∧ faulted t ∧ t.offPath = cdie)) ∧
    (∀ p, s.lay.ports.contains p = true → (port s p).txWait = [] → ∃ t, exec (.opticalSiteLinkDown p) s = .next t ∧ (port t p).phase = .training ∧
      t.main = .ready ∧ t.jobs = s.jobs ∧ t.mem = s.mem)

/-- The standby supply starts the fallback at time zero; settled within 2 ms it brings STANDBY, not settled it holds the part in
STANDBY-FAULT; a fallback that stops and a reference lost while the part runs end in SHUTDOWN and FAULTED, the latter on the
forwarding path; without the supply only the flash keeps what it holds (R325, R348 to R352, R453). -/
def Obligations.SupplyAndClocks : Prop :=
  ∀ s : State, s.Inv →
    (s.con.standby = false → exec .standbySupplyApplied s =
      .next (noteState s { s with time := 0, con := { s.con with standby := true } })) ∧
    (s.con.standby = true → ∃ t, exec .standbySupplyRemoved s = .next t ∧ t.main = .off ∧ t.cons = [] ∧ t.ent = [] ∧ t.mem = [] ∧
      t.events = [] ∧ t.ledgerQ = [] ∧ t.ledger.bank0 = s.ledger.bank0 ∧ t.ledger.bank1 = s.ledger.bank1 ∧ t.ledger.scanned = false) ∧
    (∀ us, s.con.standby = true → s.con.settled = false → s.con.held = false → us ≤ 2000 →
      ∃ t, exec (.fallbackSettled us) s = .next t ∧ t.main = .standby ∧ t.con.settled = true ∧ rd t 0x9020 5 = us ∧
        t.time = max s.time (us * 1000)) ∧
    (s.con.standby = true → s.con.settled = false → s.con.held = false →
      ∃ t, exec .fallbackSettleTimeout s = .next t ∧ t.main = .standbyFault ∧ t.con.held = true ∧ t.con.faultN = true ∧
        t.time = max s.time 2000000) ∧
    (s.con.settled = true → s.main = .ready →
      (∃ t, exec .fallbackStop s = .next t ∧ t.main = .shutdown ∧ t.con.faultN = true ∧ t.jobs = [] ∧ rd t 0xB040 1 = 8) ∧
      (rd s 0x9020 1 = 1 → ∃ t, exec .refEdgeTimeout s = .next t ∧ t.main = .faulted ∧ rd t 0x9020 1 = 2 ∧ t.offPath = false)) ∧
    (∀ ppm : Int, s.con.settled = true → rd s 0x9020 1 ≠ 1 → -10000 ≤ ppm → ppm ≤ 10000 →
      ∃ t, exec (.clockMonitorWindow ppm true) s = .next t ∧ t.con.good = s.con.good + 1 ∧ t.con.bad = 0 ∧
        (10 ≤ s.con.good + 1 → rd t 0x9020 1 = 1) ∧ s.time ≤ t.time)

/-- A stack at its shutdown limit, or CATTRIP, shuts the part down and its code is kept; a step machine input at its on level
steps its C-die's limit down by 30 A at once and then every 5 ms, at or below off up after 20 ms, never below 210 A
(R211, R366, R367, R374, R381). -/
def Obligations.HeatStepsDownAndShutsDown : Prop :=
  (∀ (s : State) (m : Nat), s.Inv → m < 12 → s.main = .ready → ∃ t, exec (.hbmCattripAssert m) s = .next t ∧ t.main = .shutdown ∧
    t.con.faultN = true ∧ t.jobs = [] ∧ t.mem = [] ∧ rd t 0xB040 1 = 4) ∧
  (∀ (s : State) (ch : Nat) (v : Int), s.Inv → s.con.settled = true → s.main = .ready → ch < 12 → ((10 * rd s 0xB000 7 : Nat) : Int) ≤ v →
    s.con.failed = [] → s.con.hk = [] → ∃ t, exec (.housekeepingRound [(960 + ch, v)]) s = .next t ∧ t.main = .shutdown ∧ t.con.faultN = true ∧
      t.jobs = [] ∧ rd t 0xB040 1 = 3) ∧
  (∀ (s : State) (l : List (Nat × Int)), s.Inv → s.con.settled = true →
    ∃ t, exec (.housekeepingRound l) s = .next t ∧ s.time ≤ t.time ∧ t.con.roundAt = dueAt s.con.roundAt s.time 2000000 + 2000000) ∧
  (∀ s : State, s.Inv → s.con.settled = true → ∃ t, exec .stepMachineTick s = .next t ∧ t.mem = s.mem ∧ s.time ≤ t.time ∧
    t.con.tickAt = dueAt s.con.tickAt s.time 1000000 + 1000000 ∧ dueAt s.con.tickAt s.time 1000000 ≤ t.time ∧
    (∀ c i, c < 12 → i < 4 → cdiePresent s c = true →
      let p := stepOf s c i
      (inputLevel s c i = 2 → stepOf t c i = if p.down = 0 ∧ p.n < 9 then { n := p.n + 1, down := 4, up := 19 }
        else { n := p.n, down := p.down - 1, up := 19 }) ∧
      (inputLevel s c i = 1 → stepOf t c i = { n := p.n, down := p.down - 1, up := 19 }) ∧
      (inputLevel s c i = 0 → stepOf t c i = if p.up = 0 ∧ 0 < p.n then { n := p.n - 1, down := p.down - 1, up := 19 }
        else { n := p.n, down := p.down - 1, up := p.up - 1 })) ∧
    (∀ c, c < 12 → cdieLimit t c = max 210 (rd t 0xA000 1 -
      30 * max (max (stepOf t c 0).n (stepOf t c 1).n) (max (stepOf t c 2).n (stepOf t c 3).n))) ∧
    ∀ h, h < 24 → ownLimit t h = cdieLimit t (h / 2) / 2) ∧
  ∀ c i, stepOf State.reset c i = Step.zero

/-! ## Bring-up -/

/-- The first steps: a good rail reaches step 2, one that is late ends in STANDBY-FAULT with cause 1, waits and the time limit
are counted, an unreadable B-die record is cause 2, and dies that wake alike reach step 8 (R390 to R394, R398). -/
def Obligations.BringupFirstSteps : Prop :=
  ∀ s : State, s.Inv → s.main = .bringup →
    let failed (t : State) (cause : Nat) : Prop := t.main = .standbyFault ∧ t.con.faultN = true ∧ rd t 0x2020 2 = cause
    (s.bringup.step = 1 → s.bringup.waitFrom = none →
      (∃ t, exec .packageRailGood s = .next t ∧ t.bringup.step = 2 ∧ t.con.armed = true ∧ t.main = .bringup) ∧
      (∃ t, exec .packageRailTimeout s = .next t ∧ failed t 1)) ∧
    (s.bringup.waitFrom = none → ∃ t, exec .bringupTimeLimit s = .next t ∧ failed t 7 ∧
      s.bringup.runAt + s.bringup.waited + rd s 0x2020 5 * 1000000000 ≤ t.time) ∧
    (s.bringup.waitFrom.isSome = true → s.bringup.step = 1 ∨ s.bringup.step = 4 →
      ∃ t, exec .bringupWaitEvent s = .next t ∧ t.bringup.waitDue = s.bringup.waitDue + 1000000000 ∧
        t.time = max s.time s.bringup.waitDue ∧ t.main = .bringup) ∧
    (∀ recs b, s.bringup.step = 2 → b < 6 → recOf recs true b = none → ∃ t, exec (.provenanceReadDone recs) s = .next t ∧ failed t 2) ∧
    (∀ recs r, s.bringup.step = 2 → recOf recs true 0 = some r → (∀ b, b < 6 → (recOf recs true b).isSome = true) → variantOk (copyAt r 0x18 8) = true →
      s.ledger.scanned = false → ∃ t, exec (.provenanceReadDone recs) s = .next t ∧ t.main = .bringup ∧ t.bringup.step = 3 ∧
        t.bringup.uid = copyAt r 0x10 8 ∧ t.bringup.variant = copyAt r 0x18 8 ∧ t.bringup.scanWait = true) ∧
    (∀ reports, s.bringup.step = 5 →
      (∃ t, exec (.bdieWakeDone false reports) s = .next t ∧ failed t 4) ∧
      (idFault reports ≠ 0 → ∃ t, exec (.bdieWakeDone true reports) s = .next t ∧ failed t 3 ∧ rd t 0x9000 3 = idFault reports) ∧
      (idFault reports = 0 → ∃ t, exec (.bdieWakeDone true reports) s = .next t ∧ (t.main = .bringup ∨ t.main = .coldHold) ∧
        t.bringup.step = 8 ∧ t.bringup.awake = true))

/-- The branches of bring-up: self-tests, link, guest and channel training take in what passed, waves and releases go on in order,
and qualification ends its window after 20 ms; they come in any order that Table 13.1 allows, so each clause holds at step 8 and at
any later one. Once every branch is done the Inventory is built and the part is READY at
step 16; the step taken when a branch is missing does nothing (R339 to R343, R395,
R397, R399, R404 to R406, R408). -/
def Obligations.BringupBranchesToReady : Prop :=
  (∀ s : State, s.Inv → s.main = .bringup → s.bringup.awake = true → 8 ≤ s.bringup.step →
     (s.bringup.vault = false → ∃ t, exec (.vaultSelfTestDone []) s = .next t ∧ t.bringup.vault = true ∧
       t.bringup.step = max s.bringup.step 9 ∧ t.main = .bringup) ∧
     (∀ pair dir, pair < 7 → dir < 2 → s.bringup.d2d.contains (d2dKey pair dir) = false →
       ((chooseLanes (laneBad s pair dir)).isEmpty = false → ∃ t, exec (.dieToDieTrainingDone pair dir []) s = .next t ∧
         d2dLanes t pair dir = chooseLanes (laneBad s pair dir) ∧ t.bringup.d2d = s.bringup.d2d ++ [d2dKey pair dir]) ∧
       ((chooseLanes (laneBad s pair dir)).isEmpty = true → ∃ t, exec (.dieToDieTrainingDone pair dir []) s = .next t ∧
         t.main = .standbyFault ∧ rd t 0x2020 2 = 6 ∧ t.con.faultUnit = some pair)) ∧
     (∀ (site rate : Nat) (d : BitVec 128), site < 17 → siteWanted s site = true → s.bringup.guests.contains site = false →
       (guestOk site d.toNat rate = true → unitBad s true 0 (7 * 2 ^ 28 + site) = false →
         ∃ t, exec (.guestSiteTrainingDone site d rate) s = .next t ∧ t.bringup.guests = s.bringup.guests ++ [site] ∧ 
           rd t 0x9009 (site + 1) = siteRate d.toNat rate) ∧
       (site < 16 → guestOk site d.toNat rate = false → ∃ t, exec (.guestSiteTrainingDone site d rate) s = .next t ∧
         t.bringup.guests = s.bringup.guests ∧ rd t 0x9009 (site + 1) = 0 ∧ t.main = .bringup) ∧
       (site = 16 → guestOk site d.toNat rate = false → ∃ t, exec (.guestSiteTrainingDone site d rate) s = .next t ∧ t.main = .standbyFault ∧
         rd t 0x2020 2 = 5 ∧ t.con.faultUnit = some 16)) ∧
     (∀ (ch : Nat), ch < 384 → chanSettled s ch = false →
       (∃ t, exec (.hbmChannelTrainingDone ch true true (stackBytesOf s.bringup.variant) []) s = .next t ∧ chanSettled t ch = true ∧
         ch ∈ t.bringup.trained) ∧
       (∃ t, exec (.hbmChannelTrainingDone ch false true (stackBytesOf s.bringup.variant) []) s = .next t ∧ chanSettled t ch = true ∧
         t.bringup.trained = s.bringup.trained) ∧
       ∀ n, n ≠ stackBytesOf s.bringup.variant → ∃ t, exec (.hbmChannelTrainingDone ch true true n []) s = .next t ∧
         (∀ c, c / 32 = ch / 32 → chanSettled t c = true ∧ c ∉ t.bringup.trained)) ∧
     (∀ w, w < 6 → mayWave s = true → s.bringup.waves = w →
       ∃ t, exec (.halfWaveStart w) s = .next t ∧ t.bringup.waves = w + 1 ∧
         t.bringup.step = max s.bringup.step (if w = 5 then 12 else 0) ∧ (∀ x, s.bringup.waveAt.getLast? = some x → x + 500000 ≤ t.time)) ∧
     (∀ h, h < 24 → halfUsed s h = true → h % 6 < s.bringup.waves → releasedOf s h < 5 →
       ∃ t, exec (.tileRelease h) s = .next t ∧ releasedOf t h = releasedOf s h + 1 ∧
         s.bringup.waveAt.getD (h % 6) 0 + 100000 + 20000 * releasedOf s h ≤ t.time) ∧
     (wavesDone s = true → s.bringup.tilesDone = false →
       ∃ t, exec (.tileSelfTestDone ⟨[], []⟩) s = .next t ∧ t.bringup.tilesDone = true ∧
         t.bringup.step = max s.bringup.step 13 ∧ t.bringup.qualAt = s.time) ∧
     (s.bringup.tilesDone = true → s.bringup.qual = false → (∀ k, k < 14 → SMap.find? s.bringup.lanes k = some (chooseLanes (laneBad s (k / 2) (k % 2))) ∧
         (chooseLanes (laneBad s (k / 2) (k % 2))).isEmpty = false) →
       ∃ t, exec (.laneQualWindowEnd []) s = .next t ∧ t.bringup.qual = true ∧
         t.bringup.step = max s.bringup.step 14 ∧ s.bringup.qualAt + 20000000 ≤ t.time)) ∧
  (∀ s : State, s.Inv →
     (mayBuild s = true → s.bringup.rows = [] → ∃ t, exec .inventoryBuild s = .next t ∧ t.main = .ready ∧ t.bringup.step = max s.bringup.step 16 ∧
       t.everReady = true ∧ t.lay.chans = s.bringup.trained ∧ t.regStart = s.time ∧ t.winStart = s.time ∧ t.mem = s.mem) ∧
     (mayBuild s = false → exec .inventoryBuild s = .next s))

/-! ## Ledger -/

/-- The scan takes a bank whose header is erased as erased in full and adds a POWER_UP record of the next count to what is live,
without the values that a clear queued before it ends; a record that reads back leaves the slots for the log, one that does not stays; compaction makes the other bank the active one with the next generation (R434 to R439). -/
def Obligations.LedgerKeepsRecords : Prop :=
  ∀ s : State, s.con.settled = true →
    (s.ledger.scanned = false → ∃ t, exec .ledgerScan s = .next t ∧ t.ledger.scanned = true ∧ t.ledger.bank0 = eraseBank s.ledger.bank0 ∧
      t.ledger.bank1 = eraseBank s.ledger.bank1 ∧ (∃ r ∈ t.live, r.ty = 6 ∧ powerUpCount r = (t.ledger.boot + 1) % 2 ^ 16) ∧
      (s.ledger.cleared = true → (∀ r ∈ s.live, r.ty ≠ 3) → ∀ r ∈ t.live, r.ty ≠ 3)) ∧
    (∀ r rest, mayWriteLedger s = true → s.ledgerQ = r :: rest → bankUsed (activeBank s.ledger) + recBytes r ≤ 2 ^ 25 →
      (∃ t, exec (.ledgerRecordWrite true) s = .next t ∧ t.ledgerQ = rest ∧ t.ledger.seq = (s.ledger.seq + 1) % 2 ^ 32 ∧
        (activeBank t.ledger).recs.length = (activeBank s.ledger).recs.length + 1) ∧
      (s.ledger.fails < 2 → ∃ t, exec (.ledgerRecordWrite false) s = .next t ∧ t.ledgerQ = s.ledgerQ ∧ t.ledger.fails = s.ledger.fails + 1) ∧
      (s.ledger.fails = 2 → ∃ t, exec (.ledgerRecordWrite false) s = .next t ∧ rd t 0xD000 6 = 1)) ∧
    (mayWriteLedger s = true → 25165824 ≤ bankUsed (activeBank s.ledger) → ∀ g, (activeBank s.ledger).gen = some g →
      ∃ t, exec .ledgerCompaction s = .next t ∧ (activeBank t.ledger).gen = some (g + 1) ∧ activeNo t.ledger = 1 - activeNo s.ledger ∧
        (∀ r ∈ (activeBank t.ledger).recs, r ∈ (activeBank s.ledger).recs ∧ r.good = true) ∧ t.live = s.live)

/-! ## The Catalogue -/

/-- READ and READ_STAGED of a scalar entry answer OK with its value, the committed or the staged one; WO entries read zero;
DESCRIBE gives the type, access and size; a reserved OP is MALFORMED, a name the part does not define NO_ENTRY. None changes a value (R412, R418, R424, Table 14.4). Where
subindex 0 of an index is held is the model's reading (`countKeep`, log entry 26). -/
def Obligations.CatalogueReadsAnswer : Prop :=
  ∀ (s : State) (tr : Transport) (r : CatReq) (row : EntRow), s.Inv → stagesDue s = [] →
    let idx := r.index.toNat
    let sub := r.sub.toNat
    let answers (c : Instr) (op : Nat) (data : List Byte) : Prop :=
      exec c s = .next (noteState s (catDeliver s tr 0 (response op r .ok data)))
    let idle := r.ns = 0 ∧ s.mbx.busy = none ∧ (owing s tr).length < 8
    (EntryRequest s tr r row → r.data = [] →
      (row.acc ≠ .wo → isConsCommand idx sub = false → unitAbsent s idx sub = false →
        let v := (derived s tr idx sub).getD (rd s idx sub)
        answers (.catalogueRead tr r) 1 (leBytes r.length.toNat v) ∧
        (SMap.find? (stageOf s tr).vals (entKey idx sub) = none → answers (.readStaged tr r) 3 (leBytes r.length.toNat v)) ∧
        ∀ x, SMap.find? (stageOf s tr).vals (entKey idx sub) = some x →
          answers (.readStaged tr r) 3 (leBytes r.length.toNat (shown idx x))) ∧
      (row.acc = .wo → answers (.catalogueRead tr r) 1 (List.replicate r.length.toNat 0#8))) ∧
    (available s tr = true → idle → findRow idx sub = some row → r.sub ≠ 0#8 → entryBlock s tr row idx sub = none → r.length = 8#16 →
      r.status = 0#8 → r.rsv = 0#32 → r.offset = 0#32 → r.data = [] →
      answers (.describe tr r) 4 (describeBytes row.ty row.acc row.keep (entSize s row idx sub))) ∧
    (∀ op : BitVec 8, available s tr = true → op = 0#8 ∨ 5 ≤ op.toNat →
      exec (.catalogueReservedOp tr op r) s = .next (noteState s (catDeliver s tr 0 (response op.toNat r .malformed [])))) ∧
    (available s tr = true → idle → r.status = 0#8 → r.rsv = 0#32 → r.data = [] →
      (r.sub = 0#8 → maxSub idx ≠ 0 → entryBlock s tr (countRow idx) idx 0 = none → r.offset = 0#32 → (r.length = 1#16 → answers (.catalogueRead tr r) 1 (leBytes 1 (maxSub idx))) ∧
        (r.length = 8#16 → answers (.describe tr r) 4 (describeBytes 1 .ro (countKeep idx) 1))) ∧
      (1 ≤ r.length.toNat → r.length.toNat ≤ 1024 → (r.sub = 0#8 ∧ maxSub idx = 0) ∨ (r.sub ≠ 0#8 ∧ findRow idx sub = none) →
        exec (.catalogueRead tr r) s = .next (noteState s (catDeliver s tr 0 (response 1 r .noEntry []))) ∧
        exec (.readStaged tr r) s = .next (noteState s (catDeliver s tr 0 (response 3 r .noEntry []))) ∧
        exec (.describe tr r) s = .next (noteState s (catDeliver s tr 0 (response 4 r .noEntry [])))))

/-- A WRITE acts by the access class of its entry: RO is refused, RW takes the value at once, RWS holds it in the source's
context with the committed values as they were, CONS takes it only through the Conservator port and counts it, and a
manager without the right is refused and counted (R322, R413, R418, R424, R431, Table 0.3). -/
def Obligations.CatalogueWritesByAccess : Prop :=
  ∀ (s : State) (tr : Transport) (r : CatReq) (row : EntRow), s.Inv → EntryRequest s tr r row → r.data.length = r.length.toNat →
    let idx := r.index.toNat
    let sub := r.sub.toNat
    let v := kept idx sub (leNat r.data)
    (row.acc = .ro →
      exec (.catalogueWrite tr r) s = .next (noteState s (catDeliver s tr 0 (response 2 r .access [])))) ∧
    (row.acc = .rw → mayWrite s tr = true → inRange idx sub v = true →
      ∃ t, exec (.catalogueWrite tr r) s = .next t ∧ rd t idx sub = v ∧ t.cons = s.cons ∧ t.mem = s.mem ∧ t.stages = s.stages ∧
        t.jobs = s.jobs) ∧
    (row.acc = .rws → mayWrite s tr = true → inRange idx sub v = true →
      ∃ t, exec (.stagedEntryWrite tr r) s = .next t ∧ exec (.catalogueWrite tr r) s = .next t ∧ t.ent = s.ent ∧ t.cons = s.cons ∧
        SMap.find? (stageOf t tr).vals (entKey idx sub) = some v ∧ t.mem = s.mem ∧ t.jobs = s.jobs) ∧
    (row.acc = .cons → tr ≠ .cons →
      exec (.consEntryWrite tr r) s = .next (noteState s (catDeliver (bump s 0xC000 6) tr 0 (response 2 r .access [])))) ∧
    (row.acc = .cons → tr = .cons → isConsCommand idx sub = false → inRange idx sub v = true →
      brokenRule (consRules { s with cons := SMap.put s.cons (entKey idx sub) v }) = none →
      ∃ t, exec (.consEntryWrite tr r) s = .next t ∧ exec (.catalogueWrite tr r) s = .next t ∧ rd t idx sub = v ∧
        rd t 0xC000 5 = min (2 ^ 32 - 1) (rd s 0xC000 5 + 1) ∧ t.mem = s.mem ∧ t.jobs = s.jobs) ∧
    (∀ a, tr = .fragor a → row.acc = .rw ∨ row.acc = .rws → mayWrite s tr = false →
      exec (.catalogueWrite tr r) s = .next (noteState s (catDeliver (bump s 0x8050 10) tr 0 (response 2 r .rights []))))

/-- COMMIT makes every staged value of its source the committed one in one step and empties the context, or, where a rule is
broken, commits none and keeps the context with the failing entry; ABORT and expiry drop the context (R425 to R428). -/
def Obligations.StagedValuesCommitTogether : Prop :=
  ∀ (s : State) (tr : Transport) (tag : BitVec 8), s.Inv →
    let c := stageOf s tr
    let t := trial s c.vals
    let changed := c.vals.any (fun e => isRegInput e.1 && differs s e)
    let rwsAs (u x : State) : Prop := ∀ idx sub row, sub < 256 → findRow idx sub = some row → row.acc = .rws → rd u idx sub = rd x idx sub
    (MayCommand s tr → c.vals ≠ [] →
      (brokenRule (commitRules s t changed) = none → s.fab.held = [] → ∀ k, stageKey s tr = some k →
        ∃ u, exec (.commit tr tag 1#8) s = .next u ∧ rwsAs u t ∧ (SMap.get u.stages k Stage.reset).vals = [] ∧ u.cons = s.cons ∧
          u.mem = s.mem ∧ u.jobs = s.jobs) ∧
      (∀ b, brokenRule (commitRules s t changed) = some b →
        ∃ u, exec (.commit tr tag 1#8) s =
            .next (noteState s (catDeliver u tr 0 (response 2 (writeReq tag 0xF000 1 1 1) .refused []))) ∧ rwsAs u s ∧
          (stageOf u tr).vals = c.vals ∧ derived u tr 0xF000 3 = some (2 * 2 ^ 24 + failingEntry c.vals b) ∧ u.cons = s.cons ∧
          u.mem = s.mem)) ∧
    (MayCommand s tr → exec (.abort tr tag 1#8) s =
      .next (noteState s (catDeliver (setStage s tr { vals := [], since := 0, status := 3 * 2 ^ 24 }) tr 0
        (response 2 (writeReq tag 0xF000 2 1 1) .ok [])))) ∧
    (s.main ≠ .off → c.vals ≠ [] → ∃ u, exec (.stageContextExpiry tr) s = .next u ∧ (stageOf u tr).vals = [] ∧
      (stageOf u tr).status = 4 * 2 ^ 24 ∧ c.since + rd s 0xF000 4 * 1000000000 ≤ u.time ∧ rwsAs u s)

/-- The commands behind WO entries: a reset is taken up for 100 µs later, or starts bring-up from STANDBY; power states change
where they may; TRANSIT ends every job; prot lines of a class are released, a channel's retrain becomes pending, persisted
records end, and a cooled SHUTDOWN clears (R192, R201, R325, R382, R386 to R388, R429, R439). -/
def Obligations.CommandEntriesAct : Prop :=
  ∀ (s : State) (tr : Transport) (tag : BitVec 8), s.Inv → stagesDue s = [] → s.mbx.busy = none → (owing s tr).length < 8 →
    (∀ v : BitVec 32, available s tr = true → resetRight s tr = true → v.toNat / 2 ^ 8 = 0x5EC700 → v.toNat % 2 ^ 8 ≤ 7 →
      (s.main = .ready → ∃ t, exec (.resetCmd tr tag v) s = .next t ∧ t.resetReq = some s.time ∧ t.main = .ready ∧ t.jobs = s.jobs ∧
        t.mem = s.mem) ∧
      (tr = .cons → s.main = .standby → s.link.perst = false →
        ∃ t, exec (.resetCmd tr tag v) s = .next t ∧ t.main = .bringup ∧ t.bringup.step = 1)) ∧
    (MayCommand s tr → s.main = .ready →
      (∃ t, exec (.persistClear tr tag 0xC1EA#32) s = .next t ∧ (∀ x ∈ t.live, x ∈ s.live ∧ x.ty ≠ 3) ∧ t.cons = s.cons ∧ t.mem = s.mem) ∧
      (s.power ≠ .deep → ∃ t, exec (.powerReqRun tr tag) s = .next t ∧ t.power = .run ∧ t.deepPending = false ∧ t.mem = s.mem) ∧
      (s.power = .run → s.jobs = [] → descPending s = false →
        ∃ t, exec (.powerReqSleep tr tag) s = .next t ∧ t.power = .sleep ∧ t.loans = [] ∧ t.reclaims = [] ∧ t.mem = s.mem) ∧
      (s.power = .run → s.deepPending = false → s.jobs.any (fun (j : Nat × Job) => j.2.holds) = false →
        s.queues.any (fun (q : Nat × Queue) => q.2.enabled) = false →
        ∃ t, exec (.powerReqDeep tr tag) s = .next t ∧ t.deepPending = true ∧ t.power = .run ∧ t.mem = s.mem) ∧
      (resetRight s tr = true →
        ∃ t, exec (.fabTransitReq tr tag 1#8) s = .next t ∧ t.main = .transit ∧ t.jobs = [] ∧ t.loans = [] ∧ t.cons = s.cons) ∧
      (∀ v : BitVec 8, v.toNat ≤ 15 → ∃ t, exec (.keepRelease tr tag v) s = .next t ∧
        (∀ l ∈ t.lines, l.prot ≠ some v.toNat) ∧ t.lines.length = s.lines.length ∧ t.mem = s.mem ∧ t.jobs = s.jobs) ∧
      (∀ v : BitVec 16, s.lay.chans.contains v.toNat = true → v.toNat ≤ 383 → (chan s v.toNat).wait = none →
        (chan s v.toNat).active = none → ∃ t, exec (.retrainReq tr tag v) s = .next t ∧ (chan t v.toNat).wait = some 1 ∧
          (∀ c, c ≠ v.toNat → chan t c = chan s c) ∧ t.mem = s.mem ∧ t.jobs = s.jobs)) ∧
    (tr = .cons → cooled s = true → ∃ t, exec (.shutdownClear tr tag 0xA5#8) s = .next t ∧ t.main = .standby ∧ t.con.faultN = false ∧
      t.mem = s.mem) ∧
    (hostReaches s = true →
      let a := serveMessage s .mailbox (mbxMessage s)
      (∃ t, exec (.mbxDoorbell ⟨1#32, 0⟩) s = .next t ∧ t.mbx.done = true ∧ t.mbx.resp = putBytes a.2.mbx.resp 0 a.1) ∧
      ∀ (v : BitVec 32) (ns : Nat), v ≠ 1#32 → exec (.mbxDoorbell ⟨v, ns⟩) s = .next s)

/-- The MCTP control requests are answered on the port they come on, an unsupported one with that code; an I3C port without a
dynamic address takes the one it is given. The control formats and codes are those of DSP0236 and DSP0233, not of the
manual (log entry 26); R419, R420. -/
def Obligations.EndpointsAnswerControl : Prop :=
  ∀ s : State, s.Inv →
    (∀ port, endpointOn s port = true →
      let answers (t : State) (msg : List Byte) : Host.Outcome State Fault Refusal :=
        .next (noteState s { t with out := .mctp port msg :: t.out })
      (∀ eid : BitVec 8, eid ≠ 0#8 → eid ≠ 0xFF#8 → exec (.setEndpointId port eid) s =
        answers { s with eids := SMap.put s.eids port eid.toNat } [1#8, 0#8, 0#8, eid, 0#8]) ∧
      exec (.getEndpointId port) s = answers s ([2#8, 0#8] ++ leBytes 1 (SMap.get s.eids port 0) ++ [0#8, 0#8]) ∧
      exec (.getEndpointUuid port) s = answers s ([3#8, 0#8] ++ leBytes 16 (Config.endpointUuid port).toNat) ∧
      exec (.getMctpVersionSupport port) s = answers s ([4#8, 0#8, 1#8] ++ leBytes 4 Config.mctpVersion.toNat) ∧
      exec (.getMessageTypeSupport port) s = answers s [5#8, 0#8, 1#8, 0x7E#8] ∧
      exec (.getVendorDefinedMsgSupport port) s =
        answers s ([6#8, 0#8, 0xFF#8, 0#8] ++ (leBytes 2 Config.vendorId.toNat).reverse ++ leBytes 2 Config.vdmVersion.toNat) ∧
      ∀ cmd : BitVec 8, cmd = 0#8 ∨ 7 ≤ cmd.toNat → exec (.mctpUnsupportedCmd port cmd) s = answers s [cmd, 5#8]) ∧
    (∀ addr, s.main ≠ .off → addr < 128 →
      (SMap.find? s.i3c 0 = none → exec (.setdasa 0x2E addr) s = .next (noteState s { s with i3c := SMap.put s.i3c 0 addr })) ∧
      (SMap.find? s.i3c 1 = none → exec (.setdasa 0x2F addr) s = .next (noteState s { s with i3c := SMap.put s.i3c 1 addr })) ∧
      (∀ static, static ≠ 0x2E → static ≠ 0x2F → exec (.setdasa static addr) s = .next s) ∧
      ∀ port, port < 2 → SMap.find? s.i3c port = none → exec (.entdaa port addr) s =
        .next (noteState s { s with i3c := SMap.put s.i3c port addr, out := .mctp port (leBytes 6 (provisionalId s)) :: s.out }))
end

