-- ==== Sys2Proof/Laws/State.lean ====
section
/-! SUPPORT. What each named update of one field leaves every field of State, true by definition. -/

namespace Sys2Proof.Machine

variable (s : State)

/-! ## setEnt -/

@[simp] theorem setEnt_pending (i u v : Nat) : (setEnt s i u v).pending = s.pending := rfl
@[simp] theorem setEnt_out (i u v : Nat) : (setEnt s i u v).out = s.out := rfl
@[simp] theorem setEnt_free (i u v : Nat) : (setEnt s i u v).free = s.free := rfl
@[simp] theorem setEnt_time (i u v : Nat) : (setEnt s i u v).time = s.time := rfl
@[simp] theorem setEnt_main (i u v : Nat) : (setEnt s i u v).main = s.main := rfl
@[simp] theorem setEnt_power (i u v : Nat) : (setEnt s i u v).power = s.power := rfl
@[simp] theorem setEnt_clkDeep (i u v : Nat) : (setEnt s i u v).clkDeep = s.clkDeep := rfl
@[simp] theorem setEnt_ent (i u v : Nat) : (setEnt s i u v).ent = SMap.put s.ent (entKey i u) v := rfl
@[simp] theorem setEnt_cons (i u v : Nat) : (setEnt s i u v).cons = s.cons := rfl
@[simp] theorem setEnt_devEvents (i u v : Nat) : (setEnt s i u v).devEvents = s.devEvents := rfl
@[simp] theorem setEnt_discardEpoch (i u v : Nat) : (setEnt s i u v).discardEpoch = s.discardEpoch := rfl
@[simp] theorem setEnt_discardCause (i u v : Nat) : (setEnt s i u v).discardCause = s.discardCause := rfl
@[simp] theorem setEnt_apertures (i u v : Nat) : (setEnt s i u v).apertures = s.apertures := rfl
@[simp] theorem setEnt_discard (i u v : Nat) : (setEnt s i u v).discard = s.discard := rfl
@[simp] theorem setEnt_lay (i u v : Nat) : (setEnt s i u v).lay = s.lay := rfl
@[simp] theorem setEnt_mem (i u v : Nat) : (setEnt s i u v).mem = s.mem := rfl
@[simp] theorem setEnt_indet (i u v : Nat) : (setEnt s i u v).indet = s.indet := rfl
@[simp] theorem setEnt_lines (i u v : Nat) : (setEnt s i u v).lines = s.lines := rfl
@[simp] theorem setEnt_fetches (i u v : Nat) : (setEnt s i u v).fetches = s.fetches := rfl
@[simp] theorem setEnt_recent (i u v : Nat) : (setEnt s i u v).recent = s.recent := rfl
@[simp] theorem setEnt_stalled (i u v : Nat) : (setEnt s i u v).stalled = s.stalled := rfl
@[simp] theorem setEnt_touched (i u v : Nat) : (setEnt s i u v).touched = s.touched := rfl
@[simp] theorem setEnt_repeats (i u v : Nat) : (setEnt s i u v).repeats = s.repeats := rfl
@[simp] theorem setEnt_vscrub (i u v : Nat) : (setEnt s i u v).vscrub = s.vscrub := rfl
@[simp] theorem setEnt_hscrub (i u v : Nat) : (setEnt s i u v).hscrub = s.hscrub := rfl
@[simp] theorem setEnt_ctx (i u v : Nat) : (setEnt s i u v).ctx = s.ctx := rfl
@[simp] theorem setEnt_chans (i u v : Nat) : (setEnt s i u v).chans = s.chans := rfl
@[simp] theorem setEnt_regU (i u v : Nat) : (setEnt s i u v).regU = s.regU := rfl
@[simp] theorem setEnt_regWait (i u v : Nat) : (setEnt s i u v).regWait = s.regWait := rfl
@[simp] theorem setEnt_paid (i u v : Nat) : (setEnt s i u v).paid = s.paid := rfl
@[simp] theorem setEnt_behind (i u v : Nat) : (setEnt s i u v).behind = s.behind := rfl
@[simp] theorem setEnt_regOld (i u v : Nat) : (setEnt s i u v).regOld = s.regOld := rfl
@[simp] theorem setEnt_scale (i u v : Nat) : (setEnt s i u v).scale = s.scale := rfl
@[simp] theorem setEnt_regStart (i u v : Nat) : (setEnt s i u v).regStart = s.regStart := rfl
@[simp] theorem setEnt_winStart (i u v : Nat) : (setEnt s i u v).winStart = s.winStart := rfl
@[simp] theorem setEnt_lcUsed (i u v : Nat) : (setEnt s i u v).lcUsed = s.lcUsed := rfl
@[simp] theorem setEnt_tiles (i u v : Nat) : (setEnt s i u v).tiles = s.tiles := rfl
@[simp] theorem setEnt_quiet (i u v : Nat) : (setEnt s i u v).quiet = s.quiet := rfl
@[simp] theorem setEnt_loans (i u v : Nat) : (setEnt s i u v).loans = s.loans := rfl
@[simp] theorem setEnt_reclaims (i u v : Nat) : (setEnt s i u v).reclaims = s.reclaims := rfl
@[simp] theorem setEnt_loanSeq (i u v : Nat) : (setEnt s i u v).loanSeq = s.loanSeq := rfl
@[simp] theorem setEnt_loanVals (i u v : Nat) : (setEnt s i u v).loanVals = s.loanVals := rfl
@[simp] theorem setEnt_loanAt (i u v : Nat) : (setEnt s i u v).loanAt = s.loanAt := rfl
@[simp] theorem setEnt_queues (i u v : Nat) : (setEnt s i u v).queues = s.queues := rfl
@[simp] theorem setEnt_comps (i u v : Nat) : (setEnt s i u v).comps = s.comps := rfl
@[simp] theorem setEnt_jobs (i u v : Nat) : (setEnt s i u v).jobs = s.jobs := rfl
@[simp] theorem setEnt_nextJob (i u v : Nat) : (setEnt s i u v).nextJob = s.nextJob := rfl
@[simp] theorem setEnt_robin (i u v : Nat) : (setEnt s i u v).robin = s.robin := rfl
@[simp] theorem setEnt_xfers (i u v : Nat) : (setEnt s i u v).xfers = s.xfers := rfl
@[simp] theorem setEnt_nextX (i u v : Nat) : (setEnt s i u v).nextX = s.nextX := rfl
@[simp] theorem setEnt_atc (i u v : Nat) : (setEnt s i u v).atc = s.atc := rfl
@[simp] theorem setEnt_prgs (i u v : Nat) : (setEnt s i u v).prgs = s.prgs := rfl
@[simp] theorem setEnt_nextPrg (i u v : Nat) : (setEnt s i u v).nextPrg = s.nextPrg := rfl
@[simp] theorem setEnt_reads (i u v : Nat) : (setEnt s i u v).reads = s.reads := rfl
@[simp] theorem setEnt_nextTag (i u v : Nat) : (setEnt s i u v).nextTag = s.nextTag := rfl
@[simp] theorem setEnt_msixTable (i u v : Nat) : (setEnt s i u v).msixTable = s.msixTable := rfl
@[simp] theorem setEnt_msixPba (i u v : Nat) : (setEnt s i u v).msixPba = s.msixPba := rfl
@[simp] theorem setEnt_link (i u v : Nat) : (setEnt s i u v).link = s.link := rfl
@[simp] theorem setEnt_ports (i u v : Nat) : (setEnt s i u v).ports = s.ports := rfl
@[simp] theorem setEnt_fab (i u v : Nat) : (setEnt s i u v).fab = s.fab := rfl
@[simp] theorem setEnt_events (i u v : Nat) : (setEnt s i u v).events = s.events := rfl
@[simp] theorem setEnt_summaries (i u v : Nat) : (setEnt s i u v).summaries = s.summaries := rfl
@[simp] theorem setEnt_ledgerQ (i u v : Nat) : (setEnt s i u v).ledgerQ = s.ledgerQ := rfl
@[simp] theorem setEnt_live (i u v : Nat) : (setEnt s i u v).live = s.live := rfl
@[simp] theorem setEnt_con (i u v : Nat) : (setEnt s i u v).con = s.con := rfl
@[simp] theorem setEnt_bringup (i u v : Nat) : (setEnt s i u v).bringup = s.bringup := rfl
@[simp] theorem setEnt_d2d (i u v : Nat) : (setEnt s i u v).d2d = s.d2d := rfl
@[simp] theorem setEnt_guestDesc (i u v : Nat) : (setEnt s i u v).guestDesc = s.guestDesc := rfl
@[simp] theorem setEnt_ledger (i u v : Nat) : (setEnt s i u v).ledger = s.ledger := rfl
@[simp] theorem setEnt_hkShown (i u v : Nat) : (setEnt s i u v).hkShown = s.hkShown := rfl
@[simp] theorem setEnt_stages (i u v : Nat) : (setEnt s i u v).stages = s.stages := rfl
@[simp] theorem setEnt_mbx (i u v : Nat) : (setEnt s i u v).mbx = s.mbx := rfl
@[simp] theorem setEnt_owed (i u v : Nat) : (setEnt s i u v).owed = s.owed := rfl
@[simp] theorem setEnt_eids (i u v : Nat) : (setEnt s i u v).eids = s.eids := rfl
@[simp] theorem setEnt_i3c (i u v : Nat) : (setEnt s i u v).i3c = s.i3c := rfl
@[simp] theorem setEnt_resetReq (i u v : Nat) : (setEnt s i u v).resetReq = s.resetReq := rfl
@[simp] theorem setEnt_resetBy (i u v : Nat) : (setEnt s i u v).resetBy = s.resetBy := rfl
@[simp] theorem setEnt_resetAt (i u v : Nat) : (setEnt s i u v).resetAt = s.resetAt := rfl
@[simp] theorem setEnt_offPath (i u v : Nat) : (setEnt s i u v).offPath = s.offPath := rfl
@[simp] theorem setEnt_transitAt (i u v : Nat) : (setEnt s i u v).transitAt = s.transitAt := rfl
@[simp] theorem setEnt_everReady (i u v : Nat) : (setEnt s i u v).everReady = s.everReady := rfl
@[simp] theorem setEnt_deepPending (i u v : Nat) : (setEnt s i u v).deepPending = s.deepPending := rfl
@[simp] theorem setEnt_woken (i u v : Nat) : (setEnt s i u v).woken = s.woken := rfl

/-! ## advance -/

@[simp] theorem advance_pending (n : Nat) : (advance s n).pending = s.pending := rfl
@[simp] theorem advance_out (n : Nat) : (advance s n).out = s.out := rfl
@[simp] theorem advance_free (n : Nat) : (advance s n).free = s.free := rfl
@[simp] theorem advance_time (n : Nat) : (advance s n).time = max s.time n := rfl
@[simp] theorem advance_main (n : Nat) : (advance s n).main = s.main := rfl
@[simp] theorem advance_power (n : Nat) : (advance s n).power = s.power := rfl
@[simp] theorem advance_clkDeep (n : Nat) : (advance s n).clkDeep = s.clkDeep := rfl
@[simp] theorem advance_ent (n : Nat) : (advance s n).ent = s.ent := rfl
@[simp] theorem advance_cons (n : Nat) : (advance s n).cons = s.cons := rfl
@[simp] theorem advance_devEvents (n : Nat) : (advance s n).devEvents = s.devEvents := rfl
@[simp] theorem advance_discardEpoch (n : Nat) : (advance s n).discardEpoch = s.discardEpoch := rfl
@[simp] theorem advance_discardCause (n : Nat) : (advance s n).discardCause = s.discardCause := rfl
@[simp] theorem advance_apertures (n : Nat) : (advance s n).apertures = s.apertures := rfl
@[simp] theorem advance_discard (n : Nat) : (advance s n).discard = s.discard := rfl
@[simp] theorem advance_lay (n : Nat) : (advance s n).lay = s.lay := rfl
@[simp] theorem advance_mem (n : Nat) : (advance s n).mem = s.mem := rfl
@[simp] theorem advance_indet (n : Nat) : (advance s n).indet = s.indet := rfl
@[simp] theorem advance_lines (n : Nat) : (advance s n).lines = s.lines := rfl
@[simp] theorem advance_fetches (n : Nat) : (advance s n).fetches = s.fetches := rfl
@[simp] theorem advance_recent (n : Nat) : (advance s n).recent = s.recent := rfl
@[simp] theorem advance_stalled (n : Nat) : (advance s n).stalled = s.stalled := rfl
@[simp] theorem advance_touched (n : Nat) : (advance s n).touched = s.touched := rfl
@[simp] theorem advance_repeats (n : Nat) : (advance s n).repeats = s.repeats := rfl
@[simp] theorem advance_vscrub (n : Nat) : (advance s n).vscrub = s.vscrub := rfl
@[simp] theorem advance_hscrub (n : Nat) : (advance s n).hscrub = s.hscrub := rfl
@[simp] theorem advance_ctx (n : Nat) : (advance s n).ctx = s.ctx := rfl
@[simp] theorem advance_chans (n : Nat) : (advance s n).chans = s.chans := rfl
@[simp] theorem advance_regU (n : Nat) : (advance s n).regU = s.regU := rfl
@[simp] theorem advance_regWait (n : Nat) : (advance s n).regWait = s.regWait := rfl
@[simp] theorem advance_paid (n : Nat) : (advance s n).paid = s.paid := rfl
@[simp] theorem advance_behind (n : Nat) : (advance s n).behind = s.behind := rfl
@[simp] theorem advance_regOld (n : Nat) : (advance s n).regOld = s.regOld := rfl
@[simp] theorem advance_scale (n : Nat) : (advance s n).scale = s.scale := rfl
@[simp] theorem advance_regStart (n : Nat) : (advance s n).regStart = s.regStart := rfl
@[simp] theorem advance_winStart (n : Nat) : (advance s n).winStart = s.winStart := rfl
@[simp] theorem advance_lcUsed (n : Nat) : (advance s n).lcUsed = s.lcUsed := rfl
@[simp] theorem advance_tiles (n : Nat) : (advance s n).tiles = s.tiles := rfl
@[simp] theorem advance_quiet (n : Nat) : (advance s n).quiet = s.quiet := rfl
@[simp] theorem advance_loans (n : Nat) : (advance s n).loans = s.loans := rfl
@[simp] theorem advance_reclaims (n : Nat) : (advance s n).reclaims = s.reclaims := rfl
@[simp] theorem advance_loanSeq (n : Nat) : (advance s n).loanSeq = s.loanSeq := rfl
@[simp] theorem advance_loanVals (n : Nat) : (advance s n).loanVals = s.loanVals := rfl
@[simp] theorem advance_loanAt (n : Nat) : (advance s n).loanAt = s.loanAt := rfl
@[simp] theorem advance_queues (n : Nat) : (advance s n).queues = s.queues := rfl
@[simp] theorem advance_comps (n : Nat) : (advance s n).comps = s.comps := rfl
@[simp] theorem advance_jobs (n : Nat) : (advance s n).jobs = s.jobs := rfl
@[simp] theorem advance_nextJob (n : Nat) : (advance s n).nextJob = s.nextJob := rfl
@[simp] theorem advance_robin (n : Nat) : (advance s n).robin = s.robin := rfl
@[simp] theorem advance_xfers (n : Nat) : (advance s n).xfers = s.xfers := rfl
@[simp] theorem advance_nextX (n : Nat) : (advance s n).nextX = s.nextX := rfl
@[simp] theorem advance_atc (n : Nat) : (advance s n).atc = s.atc := rfl
@[simp] theorem advance_prgs (n : Nat) : (advance s n).prgs = s.prgs := rfl
@[simp] theorem advance_nextPrg (n : Nat) : (advance s n).nextPrg = s.nextPrg := rfl
@[simp] theorem advance_reads (n : Nat) : (advance s n).reads = s.reads := rfl
@[simp] theorem advance_nextTag (n : Nat) : (advance s n).nextTag = s.nextTag := rfl
@[simp] theorem advance_msixTable (n : Nat) : (advance s n).msixTable = s.msixTable := rfl
@[simp] theorem advance_msixPba (n : Nat) : (advance s n).msixPba = s.msixPba := rfl
@[simp] theorem advance_link (n : Nat) : (advance s n).link = s.link := rfl
@[simp] theorem advance_ports (n : Nat) : (advance s n).ports = s.ports := rfl
@[simp] theorem advance_fab (n : Nat) : (advance s n).fab = s.fab := rfl
@[simp] theorem advance_events (n : Nat) : (advance s n).events = s.events := rfl
@[simp] theorem advance_summaries (n : Nat) : (advance s n).summaries = s.summaries := rfl
@[simp] theorem advance_ledgerQ (n : Nat) : (advance s n).ledgerQ = s.ledgerQ := rfl
@[simp] theorem advance_live (n : Nat) : (advance s n).live = s.live := rfl
@[simp] theorem advance_con (n : Nat) : (advance s n).con = s.con := rfl
@[simp] theorem advance_bringup (n : Nat) : (advance s n).bringup = s.bringup := rfl
@[simp] theorem advance_d2d (n : Nat) : (advance s n).d2d = s.d2d := rfl
@[simp] theorem advance_guestDesc (n : Nat) : (advance s n).guestDesc = s.guestDesc := rfl
@[simp] theorem advance_ledger (n : Nat) : (advance s n).ledger = s.ledger := rfl
@[simp] theorem advance_hkShown (n : Nat) : (advance s n).hkShown = s.hkShown := rfl
@[simp] theorem advance_stages (n : Nat) : (advance s n).stages = s.stages := rfl
@[simp] theorem advance_mbx (n : Nat) : (advance s n).mbx = s.mbx := rfl
@[simp] theorem advance_owed (n : Nat) : (advance s n).owed = s.owed := rfl
@[simp] theorem advance_eids (n : Nat) : (advance s n).eids = s.eids := rfl
@[simp] theorem advance_i3c (n : Nat) : (advance s n).i3c = s.i3c := rfl
@[simp] theorem advance_resetReq (n : Nat) : (advance s n).resetReq = s.resetReq := rfl
@[simp] theorem advance_resetBy (n : Nat) : (advance s n).resetBy = s.resetBy := rfl
@[simp] theorem advance_resetAt (n : Nat) : (advance s n).resetAt = s.resetAt := rfl
@[simp] theorem advance_offPath (n : Nat) : (advance s n).offPath = s.offPath := rfl
@[simp] theorem advance_transitAt (n : Nat) : (advance s n).transitAt = s.transitAt := rfl
@[simp] theorem advance_everReady (n : Nat) : (advance s n).everReady = s.everReady := rfl
@[simp] theorem advance_deepPending (n : Nat) : (advance s n).deepPending = s.deepPending := rfl
@[simp] theorem advance_woken (n : Nat) : (advance s n).woken = s.woken := rfl

/-! ## setQueue -/

@[simp] theorem setQueue_pending (q : Nat) (v : Queue) : (setQueue s q v).pending = s.pending := rfl
@[simp] theorem setQueue_out (q : Nat) (v : Queue) : (setQueue s q v).out = s.out := rfl
@[simp] theorem setQueue_free (q : Nat) (v : Queue) : (setQueue s q v).free = s.free := rfl
@[simp] theorem setQueue_time (q : Nat) (v : Queue) : (setQueue s q v).time = s.time := rfl
@[simp] theorem setQueue_main (q : Nat) (v : Queue) : (setQueue s q v).main = s.main := rfl
@[simp] theorem setQueue_power (q : Nat) (v : Queue) : (setQueue s q v).power = s.power := rfl
@[simp] theorem setQueue_clkDeep (q : Nat) (v : Queue) : (setQueue s q v).clkDeep = s.clkDeep := rfl
@[simp] theorem setQueue_ent (q : Nat) (v : Queue) : (setQueue s q v).ent = s.ent := rfl
@[simp] theorem setQueue_cons (q : Nat) (v : Queue) : (setQueue s q v).cons = s.cons := rfl
@[simp] theorem setQueue_devEvents (q : Nat) (v : Queue) : (setQueue s q v).devEvents = s.devEvents := rfl
@[simp] theorem setQueue_discardEpoch (q : Nat) (v : Queue) : (setQueue s q v).discardEpoch = s.discardEpoch := rfl
@[simp] theorem setQueue_discardCause (q : Nat) (v : Queue) : (setQueue s q v).discardCause = s.discardCause := rfl
@[simp] theorem setQueue_apertures (q : Nat) (v : Queue) : (setQueue s q v).apertures = s.apertures := rfl
@[simp] theorem setQueue_discard (q : Nat) (v : Queue) : (setQueue s q v).discard = s.discard := rfl
@[simp] theorem setQueue_lay (q : Nat) (v : Queue) : (setQueue s q v).lay = s.lay := rfl
@[simp] theorem setQueue_mem (q : Nat) (v : Queue) : (setQueue s q v).mem = s.mem := rfl
@[simp] theorem setQueue_indet (q : Nat) (v : Queue) : (setQueue s q v).indet = s.indet := rfl
@[simp] theorem setQueue_lines (q : Nat) (v : Queue) : (setQueue s q v).lines = s.lines := rfl
@[simp] theorem setQueue_fetches (q : Nat) (v : Queue) : (setQueue s q v).fetches = s.fetches := rfl
@[simp] theorem setQueue_recent (q : Nat) (v : Queue) : (setQueue s q v).recent = s.recent := rfl
@[simp] theorem setQueue_stalled (q : Nat) (v : Queue) : (setQueue s q v).stalled = s.stalled := rfl
@[simp] theorem setQueue_touched (q : Nat) (v : Queue) : (setQueue s q v).touched = s.touched := rfl
@[simp] theorem setQueue_repeats (q : Nat) (v : Queue) : (setQueue s q v).repeats = s.repeats := rfl
@[simp] theorem setQueue_vscrub (q : Nat) (v : Queue) : (setQueue s q v).vscrub = s.vscrub := rfl
@[simp] theorem setQueue_hscrub (q : Nat) (v : Queue) : (setQueue s q v).hscrub = s.hscrub := rfl
@[simp] theorem setQueue_ctx (q : Nat) (v : Queue) : (setQueue s q v).ctx = s.ctx := rfl
@[simp] theorem setQueue_chans (q : Nat) (v : Queue) : (setQueue s q v).chans = s.chans := rfl
@[simp] theorem setQueue_regU (q : Nat) (v : Queue) : (setQueue s q v).regU = s.regU := rfl
@[simp] theorem setQueue_regWait (q : Nat) (v : Queue) : (setQueue s q v).regWait = s.regWait := rfl
@[simp] theorem setQueue_paid (q : Nat) (v : Queue) : (setQueue s q v).paid = s.paid := rfl
@[simp] theorem setQueue_behind (q : Nat) (v : Queue) : (setQueue s q v).behind = s.behind := rfl
@[simp] theorem setQueue_regOld (q : Nat) (v : Queue) : (setQueue s q v).regOld = s.regOld := rfl
@[simp] theorem setQueue_scale (q : Nat) (v : Queue) : (setQueue s q v).scale = s.scale := rfl
@[simp] theorem setQueue_regStart (q : Nat) (v : Queue) : (setQueue s q v).regStart = s.regStart := rfl
@[simp] theorem setQueue_winStart (q : Nat) (v : Queue) : (setQueue s q v).winStart = s.winStart := rfl
@[simp] theorem setQueue_lcUsed (q : Nat) (v : Queue) : (setQueue s q v).lcUsed = s.lcUsed := rfl
@[simp] theorem setQueue_tiles (q : Nat) (v : Queue) : (setQueue s q v).tiles = s.tiles := rfl
@[simp] theorem setQueue_quiet (q : Nat) (v : Queue) : (setQueue s q v).quiet = s.quiet := rfl
@[simp] theorem setQueue_loans (q : Nat) (v : Queue) : (setQueue s q v).loans = s.loans := rfl
@[simp] theorem setQueue_reclaims (q : Nat) (v : Queue) : (setQueue s q v).reclaims = s.reclaims := rfl
@[simp] theorem setQueue_loanSeq (q : Nat) (v : Queue) : (setQueue s q v).loanSeq = s.loanSeq := rfl
@[simp] theorem setQueue_loanVals (q : Nat) (v : Queue) : (setQueue s q v).loanVals = s.loanVals := rfl
@[simp] theorem setQueue_loanAt (q : Nat) (v : Queue) : (setQueue s q v).loanAt = s.loanAt := rfl
@[simp] theorem setQueue_queues (q : Nat) (v : Queue) : (setQueue s q v).queues = SMap.set s.queues q v Queue.reset := rfl
@[simp] theorem setQueue_comps (q : Nat) (v : Queue) : (setQueue s q v).comps = s.comps := rfl
@[simp] theorem setQueue_jobs (q : Nat) (v : Queue) : (setQueue s q v).jobs = s.jobs := rfl
@[simp] theorem setQueue_nextJob (q : Nat) (v : Queue) : (setQueue s q v).nextJob = s.nextJob := rfl
@[simp] theorem setQueue_robin (q : Nat) (v : Queue) : (setQueue s q v).robin = s.robin := rfl
@[simp] theorem setQueue_xfers (q : Nat) (v : Queue) : (setQueue s q v).xfers = s.xfers := rfl
@[simp] theorem setQueue_nextX (q : Nat) (v : Queue) : (setQueue s q v).nextX = s.nextX := rfl
@[simp] theorem setQueue_atc (q : Nat) (v : Queue) : (setQueue s q v).atc = s.atc := rfl
@[simp] theorem setQueue_prgs (q : Nat) (v : Queue) : (setQueue s q v).prgs = s.prgs := rfl
@[simp] theorem setQueue_nextPrg (q : Nat) (v : Queue) : (setQueue s q v).nextPrg = s.nextPrg := rfl
@[simp] theorem setQueue_reads (q : Nat) (v : Queue) : (setQueue s q v).reads = s.reads := rfl
@[simp] theorem setQueue_nextTag (q : Nat) (v : Queue) : (setQueue s q v).nextTag = s.nextTag := rfl
@[simp] theorem setQueue_msixTable (q : Nat) (v : Queue) : (setQueue s q v).msixTable = s.msixTable := rfl
@[simp] theorem setQueue_msixPba (q : Nat) (v : Queue) : (setQueue s q v).msixPba = s.msixPba := rfl
@[simp] theorem setQueue_link (q : Nat) (v : Queue) : (setQueue s q v).link = s.link := rfl
@[simp] theorem setQueue_ports (q : Nat) (v : Queue) : (setQueue s q v).ports = s.ports := rfl
@[simp] theorem setQueue_fab (q : Nat) (v : Queue) : (setQueue s q v).fab = s.fab := rfl
@[simp] theorem setQueue_events (q : Nat) (v : Queue) : (setQueue s q v).events = s.events := rfl
@[simp] theorem setQueue_summaries (q : Nat) (v : Queue) : (setQueue s q v).summaries = s.summaries := rfl
@[simp] theorem setQueue_ledgerQ (q : Nat) (v : Queue) : (setQueue s q v).ledgerQ = s.ledgerQ := rfl
@[simp] theorem setQueue_live (q : Nat) (v : Queue) : (setQueue s q v).live = s.live := rfl
@[simp] theorem setQueue_con (q : Nat) (v : Queue) : (setQueue s q v).con = s.con := rfl
@[simp] theorem setQueue_bringup (q : Nat) (v : Queue) : (setQueue s q v).bringup = s.bringup := rfl
@[simp] theorem setQueue_d2d (q : Nat) (v : Queue) : (setQueue s q v).d2d = s.d2d := rfl
@[simp] theorem setQueue_guestDesc (q : Nat) (v : Queue) : (setQueue s q v).guestDesc = s.guestDesc := rfl
@[simp] theorem setQueue_ledger (q : Nat) (v : Queue) : (setQueue s q v).ledger = s.ledger := rfl
@[simp] theorem setQueue_hkShown (q : Nat) (v : Queue) : (setQueue s q v).hkShown = s.hkShown := rfl
@[simp] theorem setQueue_stages (q : Nat) (v : Queue) : (setQueue s q v).stages = s.stages := rfl
@[simp] theorem setQueue_mbx (q : Nat) (v : Queue) : (setQueue s q v).mbx = s.mbx := rfl
@[simp] theorem setQueue_owed (q : Nat) (v : Queue) : (setQueue s q v).owed = s.owed := rfl
@[simp] theorem setQueue_eids (q : Nat) (v : Queue) : (setQueue s q v).eids = s.eids := rfl
@[simp] theorem setQueue_i3c (q : Nat) (v : Queue) : (setQueue s q v).i3c = s.i3c := rfl
@[simp] theorem setQueue_resetReq (q : Nat) (v : Queue) : (setQueue s q v).resetReq = s.resetReq := rfl
@[simp] theorem setQueue_resetBy (q : Nat) (v : Queue) : (setQueue s q v).resetBy = s.resetBy := rfl
@[simp] theorem setQueue_resetAt (q : Nat) (v : Queue) : (setQueue s q v).resetAt = s.resetAt := rfl
@[simp] theorem setQueue_offPath (q : Nat) (v : Queue) : (setQueue s q v).offPath = s.offPath := rfl
@[simp] theorem setQueue_transitAt (q : Nat) (v : Queue) : (setQueue s q v).transitAt = s.transitAt := rfl
@[simp] theorem setQueue_everReady (q : Nat) (v : Queue) : (setQueue s q v).everReady = s.everReady := rfl
@[simp] theorem setQueue_deepPending (q : Nat) (v : Queue) : (setQueue s q v).deepPending = s.deepPending := rfl
@[simp] theorem setQueue_woken (q : Nat) (v : Queue) : (setQueue s q v).woken = s.woken := rfl

/-! ## setTile -/

@[simp] theorem setTile_pending (t : Nat) (v : Tile) : (setTile s t v).pending = s.pending := rfl
@[simp] theorem setTile_out (t : Nat) (v : Tile) : (setTile s t v).out = s.out := rfl
@[simp] theorem setTile_free (t : Nat) (v : Tile) : (setTile s t v).free = s.free := rfl
@[simp] theorem setTile_time (t : Nat) (v : Tile) : (setTile s t v).time = s.time := rfl
@[simp] theorem setTile_main (t : Nat) (v : Tile) : (setTile s t v).main = s.main := rfl
@[simp] theorem setTile_power (t : Nat) (v : Tile) : (setTile s t v).power = s.power := rfl
@[simp] theorem setTile_clkDeep (t : Nat) (v : Tile) : (setTile s t v).clkDeep = s.clkDeep := rfl
@[simp] theorem setTile_ent (t : Nat) (v : Tile) : (setTile s t v).ent = s.ent := rfl
@[simp] theorem setTile_cons (t : Nat) (v : Tile) : (setTile s t v).cons = s.cons := rfl
@[simp] theorem setTile_devEvents (t : Nat) (v : Tile) : (setTile s t v).devEvents = s.devEvents := rfl
@[simp] theorem setTile_discardEpoch (t : Nat) (v : Tile) : (setTile s t v).discardEpoch = s.discardEpoch := rfl
@[simp] theorem setTile_discardCause (t : Nat) (v : Tile) : (setTile s t v).discardCause = s.discardCause := rfl
@[simp] theorem setTile_apertures (t : Nat) (v : Tile) : (setTile s t v).apertures = s.apertures := rfl
@[simp] theorem setTile_discard (t : Nat) (v : Tile) : (setTile s t v).discard = s.discard := rfl
@[simp] theorem setTile_lay (t : Nat) (v : Tile) : (setTile s t v).lay = s.lay := rfl
@[simp] theorem setTile_mem (t : Nat) (v : Tile) : (setTile s t v).mem = s.mem := rfl
@[simp] theorem setTile_indet (t : Nat) (v : Tile) : (setTile s t v).indet = s.indet := rfl
@[simp] theorem setTile_lines (t : Nat) (v : Tile) : (setTile s t v).lines = s.lines := rfl
@[simp] theorem setTile_fetches (t : Nat) (v : Tile) : (setTile s t v).fetches = s.fetches := rfl
@[simp] theorem setTile_recent (t : Nat) (v : Tile) : (setTile s t v).recent = s.recent := rfl
@[simp] theorem setTile_stalled (t : Nat) (v : Tile) : (setTile s t v).stalled = s.stalled := rfl
@[simp] theorem setTile_touched (t : Nat) (v : Tile) : (setTile s t v).touched = s.touched := rfl
@[simp] theorem setTile_repeats (t : Nat) (v : Tile) : (setTile s t v).repeats = s.repeats := rfl
@[simp] theorem setTile_vscrub (t : Nat) (v : Tile) : (setTile s t v).vscrub = s.vscrub := rfl
@[simp] theorem setTile_hscrub (t : Nat) (v : Tile) : (setTile s t v).hscrub = s.hscrub := rfl
@[simp] theorem setTile_ctx (t : Nat) (v : Tile) : (setTile s t v).ctx = s.ctx := rfl
@[simp] theorem setTile_chans (t : Nat) (v : Tile) : (setTile s t v).chans = s.chans := rfl
@[simp] theorem setTile_regU (t : Nat) (v : Tile) : (setTile s t v).regU = s.regU := rfl
@[simp] theorem setTile_regWait (t : Nat) (v : Tile) : (setTile s t v).regWait = s.regWait := rfl
@[simp] theorem setTile_paid (t : Nat) (v : Tile) : (setTile s t v).paid = s.paid := rfl
@[simp] theorem setTile_behind (t : Nat) (v : Tile) : (setTile s t v).behind = s.behind := rfl
@[simp] theorem setTile_regOld (t : Nat) (v : Tile) : (setTile s t v).regOld = s.regOld := rfl
@[simp] theorem setTile_scale (t : Nat) (v : Tile) : (setTile s t v).scale = s.scale := rfl
@[simp] theorem setTile_regStart (t : Nat) (v : Tile) : (setTile s t v).regStart = s.regStart := rfl
@[simp] theorem setTile_winStart (t : Nat) (v : Tile) : (setTile s t v).winStart = s.winStart := rfl
@[simp] theorem setTile_lcUsed (t : Nat) (v : Tile) : (setTile s t v).lcUsed = s.lcUsed := rfl
@[simp] theorem setTile_tiles (t : Nat) (v : Tile) : (setTile s t v).tiles = SMap.set s.tiles t v Tile.reset := rfl
@[simp] theorem setTile_quiet (t : Nat) (v : Tile) : (setTile s t v).quiet = s.quiet := rfl
@[simp] theorem setTile_loans (t : Nat) (v : Tile) : (setTile s t v).loans = s.loans := rfl
@[simp] theorem setTile_reclaims (t : Nat) (v : Tile) : (setTile s t v).reclaims = s.reclaims := rfl
@[simp] theorem setTile_loanSeq (t : Nat) (v : Tile) : (setTile s t v).loanSeq = s.loanSeq := rfl
@[simp] theorem setTile_loanVals (t : Nat) (v : Tile) : (setTile s t v).loanVals = s.loanVals := rfl
@[simp] theorem setTile_loanAt (t : Nat) (v : Tile) : (setTile s t v).loanAt = s.loanAt := rfl
@[simp] theorem setTile_queues (t : Nat) (v : Tile) : (setTile s t v).queues = s.queues := rfl
@[simp] theorem setTile_comps (t : Nat) (v : Tile) : (setTile s t v).comps = s.comps := rfl
@[simp] theorem setTile_jobs (t : Nat) (v : Tile) : (setTile s t v).jobs = s.jobs := rfl
@[simp] theorem setTile_nextJob (t : Nat) (v : Tile) : (setTile s t v).nextJob = s.nextJob := rfl
@[simp] theorem setTile_robin (t : Nat) (v : Tile) : (setTile s t v).robin = s.robin := rfl
@[simp] theorem setTile_xfers (t : Nat) (v : Tile) : (setTile s t v).xfers = s.xfers := rfl
@[simp] theorem setTile_nextX (t : Nat) (v : Tile) : (setTile s t v).nextX = s.nextX := rfl
@[simp] theorem setTile_atc (t : Nat) (v : Tile) : (setTile s t v).atc = s.atc := rfl
@[simp] theorem setTile_prgs (t : Nat) (v : Tile) : (setTile s t v).prgs = s.prgs := rfl
@[simp] theorem setTile_nextPrg (t : Nat) (v : Tile) : (setTile s t v).nextPrg = s.nextPrg := rfl
@[simp] theorem setTile_reads (t : Nat) (v : Tile) : (setTile s t v).reads = s.reads := rfl
@[simp] theorem setTile_nextTag (t : Nat) (v : Tile) : (setTile s t v).nextTag = s.nextTag := rfl
@[simp] theorem setTile_msixTable (t : Nat) (v : Tile) : (setTile s t v).msixTable = s.msixTable := rfl
@[simp] theorem setTile_msixPba (t : Nat) (v : Tile) : (setTile s t v).msixPba = s.msixPba := rfl
@[simp] theorem setTile_link (t : Nat) (v : Tile) : (setTile s t v).link = s.link := rfl
@[simp] theorem setTile_ports (t : Nat) (v : Tile) : (setTile s t v).ports = s.ports := rfl
@[simp] theorem setTile_fab (t : Nat) (v : Tile) : (setTile s t v).fab = s.fab := rfl
@[simp] theorem setTile_events (t : Nat) (v : Tile) : (setTile s t v).events = s.events := rfl
@[simp] theorem setTile_summaries (t : Nat) (v : Tile) : (setTile s t v).summaries = s.summaries := rfl
@[simp] theorem setTile_ledgerQ (t : Nat) (v : Tile) : (setTile s t v).ledgerQ = s.ledgerQ := rfl
@[simp] theorem setTile_live (t : Nat) (v : Tile) : (setTile s t v).live = s.live := rfl
@[simp] theorem setTile_con (t : Nat) (v : Tile) : (setTile s t v).con = s.con := rfl
@[simp] theorem setTile_bringup (t : Nat) (v : Tile) : (setTile s t v).bringup = s.bringup := rfl
@[simp] theorem setTile_d2d (t : Nat) (v : Tile) : (setTile s t v).d2d = s.d2d := rfl
@[simp] theorem setTile_guestDesc (t : Nat) (v : Tile) : (setTile s t v).guestDesc = s.guestDesc := rfl
@[simp] theorem setTile_ledger (t : Nat) (v : Tile) : (setTile s t v).ledger = s.ledger := rfl
@[simp] theorem setTile_hkShown (t : Nat) (v : Tile) : (setTile s t v).hkShown = s.hkShown := rfl
@[simp] theorem setTile_stages (t : Nat) (v : Tile) : (setTile s t v).stages = s.stages := rfl
@[simp] theorem setTile_mbx (t : Nat) (v : Tile) : (setTile s t v).mbx = s.mbx := rfl
@[simp] theorem setTile_owed (t : Nat) (v : Tile) : (setTile s t v).owed = s.owed := rfl
@[simp] theorem setTile_eids (t : Nat) (v : Tile) : (setTile s t v).eids = s.eids := rfl
@[simp] theorem setTile_i3c (t : Nat) (v : Tile) : (setTile s t v).i3c = s.i3c := rfl
@[simp] theorem setTile_resetReq (t : Nat) (v : Tile) : (setTile s t v).resetReq = s.resetReq := rfl
@[simp] theorem setTile_resetBy (t : Nat) (v : Tile) : (setTile s t v).resetBy = s.resetBy := rfl
@[simp] theorem setTile_resetAt (t : Nat) (v : Tile) : (setTile s t v).resetAt = s.resetAt := rfl
@[simp] theorem setTile_offPath (t : Nat) (v : Tile) : (setTile s t v).offPath = s.offPath := rfl
@[simp] theorem setTile_transitAt (t : Nat) (v : Tile) : (setTile s t v).transitAt = s.transitAt := rfl
@[simp] theorem setTile_everReady (t : Nat) (v : Tile) : (setTile s t v).everReady = s.everReady := rfl
@[simp] theorem setTile_deepPending (t : Nat) (v : Tile) : (setTile s t v).deepPending = s.deepPending := rfl
@[simp] theorem setTile_woken (t : Nat) (v : Tile) : (setTile s t v).woken = s.woken := rfl

/-! ## setChan -/

@[simp] theorem setChan_pending (c : Nat) (v : Chan) : (setChan s c v).pending = s.pending := rfl
@[simp] theorem setChan_out (c : Nat) (v : Chan) : (setChan s c v).out = s.out := rfl
@[simp] theorem setChan_free (c : Nat) (v : Chan) : (setChan s c v).free = s.free := rfl
@[simp] theorem setChan_time (c : Nat) (v : Chan) : (setChan s c v).time = s.time := rfl
@[simp] theorem setChan_main (c : Nat) (v : Chan) : (setChan s c v).main = s.main := rfl
@[simp] theorem setChan_power (c : Nat) (v : Chan) : (setChan s c v).power = s.power := rfl
@[simp] theorem setChan_clkDeep (c : Nat) (v : Chan) : (setChan s c v).clkDeep = s.clkDeep := rfl
@[simp] theorem setChan_ent (c : Nat) (v : Chan) : (setChan s c v).ent = s.ent := rfl
@[simp] theorem setChan_cons (c : Nat) (v : Chan) : (setChan s c v).cons = s.cons := rfl
@[simp] theorem setChan_devEvents (c : Nat) (v : Chan) : (setChan s c v).devEvents = s.devEvents := rfl
@[simp] theorem setChan_discardEpoch (c : Nat) (v : Chan) : (setChan s c v).discardEpoch = s.discardEpoch := rfl
@[simp] theorem setChan_discardCause (c : Nat) (v : Chan) : (setChan s c v).discardCause = s.discardCause := rfl
@[simp] theorem setChan_apertures (c : Nat) (v : Chan) : (setChan s c v).apertures = s.apertures := rfl
@[simp] theorem setChan_discard (c : Nat) (v : Chan) : (setChan s c v).discard = s.discard := rfl
@[simp] theorem setChan_lay (c : Nat) (v : Chan) : (setChan s c v).lay = s.lay := rfl
@[simp] theorem setChan_mem (c : Nat) (v : Chan) : (setChan s c v).mem = s.mem := rfl
@[simp] theorem setChan_indet (c : Nat) (v : Chan) : (setChan s c v).indet = s.indet := rfl
@[simp] theorem setChan_lines (c : Nat) (v : Chan) : (setChan s c v).lines = s.lines := rfl
@[simp] theorem setChan_fetches (c : Nat) (v : Chan) : (setChan s c v).fetches = s.fetches := rfl
@[simp] theorem setChan_recent (c : Nat) (v : Chan) : (setChan s c v).recent = s.recent := rfl
@[simp] theorem setChan_stalled (c : Nat) (v : Chan) : (setChan s c v).stalled = s.stalled := rfl
@[simp] theorem setChan_touched (c : Nat) (v : Chan) : (setChan s c v).touched = s.touched := rfl
@[simp] theorem setChan_repeats (c : Nat) (v : Chan) : (setChan s c v).repeats = s.repeats := rfl
@[simp] theorem setChan_vscrub (c : Nat) (v : Chan) : (setChan s c v).vscrub = s.vscrub := rfl
@[simp] theorem setChan_hscrub (c : Nat) (v : Chan) : (setChan s c v).hscrub = s.hscrub := rfl
@[simp] theorem setChan_ctx (c : Nat) (v : Chan) : (setChan s c v).ctx = s.ctx := rfl
@[simp] theorem setChan_chans (c : Nat) (v : Chan) : (setChan s c v).chans = SMap.set s.chans c v Chan.reset := rfl
@[simp] theorem setChan_regU (c : Nat) (v : Chan) : (setChan s c v).regU = s.regU := rfl
@[simp] theorem setChan_regWait (c : Nat) (v : Chan) : (setChan s c v).regWait = s.regWait := rfl
@[simp] theorem setChan_paid (c : Nat) (v : Chan) : (setChan s c v).paid = s.paid := rfl
@[simp] theorem setChan_behind (c : Nat) (v : Chan) : (setChan s c v).behind = s.behind := rfl
@[simp] theorem setChan_regOld (c : Nat) (v : Chan) : (setChan s c v).regOld = s.regOld := rfl
@[simp] theorem setChan_scale (c : Nat) (v : Chan) : (setChan s c v).scale = s.scale := rfl
@[simp] theorem setChan_regStart (c : Nat) (v : Chan) : (setChan s c v).regStart = s.regStart := rfl
@[simp] theorem setChan_winStart (c : Nat) (v : Chan) : (setChan s c v).winStart = s.winStart := rfl
@[simp] theorem setChan_lcUsed (c : Nat) (v : Chan) : (setChan s c v).lcUsed = s.lcUsed := rfl
@[simp] theorem setChan_tiles (c : Nat) (v : Chan) : (setChan s c v).tiles = s.tiles := rfl
@[simp] theorem setChan_quiet (c : Nat) (v : Chan) : (setChan s c v).quiet = s.quiet := rfl
@[simp] theorem setChan_loans (c : Nat) (v : Chan) : (setChan s c v).loans = s.loans := rfl
@[simp] theorem setChan_reclaims (c : Nat) (v : Chan) : (setChan s c v).reclaims = s.reclaims := rfl
@[simp] theorem setChan_loanSeq (c : Nat) (v : Chan) : (setChan s c v).loanSeq = s.loanSeq := rfl
@[simp] theorem setChan_loanVals (c : Nat) (v : Chan) : (setChan s c v).loanVals = s.loanVals := rfl
@[simp] theorem setChan_loanAt (c : Nat) (v : Chan) : (setChan s c v).loanAt = s.loanAt := rfl
@[simp] theorem setChan_queues (c : Nat) (v : Chan) : (setChan s c v).queues = s.queues := rfl
@[simp] theorem setChan_comps (c : Nat) (v : Chan) : (setChan s c v).comps = s.comps := rfl
@[simp] theorem setChan_jobs (c : Nat) (v : Chan) : (setChan s c v).jobs = s.jobs := rfl
@[simp] theorem setChan_nextJob (c : Nat) (v : Chan) : (setChan s c v).nextJob = s.nextJob := rfl
@[simp] theorem setChan_robin (c : Nat) (v : Chan) : (setChan s c v).robin = s.robin := rfl
@[simp] theorem setChan_xfers (c : Nat) (v : Chan) : (setChan s c v).xfers = s.xfers := rfl
@[simp] theorem setChan_nextX (c : Nat) (v : Chan) : (setChan s c v).nextX = s.nextX := rfl
@[simp] theorem setChan_atc (c : Nat) (v : Chan) : (setChan s c v).atc = s.atc := rfl
@[simp] theorem setChan_prgs (c : Nat) (v : Chan) : (setChan s c v).prgs = s.prgs := rfl
@[simp] theorem setChan_nextPrg (c : Nat) (v : Chan) : (setChan s c v).nextPrg = s.nextPrg := rfl
@[simp] theorem setChan_reads (c : Nat) (v : Chan) : (setChan s c v).reads = s.reads := rfl
@[simp] theorem setChan_nextTag (c : Nat) (v : Chan) : (setChan s c v).nextTag = s.nextTag := rfl
@[simp] theorem setChan_msixTable (c : Nat) (v : Chan) : (setChan s c v).msixTable = s.msixTable := rfl
@[simp] theorem setChan_msixPba (c : Nat) (v : Chan) : (setChan s c v).msixPba = s.msixPba := rfl
@[simp] theorem setChan_link (c : Nat) (v : Chan) : (setChan s c v).link = s.link := rfl
@[simp] theorem setChan_ports (c : Nat) (v : Chan) : (setChan s c v).ports = s.ports := rfl
@[simp] theorem setChan_fab (c : Nat) (v : Chan) : (setChan s c v).fab = s.fab := rfl
@[simp] theorem setChan_events (c : Nat) (v : Chan) : (setChan s c v).events = s.events := rfl
@[simp] theorem setChan_summaries (c : Nat) (v : Chan) : (setChan s c v).summaries = s.summaries := rfl
@[simp] theorem setChan_ledgerQ (c : Nat) (v : Chan) : (setChan s c v).ledgerQ = s.ledgerQ := rfl
@[simp] theorem setChan_live (c : Nat) (v : Chan) : (setChan s c v).live = s.live := rfl
@[simp] theorem setChan_con (c : Nat) (v : Chan) : (setChan s c v).con = s.con := rfl
@[simp] theorem setChan_bringup (c : Nat) (v : Chan) : (setChan s c v).bringup = s.bringup := rfl
@[simp] theorem setChan_d2d (c : Nat) (v : Chan) : (setChan s c v).d2d = s.d2d := rfl
@[simp] theorem setChan_guestDesc (c : Nat) (v : Chan) : (setChan s c v).guestDesc = s.guestDesc := rfl
@[simp] theorem setChan_ledger (c : Nat) (v : Chan) : (setChan s c v).ledger = s.ledger := rfl
@[simp] theorem setChan_hkShown (c : Nat) (v : Chan) : (setChan s c v).hkShown = s.hkShown := rfl
@[simp] theorem setChan_stages (c : Nat) (v : Chan) : (setChan s c v).stages = s.stages := rfl
@[simp] theorem setChan_mbx (c : Nat) (v : Chan) : (setChan s c v).mbx = s.mbx := rfl
@[simp] theorem setChan_owed (c : Nat) (v : Chan) : (setChan s c v).owed = s.owed := rfl
@[simp] theorem setChan_eids (c : Nat) (v : Chan) : (setChan s c v).eids = s.eids := rfl
@[simp] theorem setChan_i3c (c : Nat) (v : Chan) : (setChan s c v).i3c = s.i3c := rfl
@[simp] theorem setChan_resetReq (c : Nat) (v : Chan) : (setChan s c v).resetReq = s.resetReq := rfl
@[simp] theorem setChan_resetBy (c : Nat) (v : Chan) : (setChan s c v).resetBy = s.resetBy := rfl
@[simp] theorem setChan_resetAt (c : Nat) (v : Chan) : (setChan s c v).resetAt = s.resetAt := rfl
@[simp] theorem setChan_offPath (c : Nat) (v : Chan) : (setChan s c v).offPath = s.offPath := rfl
@[simp] theorem setChan_transitAt (c : Nat) (v : Chan) : (setChan s c v).transitAt = s.transitAt := rfl
@[simp] theorem setChan_everReady (c : Nat) (v : Chan) : (setChan s c v).everReady = s.everReady := rfl
@[simp] theorem setChan_deepPending (c : Nat) (v : Chan) : (setChan s c v).deepPending = s.deepPending := rfl
@[simp] theorem setChan_woken (c : Nat) (v : Chan) : (setChan s c v).woken = s.woken := rfl

/-! ## setPort -/

@[simp] theorem setPort_pending (p : Nat) (v : Port) : (setPort s p v).pending = s.pending := rfl
@[simp] theorem setPort_out (p : Nat) (v : Port) : (setPort s p v).out = s.out := rfl
@[simp] theorem setPort_free (p : Nat) (v : Port) : (setPort s p v).free = s.free := rfl
@[simp] theorem setPort_time (p : Nat) (v : Port) : (setPort s p v).time = s.time := rfl
@[simp] theorem setPort_main (p : Nat) (v : Port) : (setPort s p v).main = s.main := rfl
@[simp] theorem setPort_power (p : Nat) (v : Port) : (setPort s p v).power = s.power := rfl
@[simp] theorem setPort_clkDeep (p : Nat) (v : Port) : (setPort s p v).clkDeep = s.clkDeep := rfl
@[simp] theorem setPort_ent (p : Nat) (v : Port) : (setPort s p v).ent = s.ent := rfl
@[simp] theorem setPort_cons (p : Nat) (v : Port) : (setPort s p v).cons = s.cons := rfl
@[simp] theorem setPort_devEvents (p : Nat) (v : Port) : (setPort s p v).devEvents = s.devEvents := rfl
@[simp] theorem setPort_discardEpoch (p : Nat) (v : Port) : (setPort s p v).discardEpoch = s.discardEpoch := rfl
@[simp] theorem setPort_discardCause (p : Nat) (v : Port) : (setPort s p v).discardCause = s.discardCause := rfl
@[simp] theorem setPort_apertures (p : Nat) (v : Port) : (setPort s p v).apertures = s.apertures := rfl
@[simp] theorem setPort_discard (p : Nat) (v : Port) : (setPort s p v).discard = s.discard := rfl
@[simp] theorem setPort_lay (p : Nat) (v : Port) : (setPort s p v).lay = s.lay := rfl
@[simp] theorem setPort_mem (p : Nat) (v : Port) : (setPort s p v).mem = s.mem := rfl
@[simp] theorem setPort_indet (p : Nat) (v : Port) : (setPort s p v).indet = s.indet := rfl
@[simp] theorem setPort_lines (p : Nat) (v : Port) : (setPort s p v).lines = s.lines := rfl
@[simp] theorem setPort_fetches (p : Nat) (v : Port) : (setPort s p v).fetches = s.fetches := rfl
@[simp] theorem setPort_recent (p : Nat) (v : Port) : (setPort s p v).recent = s.recent := rfl
@[simp] theorem setPort_stalled (p : Nat) (v : Port) : (setPort s p v).stalled = s.stalled := rfl
@[simp] theorem setPort_touched (p : Nat) (v : Port) : (setPort s p v).touched = s.touched := rfl
@[simp] theorem setPort_repeats (p : Nat) (v : Port) : (setPort s p v).repeats = s.repeats := rfl
@[simp] theorem setPort_vscrub (p : Nat) (v : Port) : (setPort s p v).vscrub = s.vscrub := rfl
@[simp] theorem setPort_hscrub (p : Nat) (v : Port) : (setPort s p v).hscrub = s.hscrub := rfl
@[simp] theorem setPort_ctx (p : Nat) (v : Port) : (setPort s p v).ctx = s.ctx := rfl
@[simp] theorem setPort_chans (p : Nat) (v : Port) : (setPort s p v).chans = s.chans := rfl
@[simp] theorem setPort_regU (p : Nat) (v : Port) : (setPort s p v).regU = s.regU := rfl
@[simp] theorem setPort_regWait (p : Nat) (v : Port) : (setPort s p v).regWait = s.regWait := rfl
@[simp] theorem setPort_paid (p : Nat) (v : Port) : (setPort s p v).paid = s.paid := rfl
@[simp] theorem setPort_behind (p : Nat) (v : Port) : (setPort s p v).behind = s.behind := rfl
@[simp] theorem setPort_regOld (p : Nat) (v : Port) : (setPort s p v).regOld = s.regOld := rfl
@[simp] theorem setPort_scale (p : Nat) (v : Port) : (setPort s p v).scale = s.scale := rfl
@[simp] theorem setPort_regStart (p : Nat) (v : Port) : (setPort s p v).regStart = s.regStart := rfl
@[simp] theorem setPort_winStart (p : Nat) (v : Port) : (setPort s p v).winStart = s.winStart := rfl
@[simp] theorem setPort_lcUsed (p : Nat) (v : Port) : (setPort s p v).lcUsed = s.lcUsed := rfl
@[simp] theorem setPort_tiles (p : Nat) (v : Port) : (setPort s p v).tiles = s.tiles := rfl
@[simp] theorem setPort_quiet (p : Nat) (v : Port) : (setPort s p v).quiet = s.quiet := rfl
@[simp] theorem setPort_loans (p : Nat) (v : Port) : (setPort s p v).loans = s.loans := rfl
@[simp] theorem setPort_reclaims (p : Nat) (v : Port) : (setPort s p v).reclaims = s.reclaims := rfl
@[simp] theorem setPort_loanSeq (p : Nat) (v : Port) : (setPort s p v).loanSeq = s.loanSeq := rfl
@[simp] theorem setPort_loanVals (p : Nat) (v : Port) : (setPort s p v).loanVals = s.loanVals := rfl
@[simp] theorem setPort_loanAt (p : Nat) (v : Port) : (setPort s p v).loanAt = s.loanAt := rfl
@[simp] theorem setPort_queues (p : Nat) (v : Port) : (setPort s p v).queues = s.queues := rfl
@[simp] theorem setPort_comps (p : Nat) (v : Port) : (setPort s p v).comps = s.comps := rfl
@[simp] theorem setPort_jobs (p : Nat) (v : Port) : (setPort s p v).jobs = s.jobs := rfl
@[simp] theorem setPort_nextJob (p : Nat) (v : Port) : (setPort s p v).nextJob = s.nextJob := rfl
@[simp] theorem setPort_robin (p : Nat) (v : Port) : (setPort s p v).robin = s.robin := rfl
@[simp] theorem setPort_xfers (p : Nat) (v : Port) : (setPort s p v).xfers = s.xfers := rfl
@[simp] theorem setPort_nextX (p : Nat) (v : Port) : (setPort s p v).nextX = s.nextX := rfl
@[simp] theorem setPort_atc (p : Nat) (v : Port) : (setPort s p v).atc = s.atc := rfl
@[simp] theorem setPort_prgs (p : Nat) (v : Port) : (setPort s p v).prgs = s.prgs := rfl
@[simp] theorem setPort_nextPrg (p : Nat) (v : Port) : (setPort s p v).nextPrg = s.nextPrg := rfl
@[simp] theorem setPort_reads (p : Nat) (v : Port) : (setPort s p v).reads = s.reads := rfl
@[simp] theorem setPort_nextTag (p : Nat) (v : Port) : (setPort s p v).nextTag = s.nextTag := rfl
@[simp] theorem setPort_msixTable (p : Nat) (v : Port) : (setPort s p v).msixTable = s.msixTable := rfl
@[simp] theorem setPort_msixPba (p : Nat) (v : Port) : (setPort s p v).msixPba = s.msixPba := rfl
@[simp] theorem setPort_link (p : Nat) (v : Port) : (setPort s p v).link = s.link := rfl
@[simp] theorem setPort_ports (p : Nat) (v : Port) : (setPort s p v).ports = SMap.set s.ports p v Port.reset := rfl
@[simp] theorem setPort_fab (p : Nat) (v : Port) : (setPort s p v).fab = s.fab := rfl
@[simp] theorem setPort_events (p : Nat) (v : Port) : (setPort s p v).events = s.events := rfl
@[simp] theorem setPort_summaries (p : Nat) (v : Port) : (setPort s p v).summaries = s.summaries := rfl
@[simp] theorem setPort_ledgerQ (p : Nat) (v : Port) : (setPort s p v).ledgerQ = s.ledgerQ := rfl
@[simp] theorem setPort_live (p : Nat) (v : Port) : (setPort s p v).live = s.live := rfl
@[simp] theorem setPort_con (p : Nat) (v : Port) : (setPort s p v).con = s.con := rfl
@[simp] theorem setPort_bringup (p : Nat) (v : Port) : (setPort s p v).bringup = s.bringup := rfl
@[simp] theorem setPort_d2d (p : Nat) (v : Port) : (setPort s p v).d2d = s.d2d := rfl
@[simp] theorem setPort_guestDesc (p : Nat) (v : Port) : (setPort s p v).guestDesc = s.guestDesc := rfl
@[simp] theorem setPort_ledger (p : Nat) (v : Port) : (setPort s p v).ledger = s.ledger := rfl
@[simp] theorem setPort_hkShown (p : Nat) (v : Port) : (setPort s p v).hkShown = s.hkShown := rfl
@[simp] theorem setPort_stages (p : Nat) (v : Port) : (setPort s p v).stages = s.stages := rfl
@[simp] theorem setPort_mbx (p : Nat) (v : Port) : (setPort s p v).mbx = s.mbx := rfl
@[simp] theorem setPort_owed (p : Nat) (v : Port) : (setPort s p v).owed = s.owed := rfl
@[simp] theorem setPort_eids (p : Nat) (v : Port) : (setPort s p v).eids = s.eids := rfl
@[simp] theorem setPort_i3c (p : Nat) (v : Port) : (setPort s p v).i3c = s.i3c := rfl
@[simp] theorem setPort_resetReq (p : Nat) (v : Port) : (setPort s p v).resetReq = s.resetReq := rfl
@[simp] theorem setPort_resetBy (p : Nat) (v : Port) : (setPort s p v).resetBy = s.resetBy := rfl
@[simp] theorem setPort_resetAt (p : Nat) (v : Port) : (setPort s p v).resetAt = s.resetAt := rfl
@[simp] theorem setPort_offPath (p : Nat) (v : Port) : (setPort s p v).offPath = s.offPath := rfl
@[simp] theorem setPort_transitAt (p : Nat) (v : Port) : (setPort s p v).transitAt = s.transitAt := rfl
@[simp] theorem setPort_everReady (p : Nat) (v : Port) : (setPort s p v).everReady = s.everReady := rfl
@[simp] theorem setPort_deepPending (p : Nat) (v : Port) : (setPort s p v).deepPending = s.deepPending := rfl
@[simp] theorem setPort_woken (p : Nat) (v : Port) : (setPort s p v).woken = s.woken := rfl

/-! ## putCode -/

@[simp] theorem putCode_pending (k : Nat) (w : List Byte) : (putCode s k w).pending = s.pending := rfl
@[simp] theorem putCode_out (k : Nat) (w : List Byte) : (putCode s k w).out = s.out := rfl
@[simp] theorem putCode_free (k : Nat) (w : List Byte) : (putCode s k w).free = s.free := rfl
@[simp] theorem putCode_time (k : Nat) (w : List Byte) : (putCode s k w).time = s.time := rfl
@[simp] theorem putCode_main (k : Nat) (w : List Byte) : (putCode s k w).main = s.main := rfl
@[simp] theorem putCode_power (k : Nat) (w : List Byte) : (putCode s k w).power = s.power := rfl
@[simp] theorem putCode_clkDeep (k : Nat) (w : List Byte) : (putCode s k w).clkDeep = s.clkDeep := rfl
@[simp] theorem putCode_ent (k : Nat) (w : List Byte) : (putCode s k w).ent = s.ent := rfl
@[simp] theorem putCode_cons (k : Nat) (w : List Byte) : (putCode s k w).cons = s.cons := rfl
@[simp] theorem putCode_devEvents (k : Nat) (w : List Byte) : (putCode s k w).devEvents = s.devEvents := rfl
@[simp] theorem putCode_discardEpoch (k : Nat) (w : List Byte) : (putCode s k w).discardEpoch = s.discardEpoch := rfl
@[simp] theorem putCode_discardCause (k : Nat) (w : List Byte) : (putCode s k w).discardCause = s.discardCause := rfl
@[simp] theorem putCode_apertures (k : Nat) (w : List Byte) : (putCode s k w).apertures = s.apertures := rfl
@[simp] theorem putCode_discard (k : Nat) (w : List Byte) : (putCode s k w).discard = s.discard := rfl
@[simp] theorem putCode_lay (k : Nat) (w : List Byte) : (putCode s k w).lay = s.lay := rfl
@[simp] theorem putCode_mem (k : Nat) (w : List Byte) : (putCode s k w).mem = storeAt s.mem k w := rfl
@[simp] theorem putCode_indet (k : Nat) (w : List Byte) : (putCode s k w).indet = s.indet := rfl
@[simp] theorem putCode_lines (k : Nat) (w : List Byte) : (putCode s k w).lines = s.lines := rfl
@[simp] theorem putCode_fetches (k : Nat) (w : List Byte) : (putCode s k w).fetches = s.fetches := rfl
@[simp] theorem putCode_recent (k : Nat) (w : List Byte) : (putCode s k w).recent = s.recent := rfl
@[simp] theorem putCode_stalled (k : Nat) (w : List Byte) : (putCode s k w).stalled = s.stalled := rfl
@[simp] theorem putCode_touched (k : Nat) (w : List Byte) : (putCode s k w).touched = s.touched := rfl
@[simp] theorem putCode_repeats (k : Nat) (w : List Byte) : (putCode s k w).repeats = s.repeats := rfl
@[simp] theorem putCode_vscrub (k : Nat) (w : List Byte) : (putCode s k w).vscrub = s.vscrub := rfl
@[simp] theorem putCode_hscrub (k : Nat) (w : List Byte) : (putCode s k w).hscrub = s.hscrub := rfl
@[simp] theorem putCode_ctx (k : Nat) (w : List Byte) : (putCode s k w).ctx = s.ctx := rfl
@[simp] theorem putCode_chans (k : Nat) (w : List Byte) : (putCode s k w).chans = s.chans := rfl
@[simp] theorem putCode_regU (k : Nat) (w : List Byte) : (putCode s k w).regU = s.regU := rfl
@[simp] theorem putCode_regWait (k : Nat) (w : List Byte) : (putCode s k w).regWait = s.regWait := rfl
@[simp] theorem putCode_paid (k : Nat) (w : List Byte) : (putCode s k w).paid = s.paid := rfl
@[simp] theorem putCode_behind (k : Nat) (w : List Byte) : (putCode s k w).behind = s.behind := rfl
@[simp] theorem putCode_regOld (k : Nat) (w : List Byte) : (putCode s k w).regOld = s.regOld := rfl
@[simp] theorem putCode_scale (k : Nat) (w : List Byte) : (putCode s k w).scale = s.scale := rfl
@[simp] theorem putCode_regStart (k : Nat) (w : List Byte) : (putCode s k w).regStart = s.regStart := rfl
@[simp] theorem putCode_winStart (k : Nat) (w : List Byte) : (putCode s k w).winStart = s.winStart := rfl
@[simp] theorem putCode_lcUsed (k : Nat) (w : List Byte) : (putCode s k w).lcUsed = s.lcUsed := rfl
@[simp] theorem putCode_tiles (k : Nat) (w : List Byte) : (putCode s k w).tiles = s.tiles := rfl
@[simp] theorem putCode_quiet (k : Nat) (w : List Byte) : (putCode s k w).quiet = s.quiet := rfl
@[simp] theorem putCode_loans (k : Nat) (w : List Byte) : (putCode s k w).loans = s.loans := rfl
@[simp] theorem putCode_reclaims (k : Nat) (w : List Byte) : (putCode s k w).reclaims = s.reclaims := rfl
@[simp] theorem putCode_loanSeq (k : Nat) (w : List Byte) : (putCode s k w).loanSeq = s.loanSeq := rfl
@[simp] theorem putCode_loanVals (k : Nat) (w : List Byte) : (putCode s k w).loanVals = s.loanVals := rfl
@[simp] theorem putCode_loanAt (k : Nat) (w : List Byte) : (putCode s k w).loanAt = s.loanAt := rfl
@[simp] theorem putCode_queues (k : Nat) (w : List Byte) : (putCode s k w).queues = s.queues := rfl
@[simp] theorem putCode_comps (k : Nat) (w : List Byte) : (putCode s k w).comps = s.comps := rfl
@[simp] theorem putCode_jobs (k : Nat) (w : List Byte) : (putCode s k w).jobs = s.jobs := rfl
@[simp] theorem putCode_nextJob (k : Nat) (w : List Byte) : (putCode s k w).nextJob = s.nextJob := rfl
@[simp] theorem putCode_robin (k : Nat) (w : List Byte) : (putCode s k w).robin = s.robin := rfl
@[simp] theorem putCode_xfers (k : Nat) (w : List Byte) : (putCode s k w).xfers = s.xfers := rfl
@[simp] theorem putCode_nextX (k : Nat) (w : List Byte) : (putCode s k w).nextX = s.nextX := rfl
@[simp] theorem putCode_atc (k : Nat) (w : List Byte) : (putCode s k w).atc = s.atc := rfl
@[simp] theorem putCode_prgs (k : Nat) (w : List Byte) : (putCode s k w).prgs = s.prgs := rfl
@[simp] theorem putCode_nextPrg (k : Nat) (w : List Byte) : (putCode s k w).nextPrg = s.nextPrg := rfl
@[simp] theorem putCode_reads (k : Nat) (w : List Byte) : (putCode s k w).reads = s.reads := rfl
@[simp] theorem putCode_nextTag (k : Nat) (w : List Byte) : (putCode s k w).nextTag = s.nextTag := rfl
@[simp] theorem putCode_msixTable (k : Nat) (w : List Byte) : (putCode s k w).msixTable = s.msixTable := rfl
@[simp] theorem putCode_msixPba (k : Nat) (w : List Byte) : (putCode s k w).msixPba = s.msixPba := rfl
@[simp] theorem putCode_link (k : Nat) (w : List Byte) : (putCode s k w).link = s.link := rfl
@[simp] theorem putCode_ports (k : Nat) (w : List Byte) : (putCode s k w).ports = s.ports := rfl
@[simp] theorem putCode_fab (k : Nat) (w : List Byte) : (putCode s k w).fab = s.fab := rfl
@[simp] theorem putCode_events (k : Nat) (w : List Byte) : (putCode s k w).events = s.events := rfl
@[simp] theorem putCode_summaries (k : Nat) (w : List Byte) : (putCode s k w).summaries = s.summaries := rfl
@[simp] theorem putCode_ledgerQ (k : Nat) (w : List Byte) : (putCode s k w).ledgerQ = s.ledgerQ := rfl
@[simp] theorem putCode_live (k : Nat) (w : List Byte) : (putCode s k w).live = s.live := rfl
@[simp] theorem putCode_con (k : Nat) (w : List Byte) : (putCode s k w).con = s.con := rfl
@[simp] theorem putCode_bringup (k : Nat) (w : List Byte) : (putCode s k w).bringup = s.bringup := rfl
@[simp] theorem putCode_d2d (k : Nat) (w : List Byte) : (putCode s k w).d2d = s.d2d := rfl
@[simp] theorem putCode_guestDesc (k : Nat) (w : List Byte) : (putCode s k w).guestDesc = s.guestDesc := rfl
@[simp] theorem putCode_ledger (k : Nat) (w : List Byte) : (putCode s k w).ledger = s.ledger := rfl
@[simp] theorem putCode_hkShown (k : Nat) (w : List Byte) : (putCode s k w).hkShown = s.hkShown := rfl
@[simp] theorem putCode_stages (k : Nat) (w : List Byte) : (putCode s k w).stages = s.stages := rfl
@[simp] theorem putCode_mbx (k : Nat) (w : List Byte) : (putCode s k w).mbx = s.mbx := rfl
@[simp] theorem putCode_owed (k : Nat) (w : List Byte) : (putCode s k w).owed = s.owed := rfl
@[simp] theorem putCode_eids (k : Nat) (w : List Byte) : (putCode s k w).eids = s.eids := rfl
@[simp] theorem putCode_i3c (k : Nat) (w : List Byte) : (putCode s k w).i3c = s.i3c := rfl
@[simp] theorem putCode_resetReq (k : Nat) (w : List Byte) : (putCode s k w).resetReq = s.resetReq := rfl
@[simp] theorem putCode_resetBy (k : Nat) (w : List Byte) : (putCode s k w).resetBy = s.resetBy := rfl
@[simp] theorem putCode_resetAt (k : Nat) (w : List Byte) : (putCode s k w).resetAt = s.resetAt := rfl
@[simp] theorem putCode_offPath (k : Nat) (w : List Byte) : (putCode s k w).offPath = s.offPath := rfl
@[simp] theorem putCode_transitAt (k : Nat) (w : List Byte) : (putCode s k w).transitAt = s.transitAt := rfl
@[simp] theorem putCode_everReady (k : Nat) (w : List Byte) : (putCode s k w).everReady = s.everReady := rfl
@[simp] theorem putCode_deepPending (k : Nat) (w : List Byte) : (putCode s k w).deepPending = s.deepPending := rfl
@[simp] theorem putCode_woken (k : Nat) (w : List Byte) : (putCode s k w).woken = s.woken := rfl

/-! ## answerHome -/

@[simp] theorem answerHome_pending (c : HAcc) (p o : Bool) (d : List Byte) : (answerHome s c p o d).pending = s.pending := rfl
@[simp] theorem answerHome_out (c : HAcc) (p o : Bool) (d : List Byte) : (answerHome s c p o d).out = .home c.rq c.a p o d :: s.out := rfl
@[simp] theorem answerHome_free (c : HAcc) (p o : Bool) (d : List Byte) : (answerHome s c p o d).free = s.free := rfl
@[simp] theorem answerHome_time (c : HAcc) (p o : Bool) (d : List Byte) : (answerHome s c p o d).time = s.time := rfl
@[simp] theorem answerHome_main (c : HAcc) (p o : Bool) (d : List Byte) : (answerHome s c p o d).main = s.main := rfl
@[simp] theorem answerHome_power (c : HAcc) (p o : Bool) (d : List Byte) : (answerHome s c p o d).power = s.power := rfl
@[simp] theorem answerHome_clkDeep (c : HAcc) (p o : Bool) (d : List Byte) : (answerHome s c p o d).clkDeep = s.clkDeep := rfl
@[simp] theorem answerHome_ent (c : HAcc) (p o : Bool) (d : List Byte) : (answerHome s c p o d).ent = s.ent := rfl
@[simp] theorem answerHome_cons (c : HAcc) (p o : Bool) (d : List Byte) : (answerHome s c p o d).cons = s.cons := rfl
@[simp] theorem answerHome_devEvents (c : HAcc) (p o : Bool) (d : List Byte) : (answerHome s c p o d).devEvents = s.devEvents := rfl
@[simp] theorem answerHome_discardEpoch (c : HAcc) (p o : Bool) (d : List Byte) : (answerHome s c p o d).discardEpoch = s.discardEpoch := rfl
@[simp] theorem answerHome_discardCause (c : HAcc) (p o : Bool) (d : List Byte) : (answerHome s c p o d).discardCause = s.discardCause := rfl
@[simp] theorem answerHome_apertures (c : HAcc) (p o : Bool) (d : List Byte) : (answerHome s c p o d).apertures = s.apertures := rfl
@[simp] theorem answerHome_discard (c : HAcc) (p o : Bool) (d : List Byte) : (answerHome s c p o d).discard = s.discard := rfl
@[simp] theorem answerHome_lay (c : HAcc) (p o : Bool) (d : List Byte) : (answerHome s c p o d).lay = s.lay := rfl
@[simp] theorem answerHome_mem (c : HAcc) (p o : Bool) (d : List Byte) : (answerHome s c p o d).mem = s.mem := rfl
@[simp] theorem answerHome_indet (c : HAcc) (p o : Bool) (d : List Byte) : (answerHome s c p o d).indet = s.indet := rfl
@[simp] theorem answerHome_lines (c : HAcc) (p o : Bool) (d : List Byte) : (answerHome s c p o d).lines = s.lines := rfl
@[simp] theorem answerHome_fetches (c : HAcc) (p o : Bool) (d : List Byte) : (answerHome s c p o d).fetches = s.fetches := rfl
@[simp] theorem answerHome_recent (c : HAcc) (p o : Bool) (d : List Byte) : (answerHome s c p o d).recent = s.recent := rfl
@[simp] theorem answerHome_stalled (c : HAcc) (p o : Bool) (d : List Byte) : (answerHome s c p o d).stalled = s.stalled := rfl
@[simp] theorem answerHome_touched (c : HAcc) (p o : Bool) (d : List Byte) : (answerHome s c p o d).touched = s.touched := rfl
@[simp] theorem answerHome_repeats (c : HAcc) (p o : Bool) (d : List Byte) : (answerHome s c p o d).repeats = s.repeats := rfl
@[simp] theorem answerHome_vscrub (c : HAcc) (p o : Bool) (d : List Byte) : (answerHome s c p o d).vscrub = s.vscrub := rfl
@[simp] theorem answerHome_hscrub (c : HAcc) (p o : Bool) (d : List Byte) : (answerHome s c p o d).hscrub = s.hscrub := rfl
@[simp] theorem answerHome_ctx (c : HAcc) (p o : Bool) (d : List Byte) : (answerHome s c p o d).ctx = s.ctx := rfl
@[simp] theorem answerHome_chans (c : HAcc) (p o : Bool) (d : List Byte) : (answerHome s c p o d).chans = s.chans := rfl
@[simp] theorem answerHome_regU (c : HAcc) (p o : Bool) (d : List Byte) : (answerHome s c p o d).regU = s.regU := rfl
@[simp] theorem answerHome_regWait (c : HAcc) (p o : Bool) (d : List Byte) : (answerHome s c p o d).regWait = s.regWait := rfl
@[simp] theorem answerHome_paid (c : HAcc) (p o : Bool) (d : List Byte) : (answerHome s c p o d).paid = s.paid := rfl
@[simp] theorem answerHome_behind (c : HAcc) (p o : Bool) (d : List Byte) : (answerHome s c p o d).behind = s.behind := rfl
@[simp] theorem answerHome_regOld (c : HAcc) (p o : Bool) (d : List Byte) : (answerHome s c p o d).regOld = s.regOld := rfl
@[simp] theorem answerHome_scale (c : HAcc) (p o : Bool) (d : List Byte) : (answerHome s c p o d).scale = s.scale := rfl
@[simp] theorem answerHome_regStart (c : HAcc) (p o : Bool) (d : List Byte) : (answerHome s c p o d).regStart = s.regStart := rfl
@[simp] theorem answerHome_winStart (c : HAcc) (p o : Bool) (d : List Byte) : (answerHome s c p o d).winStart = s.winStart := rfl
@[simp] theorem answerHome_lcUsed (c : HAcc) (p o : Bool) (d : List Byte) : (answerHome s c p o d).lcUsed = s.lcUsed := rfl
@[simp] theorem answerHome_tiles (c : HAcc) (p o : Bool) (d : List Byte) : (answerHome s c p o d).tiles = s.tiles := rfl
@[simp] theorem answerHome_quiet (c : HAcc) (p o : Bool) (d : List Byte) : (answerHome s c p o d).quiet = s.quiet := rfl
@[simp] theorem answerHome_loans (c : HAcc) (p o : Bool) (d : List Byte) : (answerHome s c p o d).loans = s.loans := rfl
@[simp] theorem answerHome_reclaims (c : HAcc) (p o : Bool) (d : List Byte) : (answerHome s c p o d).reclaims = s.reclaims := rfl
@[simp] theorem answerHome_loanSeq (c : HAcc) (p o : Bool) (d : List Byte) : (answerHome s c p o d).loanSeq = s.loanSeq := rfl
@[simp] theorem answerHome_loanVals (c : HAcc) (p o : Bool) (d : List Byte) : (answerHome s c p o d).loanVals = s.loanVals := rfl
@[simp] theorem answerHome_loanAt (c : HAcc) (p o : Bool) (d : List Byte) : (answerHome s c p o d).loanAt = s.loanAt := rfl
@[simp] theorem answerHome_queues (c : HAcc) (p o : Bool) (d : List Byte) : (answerHome s c p o d).queues = s.queues := rfl
@[simp] theorem answerHome_comps (c : HAcc) (p o : Bool) (d : List Byte) : (answerHome s c p o d).comps = s.comps := rfl
@[simp] theorem answerHome_jobs (c : HAcc) (p o : Bool) (d : List Byte) : (answerHome s c p o d).jobs = s.jobs := rfl
@[simp] theorem answerHome_nextJob (c : HAcc) (p o : Bool) (d : List Byte) : (answerHome s c p o d).nextJob = s.nextJob := rfl
@[simp] theorem answerHome_robin (c : HAcc) (p o : Bool) (d : List Byte) : (answerHome s c p o d).robin = s.robin := rfl
@[simp] theorem answerHome_xfers (c : HAcc) (p o : Bool) (d : List Byte) : (answerHome s c p o d).xfers = s.xfers := rfl
@[simp] theorem answerHome_nextX (c : HAcc) (p o : Bool) (d : List Byte) : (answerHome s c p o d).nextX = s.nextX := rfl
@[simp] theorem answerHome_atc (c : HAcc) (p o : Bool) (d : List Byte) : (answerHome s c p o d).atc = s.atc := rfl
@[simp] theorem answerHome_prgs (c : HAcc) (p o : Bool) (d : List Byte) : (answerHome s c p o d).prgs = s.prgs := rfl
@[simp] theorem answerHome_nextPrg (c : HAcc) (p o : Bool) (d : List Byte) : (answerHome s c p o d).nextPrg = s.nextPrg := rfl
@[simp] theorem answerHome_reads (c : HAcc) (p o : Bool) (d : List Byte) : (answerHome s c p o d).reads = s.reads := rfl
@[simp] theorem answerHome_nextTag (c : HAcc) (p o : Bool) (d : List Byte) : (answerHome s c p o d).nextTag = s.nextTag := rfl
@[simp] theorem answerHome_msixTable (c : HAcc) (p o : Bool) (d : List Byte) : (answerHome s c p o d).msixTable = s.msixTable := rfl
@[simp] theorem answerHome_msixPba (c : HAcc) (p o : Bool) (d : List Byte) : (answerHome s c p o d).msixPba = s.msixPba := rfl
@[simp] theorem answerHome_link (c : HAcc) (p o : Bool) (d : List Byte) : (answerHome s c p o d).link = s.link := rfl
@[simp] theorem answerHome_ports (c : HAcc) (p o : Bool) (d : List Byte) : (answerHome s c p o d).ports = s.ports := rfl
@[simp] theorem answerHome_fab (c : HAcc) (p o : Bool) (d : List Byte) : (answerHome s c p o d).fab = s.fab := rfl
@[simp] theorem answerHome_events (c : HAcc) (p o : Bool) (d : List Byte) : (answerHome s c p o d).events = s.events := rfl
@[simp] theorem answerHome_summaries (c : HAcc) (p o : Bool) (d : List Byte) : (answerHome s c p o d).summaries = s.summaries := rfl
@[simp] theorem answerHome_ledgerQ (c : HAcc) (p o : Bool) (d : List Byte) : (answerHome s c p o d).ledgerQ = s.ledgerQ := rfl
@[simp] theorem answerHome_live (c : HAcc) (p o : Bool) (d : List Byte) : (answerHome s c p o d).live = s.live := rfl
@[simp] theorem answerHome_con (c : HAcc) (p o : Bool) (d : List Byte) : (answerHome s c p o d).con = s.con := rfl
@[simp] theorem answerHome_bringup (c : HAcc) (p o : Bool) (d : List Byte) : (answerHome s c p o d).bringup = s.bringup := rfl
@[simp] theorem answerHome_d2d (c : HAcc) (p o : Bool) (d : List Byte) : (answerHome s c p o d).d2d = s.d2d := rfl
@[simp] theorem answerHome_guestDesc (c : HAcc) (p o : Bool) (d : List Byte) : (answerHome s c p o d).guestDesc = s.guestDesc := rfl
@[simp] theorem answerHome_ledger (c : HAcc) (p o : Bool) (d : List Byte) : (answerHome s c p o d).ledger = s.ledger := rfl
@[simp] theorem answerHome_hkShown (c : HAcc) (p o : Bool) (d : List Byte) : (answerHome s c p o d).hkShown = s.hkShown := rfl
@[simp] theorem answerHome_stages (c : HAcc) (p o : Bool) (d : List Byte) : (answerHome s c p o d).stages = s.stages := rfl
@[simp] theorem answerHome_mbx (c : HAcc) (p o : Bool) (d : List Byte) : (answerHome s c p o d).mbx = s.mbx := rfl
@[simp] theorem answerHome_owed (c : HAcc) (p o : Bool) (d : List Byte) : (answerHome s c p o d).owed = s.owed := rfl
@[simp] theorem answerHome_eids (c : HAcc) (p o : Bool) (d : List Byte) : (answerHome s c p o d).eids = s.eids := rfl
@[simp] theorem answerHome_i3c (c : HAcc) (p o : Bool) (d : List Byte) : (answerHome s c p o d).i3c = s.i3c := rfl
@[simp] theorem answerHome_resetReq (c : HAcc) (p o : Bool) (d : List Byte) : (answerHome s c p o d).resetReq = s.resetReq := rfl
@[simp] theorem answerHome_resetBy (c : HAcc) (p o : Bool) (d : List Byte) : (answerHome s c p o d).resetBy = s.resetBy := rfl
@[simp] theorem answerHome_resetAt (c : HAcc) (p o : Bool) (d : List Byte) : (answerHome s c p o d).resetAt = s.resetAt := rfl
@[simp] theorem answerHome_offPath (c : HAcc) (p o : Bool) (d : List Byte) : (answerHome s c p o d).offPath = s.offPath := rfl
@[simp] theorem answerHome_transitAt (c : HAcc) (p o : Bool) (d : List Byte) : (answerHome s c p o d).transitAt = s.transitAt := rfl
@[simp] theorem answerHome_everReady (c : HAcc) (p o : Bool) (d : List Byte) : (answerHome s c p o d).everReady = s.everReady := rfl
@[simp] theorem answerHome_deepPending (c : HAcc) (p o : Bool) (d : List Byte) : (answerHome s c p o d).deepPending = s.deepPending := rfl
@[simp] theorem answerHome_woken (c : HAcc) (p o : Bool) (d : List Byte) : (answerHome s c p o d).woken = s.woken := rfl

/-! ## postComp -/

@[simp] theorem postComp_pending (c : Comp) : (postComp s c).pending = s.pending := rfl
@[simp] theorem postComp_out (c : Comp) : (postComp s c).out = s.out := rfl
@[simp] theorem postComp_free (c : Comp) : (postComp s c).free = s.free := rfl
@[simp] theorem postComp_time (c : Comp) : (postComp s c).time = s.time := rfl
@[simp] theorem postComp_main (c : Comp) : (postComp s c).main = s.main := rfl
@[simp] theorem postComp_power (c : Comp) : (postComp s c).power = s.power := rfl
@[simp] theorem postComp_clkDeep (c : Comp) : (postComp s c).clkDeep = s.clkDeep := rfl
@[simp] theorem postComp_ent (c : Comp) : (postComp s c).ent = s.ent := rfl
@[simp] theorem postComp_cons (c : Comp) : (postComp s c).cons = s.cons := rfl
@[simp] theorem postComp_devEvents (c : Comp) : (postComp s c).devEvents = s.devEvents := rfl
@[simp] theorem postComp_discardEpoch (c : Comp) : (postComp s c).discardEpoch = s.discardEpoch := rfl
@[simp] theorem postComp_discardCause (c : Comp) : (postComp s c).discardCause = s.discardCause := rfl
@[simp] theorem postComp_apertures (c : Comp) : (postComp s c).apertures = s.apertures := rfl
@[simp] theorem postComp_discard (c : Comp) : (postComp s c).discard = s.discard := rfl
@[simp] theorem postComp_lay (c : Comp) : (postComp s c).lay = s.lay := rfl
@[simp] theorem postComp_mem (c : Comp) : (postComp s c).mem = s.mem := rfl
@[simp] theorem postComp_indet (c : Comp) : (postComp s c).indet = s.indet := rfl
@[simp] theorem postComp_lines (c : Comp) : (postComp s c).lines = s.lines := rfl
@[simp] theorem postComp_fetches (c : Comp) : (postComp s c).fetches = s.fetches := rfl
@[simp] theorem postComp_recent (c : Comp) : (postComp s c).recent = s.recent := rfl
@[simp] theorem postComp_stalled (c : Comp) : (postComp s c).stalled = s.stalled := rfl
@[simp] theorem postComp_touched (c : Comp) : (postComp s c).touched = s.touched := rfl
@[simp] theorem postComp_repeats (c : Comp) : (postComp s c).repeats = s.repeats := rfl
@[simp] theorem postComp_vscrub (c : Comp) : (postComp s c).vscrub = s.vscrub := rfl
@[simp] theorem postComp_hscrub (c : Comp) : (postComp s c).hscrub = s.hscrub := rfl
@[simp] theorem postComp_ctx (c : Comp) : (postComp s c).ctx = s.ctx := rfl
@[simp] theorem postComp_chans (c : Comp) : (postComp s c).chans = s.chans := rfl
@[simp] theorem postComp_regU (c : Comp) : (postComp s c).regU = s.regU := rfl
@[simp] theorem postComp_regWait (c : Comp) : (postComp s c).regWait = s.regWait := rfl
@[simp] theorem postComp_paid (c : Comp) : (postComp s c).paid = s.paid := rfl
@[simp] theorem postComp_behind (c : Comp) : (postComp s c).behind = s.behind := rfl
@[simp] theorem postComp_regOld (c : Comp) : (postComp s c).regOld = s.regOld := rfl
@[simp] theorem postComp_scale (c : Comp) : (postComp s c).scale = s.scale := rfl
@[simp] theorem postComp_regStart (c : Comp) : (postComp s c).regStart = s.regStart := rfl
@[simp] theorem postComp_winStart (c : Comp) : (postComp s c).winStart = s.winStart := rfl
@[simp] theorem postComp_lcUsed (c : Comp) : (postComp s c).lcUsed = s.lcUsed := rfl
@[simp] theorem postComp_tiles (c : Comp) : (postComp s c).tiles = s.tiles := rfl
@[simp] theorem postComp_quiet (c : Comp) : (postComp s c).quiet = s.quiet := rfl
@[simp] theorem postComp_loans (c : Comp) : (postComp s c).loans = s.loans := rfl
@[simp] theorem postComp_reclaims (c : Comp) : (postComp s c).reclaims = s.reclaims := rfl
@[simp] theorem postComp_loanSeq (c : Comp) : (postComp s c).loanSeq = s.loanSeq := rfl
@[simp] theorem postComp_loanVals (c : Comp) : (postComp s c).loanVals = s.loanVals := rfl
@[simp] theorem postComp_loanAt (c : Comp) : (postComp s c).loanAt = s.loanAt := rfl
@[simp] theorem postComp_queues (c : Comp) : (postComp s c).queues = s.queues := rfl
@[simp] theorem postComp_comps (c : Comp) : (postComp s c).comps = s.comps ++ [c] := rfl
@[simp] theorem postComp_jobs (c : Comp) : (postComp s c).jobs = s.jobs := rfl
@[simp] theorem postComp_nextJob (c : Comp) : (postComp s c).nextJob = s.nextJob := rfl
@[simp] theorem postComp_robin (c : Comp) : (postComp s c).robin = s.robin := rfl
@[simp] theorem postComp_xfers (c : Comp) : (postComp s c).xfers = s.xfers := rfl
@[simp] theorem postComp_nextX (c : Comp) : (postComp s c).nextX = s.nextX := rfl
@[simp] theorem postComp_atc (c : Comp) : (postComp s c).atc = s.atc := rfl
@[simp] theorem postComp_prgs (c : Comp) : (postComp s c).prgs = s.prgs := rfl
@[simp] theorem postComp_nextPrg (c : Comp) : (postComp s c).nextPrg = s.nextPrg := rfl
@[simp] theorem postComp_reads (c : Comp) : (postComp s c).reads = s.reads := rfl
@[simp] theorem postComp_nextTag (c : Comp) : (postComp s c).nextTag = s.nextTag := rfl
@[simp] theorem postComp_msixTable (c : Comp) : (postComp s c).msixTable = s.msixTable := rfl
@[simp] theorem postComp_msixPba (c : Comp) : (postComp s c).msixPba = s.msixPba := rfl
@[simp] theorem postComp_link (c : Comp) : (postComp s c).link = s.link := rfl
@[simp] theorem postComp_ports (c : Comp) : (postComp s c).ports = s.ports := rfl
@[simp] theorem postComp_fab (c : Comp) : (postComp s c).fab = s.fab := rfl
@[simp] theorem postComp_events (c : Comp) : (postComp s c).events = s.events := rfl
@[simp] theorem postComp_summaries (c : Comp) : (postComp s c).summaries = s.summaries := rfl
@[simp] theorem postComp_ledgerQ (c : Comp) : (postComp s c).ledgerQ = s.ledgerQ := rfl
@[simp] theorem postComp_live (c : Comp) : (postComp s c).live = s.live := rfl
@[simp] theorem postComp_con (c : Comp) : (postComp s c).con = s.con := rfl
@[simp] theorem postComp_bringup (c : Comp) : (postComp s c).bringup = s.bringup := rfl
@[simp] theorem postComp_d2d (c : Comp) : (postComp s c).d2d = s.d2d := rfl
@[simp] theorem postComp_guestDesc (c : Comp) : (postComp s c).guestDesc = s.guestDesc := rfl
@[simp] theorem postComp_ledger (c : Comp) : (postComp s c).ledger = s.ledger := rfl
@[simp] theorem postComp_hkShown (c : Comp) : (postComp s c).hkShown = s.hkShown := rfl
@[simp] theorem postComp_stages (c : Comp) : (postComp s c).stages = s.stages := rfl
@[simp] theorem postComp_mbx (c : Comp) : (postComp s c).mbx = s.mbx := rfl
@[simp] theorem postComp_owed (c : Comp) : (postComp s c).owed = s.owed := rfl
@[simp] theorem postComp_eids (c : Comp) : (postComp s c).eids = s.eids := rfl
@[simp] theorem postComp_i3c (c : Comp) : (postComp s c).i3c = s.i3c := rfl
@[simp] theorem postComp_resetReq (c : Comp) : (postComp s c).resetReq = s.resetReq := rfl
@[simp] theorem postComp_resetBy (c : Comp) : (postComp s c).resetBy = s.resetBy := rfl
@[simp] theorem postComp_resetAt (c : Comp) : (postComp s c).resetAt = s.resetAt := rfl
@[simp] theorem postComp_offPath (c : Comp) : (postComp s c).offPath = s.offPath := rfl
@[simp] theorem postComp_transitAt (c : Comp) : (postComp s c).transitAt = s.transitAt := rfl
@[simp] theorem postComp_everReady (c : Comp) : (postComp s c).everReady = s.everReady := rfl
@[simp] theorem postComp_deepPending (c : Comp) : (postComp s c).deepPending = s.deepPending := rfl
@[simp] theorem postComp_woken (c : Comp) : (postComp s c).woken = s.woken := rfl

/-! ## spoil -/

@[simp] theorem spoil_pending (j : Job) : (spoil s j).pending = s.pending := rfl
@[simp] theorem spoil_out (j : Job) : (spoil s j).out = s.out := rfl
@[simp] theorem spoil_free (j : Job) : (spoil s j).free = s.free := rfl
@[simp] theorem spoil_time (j : Job) : (spoil s j).time = s.time := rfl
@[simp] theorem spoil_main (j : Job) : (spoil s j).main = s.main := rfl
@[simp] theorem spoil_power (j : Job) : (spoil s j).power = s.power := rfl
@[simp] theorem spoil_clkDeep (j : Job) : (spoil s j).clkDeep = s.clkDeep := rfl
@[simp] theorem spoil_ent (j : Job) : (spoil s j).ent = s.ent := rfl
@[simp] theorem spoil_cons (j : Job) : (spoil s j).cons = s.cons := rfl
@[simp] theorem spoil_devEvents (j : Job) : (spoil s j).devEvents = s.devEvents := rfl
@[simp] theorem spoil_discardEpoch (j : Job) : (spoil s j).discardEpoch = s.discardEpoch := rfl
@[simp] theorem spoil_discardCause (j : Job) : (spoil s j).discardCause = s.discardCause := rfl
@[simp] theorem spoil_apertures (j : Job) : (spoil s j).apertures = s.apertures := rfl
@[simp] theorem spoil_discard (j : Job) : (spoil s j).discard = s.discard := rfl
@[simp] theorem spoil_lay (j : Job) : (spoil s j).lay = s.lay := rfl
@[simp] theorem spoil_mem (j : Job) : (spoil s j).mem = s.mem := rfl
@[simp] theorem spoil_indet (j : Job) : (spoil s j).indet = deviceWins j ++ opstoreWins j ++ s.indet := rfl
@[simp] theorem spoil_lines (j : Job) : (spoil s j).lines = s.lines := rfl
@[simp] theorem spoil_fetches (j : Job) : (spoil s j).fetches = s.fetches := rfl
@[simp] theorem spoil_recent (j : Job) : (spoil s j).recent = s.recent := rfl
@[simp] theorem spoil_stalled (j : Job) : (spoil s j).stalled = s.stalled := rfl
@[simp] theorem spoil_touched (j : Job) : (spoil s j).touched = s.touched := rfl
@[simp] theorem spoil_repeats (j : Job) : (spoil s j).repeats = s.repeats := rfl
@[simp] theorem spoil_vscrub (j : Job) : (spoil s j).vscrub = s.vscrub := rfl
@[simp] theorem spoil_hscrub (j : Job) : (spoil s j).hscrub = s.hscrub := rfl
@[simp] theorem spoil_ctx (j : Job) : (spoil s j).ctx = s.ctx := rfl
@[simp] theorem spoil_chans (j : Job) : (spoil s j).chans = s.chans := rfl
@[simp] theorem spoil_regU (j : Job) : (spoil s j).regU = s.regU := rfl
@[simp] theorem spoil_regWait (j : Job) : (spoil s j).regWait = s.regWait := rfl
@[simp] theorem spoil_paid (j : Job) : (spoil s j).paid = s.paid := rfl
@[simp] theorem spoil_behind (j : Job) : (spoil s j).behind = s.behind := rfl
@[simp] theorem spoil_regOld (j : Job) : (spoil s j).regOld = s.regOld := rfl
@[simp] theorem spoil_scale (j : Job) : (spoil s j).scale = s.scale := rfl
@[simp] theorem spoil_regStart (j : Job) : (spoil s j).regStart = s.regStart := rfl
@[simp] theorem spoil_winStart (j : Job) : (spoil s j).winStart = s.winStart := rfl
@[simp] theorem spoil_lcUsed (j : Job) : (spoil s j).lcUsed = s.lcUsed := rfl
@[simp] theorem spoil_tiles (j : Job) : (spoil s j).tiles = s.tiles := rfl
@[simp] theorem spoil_quiet (j : Job) : (spoil s j).quiet = s.quiet := rfl
@[simp] theorem spoil_loans (j : Job) : (spoil s j).loans = s.loans := rfl
@[simp] theorem spoil_reclaims (j : Job) : (spoil s j).reclaims = s.reclaims := rfl
@[simp] theorem spoil_loanSeq (j : Job) : (spoil s j).loanSeq = s.loanSeq := rfl
@[simp] theorem spoil_loanVals (j : Job) : (spoil s j).loanVals = s.loanVals := rfl
@[simp] theorem spoil_loanAt (j : Job) : (spoil s j).loanAt = s.loanAt := rfl
@[simp] theorem spoil_queues (j : Job) : (spoil s j).queues = s.queues := rfl
@[simp] theorem spoil_comps (j : Job) : (spoil s j).comps = s.comps := rfl
@[simp] theorem spoil_jobs (j : Job) : (spoil s j).jobs = s.jobs := rfl
@[simp] theorem spoil_nextJob (j : Job) : (spoil s j).nextJob = s.nextJob := rfl
@[simp] theorem spoil_robin (j : Job) : (spoil s j).robin = s.robin := rfl
@[simp] theorem spoil_xfers (j : Job) : (spoil s j).xfers = s.xfers := rfl
@[simp] theorem spoil_nextX (j : Job) : (spoil s j).nextX = s.nextX := rfl
@[simp] theorem spoil_atc (j : Job) : (spoil s j).atc = s.atc := rfl
@[simp] theorem spoil_prgs (j : Job) : (spoil s j).prgs = s.prgs := rfl
@[simp] theorem spoil_nextPrg (j : Job) : (spoil s j).nextPrg = s.nextPrg := rfl
@[simp] theorem spoil_reads (j : Job) : (spoil s j).reads = s.reads := rfl
@[simp] theorem spoil_nextTag (j : Job) : (spoil s j).nextTag = s.nextTag := rfl
@[simp] theorem spoil_msixTable (j : Job) : (spoil s j).msixTable = s.msixTable := rfl
@[simp] theorem spoil_msixPba (j : Job) : (spoil s j).msixPba = s.msixPba := rfl
@[simp] theorem spoil_link (j : Job) : (spoil s j).link = s.link := rfl
@[simp] theorem spoil_ports (j : Job) : (spoil s j).ports = s.ports := rfl
@[simp] theorem spoil_fab (j : Job) : (spoil s j).fab = s.fab := rfl
@[simp] theorem spoil_events (j : Job) : (spoil s j).events = s.events := rfl
@[simp] theorem spoil_summaries (j : Job) : (spoil s j).summaries = s.summaries := rfl
@[simp] theorem spoil_ledgerQ (j : Job) : (spoil s j).ledgerQ = s.ledgerQ := rfl
@[simp] theorem spoil_live (j : Job) : (spoil s j).live = s.live := rfl
@[simp] theorem spoil_con (j : Job) : (spoil s j).con = s.con := rfl
@[simp] theorem spoil_bringup (j : Job) : (spoil s j).bringup = s.bringup := rfl
@[simp] theorem spoil_d2d (j : Job) : (spoil s j).d2d = s.d2d := rfl
@[simp] theorem spoil_guestDesc (j : Job) : (spoil s j).guestDesc = s.guestDesc := rfl
@[simp] theorem spoil_ledger (j : Job) : (spoil s j).ledger = s.ledger := rfl
@[simp] theorem spoil_hkShown (j : Job) : (spoil s j).hkShown = s.hkShown := rfl
@[simp] theorem spoil_stages (j : Job) : (spoil s j).stages = s.stages := rfl
@[simp] theorem spoil_mbx (j : Job) : (spoil s j).mbx = s.mbx := rfl
@[simp] theorem spoil_owed (j : Job) : (spoil s j).owed = s.owed := rfl
@[simp] theorem spoil_eids (j : Job) : (spoil s j).eids = s.eids := rfl
@[simp] theorem spoil_i3c (j : Job) : (spoil s j).i3c = s.i3c := rfl
@[simp] theorem spoil_resetReq (j : Job) : (spoil s j).resetReq = s.resetReq := rfl
@[simp] theorem spoil_resetBy (j : Job) : (spoil s j).resetBy = s.resetBy := rfl
@[simp] theorem spoil_resetAt (j : Job) : (spoil s j).resetAt = s.resetAt := rfl
@[simp] theorem spoil_offPath (j : Job) : (spoil s j).offPath = s.offPath := rfl
@[simp] theorem spoil_transitAt (j : Job) : (spoil s j).transitAt = s.transitAt := rfl
@[simp] theorem spoil_everReady (j : Job) : (spoil s j).everReady = s.everReady := rfl
@[simp] theorem spoil_deepPending (j : Job) : (spoil s j).deepPending = s.deepPending := rfl
@[simp] theorem spoil_woken (j : Job) : (spoil s j).woken = s.woken := rfl

/-! ## putRep -/

@[simp] theorem putRep_pending (r : RepEntry) : (putRep s r).pending = s.pending := rfl
@[simp] theorem putRep_out (r : RepEntry) : (putRep s r).out = s.out := rfl
@[simp] theorem putRep_free (r : RepEntry) : (putRep s r).free = s.free := rfl
@[simp] theorem putRep_time (r : RepEntry) : (putRep s r).time = s.time := rfl
@[simp] theorem putRep_main (r : RepEntry) : (putRep s r).main = s.main := rfl
@[simp] theorem putRep_power (r : RepEntry) : (putRep s r).power = s.power := rfl
@[simp] theorem putRep_clkDeep (r : RepEntry) : (putRep s r).clkDeep = s.clkDeep := rfl
@[simp] theorem putRep_ent (r : RepEntry) : (putRep s r).ent = s.ent := rfl
@[simp] theorem putRep_cons (r : RepEntry) : (putRep s r).cons = s.cons := rfl
@[simp] theorem putRep_devEvents (r : RepEntry) : (putRep s r).devEvents = s.devEvents := rfl
@[simp] theorem putRep_discardEpoch (r : RepEntry) : (putRep s r).discardEpoch = s.discardEpoch := rfl
@[simp] theorem putRep_discardCause (r : RepEntry) : (putRep s r).discardCause = s.discardCause := rfl
@[simp] theorem putRep_apertures (r : RepEntry) : (putRep s r).apertures = s.apertures := rfl
@[simp] theorem putRep_discard (r : RepEntry) : (putRep s r).discard = s.discard := rfl
@[simp] theorem putRep_lay (r : RepEntry) : (putRep s r).lay = s.lay := rfl
@[simp] theorem putRep_mem (r : RepEntry) : (putRep s r).mem = s.mem := rfl
@[simp] theorem putRep_indet (r : RepEntry) : (putRep s r).indet = s.indet := rfl
@[simp] theorem putRep_lines (r : RepEntry) : (putRep s r).lines = s.lines := rfl
@[simp] theorem putRep_fetches (r : RepEntry) : (putRep s r).fetches = s.fetches := rfl
@[simp] theorem putRep_recent (r : RepEntry) : (putRep s r).recent = s.recent := rfl
@[simp] theorem putRep_stalled (r : RepEntry) : (putRep s r).stalled = s.stalled := rfl
@[simp] theorem putRep_touched (r : RepEntry) : (putRep s r).touched = s.touched := rfl
@[simp] theorem putRep_repeats (r : RepEntry) : (putRep s r).repeats = s.repeats.filter (fun x => !sameRep r.b r.kind r.loc x) ++ [r] := rfl
@[simp] theorem putRep_vscrub (r : RepEntry) : (putRep s r).vscrub = s.vscrub := rfl
@[simp] theorem putRep_hscrub (r : RepEntry) : (putRep s r).hscrub = s.hscrub := rfl
@[simp] theorem putRep_ctx (r : RepEntry) : (putRep s r).ctx = s.ctx := rfl
@[simp] theorem putRep_chans (r : RepEntry) : (putRep s r).chans = s.chans := rfl
@[simp] theorem putRep_regU (r : RepEntry) : (putRep s r).regU = s.regU := rfl
@[simp] theorem putRep_regWait (r : RepEntry) : (putRep s r).regWait = s.regWait := rfl
@[simp] theorem putRep_paid (r : RepEntry) : (putRep s r).paid = s.paid := rfl
@[simp] theorem putRep_behind (r : RepEntry) : (putRep s r).behind = s.behind := rfl
@[simp] theorem putRep_regOld (r : RepEntry) : (putRep s r).regOld = s.regOld := rfl
@[simp] theorem putRep_scale (r : RepEntry) : (putRep s r).scale = s.scale := rfl
@[simp] theorem putRep_regStart (r : RepEntry) : (putRep s r).regStart = s.regStart := rfl
@[simp] theorem putRep_winStart (r : RepEntry) : (putRep s r).winStart = s.winStart := rfl
@[simp] theorem putRep_lcUsed (r : RepEntry) : (putRep s r).lcUsed = s.lcUsed := rfl
@[simp] theorem putRep_tiles (r : RepEntry) : (putRep s r).tiles = s.tiles := rfl
@[simp] theorem putRep_quiet (r : RepEntry) : (putRep s r).quiet = s.quiet := rfl
@[simp] theorem putRep_loans (r : RepEntry) : (putRep s r).loans = s.loans := rfl
@[simp] theorem putRep_reclaims (r : RepEntry) : (putRep s r).reclaims = s.reclaims := rfl
@[simp] theorem putRep_loanSeq (r : RepEntry) : (putRep s r).loanSeq = s.loanSeq := rfl
@[simp] theorem putRep_loanVals (r : RepEntry) : (putRep s r).loanVals = s.loanVals := rfl
@[simp] theorem putRep_loanAt (r : RepEntry) : (putRep s r).loanAt = s.loanAt := rfl
@[simp] theorem putRep_queues (r : RepEntry) : (putRep s r).queues = s.queues := rfl
@[simp] theorem putRep_comps (r : RepEntry) : (putRep s r).comps = s.comps := rfl
@[simp] theorem putRep_jobs (r : RepEntry) : (putRep s r).jobs = s.jobs := rfl
@[simp] theorem putRep_nextJob (r : RepEntry) : (putRep s r).nextJob = s.nextJob := rfl
@[simp] theorem putRep_robin (r : RepEntry) : (putRep s r).robin = s.robin := rfl
@[simp] theorem putRep_xfers (r : RepEntry) : (putRep s r).xfers = s.xfers := rfl
@[simp] theorem putRep_nextX (r : RepEntry) : (putRep s r).nextX = s.nextX := rfl
@[simp] theorem putRep_atc (r : RepEntry) : (putRep s r).atc = s.atc := rfl
@[simp] theorem putRep_prgs (r : RepEntry) : (putRep s r).prgs = s.prgs := rfl
@[simp] theorem putRep_nextPrg (r : RepEntry) : (putRep s r).nextPrg = s.nextPrg := rfl
@[simp] theorem putRep_reads (r : RepEntry) : (putRep s r).reads = s.reads := rfl
@[simp] theorem putRep_nextTag (r : RepEntry) : (putRep s r).nextTag = s.nextTag := rfl
@[simp] theorem putRep_msixTable (r : RepEntry) : (putRep s r).msixTable = s.msixTable := rfl
@[simp] theorem putRep_msixPba (r : RepEntry) : (putRep s r).msixPba = s.msixPba := rfl
@[simp] theorem putRep_link (r : RepEntry) : (putRep s r).link = s.link := rfl
@[simp] theorem putRep_ports (r : RepEntry) : (putRep s r).ports = s.ports := rfl
@[simp] theorem putRep_fab (r : RepEntry) : (putRep s r).fab = s.fab := rfl
@[simp] theorem putRep_events (r : RepEntry) : (putRep s r).events = s.events := rfl
@[simp] theorem putRep_summaries (r : RepEntry) : (putRep s r).summaries = s.summaries := rfl
@[simp] theorem putRep_ledgerQ (r : RepEntry) : (putRep s r).ledgerQ = s.ledgerQ := rfl
@[simp] theorem putRep_live (r : RepEntry) : (putRep s r).live = s.live := rfl
@[simp] theorem putRep_con (r : RepEntry) : (putRep s r).con = s.con := rfl
@[simp] theorem putRep_bringup (r : RepEntry) : (putRep s r).bringup = s.bringup := rfl
@[simp] theorem putRep_d2d (r : RepEntry) : (putRep s r).d2d = s.d2d := rfl
@[simp] theorem putRep_guestDesc (r : RepEntry) : (putRep s r).guestDesc = s.guestDesc := rfl
@[simp] theorem putRep_ledger (r : RepEntry) : (putRep s r).ledger = s.ledger := rfl
@[simp] theorem putRep_hkShown (r : RepEntry) : (putRep s r).hkShown = s.hkShown := rfl
@[simp] theorem putRep_stages (r : RepEntry) : (putRep s r).stages = s.stages := rfl
@[simp] theorem putRep_mbx (r : RepEntry) : (putRep s r).mbx = s.mbx := rfl
@[simp] theorem putRep_owed (r : RepEntry) : (putRep s r).owed = s.owed := rfl
@[simp] theorem putRep_eids (r : RepEntry) : (putRep s r).eids = s.eids := rfl
@[simp] theorem putRep_i3c (r : RepEntry) : (putRep s r).i3c = s.i3c := rfl
@[simp] theorem putRep_resetReq (r : RepEntry) : (putRep s r).resetReq = s.resetReq := rfl
@[simp] theorem putRep_resetBy (r : RepEntry) : (putRep s r).resetBy = s.resetBy := rfl
@[simp] theorem putRep_resetAt (r : RepEntry) : (putRep s r).resetAt = s.resetAt := rfl
@[simp] theorem putRep_offPath (r : RepEntry) : (putRep s r).offPath = s.offPath := rfl
@[simp] theorem putRep_transitAt (r : RepEntry) : (putRep s r).transitAt = s.transitAt := rfl
@[simp] theorem putRep_everReady (r : RepEntry) : (putRep s r).everReady = s.everReady := rfl
@[simp] theorem putRep_deepPending (r : RepEntry) : (putRep s r).deepPending = s.deepPending := rfl
@[simp] theorem putRep_woken (r : RepEntry) : (putRep s r).woken = s.woken := rfl

/-! ## dropLine -/

@[simp] theorem dropLine_pending (b l : Nat) : (dropLine s b l).pending = s.pending := rfl
@[simp] theorem dropLine_out (b l : Nat) : (dropLine s b l).out = s.out := rfl
@[simp] theorem dropLine_free (b l : Nat) : (dropLine s b l).free = s.free := rfl
@[simp] theorem dropLine_time (b l : Nat) : (dropLine s b l).time = s.time := rfl
@[simp] theorem dropLine_main (b l : Nat) : (dropLine s b l).main = s.main := rfl
@[simp] theorem dropLine_power (b l : Nat) : (dropLine s b l).power = s.power := rfl
@[simp] theorem dropLine_clkDeep (b l : Nat) : (dropLine s b l).clkDeep = s.clkDeep := rfl
@[simp] theorem dropLine_ent (b l : Nat) : (dropLine s b l).ent = s.ent := rfl
@[simp] theorem dropLine_cons (b l : Nat) : (dropLine s b l).cons = s.cons := rfl
@[simp] theorem dropLine_devEvents (b l : Nat) : (dropLine s b l).devEvents = s.devEvents := rfl
@[simp] theorem dropLine_discardEpoch (b l : Nat) : (dropLine s b l).discardEpoch = s.discardEpoch := rfl
@[simp] theorem dropLine_discardCause (b l : Nat) : (dropLine s b l).discardCause = s.discardCause := rfl
@[simp] theorem dropLine_apertures (b l : Nat) : (dropLine s b l).apertures = s.apertures := rfl
@[simp] theorem dropLine_discard (b l : Nat) : (dropLine s b l).discard = s.discard := rfl
@[simp] theorem dropLine_lay (b l : Nat) : (dropLine s b l).lay = s.lay := rfl
@[simp] theorem dropLine_mem (b l : Nat) : (dropLine s b l).mem = s.mem := rfl
@[simp] theorem dropLine_indet (b l : Nat) : (dropLine s b l).indet = s.indet := rfl
@[simp] theorem dropLine_lines (b l : Nat) : (dropLine s b l).lines = s.lines.filter (fun x => !(x.b == b && x.line == l)) := rfl
@[simp] theorem dropLine_fetches (b l : Nat) : (dropLine s b l).fetches = s.fetches := rfl
@[simp] theorem dropLine_recent (b l : Nat) : (dropLine s b l).recent = s.recent := rfl
@[simp] theorem dropLine_stalled (b l : Nat) : (dropLine s b l).stalled = s.stalled := rfl
@[simp] theorem dropLine_touched (b l : Nat) : (dropLine s b l).touched = s.touched := rfl
@[simp] theorem dropLine_repeats (b l : Nat) : (dropLine s b l).repeats = s.repeats := rfl
@[simp] theorem dropLine_vscrub (b l : Nat) : (dropLine s b l).vscrub = s.vscrub := rfl
@[simp] theorem dropLine_hscrub (b l : Nat) : (dropLine s b l).hscrub = s.hscrub := rfl
@[simp] theorem dropLine_ctx (b l : Nat) : (dropLine s b l).ctx = s.ctx := rfl
@[simp] theorem dropLine_chans (b l : Nat) : (dropLine s b l).chans = s.chans := rfl
@[simp] theorem dropLine_regU (b l : Nat) : (dropLine s b l).regU = s.regU := rfl
@[simp] theorem dropLine_regWait (b l : Nat) : (dropLine s b l).regWait = s.regWait := rfl
@[simp] theorem dropLine_paid (b l : Nat) : (dropLine s b l).paid = s.paid := rfl
@[simp] theorem dropLine_behind (b l : Nat) : (dropLine s b l).behind = s.behind := rfl
@[simp] theorem dropLine_regOld (b l : Nat) : (dropLine s b l).regOld = s.regOld := rfl
@[simp] theorem dropLine_scale (b l : Nat) : (dropLine s b l).scale = s.scale := rfl
@[simp] theorem dropLine_regStart (b l : Nat) : (dropLine s b l).regStart = s.regStart := rfl
@[simp] theorem dropLine_winStart (b l : Nat) : (dropLine s b l).winStart = s.winStart := rfl
@[simp] theorem dropLine_lcUsed (b l : Nat) : (dropLine s b l).lcUsed = s.lcUsed := rfl
@[simp] theorem dropLine_tiles (b l : Nat) : (dropLine s b l).tiles = s.tiles := rfl
@[simp] theorem dropLine_quiet (b l : Nat) : (dropLine s b l).quiet = s.quiet := rfl
@[simp] theorem dropLine_loans (b l : Nat) : (dropLine s b l).loans = s.loans := rfl
@[simp] theorem dropLine_reclaims (b l : Nat) : (dropLine s b l).reclaims = s.reclaims := rfl
@[simp] theorem dropLine_loanSeq (b l : Nat) : (dropLine s b l).loanSeq = s.loanSeq := rfl
@[simp] theorem dropLine_loanVals (b l : Nat) : (dropLine s b l).loanVals = s.loanVals := rfl
@[simp] theorem dropLine_loanAt (b l : Nat) : (dropLine s b l).loanAt = s.loanAt := rfl
@[simp] theorem dropLine_queues (b l : Nat) : (dropLine s b l).queues = s.queues := rfl
@[simp] theorem dropLine_comps (b l : Nat) : (dropLine s b l).comps = s.comps := rfl
@[simp] theorem dropLine_jobs (b l : Nat) : (dropLine s b l).jobs = s.jobs := rfl
@[simp] theorem dropLine_nextJob (b l : Nat) : (dropLine s b l).nextJob = s.nextJob := rfl
@[simp] theorem dropLine_robin (b l : Nat) : (dropLine s b l).robin = s.robin := rfl
@[simp] theorem dropLine_xfers (b l : Nat) : (dropLine s b l).xfers = s.xfers := rfl
@[simp] theorem dropLine_nextX (b l : Nat) : (dropLine s b l).nextX = s.nextX := rfl
@[simp] theorem dropLine_atc (b l : Nat) : (dropLine s b l).atc = s.atc := rfl
@[simp] theorem dropLine_prgs (b l : Nat) : (dropLine s b l).prgs = s.prgs := rfl
@[simp] theorem dropLine_nextPrg (b l : Nat) : (dropLine s b l).nextPrg = s.nextPrg := rfl
@[simp] theorem dropLine_reads (b l : Nat) : (dropLine s b l).reads = s.reads := rfl
@[simp] theorem dropLine_nextTag (b l : Nat) : (dropLine s b l).nextTag = s.nextTag := rfl
@[simp] theorem dropLine_msixTable (b l : Nat) : (dropLine s b l).msixTable = s.msixTable := rfl
@[simp] theorem dropLine_msixPba (b l : Nat) : (dropLine s b l).msixPba = s.msixPba := rfl
@[simp] theorem dropLine_link (b l : Nat) : (dropLine s b l).link = s.link := rfl
@[simp] theorem dropLine_ports (b l : Nat) : (dropLine s b l).ports = s.ports := rfl
@[simp] theorem dropLine_fab (b l : Nat) : (dropLine s b l).fab = s.fab := rfl
@[simp] theorem dropLine_events (b l : Nat) : (dropLine s b l).events = s.events := rfl
@[simp] theorem dropLine_summaries (b l : Nat) : (dropLine s b l).summaries = s.summaries := rfl
@[simp] theorem dropLine_ledgerQ (b l : Nat) : (dropLine s b l).ledgerQ = s.ledgerQ := rfl
@[simp] theorem dropLine_live (b l : Nat) : (dropLine s b l).live = s.live := rfl
@[simp] theorem dropLine_con (b l : Nat) : (dropLine s b l).con = s.con := rfl
@[simp] theorem dropLine_bringup (b l : Nat) : (dropLine s b l).bringup = s.bringup := rfl
@[simp] theorem dropLine_d2d (b l : Nat) : (dropLine s b l).d2d = s.d2d := rfl
@[simp] theorem dropLine_guestDesc (b l : Nat) : (dropLine s b l).guestDesc = s.guestDesc := rfl
@[simp] theorem dropLine_ledger (b l : Nat) : (dropLine s b l).ledger = s.ledger := rfl
@[simp] theorem dropLine_hkShown (b l : Nat) : (dropLine s b l).hkShown = s.hkShown := rfl
@[simp] theorem dropLine_stages (b l : Nat) : (dropLine s b l).stages = s.stages := rfl
@[simp] theorem dropLine_mbx (b l : Nat) : (dropLine s b l).mbx = s.mbx := rfl
@[simp] theorem dropLine_owed (b l : Nat) : (dropLine s b l).owed = s.owed := rfl
@[simp] theorem dropLine_eids (b l : Nat) : (dropLine s b l).eids = s.eids := rfl
@[simp] theorem dropLine_i3c (b l : Nat) : (dropLine s b l).i3c = s.i3c := rfl
@[simp] theorem dropLine_resetReq (b l : Nat) : (dropLine s b l).resetReq = s.resetReq := rfl
@[simp] theorem dropLine_resetBy (b l : Nat) : (dropLine s b l).resetBy = s.resetBy := rfl
@[simp] theorem dropLine_resetAt (b l : Nat) : (dropLine s b l).resetAt = s.resetAt := rfl
@[simp] theorem dropLine_offPath (b l : Nat) : (dropLine s b l).offPath = s.offPath := rfl
@[simp] theorem dropLine_transitAt (b l : Nat) : (dropLine s b l).transitAt = s.transitAt := rfl
@[simp] theorem dropLine_everReady (b l : Nat) : (dropLine s b l).everReady = s.everReady := rfl
@[simp] theorem dropLine_deepPending (b l : Nat) : (dropLine s b l).deepPending = s.deepPending := rfl
@[simp] theorem dropLine_woken (b l : Nat) : (dropLine s b l).woken = s.woken := rfl

end Sys2Proof.Machine
end

