-- ==== Sys2Proof/Laws/Table.lean ====
section
/-! SUPPORT. What reading a sparse table gives after each of its updates, and that every update keeps its form. -/

namespace Sys2Proof

variable {α : Type}

@[simp] theorem SMap.find?_put_same (m : SMap α) (k : Nat) (v : α) : (SMap.put m k v).find? k = some v := by
  induction m with
  | nil => simp [SMap.put, SMap.find?]
  | cons p r ih =>
    obtain ⟨j, w⟩ := p
    simp only [SMap.put]
    split
    · simp [SMap.find?]
    · split
      · simp [SMap.find?]
      · rename_i h
        simp [SMap.find?, Ne.symm h, ih]

theorem SMap.find?_put_other (m : SMap α) (k l : Nat) (v : α) (h : l ≠ k) : (SMap.put m k v).find? l = m.find? l := by
  induction m with
  | nil => simp [SMap.put, SMap.find?, Ne.symm h]
  | cons p r ih =>
    obtain ⟨j, w⟩ := p
    simp only [SMap.put]
    split
    · simp [SMap.find?, Ne.symm h]
    · split
      · rename_i e
        subst e
        simp [SMap.find?, Ne.symm h]
      · simp [SMap.find?, ih]

@[simp] theorem SMap.find?_erase_same (m : SMap α) (k : Nat) : (SMap.erase m k).find? k = none := by
  induction m with
  | nil => rfl
  | cons p r ih =>
    obtain ⟨j, w⟩ := p
    simp only [SMap.erase]
    split
    · exact ih
    · rename_i h
      simp [SMap.find?, h, ih]

theorem SMap.find?_erase_other (m : SMap α) (k l : Nat) (h : l ≠ k) : (SMap.erase m k).find? l = m.find? l := by
  induction m with
  | nil => rfl
  | cons p r ih =>
    obtain ⟨j, w⟩ := p
    simp only [SMap.erase]
    split
    · rename_i e
      subst e
      simp [SMap.find?, Ne.symm h, ih]
    · simp [SMap.find?, ih]

@[simp] theorem SMap.get_put_same (m : SMap α) (k : Nat) (v d : α) : (SMap.put m k v).get k d = v := by
  simp [SMap.get]

theorem SMap.get_put_other (m : SMap α) (k l : Nat) (v d : α) (h : l ≠ k) : (SMap.put m k v).get l d = m.get l d := by
  simp [SMap.get, SMap.find?_put_other m k l v h]

@[simp] theorem SMap.get_erase_same (m : SMap α) (k : Nat) (d : α) : (SMap.erase m k).get k d = d := by
  simp [SMap.get]

theorem SMap.get_erase_other (m : SMap α) (k l : Nat) (d : α) (h : l ≠ k) : (SMap.erase m k).get l d = m.get l d := by
  simp [SMap.get, SMap.find?_erase_other m k l h]

@[simp] theorem SMap.get_set_same [DecidableEq α] (m : SMap α) (k : Nat) (v d : α) : (SMap.set m k v d).get k d = v := by
  unfold SMap.set
  split
  · rename_i h
    simp [h]
  · simp

theorem SMap.get_set_other [DecidableEq α] (m : SMap α) (k l : Nat) (v d e : α) (h : l ≠ k) :
    (SMap.set m k v d).get l e = m.get l e := by
  unfold SMap.set
  split
  · exact SMap.get_erase_other m k l e h
  · exact SMap.get_put_other m k l v e h

theorem SMap.mem_erase (m : SMap α) (k : Nat) (p : Nat × α) (h : p ∈ SMap.erase m k) : p ∈ m := by
  induction m with
  | nil => exact h
  | cons q r ih =>
    obtain ⟨j, w⟩ := q
    simp only [SMap.erase] at h
    split at h
    · exact List.mem_cons_of_mem _ (ih h)
    · rcases List.mem_cons.1 h with h | h
      · exact h ▸ List.mem_cons_self
      · exact List.mem_cons_of_mem _ (ih h)

theorem SMap.mem_put (m : SMap α) (k : Nat) (v : α) (p : Nat × α) (h : p ∈ SMap.put m k v) : p = (k, v) ∨ p ∈ m := by
  induction m with
  | nil => simpa [SMap.put] using h
  | cons q r ih =>
    obtain ⟨j, w⟩ := q
    simp only [SMap.put] at h
    split at h
    · simpa using h
    · split at h
      · rcases List.mem_cons.1 h with h | h
        · exact .inl h
        · exact .inr (List.mem_cons_of_mem _ h)
      · rcases List.mem_cons.1 h with h | h
        · exact .inr (h ▸ List.mem_cons_self)
        · exact (ih h).imp id (List.mem_cons_of_mem _)

/-- The form of a table as a statement about its head and its rest. -/
theorem SMap.sorted_cons (j : Nat) (w : α) (r : SMap α) :
    SMap.sorted ((j, w) :: r : SMap α) = true ↔ (∀ p ∈ r, j < p.1) ∧ SMap.sorted r = true := by
  simp [SMap.sorted]

theorem SMap.sorted_erase (m : SMap α) (k : Nat) (h : SMap.sorted m = true) : SMap.sorted (SMap.erase m k) = true := by
  induction m with
  | nil => rfl
  | cons q r ih =>
    obtain ⟨j, w⟩ := q
    have hs := (SMap.sorted_cons j w r).1 h
    simp only [SMap.erase]
    split
    · exact ih hs.2
    · exact (SMap.sorted_cons j w _).2 ⟨fun p hp => hs.1 p (SMap.mem_erase r k p hp), ih hs.2⟩

theorem SMap.sorted_put (m : SMap α) (k : Nat) (v : α) (h : SMap.sorted m = true) : SMap.sorted (SMap.put m k v) = true := by
  induction m with
  | nil => simp [SMap.put, SMap.sorted]
  | cons q r ih =>
    obtain ⟨j, w⟩ := q
    have hs := (SMap.sorted_cons j w r).1 h
    simp only [SMap.put]
    split
    · rename_i hk
      refine (SMap.sorted_cons k v _).2 ⟨fun p hp => ?_, h⟩
      rcases List.mem_cons.1 hp with rfl | hp
      · exact hk
      · exact lt_trans hk (hs.1 p hp)
    · split
      · rename_i e
        subst e
        exact (SMap.sorted_cons k v r).2 hs
      · refine (SMap.sorted_cons j w _).2 ⟨fun p hp => ?_, ih hs.2⟩
        rcases SMap.mem_put r k v p hp with rfl | hp
        · simp only; omega
        · exact hs.1 p hp

theorem SMap.sorted_set [DecidableEq α] (m : SMap α) (k : Nat) (v d : α) (h : SMap.sorted m = true) :
    SMap.sorted (SMap.set m k v d) = true := by
  unfold SMap.set
  split
  · exact SMap.sorted_erase m k h
  · exact SMap.sorted_put m k v h

/-- What holds of a value and is kept by each step of a fold holds after the fold. -/
theorem foldl_keeps {α β : Type} (P : β → Prop) (f : β → α → β) (hf : ∀ b a, P b → P (f b a)) (l : List α) (b : β) (h : P b) :
    P (l.foldl f b) := by
  induction l generalizing b with
  | nil => exact h
  | cons a l ih => exact ih _ (hf b a h)

end Sys2Proof
end

