-- ==== Sys2Proof/Laws/Events.lean ====
section
/-! SUPPORT. All that counting, logging an event and queueing a Ledger record can change: the event log and its counters, the
host link's messages, and the records that wait. -/

namespace Sys2Proof.Machine

/-- `t` is `s` after events were counted or noted: only the named fields may differ, what has been sent stays sent, and of
the entries only those at the keys `ks`. -/
structure Noted (ks : List Nat) (s t : State) : Prop where
  rest : ∃ events summaries ent devEvents msixPba out waiting ledgerQ live ledger,
    t = { s with events := events, summaries := summaries, ent := ent, devEvents := devEvents, msixPba := msixPba, out := out,
                 link := { s.link with waiting := waiting }, ledgerQ := ledgerQ, live := live,
                 ledger := ledger }
  sent : s.out <:+ t.out
  entries : ∀ k, k ∉ ks → SMap.find? t.ent k = SMap.find? s.ent k

theorem Noted.refl (ks : List Nat) (s : State) : Noted ks s s :=
  ⟨⟨_, _, _, _, _, _, _, _, _, _, rfl⟩, List.suffix_rfl, fun _ _ => rfl⟩

theorem Noted.trans {ks : List Nat} {s t u : State} (h : Noted ks s t) (g : Noted ks t u) : Noted ks s u := by
  obtain ⟨⟨_, _, _, _, _, _, _, _, _, _, rfl⟩, hs, he⟩ := h
  obtain ⟨⟨_, _, _, _, _, _, _, _, _, _, rfl⟩, gs, ge⟩ := g
  exact ⟨⟨_, _, _, _, _, _, _, _, _, _, rfl⟩, hs.trans gs, fun k hk => (ge k hk).trans (he k hk)⟩

theorem Noted.mono {ks ls : List Nat} {s t : State} (h : Noted ks s t) (hl : ∀ k ∈ ks, k ∈ ls) : Noted ls s t :=
  ⟨h.rest, h.sent, fun k hk => h.entries k (fun hm => hk (hl k hm))⟩

/-- The entries that logging itself writes: the number of events, and the records the Ledger lost. -/
def logKeys : List Nat := [entKey 0xE000 2, entKey 0xD010 5]

theorem hostSend_noted (ks : List Nat) (s : State) (m : Out) : Noted ks s (hostSend s m) := by
  unfold hostSend
  split
  · exact ⟨⟨_, _, _, _, _, _, _, _, _, _, rfl⟩, List.suffix_cons _ _, fun _ _ => rfl⟩
  · exact ⟨⟨_, _, _, _, _, _, _, _, _, _, rfl⟩, List.suffix_rfl, fun _ _ => rfl⟩

theorem sendVector_noted (ks : List Nat) (s : State) (v : Nat) : Noted ks s (sendVector s v) := by
  unfold sendVector
  split
  · exact ⟨⟨_, _, _, _, _, _, _, _, _, _, rfl⟩, List.suffix_rfl, fun _ _ => rfl⟩
  · exact hostSend_noted ks s _

theorem devEvent_noted (ks : List Nat) (s : State) (bit : Nat) : Noted ks s (devEvent s bit) := by
  unfold devEvent
  split
  · exact Noted.refl ks s
  · split
    · exact Noted.refl ks s
    · exact Noted.trans (t := { s with devEvents := s.devEvents + 2 ^ bit })
        ⟨⟨_, _, _, _, _, _, _, _, _, _, rfl⟩, List.suffix_rfl, fun _ _ => rfl⟩ (sendVector_noted ks _ 0)

/-- Setting one entry changes that entry and nothing else. -/
theorem setEnt_noted (ks : List Nat) (s : State) (i u v : Nat) (h : entKey i u ∈ ks) : Noted ks s (setEnt s i u v) :=
  ⟨⟨_, _, _, _, _, _, _, _, _, _, rfl⟩, List.suffix_rfl, fun k hk => by
    exact SMap.find?_put_other _ _ _ _ (fun e => hk (e ▸ h))⟩

theorem bump_noted (ks : List Nat) (s : State) (i u : Nat) (h : entKey i u ∈ ks) : Noted ks s (bump s i u) :=
  setEnt_noted ks s i u _ h

theorem logRecord_noted (s : State) (code : Nat) (d : List Byte) : Noted logKeys s (logRecord s code d) := by
  have h : ∀ events, Noted logKeys s (devEvent (bump { s with events := events } 0xE000 2) 2) := fun events =>
    (Noted.trans (t := { s with events := events }) ⟨⟨_, _, _, _, _, _, _, _, _, _, rfl⟩, List.suffix_rfl, fun _ _ => rfl⟩
      (bump_noted logKeys _ 0xE000 2 (by simp [logKeys]))).trans (devEvent_noted _ _ 2)
  unfold logRecord
  dsimp only
  split
  · exact (h _).trans ⟨⟨_, _, _, _, _, _, _, _, _, _, rfl⟩, List.suffix_cons _ _, fun _ _ => rfl⟩
  · exact h _

theorem slotRecord_noted (s : State) (r : LRec) : Noted logKeys s (slotRecord s r) := by
  unfold slotRecord
  split
  · exact ⟨⟨_, _, _, _, _, _, _, _, _, _, rfl⟩, List.suffix_rfl, fun _ _ => rfl⟩
  · dsimp only
    split
    · rename_i d keep _
      exact (Noted.trans (t := { s with ledgerQ := keep, ledger := _ })
        ⟨⟨_, _, _, _, _, _, _, _, _, _, rfl⟩, List.suffix_rfl, fun _ _ => rfl⟩ (bump_noted logKeys _ 0xD010 5 (by simp [logKeys]))).trans (logRecord_noted _ _ _)
    · exact Noted.refl _ s

theorem queueRecord_noted (s : State) (ty : Nat) (p : List Byte) : Noted logKeys s (queueRecord s ty p) := by
  unfold queueRecord
  dsimp only
  split
  · exact (bump_noted logKeys _ 0xD010 5 (by simp [logKeys])).trans (logRecord_noted _ _ _)
  · have h : ∀ live ledger, Noted logKeys s { s with live := live, ledger := ledger } :=
      fun _ _ => ⟨⟨_, _, _, _, _, _, _, _, _, _, rfl⟩, List.suffix_rfl, fun _ _ => rfl⟩
    exact (h _ _).trans (slotRecord_noted _ _)

theorem queueSummary_noted (s : State) (r c : Nat) : Noted logKeys s (queueSummary s r c) := queueRecord_noted _ _ _

/-- All that logging an event can change. -/
theorem logEvent_noted (s : State) (code : Nat) (d : List Byte) : Noted logKeys s (logEvent s code d) := by
  have h := logRecord_noted s code d
  have last : ∀ (t : State) (m : SMap (Nat × Nat)), Noted logKeys t { t with summaries := m } :=
    fun t m => ⟨⟨_, _, _, _, _, _, _, _, _, _, rfl⟩, List.suffix_rfl, fun _ _ => rfl⟩
  unfold logEvent
  dsimp only
  split
  · exact h.trans (queueSummary_noted _ _ _)
  · split
    · split
      · exact (h.trans (queueSummary_noted _ _ _)).trans (last _ _)
      · split
        · exact (h.trans (queueSummary_noted _ _ _)).trans (last _ _)
        · exact h.trans (last _ _)
    · exact h

/-! ## What noting leaves -/

theorem Noted.mem {ks : List Nat} {s t : State} (h : Noted ks s t) : t.mem = s.mem := by
  obtain ⟨⟨_, _, _, _, _, _, _, _, _, _, rfl⟩, -, -⟩ := h
  rfl
theorem Noted.pending {ks : List Nat} {s t : State} (h : Noted ks s t) : t.pending = s.pending := by
  obtain ⟨⟨_, _, _, _, _, _, _, _, _, _, rfl⟩, -, -⟩ := h
  rfl
theorem Noted.free {ks : List Nat} {s t : State} (h : Noted ks s t) : t.free = s.free := by
  obtain ⟨⟨_, _, _, _, _, _, _, _, _, _, rfl⟩, -, -⟩ := h
  rfl
theorem Noted.time {ks : List Nat} {s t : State} (h : Noted ks s t) : t.time = s.time := by
  obtain ⟨⟨_, _, _, _, _, _, _, _, _, _, rfl⟩, -, -⟩ := h
  rfl
theorem Noted.cons {ks : List Nat} {s t : State} (h : Noted ks s t) : t.cons = s.cons := by
  obtain ⟨⟨_, _, _, _, _, _, _, _, _, _, rfl⟩, -, -⟩ := h
  rfl
theorem Noted.main {ks : List Nat} {s t : State} (h : Noted ks s t) : t.main = s.main := by
  obtain ⟨⟨_, _, _, _, _, _, _, _, _, _, rfl⟩, -, -⟩ := h
  rfl
theorem Noted.jobs {ks : List Nat} {s t : State} (h : Noted ks s t) : t.jobs = s.jobs := by
  obtain ⟨⟨_, _, _, _, _, _, _, _, _, _, rfl⟩, -, -⟩ := h
  rfl
theorem Noted.tiles {ks : List Nat} {s t : State} (h : Noted ks s t) : t.tiles = s.tiles := by
  obtain ⟨⟨_, _, _, _, _, _, _, _, _, _, rfl⟩, -, -⟩ := h
  rfl
theorem Noted.queues {ks : List Nat} {s t : State} (h : Noted ks s t) : t.queues = s.queues := by
  obtain ⟨⟨_, _, _, _, _, _, _, _, _, _, rfl⟩, -, -⟩ := h
  rfl

@[simp] theorem bump_mem (s : State) (i u : Nat) : (bump s i u).mem = s.mem := rfl
@[simp] theorem bump_cons (s : State) (i u : Nat) : (bump s i u).cons = s.cons := rfl
@[simp] theorem bump_pending (s : State) (i u : Nat) : (bump s i u).pending = s.pending := rfl
@[simp] theorem bump_free (s : State) (i u : Nat) : (bump s i u).free = s.free := rfl
@[simp] theorem bump_time (s : State) (i u : Nat) : (bump s i u).time = s.time := rfl
@[simp] theorem bump_out (s : State) (i u : Nat) : (bump s i u).out = s.out := rfl
@[simp] theorem drawFree_mem (s : State) : (drawFree s).2.mem = s.mem := rfl
@[simp] theorem logEvent_mem (s : State) (c : Nat) (d : List Byte) : (logEvent s c d).mem = s.mem := (logEvent_noted s c d).mem
@[simp] theorem logEvent_cons (s : State) (c : Nat) (d : List Byte) : (logEvent s c d).cons = s.cons := (logEvent_noted s c d).cons
@[simp] theorem queueRecord_mem (s : State) (ty : Nat) (p : List Byte) : (queueRecord s ty p).mem = s.mem :=
  (queueRecord_noted s ty p).mem
@[simp] theorem queueRecord_cons (s : State) (ty : Nat) (p : List Byte) : (queueRecord s ty p).cons = s.cons :=
  (queueRecord_noted s ty p).cons
@[simp] theorem devEvent_mem (s : State) (b : Nat) : (devEvent s b).mem = s.mem := (devEvent_noted [] s b).mem
@[simp] theorem devEvent_cons (s : State) (b : Nat) : (devEvent s b).cons = s.cons := (devEvent_noted [] s b).cons
@[simp] theorem sendVector_mem (s : State) (v : Nat) : (sendVector s v).mem = s.mem := (sendVector_noted [] s v).mem
@[simp] theorem sendVector_cons (s : State) (v : Nat) : (sendVector s v).cons = s.cons := (sendVector_noted [] s v).cons
@[simp] theorem setMain_mem (s : State) (m : MainState) : (setMain s m).mem = s.mem := devEvent_mem _ 1

/-- `t` is `s` after free values were drawn, and nothing else. -/
def Drawn (s t : State) : Prop := ∃ n, s.free ≤ n ∧ t = { s with free := n }

theorem Drawn.refl (s : State) : Drawn s s := ⟨s.free, le_refl _, rfl⟩

theorem Drawn.draw {s t : State} (h : Drawn s t) : Drawn s (drawFree t).2 := by
  obtain ⟨n, hn, rfl⟩ := h
  exact ⟨n + 1, Nat.le_succ_of_le hn, rfl⟩

/-- Counting the completions a discard owes draws free values and does nothing else. -/
theorem coveredOf_draws (s : State) (cause : Nat) : Drawn s (coveredOf s cause).2 := by
  unfold coveredOf
  refine foldl_keeps (fun p : List Comp × State => Drawn s p.2) _ (fun acc q h => ?_) _ _ (Drawn.refl s)
  split
  · exact h
  · refine foldl_keeps (fun p : List Comp × State => Drawn s p.2) _ (fun acc n h => ?_) _ _ h
    dsimp only
    split
    · exact h
    · split
      · exact h
      · exact h.draw

theorem coveredOf_mem (s : State) (cause : Nat) : (coveredOf s cause).2.mem = s.mem := by
  obtain ⟨n, -, h⟩ := coveredOf_draws s cause
  rw [h]

@[simp] theorem startDiscard_mem (s : State) (cause : Nat) : (startDiscard s cause).mem = s.mem := by
  unfold startDiscard
  simp only [logEvent_mem, sendVector_mem, devEvent_mem, bump_mem]
  exact coveredOf_mem _ cause

@[simp] theorem classB_mem (s : State) (cause : Nat) : (classB s cause).mem = s.mem := by
  unfold classB
  split <;> simp

end Sys2Proof.Machine
end

