-- ==== Sys2Proof/Laws/Memory.lean ====
section
/-! SUPPORT. Every operation on stored words keeps the form of memory: places strictly rising. -/

namespace Sys2Proof.Machine

/-! ## A word stored -/

/-- The cells of a word lie at its places and nowhere else. -/
theorem wordCells_bounds (w : List Byte) (base : Nat) (c : Host.Cell) (h : c ∈ wordCells base w) :
    base ≤ c.1 ∧ c.1 < base + w.length := by
  induction w generalizing base with
  | nil => simp [wordCells] at h
  | cons b r ih =>
    rcases List.mem_cons.1 h with rfl | h
    · simp
    · have := ih (base + 1) h
      simp only [List.length_cons]
      omega

theorem wordCells_wf (w : List Byte) (base : Nat) : Memory.wf (wordCells base w) := by
  induction w generalizing base with
  | nil => exact List.Pairwise.nil
  | cons b r ih =>
    exact List.Pairwise.cons (fun c h => (wordCells_bounds r (base + 1) c h).1) (ih (base + 1))

/-- The bytes of the cells of a word are the word. -/
@[simp] theorem wordCells_bytes (w : List Byte) (base : Nat) : (wordCells base w).map (·.2) = w := by
  induction w generalizing base with
  | nil => rfl
  | cons b r ih => simp [wordCells, ih]

/-- Storing a word keeps the form, whatever the word and its place. -/
theorem storeAt_wf (m : List Host.Cell) (base : Nat) (w : List Byte) (h : Memory.wf m) : Memory.wf (storeAt m base w) := by
  have hb := fun c => wordCells_bounds (w.take 128) base c
  have hl : (w.take 128).length ≤ 128 := List.length_take_le ..
  refine List.pairwise_append.2 ⟨List.pairwise_append.2 ⟨h.filter _, wordCells_wf _ _, fun x hx y hy => ?_⟩, h.filter _,
    fun x hx y hy => ?_⟩
  · have hx := of_decide_eq_true (List.mem_filter.1 hx).2
    have := hb y hy
    omega
  · have hy := of_decide_eq_true (List.mem_filter.1 hy).2
    rcases List.mem_append.1 hx with hx | hx
    · have hx := of_decide_eq_true (List.mem_filter.1 hx).2
      omega
    · have := hb x hx
      omega

/-! ## Operations that store nothing -/

@[simp] theorem freeWord_mem (s : State) (n : Nat) : (freeWord s n).2.mem = s.mem := rfl
/-- All that a field defect of a Vault row does: one record is queued. -/
theorem vaultDefect_queues (s : State) (b loc : Nat) (cols : List Nat) : ∃ p, vaultDefect s b loc cols = queueRecord s 2 p :=
  ⟨_, rfl⟩
@[simp] theorem vaultDefect_mem (s : State) (b loc : Nat) (cols : List Nat) : (vaultDefect s b loc cols).mem = s.mem := by
  obtain ⟨p, h⟩ := vaultDefect_queues s b loc cols
  rw [h, queueRecord_mem]
@[simp] theorem uncorrectableRead_mem (s : State) (rq : Requester) (a : Nat) (hbm : Bool) :
    (uncorrectableRead s rq a hbm).mem = s.mem := by
  unfold uncorrectableRead
  simp only [classB_mem, logEvent_mem, bump_mem]
/-- A read is within the latency-critical share of its channel, or beyond it and counted. -/
theorem lcCharge_cases (s : State) (how : How) (ch : Nat) : lcCharge s how ch = s ∨ lcCharge s how ch = bump s 0x6820 5 ∨
    ∃ m, lcCharge s how ch = { s with lcUsed := m } := by
  unfold lcCharge
  by_cases h : how.prio = 1
  · rw [if_pos h]
    exact .inr ((ite_eq_or_eq _ _ _).imp id (fun h => ⟨_, h⟩))
  · rw [if_neg h]
    exact .inl rfl
@[simp] theorem lcCharge_mem (s : State) (how : How) (ch : Nat) : (lcCharge s how ch).mem = s.mem := by
  rcases lcCharge_cases s how ch with h | h | ⟨m, h⟩ <;> rw [h]
  · exact bump_mem _ _ _
@[simp] theorem putLine_mem (s : State) (l : Line) : (putLine s l).mem = s.mem := rfl
@[simp] theorem dropRep_mem (s : State) (b kind loc : Nat) : (dropRep s b kind loc).mem = s.mem := rfl
@[simp] theorem mendLine_mem (s : State) (b line sec : Nat) (w : List Byte) : (mendLine s b line sec w).mem = s.mem := rfl
@[simp] theorem freeSoft_mem (s : State) (b kind loc : Nat) : (freeSoft s b kind loc).mem = s.mem := rfl
@[simp] theorem noReads_mem (s : State) (a : Nat) : (noReads s a).mem = s.mem := rfl
@[simp] theorem wakeStack_mem (s : State) (b line : Nat) : (wakeStack s b line).mem = s.mem := by
  unfold wakeStack wakeModule
  split <;> rfl
@[simp] theorem countAt_mem (s : State) (how : How) (sub : Nat) : (countAt s how sub).mem = s.mem := by
  unfold countAt
  split <;> rfl
@[simp] theorem stall_mem (s : State) (b line : Nat) : (stall s b line).mem = s.mem := by
  unfold stall
  split <;> rfl
@[simp] theorem touch_mem (s : State) (how : How) (t : Touch) : (touch s how t).mem = s.mem := by
  unfold touch
  split
  · rfl
  · split <;> rfl
@[simp] theorem touchRead_mem (s : State) (how : How) (a : Nat) : (touchRead s how a).mem = s.mem := touch_mem _ _ _
@[simp] theorem touchWrite_mem (s : State) (how : How) (a : Nat) : (touchWrite s how a).mem = s.mem := touch_mem _ _ _
@[simp] theorem touchModify_mem (s : State) (how : How) (a : Nat) (red : Bool) : (touchModify s how a red).mem = s.mem :=
  touch_mem _ _ _
@[simp] theorem fillWay_mem (s : State) (l : Line) : (fillWay s l).mem = s.mem := by
  unfold fillWay
  rw [putLine_mem]
  exact foldl_keeps (fun t : State => t.mem = s.mem) (fun t i => freeSoft t l.b 1 (lineLoc t l i)) (fun _ _ h => h) _ _ rfl
/-- The entry of a word is found or made; at most an older one leaves the table, or a full table is counted and noted. -/
theorem repEntry_cases (s : State) (b kind loc : Nat) : (repEntry s b kind loc).2 = s ∨
    (∃ x y z, (repEntry s b kind loc).2 = dropRep s x y z) ∨
    (repEntry s b kind loc).2 = logEvent (bump s 0x7820 5) 0x7804 (leBytes 1 b) := by
  unfold repEntry
  cases s.repeats.find? (sameRep b kind loc) with
  | some r => exact .inl rfl
  | none =>
    by_cases h : (s.repeats.filter (fun r => r.b == b)).length < 64
    · simp only [h, if_true]
      exact .inl trivial
    · simp only [h, if_false]
      cases oldestSoft s.repeats b with
      | some x => exact .inr (.inl ⟨x.b, x.kind, x.loc, rfl⟩)
      | none =>
        right
        right
        rfl
theorem repEntry_mem (s : State) (b kind loc : Nat) : (repEntry s b kind loc).2.mem = s.mem := by
  rcases repEntry_cases s b kind loc with h | ⟨_, _, _, h⟩ | h
  · rw [h]
  · rw [h, dropRep_mem]
  · rw [h, logEvent_mem, bump_mem]

/-! ## Operations that store words -/

theorem putCode_wf (s : State) (key : Nat) (w : List Byte) (h : Memory.wf s.mem) : Memory.wf (putCode s key w).mem :=
  storeAt_wf _ _ _ h

theorem chanWrite_wf (s : State) (b line sec : Nat) (w : List Byte) (h : Memory.wf s.mem) :
    Memory.wf (chanWrite s b line sec w).mem := putCode_wf _ _ _ h

theorem readCode_wf (s : State) (key c : Nat) (u : Upset) (h : Memory.wf s.mem) : Memory.wf (readCode s key c u).2.mem := by
  unfold readCode
  split
  · split
    · exact h
    · exact storeAt_wf _ _ _ h
  · exact h

/-- A correction put into the repeat table keeps the form, if rewriting the word does. -/
theorem repUpdate_wf (s : State) (b kind loc : Nat) (errs : List (Nat × Byte)) (f : State → State)
    (hf : ∀ s : State, Memory.wf s.mem → Memory.wf (f s).mem) (h : Memory.wf s.mem) :
    Memory.wf (repUpdate s b kind loc errs f).2.mem := by
  have he : Memory.wf (repEntry s b kind loc).2.mem := repEntry_mem s b kind loc ▸ h
  unfold repUpdate
  generalize repEntry s b kind loc = e at *
  obtain ⟨_ | r, s⟩ := e
  · exact he
  · dsimp only
    generalize repStep r _ _ _ _ = p
    have h1 : Memory.wf (if p.2 = true then bump (f (putRep s p.1)) 0x7820 3 else putRep s p.1).mem := by
      split
      · rw [bump_mem]
        exact hf _ he
      · exact he
    split
    · exact h1
    · exact h1

theorem noteVault_wf (s : State) (b loc : Nat) (errs : List (Nat × Byte)) (f : State → State)
    (hf : ∀ s : State, Memory.wf s.mem → Memory.wf (f s).mem) (h : Memory.wf s.mem) :
    Memory.wf (noteVault s b loc errs f).mem := by
  have hr := repUpdate_wf s b 1 loc errs f hf h
  unfold noteVault
  generalize repUpdate s b 1 loc errs f = p at *
  obtain ⟨_ | cols, s⟩ := p
  · exact hr
  · exact vaultDefect_mem s b loc cols ▸ hr

theorem writeBackSector_wf (s : State) (l : Line) (sw : Nat × List Byte) (h : Memory.wf s.mem) :
    Memory.wf (writeBackSector s l sw).mem := by
  unfold writeBackSector
  split
  · exact chanWrite_wf _ _ _ _ _ h
  · refine chanWrite_wf _ _ _ _ _ (noteVault_wf _ _ _ _ _ (fun s hs => hs) ?_)
    rwa [bump_mem]
  · exact chanWrite_wf _ _ _ _ _ h
  · refine chanWrite_wf _ _ _ _ _ ?_
    rwa [logEvent_mem, bump_mem, bump_mem]

theorem writeBack_wf (s : State) (l : Line) (h : Memory.wf s.mem) : Memory.wf (writeBack s l).mem :=
  foldl_keeps (fun s : State => Memory.wf s.mem) _ (fun s sw h => writeBackSector_wf s l sw h) _ s h

theorem allocLine_wf (s : State) (b line : Nat) (ss : List (List Byte)) (d : Bool) (p : Option Nat) (pin : Bool)
    (h : Memory.wf s.mem) : Memory.wf (allocLine s b line ss d p pin).1.mem := by
  unfold allocLine
  split
  · dsimp only
    rwa [fillWay_mem]
  · split
    · exact h
    · rename_i w v _
      have hv : Memory.wf (match v with
          | some l => dropLine (if l.dirty then writeBack s l else s) l.b l.line
          | none => s).mem := by
        cases v with
        | none => exact h
        | some l =>
          dsimp only
          rw [dropLine_mem]
          split
          · exact writeBack_wf _ _ h
          · exact h
      dsimp only
      rw [fillWay_mem]
      exact hv

theorem copySector_wf (s : State) (b line sec : Nat) (h : Memory.wf s.mem) : Memory.wf (copySector s b line sec).2.2.2.mem := by
  have hr := readCode_wf s (lineKey s b line sec) 8 [] h
  unfold copySector
  generalize readCode s (lineKey s b line sec) 8 [] = p at *
  obtain ⟨_ | ⟨d, e⟩ | _ | _, s⟩ := p
  · exact hr
  · exact hr
  · exact hr
  · dsimp only
    rwa [logEvent_mem, bump_mem, bump_mem]

theorem pinSector_wf (s : State) (b line sec : Nat) (h : Memory.wf s.mem) : Memory.wf (pinSector s b line sec).2.mem := by
  have hc := copySector_wf s b line sec h
  unfold pinSector
  generalize copySector s b line sec = p at *
  obtain ⟨w, d, e, s⟩ := p
  cases e with
  | nil => exact hc
  | cons x e =>
    dsimp only at *
    have hr := repUpdate_wf s b 2 (sectorLoc s b line sec) (x :: e) (fun s => putCode s (lineKey s b line sec) (rsEncode 8 d))
      (fun s hs => putCode_wf _ _ _ hs) hc
    generalize repUpdate s b 2 (sectorLoc s b line sec) (x :: e) _ = q at *
    obtain ⟨_ | cols, s⟩ := q <;> exact hr

theorem pinLine_wf (s : State) (b l : Nat) (h : Memory.wf s.mem) : Memory.wf (pinLine s b l).mem := by
  unfold pinLine
  split
  · exact h
  · exact allocLine_wf _ _ _ _ _ _ _ (foldl_keeps (fun p : List (List Byte) × State => Memory.wf p.2.mem) _
      (fun p i hp => pinSector_wf _ _ _ _ hp) _ _ h)

theorem remapRow_wf (s : State) (b ch row : Nat) (fresh : Bool) (h : Memory.wf s.mem) :
    Memory.wf (remapRow s b ch row fresh).mem := by
  have hp := fun ls : List Nat => foldl_keeps (fun s : State => Memory.wf s.mem) (fun s l => pinLine s b l)
    (fun s l hs => pinLine_wf s b l hs) ls s h
  unfold remapRow
  dsimp only
  split
  · rw [logEvent_mem]
    split
    · rw [queueRecord_mem]
      exact h
    · exact h
  · rw [logEvent_mem]
    split
    · rw [queueRecord_mem, setEnt_mem, setEnt_mem, setChan_mem]
      exact hp _
    · rw [setEnt_mem, setEnt_mem, setChan_mem]
      exact hp _

theorem noteHbm_wf (s : State) (b loc : Nat) (errs : List (Nat × Byte)) (f : State → State)
    (hf : ∀ s : State, Memory.wf s.mem → Memory.wf (f s).mem) (h : Memory.wf s.mem) :
    Memory.wf (noteHbm s b loc errs f).mem := by
  have hr := repUpdate_wf s b 2 loc errs f hf h
  unfold noteHbm
  generalize repUpdate s b 2 loc errs f = p at *
  obtain ⟨_ | cols, s⟩ := p
  · exact hr
  · rw [dropRep_mem]
    exact remapRow_wf _ _ _ _ _ hr

theorem sectorCopy_wf (s : State) (b line sec : Nat) (h : Memory.wf s.mem) : Memory.wf (sectorCopy s b line sec).2.mem := by
  have hc := copySector_wf s b line sec h
  unfold sectorCopy
  generalize copySector s b line sec = p at *
  obtain ⟨w, d, e, s⟩ := p
  cases e with
  | nil => exact hc
  | cons x e => exact noteHbm_wf _ _ _ _ _ (fun s hs => putCode_wf _ _ _ hs) hc

theorem readVault_wf (s : State) (rq : Requester) (a key b loc : Nat) (tracked : Bool) (u : Upset) (h : Memory.wf s.mem) :
    Memory.wf (readVault s rq a key b loc tracked u).2.mem := by
  have hr := readCode_wf s key 6 u h
  unfold readVault
  generalize readCode s key 6 u = p at *
  obtain ⟨_ | ⟨d, e⟩ | _ | _, s⟩ := p
  · exact hr
  · dsimp only
    split
    · exact noteVault_wf _ _ _ _ _ (fun s hs => putCode_wf _ _ _ hs) hr
    · exact hr
  · exact hr
  · rw [uncorrectableRead_mem]
    refine putCode_wf _ key (poisonWord 6) ?_
    split <;> exact hr

theorem readChan_wf (s : State) (rq : Requester) (b line sec : Nat) (u : Upset) (h : Memory.wf s.mem) :
    Memory.wf (readChan s rq b line sec u).2.mem := by
  have hr := readCode_wf s (lineKey s b line sec) 8 u h
  unfold readChan
  generalize lineKey s b line sec = key at *
  dsimp only
  generalize readCode s key 8 u = p at *
  obtain ⟨_ | ⟨d, e⟩ | _ | _, s⟩ := p
  · exact hr
  · refine noteHbm_wf _ _ _ _ _ (fun s hs => putCode_wf _ _ _ hs) ?_
    rwa [bump_mem]
  · exact hr
  · dsimp only
    rw [uncorrectableRead_mem]
    exact chanWrite_wf _ _ _ _ _ hr

theorem fetchLine_wf (s : State) (rq : Requester) (b line : Nat) (sec : Option Nat) (u : Upset) (h : Memory.wf s.mem) :
    Memory.wf (fetchLine s rq b line sec u).2.2.mem := by
  refine foldl_keeps (fun p : RdRes × List (List Byte) × State => Memory.wf p.2.2.mem) _ (fun p i hp => ?_) _ _ h
  dsimp only
  split
  · exact readChan_wf _ _ _ _ _ _ hp
  · exact sectorCopy_wf _ _ _ _ hp

theorem afterHit_wf (s : State) (how : How) (a : Nat) (l : Line) (wrote : Bool) (h : Memory.wf s.mem) :
    Memory.wf (afterHit s how a l wrote).mem := by
  unfold afterHit
  split
  · split
    · exact h
    · split
      · exact writeBack_wf _ _ h
      · rw [dropLine_mem]
        split <;> exact h
  · split <;> exact h
  · exact h

theorem readMiss_wf (s : State) (how : How) (a b line sec : Nat) (u : Upset) (h : Memory.wf s.mem) :
    Memory.wf (readMiss s how a b line sec u).2.mem := by
  have hc : ∀ c, Memory.wf (lcCharge (countAt s how 6) how c).mem := fun c => by simpa using h
  unfold readMiss
  dsimp only
  split
  · exact allocLine_wf _ _ _ _ _ _ _ (fetchLine_wf _ _ _ _ _ _ (hc _))
  · exact readChan_wf _ _ _ _ _ _ (hc _)

theorem refetch_wf (s : State) (how : How) (a : Nat) (l : Line) (sec : Nat) (h : Memory.wf s.mem) :
    Memory.wf (refetch s how a l sec).2.mem := by
  have hd : Memory.wf (logEvent (bump (bump (dropLine s l.b l.line) 0x7800 0xA) 0x7800 4) 0x7802 (leBytes 8 a)).mem := by
    rwa [logEvent_mem, bump_mem, bump_mem, dropLine_mem]
  unfold refetch
  generalize logEvent (bump (bump (dropLine s l.b l.line) 0x7800 0xA) 0x7800 4) 0x7802 (leBytes 8 a) = s at *
  have hc : ∀ c, Memory.wf (lcCharge (countAt s how 6) how c).mem := fun c => by simpa using hd
  have ha := fun r : RdRes × List (List Byte) × State => fun hr : Memory.wf r.2.2.mem =>
    allocLine_wf r.2.2 l.b l.line r.2.1 false l.prot false hr
  dsimp only
  split
  · exact afterHit_wf _ _ _ _ _ (ha _ (fetchLine_wf _ _ _ _ _ _ (hc _)))
  · exact ha _ (fetchLine_wf _ _ _ _ _ _ (hc _))

theorem readHbm_wf (s : State) (how : How) (a b line sec : Nat) (u : Upset) (h : Memory.wf s.mem) :
    Memory.wf (readHbm s how a b line sec u).2.mem := by
  have hc : Memory.wf (countAt s how 5).mem := by simpa using h
  have hst : Memory.wf (stall s b line).mem := by simpa using h
  unfold readHbm
  split
  · exact hst
  split
  · split
    · exact hst
    · exact readMiss_wf _ _ _ _ _ _ _ h
  · dsimp only
    split
    · exact afterHit_wf _ _ _ _ _ hc
    · refine afterHit_wf _ _ _ _ _ (noteVault_wf _ _ _ _ _ (fun s hs => hs) ?_)
      rw [bump_mem, countAt_mem]
      exact h
    · exact afterHit_wf _ _ _ _ _ hc
    · split
      · rw [uncorrectableRead_mem, putLine_mem, countAt_mem, freeSoft_mem]
        exact h
      · split
        · exact hst
        · exact refetch_wf _ _ _ _ _ h

theorem placeCode_wf (s : State) (a : Nat) (d : List Byte) (h : Memory.wf s.mem) : Memory.wf (placeCode s a d).mem := by
  unfold placeCode
  split
  · exact putCode_wf _ _ _ h
  · exact putCode_wf _ _ _ h
  · exact storeAt_wf _ _ _ h
  · exact h

theorem settle_wf (s : State) (a : Nat) (h : Memory.wf s.mem) : Memory.wf (settle s a).mem := by
  unfold settle
  split
  · dsimp only
    split
    · split
      · exact h
      · exact placeCode_wf _ _ _ h
    · split
      · exact h
      · exact placeCode_wf _ _ _ h
  · exact h

/-! ## The operations the commands use -/

/-- A word read keeps the form. -/
theorem readWord_wf (s : State) (how : How) (a : Nat) (u : Upset) (h : Memory.wf s.mem) :
    Memory.wf (readWord s how a u).2.mem := by
  have hs := settle_wf (touchRead s how a) a ((touchRead_mem s how a).symm ▸ h)
  unfold readWord
  generalize settle (touchRead s how a) a = s' at *
  dsimp only
  split
  · exact readVault_wf _ _ _ _ _ _ _ _ hs
  · exact readVault_wf _ _ _ _ _ _ _ _ hs
  · exact readHbm_wf _ _ _ _ _ _ _ ((wakeStack_mem _ _ _).symm ▸ hs)
  · exact hs

theorem writeHbm_wf (s : State) (how : How) (a b line sec : Nat) (w : List Byte) (h : Memory.wf s.mem) :
    Memory.wf (writeHbm s how a b line sec w).mem := by
  unfold writeHbm
  split
  · exact (stall_mem _ _ _).symm ▸ h
  dsimp only
  split
  · exact afterHit_wf _ _ _ _ _ ((countAt_mem _ _ _).symm ▸ h)
  · split
    · exact (stall_mem _ _ _).symm ▸ h
    · split
      · exact chanWrite_wf _ _ _ _ _ ((countAt_mem _ _ _).symm ▸ h)
      · exact allocLine_wf _ _ _ _ _ _ _ (fetchLine_wf _ _ _ _ _ _ ((countAt_mem _ _ _).symm ▸ h))

/-- A codeword written keeps the form. -/
theorem writeCode_wf (s : State) (how : How) (a : Nat) (w : List Byte) (h : Memory.wf s.mem) :
    Memory.wf (writeCode s how a w).mem := by
  have ht : Memory.wf (touchWrite s how a).mem := (touchWrite_mem s how a).symm ▸ h
  unfold writeCode
  generalize touchWrite s how a = s' at *
  have hs : Memory.wf (noReads (if indetAt s' a then { s' with indet := carve s'.indet a } else s') a).mem := by
    rw [noReads_mem]
    split <;> exact ht
  dsimp only
  split
  · exact putCode_wf _ _ _ hs
  · exact putCode_wf _ _ _ hs
  · exact writeHbm_wf _ _ _ _ _ _ _ ((wakeStack_mem _ _ _).symm ▸ hs)
  · exact hs

theorem writeWord_wf (s : State) (how : How) (a : Nat) (d : List Byte) (h : Memory.wf s.mem) :
    Memory.wf (writeWord s how a d).mem := writeCode_wf _ _ _ _ h

theorem writePoison_wf (s : State) (how : How) (a : Nat) (h : Memory.wf s.mem) : Memory.wf (writePoison s how a).mem :=
  writeCode_wf _ _ _ _ (by simpa using h)

/-- A word read and written back changed keeps the form. -/
theorem modifyWord_wf (s : State) (how : How) (a : Nat) (red : Bool) (f : List Byte → List Byte) (h : Memory.wf s.mem) :
    Memory.wf (modifyWord s how a red f).2.mem := by
  unfold modifyWord
  generalize (if red then { how with hint := .stream } else how) = k
  have hr := readWord_wf (touchModify s k a red) k.readHalf a [] ((touchModify_mem s k a red).symm ▸ h)
  dsimp only
  generalize readWord (touchModify s k a red) k.readHalf a [] = p at *
  obtain ⟨_ | _ | _, s⟩ := p
  · exact writeWord_wf _ _ _ _ hr
  · exact hr
  · exact hr

/-- Part of a word written keeps the form. -/
theorem writeBytes_wf (s : State) (how : How) (a : Nat) (d : List Byte) (h : Memory.wf s.mem) :
    Memory.wf (writeBytes s how a d).2.mem := by
  unfold writeBytes
  dsimp only
  split
  · exact writeWord_wf _ _ _ _ h
  · exact modifyWord_wf _ _ _ _ _ h

/-- A line written whole keeps the form. -/
theorem writeLine_wf (s : State) (how : How) (a : Nat) (ws : List (List Byte)) (h : Memory.wf s.mem) :
    Memory.wf (writeLine s how a ws).mem := by
  have hw := foldl_keeps (fun s : State => Memory.wf s.mem) (fun s i => writeCode s how (a + 64 * i) (ws.getD i []))
    (fun s i hs => writeCode_wf _ _ _ _ hs) (List.range 4) s h
  have ht := foldl_keeps (fun s : State => Memory.wf s.mem) (fun s i => touchWrite s how (a + 64 * i))
    (fun s i hs => (touchWrite_mem s how _).symm ▸ hs) (List.range 4) s h
  unfold writeLine
  split
  · dsimp only
    split
    · exact (stall_mem _ _ _).symm ▸ h
    split
    · exact hw
    · split
      · exact (stall_mem _ _ _).symm ▸ h
      · have hk := fun (l : List Nat) (s : State) (b line : Nat) (hs : Memory.wf s.mem) =>
          foldl_keeps (fun s : State => Memory.wf s.mem)
            (fun s i => freeSoft (noReads { s with indet := carve s.indet (a + 64 * i) } (a + 64 * i)) b 2 (sectorLoc s b line i))
            (fun s i hs => hs) l s hs
        refine allocLine_wf _ _ _ _ _ _ _ ?_
        rw [bump_mem]
        refine hk _ _ _ _ ?_
        rw [wakeStack_mem]
        exact ht
  · exact hw

/-- Memory at reset lists nothing, so it is in its form. -/
theorem reset_mem_wf : Memory.wf State.reset.mem := List.Pairwise.nil

end Sys2Proof.Machine
end

