-- ==== Sys2Proof/Laws/Ops.lean ====
section
/-! SUPPORT. One lemma for each shared operation: what it leaves, and when it does nothing. -/

namespace Sys2Proof.Machine

/-! ## What was set is read -/

@[simp] theorem tile_setTile (s : State) (t : Nat) (v : Tile) : tile (setTile s t v) t = v := SMap.get_set_same ..
theorem tile_setTile_other (s : State) (t u : Nat) (v : Tile) (h : u ≠ t) : tile (setTile s t v) u = tile s u :=
  SMap.get_set_other _ _ _ _ _ _ h
@[simp] theorem queue_setQueue (s : State) (q : Nat) (v : Queue) : queue (setQueue s q v) q = v := SMap.get_set_same ..
theorem queue_setQueue_other (s : State) (q p : Nat) (v : Queue) (h : p ≠ q) : queue (setQueue s q v) p = queue s p :=
  SMap.get_set_other _ _ _ _ _ _ h
@[simp] theorem chan_setChan (s : State) (c : Nat) (v : Chan) : chan (setChan s c v) c = v := SMap.get_set_same ..
theorem chan_setChan_other (s : State) (c d : Nat) (v : Chan) (h : d ≠ c) : chan (setChan s c v) d = chan s d :=
  SMap.get_set_other _ _ _ _ _ _ h
@[simp] theorem port_setPort (s : State) (p : Nat) (v : Port) : port (setPort s p v) p = v := SMap.get_set_same ..
theorem port_setPort_other (s : State) (p q : Nat) (v : Port) (h : q ≠ p) : port (setPort s p v) q = port s q :=
  SMap.get_set_other _ _ _ _ _ _ h
@[simp] theorem flagCount_setFlag (s : State) (t f n : Nat) : flagCount (setFlag s t f n) t f = n := by
  simp [flagCount, setFlag]
theorem flagCount_setFlag_other (s : State) (t f u g n : Nat) (h : u ≠ t ∨ g ≠ f) :
    flagCount (setFlag s t f n) u g = flagCount s u g := by
  unfold flagCount setFlag
  by_cases e : u = t
  · subst e
    simp only [tile_setTile]
    exact SMap.get_set_other _ _ _ _ _ _ (h.resolve_left (fun k => k rfl))
  · rw [tile_setTile_other _ _ _ _ e]

/-- An entry that is no CONS value reads what it was set to. -/
theorem rd_setEnt (s : State) (i u v : Nat) (h : ∀ r, findRow i u = some r → r.acc ≠ .cons) : rd (setEnt s i u v) i u = v := by
  unfold rd
  split
  · rename_i r hr
    simp [h r hr]
  · simp

/-- Setting one entry leaves every entry with another key. -/
theorem rd_setEnt_other (s : State) (i u v j w : Nat) (h : entKey j w ≠ entKey i u) : rd (setEnt s i u v) j w = rd s j w := by
  unfold rd
  split
  · split
    · rfl
    · exact SMap.get_put_other _ _ _ _ _ h
  · exact SMap.get_put_other _ _ _ _ _ h

/-- A counter never falls and rises by at most what was counted, where its type has room for what it holds. -/
theorem rd_bumpBy (s : State) (i u n : Nat) (r : EntRow) (h : findRow i u = some r) (hc : r.acc ≠ .cons)
    (hf : rd s i u ≤ 2 ^ (8 * tySize r.ty) - 1) :
    rd s i u ≤ rd (bumpBy s i u n) i u ∧ rd (bumpBy s i u n) i u ≤ rd s i u + n := by
  have e : rd (bumpBy s i u n) i u = min (2 ^ (8 * tySize r.ty) - 1) (rd s i u + n) := by
    unfold bumpBy
    rw [h]
    exact rd_setEnt _ _ _ _ (fun r' hr' => by cases h.symm.trans hr'; exact hc)
  omega

/-! ## The outcome of a command -/

/-- A command that ends in `t` answers `t`, with the change of the visible state noted. -/
theorem noteState_noted (s t : State) : Noted [] t (noteState s t) := by
  unfold noteState
  split
  · exact devEvent_noted [] t 1
  · exact Noted.refl [] t

/-- A state in which nothing touched is left to charge and nothing is out of reach is a state between commands. -/
theorem rested_same (t : State) (hc : t.touched = []) (hs : t.stalled = none) : rested t = t := by
  unfold rested chargeAll
  rw [hc, ← hs]
  rfl

/-- The outcome of a command that leaves nothing to charge is its state, with the change of the visible state noted. -/
theorem ends_noted (s t : State) (hc : t.touched = []) (hs : t.stalled = none) : ends s t = .next (noteState s t) := by
  rw [ends, rested_same t hc hs]

/-- Where the visible state does not change either, the outcome is the state itself. -/
theorem ends_same (s t : State) (hc : t.touched = []) (hs : t.stalled = none) (h : devState t = devState s) :
    ends s t = .next t := by
  rw [ends_noted s t hc hs]
  simp [noteState, h]

@[simp] theorem noteState_mem (s t : State) : (noteState s t).mem = t.mem := (noteState_noted s t).mem
@[simp] theorem noteState_pending (s t : State) : (noteState s t).pending = t.pending := (noteState_noted s t).pending
@[simp] theorem noteState_free (s t : State) : (noteState s t).free = t.free := (noteState_noted s t).free
@[simp] theorem noteState_time (s t : State) : (noteState s t).time = t.time := (noteState_noted s t).time
@[simp] theorem noteState_cons (s t : State) : (noteState s t).cons = t.cons := (noteState_noted s t).cons
@[simp] theorem noteState_main (s t : State) : (noteState s t).main = t.main := (noteState_noted s t).main
@[simp] theorem noteState_jobs (s t : State) : (noteState s t).jobs = t.jobs := (noteState_noted s t).jobs
@[simp] theorem noteState_tiles (s t : State) : (noteState s t).tiles = t.tiles := (noteState_noted s t).tiles
@[simp] theorem noteState_queues (s t : State) : (noteState s t).queues = t.queues := (noteState_noted s t).queues

/-- An outcome of `ends` is a next state that differs from the rested state by a note at most. -/
theorem ends_next (s t u : State) (h : ends s t = .next u) : Noted [] (rested t) u := by
  cases h
  exact noteState_noted s (rested t)

/-! ## Faults of a job -/

/-- A fault of a job that does not stand changes nothing. -/
theorem jobFault_absent (s : State) (j c l w : Nat) (h : SMap.find? s.jobs j = none) : jobFault s j c l w = s := by
  simp [jobFault, h]

/-- Outside READY no job faults. -/
theorem jobFault_notReady (s : State) (j c l w : Nat) (h : s.main ≠ .ready) : jobFault s j c l w = s := by
  unfold jobFault
  split
  · rfl
  · simp [h]

theorem tileFault_free (s : State) (t c : Nat) (h : (tile s t).job = none) : tileFault s t c = s := by
  simp [tileFault, h]

/-! ## A word at decode -/

/-- A word at decode either is not this command's, faults its tile with a cause, or runs. -/
theorem issue_cases (s : State) (t : Nat) (mine : Nat → Bool) (run : State → Nat → State) :
    issue s t mine run = s ∨ (∃ c, issue s t mine run = tileFault s t c) ∨
      ∃ w, headWord s t = some (some w) ∧ mine w = true ∧ checkWord s t w = none ∧ issue s t mine run = run s w := by
  unfold issue
  split
  · exact .inl rfl
  · exact .inr (.inl ⟨_, rfl⟩)
  · rename_i w hw
    split
    · exact .inl rfl
    · rename_i hm
      split
      · exact .inr (.inl ⟨_, rfl⟩)
      · rename_i hc
        split
        · exact .inr (.inl ⟨_, rfl⟩)
        · exact .inr (.inr ⟨w, hw, by simpa using hm, hc, rfl⟩)

/-- A word whose engine cannot take it waits: nothing changes. -/
theorem submit_waits (s : State) (t : Nat) (e : Engine) (w : Nat) (r x : List (Nat × Nat)) (h : canIssue s t e r x = false) :
    submit s t e w r x = s := by
  simp [submit, h]

/-- A tile whose engines hold nothing to do does not move. -/
theorem engineStep_idle (s : State) (t : Nat) (e : Engine) (h : currentOf (tile s t) e = none) : engineStep s t e = (false, s) := by
  unfold engineStep
  rw [h]
  cases jobOf s t <;> rfl

theorem enginesGo_idle (s : State) (t : Nat) (h : ∀ e, currentOf (tile s t) e = none) : enginesGo s t = s := by
  simp [enginesGo, engineRounds, enginesRun, engineStep_idle _ _ _ (h _)]

/-! ## The queue of commands -/

/-- The block idles while no command waits. -/
theorem step_idle (s : State) (h : s.pending = []) : step s = .next s := by
  simp [step, h]

end Sys2Proof.Machine
end

