-- ==== Sys2Proof/WellFormed.lean ====
section
/-! DEFINITION. Which commands are well formed: operands within the ranges the part's numbering gives them. A meaning
leaves the state as it is for an operand outside its range. -/

namespace Sys2Proof

/-- Logical tiles of the largest variant (Table 0.1). -/
def tileIdx (t : Nat) : Bool := decide (t < 3072)
/-- B-dies (R23). -/
def dieIdx (b : Nat) : Bool := decide (b < 6)
/-- Slice sites of a B-die: 512 of the grid and 16 spares (R148, R150). -/
def siteIdx (x : Nat) : Bool := decide (x < 528)
/-- HBM channels by module index (R185). -/
def chanIdx (c : Nat) : Bool := decide (c < 384)
/-- HBM stacks (R185). -/
def stackIdx (m : Nat) : Bool := decide (m < 12)
/-- Halves (R23). -/
def halfIdx (h : Nat) : Bool := decide (h < 24)
/-- Queue pairs (R261). -/
def queueIdx (q : Nat) : Bool := decide (q < 64)
/-- Fragor ports, and 16 for a packet that comes from the part itself. -/
def portIdx (p : Nat) : Bool := decide (p < 17)
/-- A device address (R153). -/
def devAddr (a : Nat) : Bool := decide (a < 2 ^ 48)
/-- Symbols of a stored word and their error values (Table 8.1). -/
def upsetOk (u : Upset) : Bool := u.all (fun e => decide (e.1 < 72) && e.2 != 0#8)
/-- The two widths of a compare-and-swap or fetch-add, and their alignment (Table 5.6). -/
def atomAddr (a : Nat) (wide : Bool) : Bool := devAddr a && a % (if wide then 8 else 4) == 0
/-- A word of 64 bytes (R161). -/
def wordAddr (a : Nat) : Bool := devAddr a && a % 64 == 0
/-- A packet as long as its header says (R299). -/
def packetOk (p : Packet) : Bool := decide (p.payload.length ≤ 256)
/-- A die-to-die link direction (R333). -/
def linkIdx (pair dir : Nat) : Bool := decide (pair < 7) && decide (dir < 2)
/-- A transport; the address of a Fragor source has 15 bits (R299, R419). -/
def transportOk (tr : Transport) : Bool :=
  match tr with
  | .fragor a => decide (a < 2 ^ 15)
  | _ => true
/-- A Catalogue request whose data fills its LENGTH (R417). -/
def requestOk (r : CatReq) : Bool := decide (r.data.length < 2 ^ 16)
/-- A BAR0 access: 4 or 8 bytes, naturally aligned, within 64 MiB (R258). -/
def bar0Access (off size : Nat) : Bool := (size == 4 || size == 8) && off % size == 0 && decide (off < 2 ^ 26)

/-- The well-formed commands. -/
def Instr.wellFormed : Instr → Bool
  | .lds t | .mma t | .conv t | .pqs t | .bds t | .topkOpen t | .topkLoad t | .topkEmit t | .topkClose t => tileIdx t
  | .vecMov t | .vecAdd t | .vecSub t | .vecMul t | .vecFma t | .vecMin t | .vecMax t | .vecExp2 t | .vecLog2 t => tileIdx t
  | .vecRcp t | .vecRsqrt t | .vecRsum t | .vecRmin t | .vecRmax t | .vecMxq t => tileIdx t
  | .move t | .movex t | .gather t | .scatteradd t | .sig t | .wait t | .waitp t | .bar t | .fence t => tileIdx t
  | .agenBase t | .agenBounds t | .agenLoop t | .endCmd t | .programFetch t | .arrayPassDrain t | .reservedOpcode t => tileIdx t
  | .engineCommandComplete t _ e => tileIdx t && decide (e.pos < 8)
  | .flagSignal t f n => tileIdx t && decide (f < 48) && n != 0#16
  | .waitWatchdog t | .tileQuiet t => tileIdx t
  | .loanDecision b => dieIdx b
  | .borrowerConfirm x y _ => halfIdx x && halfIdx y
  | .homeRead _ a _ u => wordAddr a && upsetOk u.stored && upsetOk u.transit
  | .homeWrite _ a _ d => wordAddr a && upsetOk d.transit
  | .homeSubwordWrite _ a _ d => devAddr a && !d.isEmpty && decide (a % 64 + d.length ≤ 64 ∧ d.length < 64)
  | .redInt32Add _ a _ | .redInt64Add _ a _ | .redWidePartialAdd _ a _ | .redBf16Add _ a _ | .redFp32Add _ a _ => wordAddr a
  | .redInt32Min _ a _ | .redInt32Max _ a _ | .redFp32Min _ a _ | .redFp32Max _ a _ => wordAddr a
  | .redFp32OrderedAdd _ a cid _ => wordAddr a && decide (cid < 2 ^ 16)
  | .compareAndSwap _ a w _ _ => atomAddr a w
  | .fetchAdd _ a w _ => atomAddr a w
  | .hbmLineFill b line u => dieIdx b && decide (line < 2 ^ 29) && upsetOk u.stored
  | .hbmRefresh ch | .retrainStart ch => chanIdx ch
  | .hbmParityTrigger e => chanIdx e.ch && decide (0 < e.n)
  | .retrainEnd ch _ ns => chanIdx ch && decide (ns ≤ 30000)
  | .hbmSelfRefreshIdle m | .hbmCattripAssert m => stackIdx m
  | .vaultScrubAccess b x u => dieIdx b && siteIdx x && upsetOk u
  | .hbmScrubAccess ch u => chanIdx ch && upsetOk u.stored
  | .scrubLapAlarm vault n => if vault then dieIdx n else chanIdx n
  | .discardEnd _ | .regWindowBoundary | .hostIngressForcedAdmit => true
  | .requestPartAdmit m _ => decide (m.m < 161)
  | .sqTailDoorbell q _ | .cqHeadDoorbell q _ | .queueEnable q _ | .queueDisable q _ => queueIdx q
  | .registerWrite off size _ => bar0Access off size
  | .discardReq _ => true
  | .apertureBaseWrite i _ => decide (i < 8)
  | .bar2Read _ len tag => decide (0 < len ∧ len ≤ 4096 ∧ tag.ns ≤ 50000)
  | .bar2Write _ d => decide (0 < d.bytes.length ∧ d.bytes.length ≤ 4096)
  | .flagWordWrite a d | .reductionContextWrite a d => devAddr a && !d.isEmpty
  | .bar2AtomicFetchadd off w _ _ => off % (if w then 8 else 4) == 0
  | .bar2AtomicCas off w _ _ _ => off % (if w then 8 else 4) == 0
  | .bar2AtomicUnsupported _ _ | .configRequest _ _ => true
  | .descriptorFetch q _ | .completionEntryWrite q | .msixHoldoffEnd q => queueIdx q
  | .jobAdmit | .jobComplete _ => true
  | .moverDescriptorStart _ i | .moverCopy _ i | .moverFill _ i | .moverBcast _ i => decide (i < 2 ^ 16)
  | .moverReduce _ i | .moverCas _ i | .moverDescriptorComplete _ ⟨i, _⟩ => decide (i < 2 ^ 16)
  | .atsTranslationCompletion _ _ | .prgResponse _ _ | .priTimeout _ => true
  | .atsInvalidate _ _ n _ => decide (0 < n)
  | .hostReadCompletion _ _ d => decide (d.length ≤ 4096)
  | .hostCompletionTimeout _ => true
  | .perstNAssert | .perstNRelease | .hotReset | .linkDisable | .dlDown | .functionLevelReset => true
  | .linkRecoveryEntry | .linkL0Entry | .d3hotTransition _ | .l12Entry | .l12Exit | .resettingEnd | .faultedResetStart => true
  | .flitReceive p _ _ | .portLossOfSignal p | .portTrainRetry p | .helloSend p => decide (p < 16)
  | .portBerWindow p lane errs n => decide (p < 16) && decide (lane < 8) && decide (errs ≤ n)
  | .portTrainingDone p lanes _ => decide (p < 16) && lanes.length == 8
  | .hello p pk => decide (p < 16) && packetOk pk
  | .packetForward p pk _ => portIdx p && packetOk pk
  | .holdExpiry _ => true
  | .fabWrite p pk | .fabRead p pk | .fabReduce p pk | .fabSignal p pk | .mgmtReq p pk => portIdx p && packetOk pk
  | .mgmtResp p pk | .ack p pk | .readData p pk | .hcrcOrReservedOpPacket p pk => portIdx p && packetOk pk
  | .fabResyncResend dst => decide (dst < 2 ^ 15)
  | .fabReqTimeout tag => decide (tag < 2 ^ 16)
  | .d2dFlitReceive pair dir c _ _ => linkIdx pair dir && decide (c < 5)
  | .d2dLaneLoss pair dir _ | .d2dMarginWindow pair dir _ | .d2dReplayAlarm pair dir => linkIdx pair dir
  | .pllLockLoss die _ => dieIdx die
  | .opticalSiteLinkDown p => decide (p < 16)
  | .hostSiteLinkLost => true
  | .guestResetRequest x => decide (x < 17)
  | .standbySupplyApplied | .standbySupplyRemoved | .fallbackSettleTimeout | .fallbackStop | .refEdgeTimeout => true
  | .fallbackSettled us => decide (us ≤ 2000)
  | .clockMonitorWindow _ _ => true
  | .housekeepingRound r => r.all (fun x => decide (x.1 < 1024))
  | .stepMachineTick | .bringupWaitEvent => true
  | .halfWaveStart w => decide (w < 6)
  | .tileRelease h => halfIdx h
  | .laneQualWindowEnd f => f.all (fun x => linkIdx x.1 x.2.1 && decide (x.2.2.1 < 272))
  | .inventoryBuild | .bringupTimeLimit | .ledgerScan | .ledgerRecordWrite _ | .ledgerCompaction => true
  | .catalogueRead tr r | .catalogueWrite tr r | .readStaged tr r | .describe tr r => transportOk tr && requestOk r
  | .stagedEntryWrite tr r | .consEntryWrite tr r | .catalogueReservedOp tr _ r => transportOk tr && requestOk r
  | .commit tr _ _ | .abort tr _ _ | .stageContextExpiry tr | .resetCmd tr _ _ | .persistClear tr _ _ => transportOk tr
  | .powerReqRun tr _ | .powerReqSleep tr _ | .powerReqDeep tr _ | .fabTransitReq tr _ _ | .keepRelease tr _ _ => transportOk tr
  | .retrainReq tr _ _ | .shutdownClear tr _ _ => transportOk tr
  | .mbxDoorbell _ => true
  | .setEndpointId port _ | .getEndpointId port | .getEndpointUuid port | .getMctpVersionSupport port => decide (port < 3)
  | .getMessageTypeSupport port | .getVendorDefinedMsgSupport port | .mctpUnsupportedCmd port _ => decide (port < 3)
  | .setdasa st a => decide (st < 128 ∧ a < 128)
  | .entdaa port a => decide (port < 2 ∧ a < 128)
  | .routerOrMeshLinkFailed cdie die row col _ =>
    decide (die < if cdie then 12 else 6) && decide (row < 16) && decide (col < 32)
  | .resetByCommandStart | .packageRailGood | .packageRailTimeout => true
  | .provenanceReadDone l => l.all (fun r => decide (r.die < if r.bdie then 6 else 12))
  | .bdieWakeDone _ l => l.all (fun r => decide (r.pos < 8))
  | .vaultSelfTestDone f => f.all (fun x => dieIdx x.1)
  | .dieToDieTrainingDone pair dir _ => linkIdx pair dir
  | .guestSiteTrainingDone x _ _ => decide (x < 17)
  | .hbmChannelTrainingDone ch _ _ _ rows => chanIdx ch && rows.all (fun r => decide (r < 2 ^ 21))
  | .tileSelfTestDone f => f.units.all (fun x => decide (x.1 < 12)) && f.bonds.all (fun x => decide (x.1 < 12) && decide (x.2.1 < 32768) && decide (x.2.2 ≤ 64))

end Sys2Proof
end

