-- ==== Sys2Proof/Tests/Slice0.lean ====
section
/-! SUPPORT. The model's own tests: the checks of well-formedness, small examples whose results the manual gives, and for
every statement a state and operands that meet its hypotheses. -/

namespace Sys2Proof.Tests

set_option Elab.async false

open Sys2Proof.Machine

/-! ## Ill-formed commands, one for each check -/

theorem test_wf_operands :
    [Instr.lds 3072, .engineCommandComplete 0 .array ⟨8, false, ⟨0, none⟩⟩, .flagSignal 0 48 1#16, .flagSignal 0 0 0#16, .loanDecision 6,
     .borrowerConfirm 24 0 0, .homeRead .none 1 .normal ⟨[], [], false⟩, .homeRead .none 0 .normal ⟨[(72, 1#8)], [], false⟩,
     .homeRead .none 0 .normal ⟨[], [(0, 0#8)], false⟩, .homeWrite .none 63 .normal ⟨0#512, []⟩, .homeWrite .none 64 .normal ⟨0#512, [(72, 1#8)]⟩,
     .homeSubwordWrite .none 60 .normal [0#8, 0#8, 0#8, 0#8, 0#8],
     .redInt32Add .none 4 0#512, .redInt32Min .none 4 0#512, .redFp32OrderedAdd .none 0 65536 0#512, .compareAndSwap .none 4 true 0#64 0#64,
     .fetchAdd .none 2 false 0#64, .hbmLineFill 6 0 ⟨[], false⟩, .hbmRefresh 384, .hbmParityTrigger ⟨0, 0⟩, .retrainEnd 0 true 30001,
     .hbmCattripAssert 12, .vaultScrubAccess 0 528 [], .hbmScrubAccess 384 ⟨[], false⟩, .scrubLapAlarm true 6, .scrubLapAlarm false 384,
     .requestPartAdmit ⟨161, 0⟩ (.hostMem 1), .sqTailDoorbell 64 0#32, .registerWrite 2 4 0#64,
     .apertureBaseWrite 8 0#64].all (fun c => !c.wellFormed) = true := by decide +kernel

theorem test_wf_operands_host :
    [Instr.bar2Read ⟨false, 0⟩ 0 ⟨0, 0, []⟩, .bar2Read ⟨true, 0⟩ 4 ⟨0, 50001, []⟩, .bar2Write 0 ⟨[], []⟩, .flagWordWrite (2 ^ 48) [0#8],
     .bar2AtomicFetchadd 2 false 0#64 0, .bar2AtomicCas 4 true 0#64 0#64 0, .descriptorFetch 64 0#512, .moverCopy 0 65536,
     .moverReduce 0 65536, .moverDescriptorComplete 0 ⟨65536, ⟨0, none⟩⟩, .atsInvalidate none 0 0 0, .hostReadCompletion 0 true (List.replicate 4097 0#8),
     .flitReceive 16 true 0#2048, .portBerWindow 0 8 0 0, .portBerWindow 0 0 2 1, .portTrainingDone 0 [] default, .hello 16 default,
     .packetForward 17 default 0, .fabWrite 17 default, .fabResyncResend 32768, .fabReqTimeout 65536, .d2dFlitReceive 7 0 0 ⟨true, []⟩ 0,
     .d2dFlitReceive 0 0 5 ⟨true, []⟩ 0, .d2dLaneLoss 0 2 0, .pllLockLoss 6 1, .opticalSiteLinkDown 16, .guestResetRequest 17,
     .fallbackSettled 2001, .housekeepingRound [(1024, 0)], .halfWaveStart 6, .tileRelease 24, .laneQualWindowEnd [(7, 0, 0, 0)],
     .catalogueRead (.fragor 32768) default, .commit (.fragor 32768) 0#8 0#8, .retrainReq (.fragor 32768) 0#8 0#16, .setEndpointId 3 1#8,
     .getMessageTypeSupport 3, .setdasa 128 0, .entdaa 2 0, .routerOrMeshLinkFailed true 12 0 0 0,
     .provenanceReadDone [{ (default : ProvRecord) with die := 12 }], .bdieWakeDone true [{ (default : BdieReport) with pos := 8 }],
     .vaultSelfTestDone [(6, 0#32)], .dieToDieTrainingDone 7 0 [], .guestSiteTrainingDone 17 0#128 0,
     .hbmChannelTrainingDone 384 true true 0 [], .hbmChannelTrainingDone 0 true true 0 [2 ^ 21], .tileSelfTestDone ⟨[(12, 0#32)], []⟩,
     .tileSelfTestDone ⟨[], [(0, 0, 65)]⟩].all (fun c => !c.wellFormed) = true := by decide +kernel

/-! ## Small states -/

/-- A job of tiles 0 and 1. -/
def job1 : Job :=
  { q := 0, slot := 0, desc := 2 * 2 ^ 256 + 7, running := true, fault := none, owins := [], qwins := [], movers := [] }

def lay1 : Layout :=
  { tiles := [0, 1], slices := List.replicate 6 [0, 1, 2, 3], ps := 4, pd := 2, pl := 8, pc := 2, p := 4, chans := [0, 32],
    ports := [0, 1], halves := [0] }

def tileOf (ws : List Nat) : Tile := { Tile.reset with job := some 0, words := 8, running := true, buf := ws.map some }

/-- A part in READY whose job's first tile has some words at decode. -/
def up (ws : List Nat) : State :=
  { State.reset with
    main := .ready, everReady := true, lay := lay1, jobs := [(0, job1)], nextJob := 1
    tiles := [(0, tileOf ws), (1, tileOf [])]
    queues := [(0, { Queue.reset with enabled := true, sqTail := 1, fetched := 1 })]
    link := { HostLink.reset with l0 := true, everL0 := true, perst := false }
    con := { Conservator.reset with standby := true, settled := true }
    bringup := { Bringup.reset with step := 16, awake := true, guests := [0, 1, 16] }
    ledger := { Ledger.reset with scanned := true }
    ports := [(0, { Port.reset with phase := .up, width := 8 })] }

def op (o rest : Nat) : Nat := sealWord (o * 2 ^ 120 + rest)

/-- Memory in its form, nothing to charge, nothing out of reach. -/
theorem invOf {s : State} (m : Memory.wf s.mem) (h : s.touched = [] ∧ s.stalled = none) : s.Inv := ⟨m, h.1, h.2⟩

/-- A word has been decoded and its checks pass. -/
theorem atDecode {s : State} {t w : Nat} (m : Memory.wf s.mem) (h : (s.touched = [] ∧ s.stalled = none) ∧
    headWord s t = some (some w) ∧ checkWord s t w = none ∧ ((tile s t).word + 1 = (tile s t).words → wOpcode w = 0x3F)) : AtDecode s t w :=
  ⟨invOf m h.1, h.2.1, h.2.2.1, h.2.2.2⟩

/-- The ceilings that a part without a committed class of its own meets. -/
theorem ceilings : ∀ m, m < 161 → ∀ k ∈ [0, rd State.reset 0x7000 3, rd State.reset 0x7000 4], 0 < rd State.reset (0x7100 + m) (0x11 + k) := by
  decide +kernel

/-- Nothing waits, nothing is charged, and no entry of the regulators is set. -/
abbrev openState (s : State) : Prop :=
  (s.regWait = [] ∧ s.paid = [] ∧ waitingReqs s = []) ∧ s.regU = [] ∧ s.regOld = [] ∧
    s.ent.all (fun e => decide (e.1 < 0x700000) || decide (0x720000 ≤ e.1)) = true ∧ s.cons = []

/-- Entries that are not among those of the regulators leave them at their defaults. -/
theorem notSet {v : Nat} (i u : Nat) (hi : 0x7000 ≤ i ∧ i < 0x7200) (hu : u < 256) : ∀ l : SMap Nat,
    l.all (fun e => decide (e.1 < 0x700000) || decide (0x720000 ≤ e.1)) = true → SMap.get l (entKey i u) v = v
  | [], _ => rfl
  | x :: r, h => by
    simp only [List.all_cons, Bool.and_eq_true, Bool.or_eq_true, decide_eq_true_eq] at h
    have hx : x.1 ≠ entKey i u := by
      unfold entKey
      omega
    have := notSet (v := v) i u hi hu r h.2
    simpa only [SMap.get, SMap.find?, if_neg hx] using this

/-- The regulators of such a state read as at reset. -/
theorem regsAsReset {s : State} (h : openState s) {i u : Nat} (hi : 0x7000 ≤ i ∧ i < 0x7200) (hu : u < 256) : rd s i u = rd State.reset i u := by
  obtain ⟨-, -, -, he, hc⟩ := h
  have e : State.reset.ent = [] := rfl
  have c : State.reset.cons = [] := rfl
  simp only [rd, hc, e, c]
  cases findRow i u <;> simp only [notSet i u hi hu _ he] <;> rfl

/-- With nothing charged every master is below its ceilings. -/
theorem openOf {s : State} (h : openState s) : NothingWaits s := by
  have hr : ∀ {i u}, 0x7000 ≤ i ∧ i < 0x7200 → u < 256 → rd s i u = rd State.reset i u := fun a b => regsAsReset h a b
  obtain ⟨hw, hu, ho, he, -⟩ := h
  have hf : inForce s = s := by simp [inForce, ho]
  have hn : s.ent.any (fun e => e.1 / 0x1000 == 0x701) = false := by
    refine List.any_eq_false.2 fun e m => ?_
    have := List.all_eq_true.mp he e m
    simp only [Bool.or_eq_true, decide_eq_true_eq] at this
    simp only [beq_iff_eq]
    omega
  have hk : ∀ a, classOf s a = 0 := fun a => by simp only [classOf, hf, hn]; rfl
  refine ⟨hw.1, hw.2.1, hw.2.2, fun m p hm => ?_⟩
  have hp : partClass s p ∈ [0, rd State.reset 0x7000 3, rd State.reset 0x7000 4] := by
    have a := hr (i := 0x7000) (u := 3) (by omega) (by omega)
    have b := hr (i := 0x7000) (u := 4) (by omega) (by omega)
    cases p <;> simp [partClass, hf, hk, a, b]
  have small : ∀ k ∈ [0, rd State.reset 0x7000 3, rd State.reset 0x7000 4], k < 16 := by decide +kernel
  have hb := small _ hp
  simp only [mayAdmit, hu, ceilOf, hf]
  rw [hr (by omega) (by omega)]
  exact decide_eq_true (ceilings m hm _ hp)

def noCurrent (v : Tile) : Bool :=
  (currentOf v .array).isNone && (currentOf v .selector).isNone && (currentOf v .vector).isNone && (currentOf v .move).isNone

theorem idle {v : Tile} (h : noCurrent v = true) (e : Engine) : currentOf v e = none := by
  simp only [noCurrent, Bool.and_eq_true, Option.isNone_iff_eq_none] at h
  cases e
  · exact h.1.1.1
  · exact h.1.1.2
  · exact h.1.2
  · exact h.2

/-- What lets the accesses from `s` to `u` go on, as a test. -/
def admitted (s u : State) (e : Nat) : Bool :=
  let k := requestParts u e
  u.stalled.isNone && (k.parts.isEmpty || (!regQueued s k.m k.eng && (admitParts s k.m false (unpaid s k)).2.isEmpty))

theorem admitsOf {s u : State} {e : Nat} (h : admitted s u e = true) : Admits s u e := by
  simp only [admitted, Bool.and_eq_true, Bool.or_eq_true, Bool.not_eq_true', Option.isNone_iff_eq_none, List.isEmpty_iff] at h
  exact h

/-- A word that its engine takes now. -/
theorem engineReady {s : State} {t w : Nat} {e : Engine} {j : Nat} {jb : Job} {r x : List (Nat × Nat)} (ha : AtDecode s t w)
    (h : jobOf s t = some (j, jb) ∧ canIssue s t e r x = true ∧ noCurrent (tile s t) = true)
    (ho : admitted (submit s t e w r x) (engineWork e t (newEntry s t w r x) (submit s t e w r x) jb).2 (engNo e) = true) :
    EngineReady s t w e j jb r x := ⟨ha, h.1, h.2.1, idle h.2.2, admitsOf ho⟩

theorem pairIs {α β : Type} {p : α × β} {a : α} (h : p.1 = a) : p = (a, p.2) := by rw [← h]
theorem tripleIs {α β γ : Type} {p : α × β × γ} {a : α} (h : p.1 = a) : p = (a, p.2.1, p.2.2) := by rw [← h]

/-! ## Witnesses: the block, codes, memory -/

theorem wit_Step : State.reset.pending = [] ∧ State.Inv State.reset ∧ step State.reset = .next State.reset :=
  ⟨rfl, invOf List.Pairwise.nil (by decide), rfl⟩

theorem wit_ConsValues : mayWriteCons (.hbmRefresh 0) = false ∧ endsSupply (.hbmRefresh 0) = false ∧
    exec (.hbmRefresh 0) State.reset = .next State.reset := ⟨rfl, rfl, rfl⟩

theorem wit_ResetEntries : ∃ row, findRow 0x7000 1 = some row := ⟨_, rfl⟩

theorem wit_Codes : (List.replicate 64 7#8 : List Byte).length = 64 ∧ (1#8 : Byte) ≠ 0#8 := by decide +kernel

theorem wit_StoreThenLoad : Memory.wf [] ∧ ([1#8, 2#8] : List Byte).length ≤ 128 := by decide +kernel

theorem wit_Homes : (0x3FFF < sharedBytes (up [])) ∧ 0 < dieBytes (up []) ∧ 255 < hbmRange (up []) 0 := by decide +kernel

/-! ## Witnesses: tile programs -/

/-- A host read that job 0 has issued. -/
def owed : State → State := fun s =>
  { s with reads := [(0, { x := 0, job := 0, pages := [], pieces := [], dropped := false })] }

/-- A word whose operation is no opcode, and a VEC word with a reserved operation. -/
theorem wit_Reserved : ∀ w ∈ [op 0x55 0, op 7 (15 * 2 ^ 106)], ∀ s ∈ [up [w], owed (up [w])],
    s.mem = [] ∧ s.touched = [] ∧ s.stalled = none ∧ headWord s 0 = some (some w) ∧ reservedWord w = true ∧
      bits w 15 0 = wordCrc w ∧ jobOf s 0 = some (0, job1) ∧ job1.running = true := by decide +kernel

theorem wit_ReservedKinds : knownOpcode (wOpcode (op 0x55 0)) = false ∧ knownOpcode (wOpcode (op 7 (15 * 2 ^ 106))) = true ∧
    owesAccess (up []) 0 = false ∧ owesAccess (owed (up [])) 0 = true := by decide +kernel

def z64 : List Byte := List.replicate 64 0#8

/-- Words of the first tile's operand store written with zeros. -/
def opMem (ws : List Nat) : List Host.Cell := ws.foldl (fun m w => storeAt m (opstoreKey 0 w) (rsEncode 6 z64)) []

theorem opMem_wf (ws : List Nat) : Memory.wf (opMem ws) :=
  foldl_keeps Memory.wf _ (fun _ _ h => storeAt_wf _ _ _ h) _ _ List.Pairwise.nil

def own : Gen := { Gen.reset with bsel := 2 }
def bankOf (lw : Nat) : Bank :=
  { loaded := true, lw := lw, rows := 1, scl := false, cells := [List.replicate (if lw = 2 then 1024 else 64) 0#8], scales := [] }
def withGens (s : State) (gs : List Gen) : State := setTile s 0 { tile s 0 with gens := gs }

/-- A range whose words are clean. -/
theorem cleanOf {s : State} {a n : Nat} (h : a + n ≤ 2 ^ 48 ∧ (wordsOf a n).all (fun x => (peekWord s x).isSome) = true) :
    Clean s a n := by
  intro i hi
  have hm : (a + i) % 2 ^ 48 / 64 * 64 = a / 64 * 64 + 64 * ((a % 64 + i) / 64) := by omega
  rw [hm]
  refine List.all_eq_true.mp h.2 _ (List.mem_map.2 ⟨(a % 64 + i) / 64, List.mem_range.2 (by omega), rfl⟩)

/-- The conditions of a readable element whose words are among some. -/
def elemIn (l : List Nat) (s : State) (jb : Job) (hint : Hint) (ba w : Nat) : Bool :=
  elemOk s jb false hint ba w && decide (ba / 8 + (ba % 8 + w + 7) / 8 ≤ 2 ^ 48) && (wordsOf (ba / 8) ((ba % 8 + w + 7) / 8)).all l.contains

theorem readableIn {l : List Nat} {s : State} {jb : Job} {hint : Hint} {ba w : Nat} (hl : l.all (fun x => (peekWord s x).isSome) = true)
    (h : elemIn l s jb hint ba w = true) : Readable s jb hint ba w := by
  simp only [elemIn, Bool.and_eq_true, decide_eq_true_eq] at h
  exact ⟨h.1.1, cleanOf ⟨h.1.2, List.all_eq_true.2 fun x hx =>
    List.all_eq_true.mp hl x (List.contains_iff_mem.1 (List.all_eq_true.mp h.2 x hx))⟩⟩

def rowIn (l : List Nat) (s : State) (t : Nat) (jb : Job) (g : Gen) (m : Nat) : Bool :=
  (List.range g.rows).all (fun r => g.padded (g.index r m) || elemIn l s jb .normal (g.bitAddr (g.a0 s t) (g.index r m)) g.width)

/-- A row whose words are among some that are clean. -/
theorem rowReadable {s : State} {t : Nat} {jb : Job} {g : Gen} {m : Nat} (l : List Nat) (hl : l.all (fun x => (peekWord s x).isSome) = true)
    (h : rowIn l s t jb g m = true) : RowReadable s t jb g m := by
  intro r hr hp
  have := List.all_eq_true.mp h r (List.mem_range.2 hr)
  simp only [hp, Bool.false_or] at this
  exact readableIn hl this

/-- The first words of tile 0's operand store. -/
def os0 (n : Nat) : List Nat := (List.range n).map (fun k => 0x002000000000 + 64 * k)
def osClean (s : State) (n : Nat) : Bool := (os0 n).all (fun x => (peekWord s x).isSome)

theorem landsOf {s : State} {p : List PendWord} (h : p.all (fun x => (peekWord s x.addr).isSome) = true) : Lands s p :=
  fun x hx => List.all_eq_true.mp h x hx

theorem getOf {α : Type} {o : Option α} {d : α} (h : o.isSome = true) : o = some (o.getD d) := by
  cases o with
  | none => cases h
  | some x => rfl

def wLds : Nat := op 1 0
def sLds : State := { up [wLds] with mem := opMem [0] }
/-- A pass of bank 0 that has done its work and has not drained. -/
def donePass : QCmd :=
  { word := op 2 0, idx := 7, gens := [], reads := [], writes := [], done := true, reps := 0, xfer := none, stuck := false }
def sLdsWaits : State := setTile (up [wLds]) 0 { tile (up [wLds]) 0 with qArray := [donePass] }

theorem ready_Lds : EngineReady sLds 0 wLds .array 0 job1 (ldsReads sLds 0 wLds) [] :=
  engineReady (atDecode (opMem_wf _) (by decide +kernel)) (by decide +kernel) (by decide +kernel)
theorem ready_LdsWaits : EngineReady sLdsWaits 0 wLds .array 0 job1 (ldsReads sLdsWaits 0 wLds) [] :=
  engineReady (atDecode List.Pairwise.nil (by decide +kernel)) (by decide +kernel) (by decide +kernel)

theorem wit_Lds : EngineReady sLds 0 wLds .array 0 job1 (ldsReads sLds 0 wLds) [] ∧ wOpcode wLds = 0x01 ∧ (tile sLds 0).qArray = [] ∧
    bits wLds 111 110 = 0 ∧ bits wLds 109 104 + 1 = 1 ∧ bits wLds 103 84 = 0 ∧ Clean sLds 0x002000000000 (ldsRowBytes 0) ∧
    bit1 wLds 118 = false ∧ EngineReady sLdsWaits 0 wLds .array 0 job1 (ldsReads sLdsWaits 0 wLds) [] ∧
    (tile sLdsWaits 0).qArray.any (fun c => isPass c && bit1 c.word 119 == bit1 wLds 119) = true ∧
    ∀ c ∈ (tile sLdsWaits 0).qArray, c.idx ≠ (tile sLdsWaits 0).word :=
  ⟨ready_Lds, by decide +kernel, by decide +kernel, by decide +kernel, by decide +kernel, by decide +kernel, cleanOf (by decide +kernel), by decide +kernel, ready_LdsWaits,
    by decide +kernel, by decide +kernel⟩

/-- A pass over one streamed element of the own operand store, with a block of one row loaded. -/
def passState (w lw esz : Nat) : State :=
  let s : State := { up [w] with mem := opMem [0] }
  setTile s 0 { tile s 0 with gens := { own with esz := esz } :: List.replicate 7 Gen.reset, banks := [bankOf lw, bankOf lw] }

def wMma : Nat := op 2 (2 * 2 ^ 102 + 2 * 2 ^ 98)
def wConv : Nat := op 3 (2 * 2 ^ 102 + 2 * 2 ^ 98 + 2 ^ 63)
def wPqs : Nat := op 4 (2 * 2 ^ 98)
def wBds : Nat := op 5 0

/-- The regulators admit what an engine's work on a word of tile 0 accesses. -/
def worksAt (s : State) (e : Engine) (w : Nat) (r x : List (Nat × Nat)) : Bool :=
  admitted (submit s 0 e w r x) (engineWork e 0 (newEntry s 0 w r x) (submit s 0 e w r x) job1).2 (engNo e)

/-- What a pass over one element with no destination asks of its word and state. -/
abbrev passOk (o w : Nat) (s : State) : Prop :=
  jobOf s 0 = some (0, job1) ∧ canIssue s 0 .array (passReads s 0 w) (passWrites s 0 w) = true ∧ noCurrent (tile s 0) = true ∧ wOpcode w = o ∧
    passCause s 0 (newEntry s 0 w [] []) = none ∧ (gen (tile s 0) (wSgen w)).beats = 1 ∧ pMx w = false ∧ pSeed w = false ∧ pDest w = 0 ∧
    osClean s 1 = true ∧ rowIn (os0 1) s 0 job1 (gen (tile s 0) (wSgen w)) 0 = true

theorem wit_Passes : ∀ x ∈ [(2, wMma, passState wMma 0 2), (3, wConv, passState wConv 0 2), (4, wPqs, passState wPqs 2 0), (5, wBds, passState wBds 2 5)],
    AtDecode x.2.2 0 x.2.1 ∧ passOk x.1 x.2.1 x.2.2 ∧ worksAt x.2.2 .array x.2.1 (passReads x.2.2 0 x.2.1) (passWrites x.2.2 0 x.2.1) = true ∧ ∃ o ∈ passWords, o.2 = x.1 := by
  intro x hx
  simp only [List.mem_cons, List.not_mem_nil, or_false] at hx
  obtain rfl | rfl | rfl | rfl := hx <;>
    exact ⟨atDecode (opMem_wf _) (by decide +kernel), by decide +kernel, by decide +kernel, by simp [passWords]⟩

/-- A pass that converts its one row to FP32, for memory, the selection and the vector queue. -/
def wMma7 : Nat := op 2 (2 * 2 ^ 102 + 2 * 2 ^ 98 + 2 ^ 116 + 7 * 2 ^ 77 + 1 * 2 ^ 74)
def row64 : GLoop := { countM1 := 63, stride := 1, ycoef := 0, xcoef := 0 }
def gOut : Gen := { own with base := 4096, esz := 4, rowmask := 1, loops := [row64, GLoop.reset, GLoop.reset, GLoop.reset, GLoop.reset] }
def sel1 : Selection := { k := 1, maximum := false, fp := true, base := 0, cands := List.replicate 64 [] }
def sMma7 : State :=
  let s : State := { up [wMma7] with mem := opMem [0, 64, 65, 66, 67] }
  setTile s 0 { tile s 0 with gens := [{ own with esz := 2 }, gOut] ++ List.replicate 6 Gen.reset, banks := [bankOf 0, bankOf 0], sel := some sel1 }
/-- The rows that this pass converts, and their words. -/
def rows7 : List (List Nat) :=
  (passRun wMma7 1 true (bankOf 0) (peekRow sMma7 0 { own with esz := 2 }) (fun _ => []) (tile sMma7 0).slots 1).2
def words7 : List PendWord := (stagedRows sMma7 0 job1 gOut rows7).getD []

theorem wit_PassOut : AtDecode sMma7 0 wMma7 ∧ (jobOf sMma7 0 = some (0, job1) ∧
      canIssue sMma7 0 .array (passReads sMma7 0 wMma7) (passWrites sMma7 0 wMma7) = true ∧ noCurrent (tile sMma7 0) = true ∧
      passCause sMma7 0 (newEntry sMma7 0 wMma7 [] []) = none ∧ pDest wMma7 = 7 ∧ (tile sMma7 0).vq = [] ∧
      osClean sMma7 1 = true ∧ rowIn (os0 1) sMma7 0 job1 { own with esz := 2 } 0 = true) ∧
    stagedRows sMma7 0 job1 gOut rows7 = some words7 ∧ Lands sMma7 words7 ∧ Apart (Gen.span { own with esz := 2 } sMma7 0) words7 :=
  ⟨atDecode (opMem_wf _) (by decide +kernel), by decide +kernel, getOf (by decide +kernel), landsOf (by decide +kernel), by unfold Apart; decide +kernel⟩

/-! ### The selector and the vector unit -/

def wOpen : Nat := op 6 (3 * 2 ^ 99 + 2 ^ 98 + 5 * 2 ^ 64)
def wClose : Nat := op 6 (3 * 2 ^ 108)
def wLoad : Nat := op 6 (2 ^ 108 + 2 * 2 ^ 64)
def wEmit : Nat := op 6 (2 * 2 ^ 108 + 2 * 2 ^ 64)
def sel0 : Selection := { sel1 with fp := false }
def selState (w : Nat) : State :=
  let s : State := { up [w] with mem := opMem (List.range 12) }
  setTile s 0 { tile s 0 with sel := some sel0 }

theorem ready_Open : EngineReady (up [wOpen]) 0 wOpen .selector 0 job1 [] [] :=
  engineReady (atDecode List.Pairwise.nil (by decide +kernel)) (by decide +kernel) (by decide +kernel)
theorem ready_Close : EngineReady (selState wClose) 0 wClose .selector 0 job1 [] [] :=
  engineReady (atDecode (opMem_wf _) (by decide +kernel)) (by decide +kernel) (by decide +kernel)
theorem ready_Load : EngineReady (selState wLoad) 0 wLoad .selector 0 job1 (topkSpan (selState wLoad) 0 wLoad) [] :=
  engineReady (atDecode (opMem_wf _) (by decide +kernel)) (by decide +kernel) (by decide +kernel)
theorem ready_Emit : EngineReady (selState wEmit) 0 wEmit .selector 0 job1 [] (topkSpan (selState wEmit) 0 wEmit) :=
  engineReady (atDecode (opMem_wf _) (by decide +kernel)) (by decide +kernel) (by decide +kernel)

theorem wit_TopkOpenClose : wOpcode wOpen = 0x06 ∧ EngineReady (up [wOpen]) 0 wOpen .selector 0 job1 [] [] ∧ bits wOpen 111 108 = 0 ∧
    (tile (up [wOpen]) 0).sel = none ∧ wOpcode wClose = 0x06 ∧ EngineReady (selState wClose) 0 wClose .selector 0 job1 [] [] ∧
    bits wClose 111 108 = 3 ∧ (tile (selState wClose) 0).sel.isSome = true :=
  ⟨by decide +kernel, ready_Open, by decide +kernel, by decide +kernel, by decide +kernel, ready_Close, by decide +kernel, by decide +kernel⟩

/-- Zeros where the words hold zeros. -/
theorem zerosAt {s : State} {a m i n : Nat} (hz : ∀ k, k < m → peekWord s (a + 64 * k) = some z64) (ha : a % 64 = 0) (hn : i + n ≤ 64 * m)
    (hm : a + 64 * m ≤ 2 ^ 48) : Clean s (a + i) n ∧ peekBytes s (a + i) n = List.replicate n 0#8 := by
  have hw : ∀ j, j < n → peekWord s ((a + i + j) % 2 ^ 48 / 64 * 64) = some z64 := fun j hj => by
    have e : (a + i + j) % 2 ^ 48 / 64 * 64 = a + 64 * ((i + j) / 64) := by omega
    rw [e]
    exact hz _ (by omega)
  refine ⟨fun j hj => by rw [hw j hj]; rfl, ?_⟩
  refine List.eq_replicate_iff.2 ⟨by simp [peekBytes], fun b hb => ?_⟩
  obtain ⟨j, hj, rfl⟩ := List.mem_map.1 hb
  have hz : ∀ k, k < 64 → z64.getD k 0#8 = 0#8 := by decide +kernel
  rw [hw j (List.mem_range.1 hj)]
  exact hz _ (by omega)

theorem wit_TopkLoad : wOpcode wLoad = 0x06 ∧ bits wLoad 111 108 = 1 ∧
    EngineReady (selState wLoad) 0 wLoad .selector 0 job1 (topkSpan (selState wLoad) 0 wLoad) [] ∧
    (tile (selState wLoad) 0).sel = some sel0 ∧ tkBase (selState wLoad) 0 wLoad = 0x002000000000 ∧ tkK wLoad = 1 ∧
    ∀ c, c < 64 → Readable (selState wLoad) job1 .normal ((0x002000000000 + 64 * 1 * 8 + 4 * c) % 2 ^ 48 * 8) 32 ∧
      leNat (peekBytes (selState wLoad) (0x002000000000 + 64 * 1 * 8 + 4 * c) 4) = 0 := by
  refine ⟨by decide +kernel, by decide +kernel, ready_Load, by decide +kernel, by decide +kernel, by decide +kernel, fun c hc => ?_⟩
  have h : ∀ c, c < 64 → elemOk (selState wLoad) job1 false .normal ((0x002000000000 + 64 * 1 * 8 + 4 * c) % 2 ^ 48 * 8) 32 = true := by
    decide +kernel
  have hz : ∀ k, k < 4 → peekWord (selState wLoad) ((0x002000000000 + 64 * 1 * 8) + 64 * k) = some z64 := by decide +kernel
  have hw := zerosAt (i := 4 * c) (n := 4) hz (by decide) (by omega) (by decide)
  have e : (0x002000000000 + 64 * 1 * 8 + 4 * c) % 2 ^ 48 * 8 / 8 = 0x002000000000 + 64 * 1 * 8 + 4 * c := by omega
  have n : ((0x002000000000 + 64 * 1 * 8 + 4 * c) % 2 ^ 48 * 8 % 8 + 32 + 7) / 8 = 4 := by omega
  exact ⟨⟨h c hc, by rw [e, n]; exact hw.1⟩, by rw [hw.2]; decide⟩

def emitWords : List PendWord :=
  ((stageList (selState wEmit) 0 64 job1 (emitEntries sel0 0x002000000000) []).bind
    (stageList (selState wEmit) 0 32 job1 (emitCounts sel0 0x002000000000))).getD []

theorem wit_TopkEmit : wOpcode wEmit = 0x06 ∧ bits wEmit 111 108 = 2 ∧
    EngineReady (selState wEmit) 0 wEmit .selector 0 job1 [] (topkSpan (selState wEmit) 0 wEmit) ∧
    (tile (selState wEmit) 0).sel = some sel0 ∧ tkK wEmit = sel0.k ∧ emitWaits (tile (selState wEmit) 0) (newEntry (selState wEmit) 0 wEmit [] []) = false ∧
    tkBase (selState wEmit) 0 wEmit = 0x002000000000 ∧
    (stageList (selState wEmit) 0 64 job1 (emitEntries sel0 0x002000000000) []).bind
      (stageList (selState wEmit) 0 32 job1 (emitCounts sel0 0x002000000000)) = some emitWords ∧ Lands (selState wEmit) emitWords :=
  ⟨by decide +kernel, by decide +kernel, ready_Emit, by decide +kernel, by decide +kernel, by decide +kernel, by decide +kernel, getOf (by decide +kernel), landsOf (by decide +kernel)⟩

theorem wit_Offer : 0 < sel0.cands.length ∧ (sel0.cands.getD 0 []).length < sel0.k := by decide +kernel

/-- A VEC word of an operation from registers 0 to 2 to register 3. -/
def vw (vop : Nat) : Nat :=
  op 7 (vop * 2 ^ 106 + 3 * 2 ^ 100 + (if vArity vop ≥ 2 then 1 else 63) * 2 ^ 88 + (if vArity vop ≥ 3 then 2 else 63) * 2 ^ 82)

theorem wit_Vec : ∀ o ∈ vectorOps.map (·.2),
    let w := vw o
    let s := up [w]
    s.mem = [] ∧ s.touched = [] ∧ s.stalled = none ∧ headWord s 0 = some (some w) ∧ checkWord s 0 w = none ∧
      (tile s 0).word + 1 ≠ (tile s 0).words ∧ jobOf s 0 = some (0, job1) ∧ canIssue s 0 .vector (vecReads s 0 w) (vecWrites s 0 w) = true ∧
      noCurrent (tile s 0) = true ∧ worksAt s .vector w (vecReads s 0 w) (vecWrites s 0 w) = true ∧ wOpcode w = 0x07 ∧ vVop w = o ∧ vReps w = 1 ∧ (vSources w).contains 32 = false ∧
      (vSources w).contains 34 = false ∧ vecWords s 0 w job1 = some [] := by decide +kernel

/-- MXQ of the immediate, and an ADD of the vector queue and a row of memory, to a row of memory. -/
def wMxq : Nat := op 7 (14 * 2 ^ 106 + 34 * 2 ^ 100 + 33 * 2 ^ 94 + 63 * 2 ^ 88 + 63 * 2 ^ 82 + 3 * 2 ^ 55 + 0x3F800000 * 2 ^ 16)
def sMxq : State :=
  withGens { up [wMxq] with mem := opMem [0, 1] } ([own, own, { own with base := 64 }] ++ List.replicate 5 own)
def mxqWords : List PendWord := (vecWords sMxq 0 wMxq job1).getD []

theorem ready_Mxq : EngineReady sMxq 0 wMxq .vector 0 job1 (vecReads sMxq 0 wMxq) (vecWrites sMxq 0 wMxq) :=
  engineReady (atDecode (opMem_wf _) (by decide +kernel)) (by decide +kernel) (by decide +kernel)

theorem wit_VecMxq : EngineReady sMxq 0 wMxq .vector 0 job1 (vecReads sMxq 0 wMxq) (vecWrites sMxq 0 wMxq) ∧ wOpcode wMxq = 0x07 ∧
    vVop wMxq = 14 ∧ vReps wMxq = 1 ∧ (vSources wMxq).contains 32 = false ∧ (vSources wMxq).contains 34 = false ∧
    vecWords sMxq 0 wMxq job1 = some mxqWords ∧ Lands sMxq mxqWords :=
  ⟨ready_Mxq, by decide +kernel, by decide +kernel, by decide +kernel, by decide +kernel, by decide +kernel, getOf (by decide +kernel), landsOf (by decide +kernel)⟩

def wVmem : Nat := op 7 (1 * 2 ^ 106 + 34 * 2 ^ 100 + 32 * 2 ^ 94 + 34 * 2 ^ 88 + 63 * 2 ^ 82)
def gFp (base : Nat) : Gen := { own with base := base, esz := 4, rowmask := 1, loops := [row64, GLoop.reset, GLoop.reset, GLoop.reset, GLoop.reset] }
def sVmem : State :=
  let s : State := { up [wVmem] with mem := opMem (List.range 8) }
  setTile s 0 { tile s 0 with gens := [gFp 0, gFp 256] ++ List.replicate 6 own, vq := [List.replicate 64 0#32] }
def vmemWords : List PendWord := (vecWords sVmem 0 wVmem job1).getD []

theorem ready_Vmem : EngineReady sVmem 0 wVmem .vector 0 job1 (vecReads sVmem 0 wVmem) (vecWrites sVmem 0 wVmem) :=
  engineReady (atDecode (opMem_wf _) (by decide +kernel)) (by decide +kernel) (by decide +kernel)

theorem wit_VecMemory : EngineReady sVmem 0 wVmem .vector 0 job1 (vecReads sVmem 0 wVmem) (vecWrites sVmem 0 wVmem) ∧ vReps wVmem = 1 ∧
    (vSources wVmem).contains 32 = true ∧ (tile sVmem 0).vq ≠ [] ∧ (vSources wVmem).contains 34 = true ∧
    RowReadable sVmem 0 job1 (gen (tile sVmem 0) (vGen wVmem)) 0 ∧ vecWords sVmem 0 wVmem job1 = some vmemWords ∧ Lands sVmem vmemWords :=
  ⟨ready_Vmem, by decide +kernel, by decide +kernel, by decide +kernel, by decide +kernel, rowReadable (os0 4) (by decide +kernel) (by decide +kernel), getOf (by decide +kernel), landsOf (by decide +kernel)⟩

/-! ### The move engine -/

/-- A word of the move engine with generators 0 and 1 in the own operand store. -/
def mvState (w : Nat) (g0 g1 : Gen) : State :=
  withGens { up [w] with mem := opMem (List.range 4) } ([g0, g1] ++ List.replicate 6 Gen.reset)
def own1 : Gen := { own with base := 64 }
def gdst : Gen := { own1 with loops := [row64, GLoop.reset, GLoop.reset, GLoop.reset, GLoop.reset], rowmask := 1 }

/-- A block of 64 × 64 elements that all lie in the padding but the first. -/
def blockOf (base : Nat) : Gen :=
  { own with base := base, esz := 2, pad := true, h := 1, w := 1, rowmask := 1,
             loops := [{ row64 with xcoef := 1 }, { row64 with stride := 64, ycoef := 1 }, GLoop.reset, GLoop.reset, GLoop.reset] }
def wMove : Nat := op 0x10 (2 ^ 106)
def wMovex : Nat := op 0x11 (2 ^ 106)

/-- Elements that may be copied, their words among some that are clean. -/
def copyIn (l : List Nat) (s : State) (jb : Job) (w : Nat) (els : List CopyEl) : Bool :=
  els.all (fun e => (match e.1 with
    | some a => elemIn l s jb .normal a w
    | none => true) && elemOk s jb true .normal e.2 w && !clashOf w els e)

theorem copyable {s : State} {jb : Job} {w : Nat} {els : List CopyEl} (l : List Nat) (hl : l.all (fun x => (peekWord s x).isSome) = true)
    (h : copyIn l s jb w els = true) : Copyable s jb .normal w els := by
  have hk := List.all_eq_true.mp h
  refine ⟨fun e he a ha => ?_, fun e he => ?_, fun e he => ?_⟩ <;>
    have := hk e he <;> simp only [Bool.and_eq_true, Bool.not_eq_true'] at this
  · have h1 := this.1.1
    rw [ha] at h1
    exact readableIn hl h1
  · exact this.1.2
  · exact this.2

def sMove : State := mvState wMove own own1
def sMovex : State := mvState wMovex (blockOf 0) (blockOf 128)
def moveEls1 : List CopyEl := moveEls own own1 0x002000000000 0x002000000040
def movexEls1 : List CopyEl := movexEls (blockOf 0) (blockOf 128) 0x002000000000 0x002000000080

theorem ready_Move : EngineReady sMove 0 wMove .move 0 job1 (moveReads sMove 0 wMove) (moveWrites sMove 0 wMove) :=
  engineReady (atDecode (opMem_wf _) (by decide +kernel)) (by decide +kernel) (by decide +kernel)
theorem ready_Movex : EngineReady sMovex 0 wMovex .move 0 job1 (moveReads sMovex 0 wMovex) (moveWrites sMovex 0 wMovex) :=
  engineReady (atDecode (opMem_wf _) (by decide +kernel)) (by decide +kernel) (by decide +kernel)

theorem wit_Move : EngineReady sMove 0 wMove .move 0 job1 (moveReads sMove 0 wMove) (moveWrites sMove 0 wMove) ∧ wOpcode wMove = 0x10 ∧
    bits wMove 119 116 = 0 ∧ hintOf (bits wMove 88 87) = .normal ∧ moveEls1.length = 1 ∧ Copyable sMove job1 .normal 4 moveEls1 ∧
    Lands sMove (copied sMove 4 moveEls1) :=
  ⟨ready_Move, by decide +kernel, by decide +kernel, by decide +kernel, by decide +kernel,
    copyable (os0 2) (by decide +kernel) (by decide +kernel), landsOf (by decide +kernel)⟩

theorem wit_Movex : EngineReady sMovex 0 wMovex .move 0 job1 (moveReads sMovex 0 wMovex) (moveWrites sMovex 0 wMovex) ∧
    wOpcode wMovex = 0x11 ∧ movexEls1.length = 1 ∧ Copyable sMovex job1 .normal 8 movexEls1 ∧ Lands sMovex (copied sMovex 8 movexEls1) :=
  ⟨ready_Movex, by decide +kernel, by decide +kernel, copyable (os0 4) (by decide +kernel) (by decide +kernel), landsOf (by decide +kernel)⟩

theorem wit_Flush : let p := copied sMove 4 moveEls1
    Lands sMove p ∧ (∀ x ∈ p, x.addr % 64 = 0 ∧ x.poison = false) ∧ (p.map (fun x => sramKey sMove x.addr)).Nodup ∧ p.length = 1 :=
  ⟨landsOf (by decide +kernel), by decide +kernel, by decide +kernel, by decide +kernel⟩

def wGather : Nat := op 0x12 (2 ^ 106 + 2 ^ 119 + 2 * 2 ^ 80 + 0x80 * 2 ^ 32)
/-- A GATHER whose index is read through generator 0. -/
def wGatherIx : Nat := op 0x12 (2 ^ 106 + 2 * 2 ^ 80 + 0x80 * 2 ^ 32)
def wScat : Nat := op 0x13 (2 ^ 106 + 2 ^ 119 + 2 * 2 ^ 80 + 0x80 * 2 ^ 32)
def sGather : State := mvState wGather own gdst
def sGatherIx : State := mvState wGatherIx { own with esz := 4 } gdst
def sScat : State := mvState wScat own gdst

theorem ready_Gather : EngineReady sGather 0 wGather .move 0 job1 (gatherReads sGather 0 wGather) (gatherWrites sGather 0 wGather) :=
  engineReady (atDecode (opMem_wf _) (by decide +kernel)) (by decide +kernel) (by decide +kernel)
theorem ready_GatherIx : EngineReady sGatherIx 0 wGatherIx .move 0 job1 (gatherReads sGatherIx 0 wGatherIx) (gatherWrites sGatherIx 0 wGatherIx) :=
  engineReady (atDecode (opMem_wf _) (by decide +kernel)) (by decide +kernel) (by decide +kernel)
theorem ready_Scat : EngineReady sScat 0 wScat .move 0 job1 (scatterReads sScat 0 wScat) (gatherTable sScat 0 wScat) :=
  engineReady (atDecode (opMem_wf _) (by decide +kernel)) (by decide +kernel) (by decide +kernel)

/-- What a GATHER of one row asks of its table and destination. -/
abbrev gatherOk (s : State) (w : Nat) : Prop :=
  wOpcode w = 0x12 ∧ gTable s 0 w % 64 = 0 ∧ gRows w (tile s 0) = 1 ∧ gLen w / 64 = 1 ∧ rowIndex s 0 w 0 = 0 ∧
    allowed s job1 false .normal (tableWord s 0 w 0 0) (tableWord s 0 w 0 0 + 63) = true ∧ (peekWord s (tableWord s 0 w 0 0)).isSome = true ∧
    (gatherEls s 0 w).length = 64 ∧ (∀ e ∈ gatherEls s 0 w, elemOk s job1 true .normal e.1 4 = true)

theorem wit_Gather : EngineReady sGather 0 wGather .move 0 job1 (gatherReads sGather 0 wGather) (gatherWrites sGather 0 wGather) ∧
    gatherOk sGather wGather ∧ bit1 wGather 119 = true ∧ Lands sGather (pended 4 (gatherEls sGather 0 wGather)) :=
  ⟨ready_Gather, by decide +kernel, by decide +kernel, landsOf (by decide +kernel)⟩

theorem wit_GatherIx : EngineReady sGatherIx 0 wGatherIx .move 0 job1 (gatherReads sGatherIx 0 wGatherIx) (gatherWrites sGatherIx 0 wGatherIx) ∧
    gatherOk sGatherIx wGatherIx ∧ bit1 wGatherIx 119 = false ∧ (gen (tile sGatherIx 0) (wSgen wGatherIx)).total = 1 ∧
    Readable sGatherIx job1 .normal (8 * 0x002000000000) 32 ∧ Lands sGatherIx (pended 4 (gatherEls sGatherIx 0 wGatherIx)) :=
  ⟨ready_GatherIx, by decide +kernel, by decide +kernel, by decide +kernel, readableIn (l := os0 1) (by decide +kernel) (by decide +kernel),
    landsOf (by decide +kernel)⟩

theorem wit_Scatteradd : EngineReady sScat 0 wScat .move 0 job1 (scatterReads sScat 0 wScat) (gatherTable sScat 0 wScat) ∧
    (wOpcode wScat = 0x13 ∧ gTable sScat 0 wScat % 64 = 0 ∧ bit1 wScat 119 = true ∧ gRows wScat (tile sScat 0) = 1 ∧ gLen wScat / 64 = 1 ∧
      bits wScat 85 82 ≠ 5 ∧ allowed sScat job1 true .normal (tableWord sScat 0 wScat 0 0) (tableWord sScat 0 wScat 0 0 + 63) = true ∧
      (peekWord sScat (tableWord sScat 0 wScat 0 0)).isSome = true ∧ gdst.total = 64) ∧
    ∀ n, n < gdst.total → Readable sScat job1 .normal (gdst.bitAddr (gdst.a0 sScat 0) (gdst.flat n)) gdst.width := by
  refine ⟨ready_Scat, by decide +kernel, fun n hn => ?_⟩
  have h : ∀ n, n < gdst.total → elemIn (os0 4) sScat job1 .normal (gdst.bitAddr (gdst.a0 sScat 0) (gdst.flat n)) gdst.width = true := by
    decide +kernel
  exact readableIn (by decide +kernel) (h n hn)

/-! ### Generators, signals, waits -/

/-- AGEN words of part p. -/
def wAgen (p : Nat) : Nat := op 0x30 (p * 2 ^ 106)

theorem wit_Agen : ∀ p ∈ [0, 1, 2, 6], (up [wAgen p]).mem = [] ∧ (up [wAgen p]).touched = [] ∧ (up [wAgen p]).stalled = none ∧
    headWord (up [wAgen p]) 0 = some (some (wAgen p)) ∧ checkWord (up [wAgen p]) 0 (wAgen p) = none ∧
    (tile (up [wAgen p]) 0).word + 1 ≠ (tile (up [wAgen p]) 0).words ∧ wOpcode (wAgen p) = 0x30 ∧ (tile (up [wAgen p]) 0).job = some 0 ∧
    bits (wAgen p) 108 106 = p := by decide +kernel

theorem signalled {s : State} {t j : Nat} {jb : Job} (m : Memory.wf s.mem) (h : (s.touched = [] ∧ s.stalled = none) ∧
    jobOf s t = some (j, jb) ∧ jb.running = true ∧ s.main = .ready ∧ (tile s t).block = none) : Signalled s t j jb :=
  ⟨invOf m h.1, h.2.1, h.2.2.1, h.2.2.2.1, h.2.2.2.2⟩

/-- Flag 5 of tile 0 at a count. -/
def flagAt (s : State) (n : Nat) : State := setFlag s 0 5 n

theorem wit_FlagSignal : Signalled (flagAt (up []) 65534) 0 0 job1 ∧ flagCount (flagAt (up []) 65534) 0 5 + (1#16).toNat ≤ 65535 ∧
    65535 < flagCount (flagAt (up []) 65534) 0 5 + (2#16).toNat ∧ owesAccess (stopJob (flagAt (up []) 65534) 0) 0 = false ∧
    owesAccess (stopJob (flagAt (owed (up [])) 65534) 0) 0 = true ∧ State.Inv (up []) ∧
    jobOf (up []) 2 = none ∧ (tile (up []) 2).block = none :=
  ⟨signalled List.Pairwise.nil (by decide +kernel), by decide +kernel, by decide +kernel, by decide +kernel, by decide +kernel,
    invOf List.Pairwise.nil (by decide), by decide +kernel, by decide +kernel⟩

def wSig : Nat := op 0x20 (5 * 2 ^ 103 + 3 * 2 ^ 87 + 2 ^ 70)

theorem wit_Sig : AtDecode (up [wSig]) 0 wSig ∧ Signalled (up [wSig]) 0 0 job1 ∧ wOpcode wSig = 0x20 ∧ bits wSig 111 109 = 0 ∧
    bit1 wSig 70 = true ∧ bit1 wSig 69 = false ∧ flagCount (up [wSig]) 0 (sFlag wSig) + sN wSig ≤ 65535 :=
  ⟨atDecode List.Pairwise.nil (by decide +kernel), signalled List.Pairwise.nil (by decide +kernel), by decide +kernel⟩

def wWait (o : Nat) : Nat := op o (5 * 2 ^ 103 + 3 * 2 ^ 87)
def wFence : Nat := op 0x24 (15 * 2 ^ 108)
def wEnd : Nat := op 0x3F 0

theorem wit_Wait : AtDecode (flagAt (up [wWait 0x21]) 3) 0 (wWait 0x21) ∧ AtDecode (flagAt (up [wWait 0x21]) 2) 0 (wWait 0x21) ∧
    wOpcode (wWait 0x21) = 0x21 ∧ jobOf (flagAt (up [wWait 0x21]) 3) 0 = some (0, job1) ∧
    sN (wWait 0x21) ≤ flagCount (flagAt (up [wWait 0x21]) 3) 0 (sFlag (wWait 0x21)) ∧
    flagCount (flagAt (up [wWait 0x21]) 2) 0 (sFlag (wWait 0x21)) < sN (wWait 0x21) :=
  ⟨atDecode List.Pairwise.nil (by decide +kernel), atDecode List.Pairwise.nil (by decide +kernel), by decide +kernel⟩

theorem wit_Waitp : AtDecode (flagAt (up [wWait 0x22]) 3) 0 (wWait 0x22) ∧ wOpcode (wWait 0x22) = 0x22 ∧
    sN (wWait 0x22) ≤ flagCount (flagAt (up [wWait 0x22]) 3) 0 (sFlag (wWait 0x22)) :=
  ⟨atDecode List.Pairwise.nil (by decide +kernel), by decide +kernel⟩

theorem wit_Fence : AtDecode (up [wFence]) 0 wFence ∧ wOpcode wFence = 0x24 ∧ maskIdle (tile (up [wFence]) 0) (bits wFence 111 108) = true :=
  ⟨atDecode List.Pairwise.nil (by decide +kernel), by decide +kernel⟩

theorem wit_End : AtDecode (up [wEnd]) 0 wEnd ∧ wOpcode wEnd = 0x3F ∧ enginesIdle (tile (up [wEnd]) 0) = true :=
  ⟨atDecode List.Pairwise.nil (by decide +kernel), by decide +kernel⟩

/-- Tile 0 blocked with flag 5 at a count. -/
def blocked (b : Block) (n : Nat) : State :=
  let s := flagAt (up []) n
  setTile s 0 { tile s 0 with block := some b }

theorem wit_EndOfWait : ∀ b ∈ [Block.wait 5 3, Block.waitp 5 3], (blocked b 1).mem = [] ∧ (blocked b 1).touched = [] ∧
    (blocked b 1).stalled = none ∧ jobOf (blocked b 1) 0 = some (0, job1) ∧ job1.running = true ∧ (blocked b 1).main = .ready ∧
    (tile (blocked b 1) 0).block = some b ∧ 3 ≤ flagCount (blocked b 1) 0 5 + (2#16).toNat ∧
    flagCount (blocked b 1) 0 5 + (1#16).toNat < 3 := by decide +kernel

theorem wit_Watchdog : State.Inv (blocked (.wait 5 3) 1) ∧ (blocked (.wait 5 3) 1).main = .ready ∧
    jobOf (blocked (.wait 5 3) 1) 0 = some (0, job1) ∧ job1.running = true ∧ (tile (blocked (.wait 5 3) 1) 0).vecAt = none :=
  ⟨invOf List.Pairwise.nil (by decide +kernel), by decide +kernel⟩

/-! ### Barriers -/

/-- An LDS and a pass in the array's queue that have done their work. -/
def qDone (w : Nat) : QCmd :=
  { word := w, idx := 0, gens := [], reads := [], writes := [], done := true, reps := 0, xfer := none, stuck := false }
def busy (s : State) : State := setTile s 0 { tile s 0 with qArray := [qDone (op 1 0), qDone (op 2 0)] }

def wBar : Nat := op 0x23 0
/-- The descriptor of a root with no children that expects n arrivals, and of a tile that reports to flag 4 of tile 1. -/
def dRoot (n : Nat) : Nat := n + 2 * 2 ^ 16 + 3 * 2 ^ 22 + 2 ^ 28
def dLeaf : Nat := 1 + 2 * 2 ^ 16 + 3 * 2 ^ 22 + 2 ^ 32 + 4 * 2 ^ 48
def barMem (d : Nat) : List Host.Cell := storeAt [] (opstoreKey 0 0) (rsEncode 6 (leBytes 64 d))
def sBar (d : Nat) : State := { up [wBar] with mem := barMem d }
/-- One that has a child at flag 6 of tile 1. -/
def dKid : Nat := 2 + 2 * 2 ^ 16 + 3 * 2 ^ 22 + 2 ^ 28 + 2 ^ 80 + (1 + 6 * 2 ^ 16) * 2 ^ 128

theorem bar_wf (d : Nat) : Memory.wf (barMem d) := storeAt_wf _ _ _ List.Pairwise.nil

/-- What a BAR word asks of its descriptor of n children. -/
abbrev barOk (s : State) (d n : Nat) : Prop :=
  jobOf s 0 = some (0, job1) ∧ admitted s (issue s 0 (opIs 0x23) (barRun 0)) 4 = true ∧ bits wBar 111 92 = 0 ∧ peekBits s (8 * 0x002000000000) 128 = d % 2 ^ 128 ∧ bits d 86 80 = n ∧
    hazard (tile s 0) (hazardParts s 0 (0x002000000000, 0x002000000000 + 16 + 8 * 64 - 1)) [] = false ∧
    elemIn (os0 1) s job1 .normal (8 * 0x002000000000) 128 = true ∧
    (∀ i, i < n → elemIn (os0 1) s job1 .normal (8 * (0x002000000000 + 16 + 8 * i)) 64 = true) ∧ osClean s 1 = true ∧
    barCause (d % 2 ^ 128) ((List.range n).map (fun i => peekBits s (8 * (0x002000000000 + 16 + 8 * i)) 64)) = none

theorem wit_BarBusy : AtDecode (busy (sBar (dRoot 1))) 0 wBar ∧ wOpcode wBar = 0x23 ∧ barOk (busy (sBar (dRoot 1))) (dRoot 1) 0 ∧
    enginesIdle (tile (busy (sBar (dRoot 1))) 0) = false :=
  ⟨atDecode (bar_wf _) (by decide +kernel), by decide +kernel, by decide +kernel, by decide +kernel⟩

theorem wit_BarIdle : ∀ d ∈ [dRoot 1, dRoot 5, dLeaf], AtDecode (sBar d) 0 wBar ∧ barOk (sBar d) d 0 ∧ enginesIdle (tile (sBar d) 0) = true ∧
    flagCount (sBar d) 0 2 = 0 := by
  intro d hd
  simp only [List.mem_cons, List.not_mem_nil, or_false] at hd
  obtain rfl | rfl | rfl := hd <;> exact ⟨atDecode (bar_wf _) (by decide +kernel), by decide +kernel⟩

/-- One arrival at the barrier with a child, and the barriers as they stand in the tile. -/
def sBarKid : State := setFlag (sBar dKid) 0 2 1
def bKid : BarDesc := barDesc dKid [1 + 6 * 2 ^ 16]
def bLeafKid : BarDesc := { bKid with root := false, pltile := 1, pflag := 4 }

/-- What KidsHere asks, as a test. -/
theorem kidsHere {s : State} {t j : Nat} {jb : Job} {b : BarDesc} (h : (b.children.map (fun c => (c.1, c.2.1))).Nodup ∧
    ∀ c ∈ b.children, c.2.2.1 = false ∧ c.1 ≠ t ∧ jobOf s c.1 = some (j, jb) ∧ (tile s c.1).block = none ∧ flagCount s c.1 c.2.1 < 65535) :
    KidsHere s t j jb b := ⟨h.1, h.2⟩

theorem wit_BarKid : AtDecode sBarKid 0 wBar ∧ barOk sBarKid dKid 1 ∧ bKid.acount ≤ flagCount sBarKid 0 bKid.aflag + 1 ∧
    (barDesc (dKid % 2 ^ 128) ((List.range 1).map (fun i => peekBits sBarKid (8 * (0x002000000000 + 16 + 8 * i)) 64))) = bKid ∧
    bKid.root = true ∧ enginesIdle (tile sBarKid 0) = true ∧ KidsHere sBarKid 0 0 job1 bKid :=
  ⟨atDecode (bar_wf _) (by decide +kernel), by decide +kernel, by decide +kernel, by decide +kernel, by decide +kernel, by decide +kernel,
    kidsHere (by decide +kernel)⟩

theorem wit_BarKinds : (barDesc (dRoot 1) []).acount ≤ 0 + 1 ∧ (barDesc (dRoot 1) []).root = true ∧ 0 + 1 < (barDesc (dRoot 5) []).acount ∧
    (let b := barDesc dLeaf []
     b.acount ≤ 0 + 1 ∧ b.root = false ∧ b.prem = false ∧ b.pltile = 1 ∧ b.pflag = 4 ∧ flagCount (sBar dLeaf) 0 b.rflag = 0 ∧
       jobOf (sBar dLeaf) 1 = some (0, job1) ∧ (tile (sBar dLeaf) 1).block = none ∧ flagCount (sBar dLeaf) 1 4 < 65535) := by decide +kernel

def sRel : State :=
  let s := up []
  setTile s 0 { tile s 0 with block := some .barRelease, bar := some bLeafKid }
theorem wit_BarRelease : State.Inv sRel ∧ jobOf sRel 0 = some (0, job1) ∧ job1.running = true ∧ sRel.main = .ready ∧
    (tile sRel 0).block = some .barRelease ∧ (tile sRel 0).bar = some bLeafKid ∧ bLeafKid.root = false ∧
    bLeafKid.rflag = 3 ∧ flagCount sRel 0 3 = 0 ∧ KidsHere sRel 0 0 job1 bLeafKid :=
  ⟨invOf List.Pairwise.nil (by decide +kernel), by decide +kernel, by decide +kernel, by decide +kernel, by decide +kernel, by decide +kernel,
    by decide +kernel, by decide +kernel, by decide +kernel, kidsHere (by decide +kernel)⟩

/-- Tile 0 in the gather of a barrier, some arrivals counted. -/
def sGatherBar (b : BarDesc) (n : Nat) : State :=
  let s := setFlag (up []) 0 2 n
  setTile s 0 { tile s 0 with block := some .barGather, bar := some b }

theorem wit_BarGather : ∀ b ∈ [bKid, bLeafKid], (sGatherBar b 0).mem = [] ∧ (sGatherBar b 0).touched = [] ∧ (sGatherBar b 0).stalled = none ∧
    (sGatherBar b 1).mem = [] ∧ (sGatherBar b 1).touched = [] ∧ (sGatherBar b 1).stalled = none ∧ jobOf (sGatherBar b 1) 0 = some (0, job1) ∧
    (tile (sGatherBar b 1) 0).block = some .barGather ∧ (tile (sGatherBar b 1) 0).bar = some b ∧ b.aflag = 2 ∧
    flagCount (sGatherBar b 0) 0 2 + (1#16).toNat < b.acount ∧ b.acount ≤ flagCount (sGatherBar b 1) 0 2 + (1#16).toNat := by decide +kernel

theorem wit_BarGatherEnds : KidsHere (sGatherBar bKid 1) 0 0 job1 bKid ∧ bKid.root = true ∧ bLeafKid.root = false ∧ bLeafKid.prem = false ∧
    bLeafKid.pltile ≠ 0 ∧ bLeafKid.aflag ≠ bLeafKid.rflag ∧ flagCount (sGatherBar bLeafKid 1) 0 bLeafKid.rflag = 0 ∧
    jobOf (sGatherBar bLeafKid 1) 1 = some (0, job1) ∧ (tile (sGatherBar bLeafKid 1) 1).block = none ∧ flagCount (sGatherBar bLeafKid 1) 1 4 < 65535 :=
  ⟨kidsHere (by decide +kernel), by decide +kernel⟩

/-! ### Fetches, completions, quiet tiles, loans -/

/-- A program of four words in the own operand store, none fetched yet. -/
def sFetch : State :=
  let s := { up [] with mem := opMem [0] }
  setTile s 0 { tile s 0 with words := 4, progAddr := 0x002000000000 }

theorem wit_ProgramFetch : State.Inv sFetch ∧ sFetch.main = .ready ∧ sFetch.power = .run ∧ (tile sFetch 0).running = true ∧
    jobOf sFetch 0 = some (0, job1) ∧ (tile sFetch 0).words ≠ 0 ∧ (tile sFetch 0).fetched < (tile sFetch 0).words ∧
    (tile sFetch 0).buf.length ≤ 252 ∧ peekWord sFetch ((tile sFetch 0).progAddr + 16 * (tile sFetch 0).fetched) = some z64 :=
  ⟨invOf (opMem_wf _) (by decide +kernel), by decide +kernel⟩

theorem wit_Completion : State.Inv (busy (up [])) ∧ (busy (up [])).main = .ready ∧ (tile (busy (up [])) 0).block = none ∧
    (∀ e, currentOf (tile (busy (up [])) 0) e = none) ∧ (∀ e c, c ∈ qOf (tile (busy (up [])) 0) e → isSig c = false) ∧
    (qOf (tile (busy (up [])) 0) .array)[0]? = some (qDone (op 1 0)) ∧ completes (busy (up [])) 0 (qDone (op 1 0)) = true ∧
    isPass (qDone (op 1 0)) = false ∧ (tile (busy (up [])) 0).qArray.findIdx? isPass = some 1 ∧
    (tile (busy (up [])) 0).qArray[1]? = some (qDone (op 2 0)) ∧ (qDone (op 2 0)).done = true := by
  refine ⟨invOf List.Pairwise.nil (by decide +kernel), by decide +kernel, by decide +kernel, idle (by decide +kernel), fun e => ?_, ?_⟩
  · cases e <;> decide +kernel
  · decide +kernel

def three : State := { up [] with lay := { lay1 with tiles := [0, 1, 2] } }
theorem wit_Quiet : State.Inv three ∧ 2 < tileCount three ∧ canBeQuiet three 2 = true ∧ isQuiet three 2 = false :=
  ⟨invOf List.Pairwise.nil (by decide), by decide +kernel⟩

theorem wit_Loan : ((up []).main = .ready ∨ (up []).main = .discarding) ∧ (up []).power = .run := by decide

/-- One unit lent by half 0 to half 1, and its reclaim. -/
def lent : State :=
  { up [] with loans := [{ lender := 0, borrower := 1, seq := 0 }], reclaims := [{ lender := 0, opened := 0, owed := [(1, 1)] }] }

theorem wit_Confirm : lent.reclaims = { lender := 0, opened := 0, owed := [(1, 1)] } :: [] ∧ 6000 ≤ 6000 := by decide

/-! ## Witnesses: homes and reductions -/

def d64 : List Byte := (List.range 64).map (BitVec.ofNat 8)
def keyOf (s : State) (a : Nat) : Nat := (sramKey s a).getD 0

/-- A word of the shared pool and one of tile 0's operand store, holding 0 to 63. -/
def homeMem : List Host.Cell := storeAt (storeAt [] (keyOf (up []) 0x1000) (rsEncode 6 d64)) (opstoreKey 0 0) (rsEncode 6 d64)
def sHome : State := { up [] with mem := homeMem }

theorem home_wf : Memory.wf homeMem := storeAt_wf _ _ _ (storeAt_wf _ _ _ List.Pairwise.nil)
theorem home_inv : State.Inv sHome := invOf home_wf (by decide +kernel)

/-- A word is stored as the codeword of some data. -/
theorem sramOf {s : State} {a : Nat} {d : List Byte} (h : indetAt s a = false ∧ (sramKey s a).isSome = true ∧
    storedAt s.mem (keyOf s a) 70 = some (rsEncode 6 d) ∧ rsDecode 6 (rsEncode 6 d) = .clean d) : SramWord s a (keyOf s a) d := by
  refine ⟨h.1, ?_, rsEncode 6 d, h.2.2⟩
  unfold keyOf
  exact getOf h.2.1

theorem wit_Homes' : SramWord sHome 0x1000 (keyOf sHome 0x1000) d64 ∧ SramWord sHome 0x002000000000 (keyOf sHome 0x002000000000) d64 ∧
    State.Inv sHome ∧ sHome.main = .ready ∧ (∀ r ∈ sHome.recent, r.1 ≠ 0x1000) ∧ sramKey sHome 0x1000 = some (keyOf sHome 0x1000) :=
  ⟨sramOf (by decide +kernel), sramOf (by decide +kernel), home_inv, by decide +kernel⟩

theorem wit_Reductions : (∃ o ∈ reductions, o.2 = 0) ∧ ([0#8] : List Byte).length < 64 ∧ 0x1000 % 64 = 0 ∧ 63 + ([0#8] : List Byte).length ≤ 64 ∧
    d64.length = 64 := ⟨⟨(.redInt32Add, 0), by simp [reductions], rfl⟩, by decide +kernel⟩

def ctx1 : RedCtx := { RedCtx.reset with st := 1, nM1 := 2, hold := 0x001000001000, target := 0x001000000000 }
def put (m : List Host.Cell) (a : Nat) (d : List Byte) : List Host.Cell := storeAt m (keyOf (up []) a) (rsEncode 6 d)
/-- The arrival bitmap of the context's first word, and words of zeros at the target and in the slots. -/
def ordMem (m : Nat) : List Host.Cell :=
  [0x001000000000, 0x001000001040, 0x001000001080, 0x0010000010C0, 0x001000001100].foldl (fun m a => put m a z64) (put [] 0x001000001000 (leBytes 64 m))
/-- An open context of three contributors of which some have arrived. -/
def sOrd (m : Nat) : State := { up [] with ctx := [(0, ctx1)], mem := ordMem m }

theorem ord_wf (m : Nat) : Memory.wf (ordMem m) :=
  foldl_keeps Memory.wf _ (fun _ _ h => storeAt_wf _ _ _ h) _ _ (storeAt_wf _ _ _ List.Pairwise.nil)

/-- The bitmap that an ordered add at the target reads. -/
def ordBits (s : State) : Nat := leNat ((peekWord s 0x001000001000).getD [] ++ (peekWord s 0x001000001040).getD [])

theorem wit_Ordered : ∀ m ∈ [0, 6, 7], State.Inv (sOrd m) ∧ ctxOf (sOrd m) 0x001000000000 = some (0, ctx1) ∧
    SMap.find? (sOrd m).ctx 0 = some ctx1 ∧ ctxOf (sOrd m) 0x001000002000 = none ∧ ctx1.contributors = 3 ∧ ctx1.sigaddr = 0 ∧
    (peekWord (sOrd m) 0x001000001000).isSome = true ∧ (peekWord (sOrd m) 0x001000001040).isSome = true ∧ ordBits (sOrd m) = m ∧
    ∀ a ∈ [0x001000000000, 0x001000001080, 0x0010000010C0, 0x001000001100],
      (sramKey (sOrd m) a).isSome = true ∧ (peekWord (sOrd m) a).isSome = true := by
  intro m hm
  refine ⟨invOf (ord_wf m) ⟨rfl, rfl⟩, ?_⟩
  revert m
  decide +kernel

theorem wit_OrderedApart : ([0x001000000000, 0x001000001000, 0x001000001040, 0x001000001080, 0x0010000010C0, 0x001000001100].map
      (sramKey (sOrd 6))).Nodup ∧ bit1 6 0 = false ∧ bit1 7 0 = true ∧ (List.range 3).all (fun i => bit1 (0 + 2 ^ 0) i) = false ∧
    (List.range 3).all (fun i => bit1 (6 + 2 ^ 0) i) = true ∧ ctx1.hold + (0x001000000000 - ctx1.target) / 64 * (3 + 2) * 64 = 0x001000001000 := by
  decide +kernel

/-! ## Witnesses: HBM channels, scrubbers, discards -/

def hbmW : List Byte := rsEncode 8 d64
def lineAt : Nat := 0x100000000000 + 5 * 256 + 64
def lineMem : List Host.Cell := (List.range 4).foldl (fun m i => storeAt m (lineKey (up []) 0 5 i) hbmW) []
/-- A read that waits for the fetch of line 5 of B-die 0. -/
def sHbm : State :=
  { up [] with mem := lineMem
               fetches := [{ b := 0, line := 5, held := [.acc { rq := .host, a := lineAt, hint := .normal, op := .read [] [] }] }] }

/-- No tile's engine works on an entry. -/
theorem noneWork {s : State} (h : s.tiles.all (fun x => noCurrent x.2) = true) (n : Nat) (e : Engine) : currentOf (tile s n) e = none := by
  have hr : noCurrent Tile.reset = true := by decide
  refine idle ?_ e
  unfold tile SMap.get
  revert h
  generalize s.tiles = l
  intro h
  induction l with
  | nil => exact hr
  | cons x r ih =>
    simp only [List.all_cons, Bool.and_eq_true] at h
    simp only [SMap.find?]
    split
    · exact h.1
    · exact ih h.2

theorem wit_LineFetch : State.Inv sHbm ∧ (∀ n e, currentOf (tile sHbm n) e = none) ∧ (lineAt % 64 = 0 ∧ sHbm.power = .run ∧ sHbm.indet = [] ∧ sHbm.behind = [] ∧
      homeOf sHbm lineAt = .hbm 0 5 (lineAt % 256 / 64) ∧ findLine sHbm 0 5 = none ∧ victimWay sHbm 0 5 = some (0, none)) ∧
    ∀ i, i < 4 → ∃ w, storedAt sHbm.mem (lineKey sHbm 0 5 i) 72 = some w ∧ rsDecode 8 w = .clean d64 := by
  have h : ∀ i, i < 4 → storedAt sHbm.mem (lineKey sHbm 0 5 i) 72 = some hbmW := by decide +kernel
  have hd : rsDecode 8 hbmW = .clean d64 := by decide +kernel
  exact ⟨invOf (foldl_keeps Memory.wf _ (fun _ _ h => storeAt_wf _ _ _ h) _ _ List.Pairwise.nil) (by decide +kernel), noneWork (by decide +kernel),
    by decide +kernel, fun i hi => ⟨hbmW, h i hi, hd⟩⟩

def sWoken : State := { up [] with power := .sleep, woken := [(0, 5)] }
theorem wit_SelfRefreshIdle : sWoken.power = .sleep ∧ SMap.find? sWoken.woken 0 = some 5 := by decide

/-- Channel 0 with two errors counted, after two triggers, with a retrain pending, and retraining. -/
def chan0 (c : Chan) : State := setChan (up []) 0 c
def sPar : State := chan0 { Chan.reset with parity := [(0, 2)] }
def sTrig : State := chan0 { Chan.reset with triggers := [0, 0], parity := [(0, 2)] }
def sPend : State := chan0 { Chan.reset with wait := some 0, last := some 100 }
def sAct : State := chan0 { Chan.reset with active := some 100 }

/-- The channel's errors of the last second, and its triggers of the last ten. -/
def errorsOf (s : State) : Nat := ((chan s 0).parity.filter (fun e => decide (s.time < e.1 + 1000000000))).foldl (fun m e => m + e.2) 0
def triggersOf (s : State) : Nat := ((chan s 0).triggers.filter (fun x => decide (s.time < x + 10000000000))).length

theorem wit_Channels : ∀ s ∈ [sPar, sTrig, sPend, sAct], s.mem = [] ∧ s.touched = [] ∧ s.stalled = none ∧ channelsRun s = true ∧
    s.lay.chans.contains 0 = true ∧ 2 < rd s 0x6830 1 ∧ rd s 0x8040 2 ≠ 1 := by decide +kernel

theorem wit_Retrain : errorsOf sPar = 2 ∧ errorsOf sTrig = 2 ∧ rd sPar 0x6830 1 = 2 + 14 ∧ 2 + 13 < rd sPar 0x6830 1 ∧ triggersOf sPar < 2 ∧
    2 ≤ triggersOf sTrig ∧ retrainDue sPend 0 = some 100000100 ∧ (chan sAct 0).active = some 100 ∧ (chan sAct 0).held = [] ∧ sAct.behind = [] ∧
    (let s : State := { sPend with power := .sleep }; channelsRun s = true ∧ retrainDue s 0 = some 100000100) := by decide +kernel

theorem wit_RetrainAlone : (∀ c, c / 32 = 0 / 32 → (chan sPend c).active = none) ∧ (∀ c, c / 32 = 0 / 32 → c < 0 → (chan sPend c).wait = none) ∧
    ∀ n e, currentOf (tile sAct n) e = none := by
  refine ⟨fun c hc => ?_, fun c _ h => (by cases h), noneWork (by decide +kernel)⟩
  have h : ∀ c, c < 32 → (chan sPend c).active = none := by decide +kernel
  exact h c (by omega)

def scrMem : List Host.Cell := storeAt (storeAt [] (vaultKey 0 1 0) (rsEncode 6 d64)) (hbmKey 0 0) (rsEncode 8 d64)
def sScr : State := { up [] with mem := scrMem }

theorem wit_Scrub : State.Inv sScr ∧ (scrubsRun sScr = true ∧ (sScr.lay.slices.getD 0 []).contains 1 = true ∧ cachedAt sScr 0 1 0 = none ∧
      (scrubAt sScr.vscrub sScr.regStart (scrubKey 0 1)).pos = 0 ∧ storedAt sScr.mem (vaultKey 0 1 0) 70 = some (rsEncode 6 d64) ∧
      rsDecode 6 (rsEncode 6 d64) = .clean d64) ∧
    (sScr.lay.chans.contains 0 = true ∧ (chan sScr 0).active = none ∧ (chan sScr 0).selfRefresh = false ∧
      (scrubAt sScr.hscrub sScr.regStart 0).pos = 0 ∧ findLine sScr 0 0 = none ∧ sScr.fetches = [] ∧ 1 < rd sScr 0x6800 4 / 64 ∧
      storedAt sScr.mem (hbmKey 0 0) 72 = some (rsEncode 8 d64) ∧ rsDecode 8 (rsEncode 8 d64) = .clean d64) ∧
    (scrubAt sScr.vscrub sScr.regStart (dieScrubKey 0)).alarmed = false ∧ (scrubAt sScr.hscrub sScr.regStart 0).alarmed = false :=
  ⟨invOf (storeAt_wf _ _ _ (storeAt_wf _ _ _ List.Pairwise.nil)) (by decide +kernel), by decide +kernel⟩

def comp1 : Comp := { q := 0, slot := 0, jobId := 7, status := 3, cause := 0x44, ltile := 0xFFFF, word := 0 }
def disc1 : Discard := { began := 10, prior := (0, 0, 0), covered := [comp1], opened := [(0x001000000000, 0x00100000003F)] }
def sDisc : State :=
  { up [] with main := .discarding, discard := some disc1, ctx := [(0, ctx1)], jobs := [(0, { job1 with owins := [(0x1000, 0x1000, false)] })] }

theorem wit_DiscardEnd : sDisc.main = .discarding ∧ sDisc.discard = some disc1 ∧ sDisc.reads = [] ∧ jobHeld sDisc = false ∧ (∃ r, r ∈ disc1.opened) ∧
    ∃ j ∈ sDisc.jobs, ∃ r, r ∈ deviceWins j.2 :=
  ⟨rfl, rfl, rfl, rfl, ⟨_, List.mem_cons_self⟩, (0, { job1 with owins := [(0x1000, 0x1000, false)] }), by decide, (0x1000, 0x1FFF), by decide⟩

/-! ## Witnesses: regulation -/

def part1 : PartTarget := .hbmBulkRead 0x100000000000 1
def hostPart : RegPart := { m := 144, eng := 0, target := part1, arrived := 3, req := none }
/-- The host's master at its ceiling, and a part of it that waits there. -/
def sFull : State := { up [] with regU := [(16 * 144 + partClass (up []) part1, 2 ^ 60)] }
def sWaits : State := { sFull with regWait := [hostPart] }

theorem wit_Regulate : ∀ s ∈ [up [], sFull, sWaits], s.mem = [] ∧ s.touched = [] ∧ s.stalled = none ∧ windowsRun s = true ∧
    divide s (targetUnits part1) = [part1] := by decide +kernel

theorem wit_RegulateKinds : mayAdmit (up []) 144 part1 = true ∧ mayAdmit sFull 144 part1 = false ∧
    sWaits.regWait.any (fun w => w.m == 144 && w.eng == 0) = true ∧ sFull.regWait.any (fun w => w.m == 144 && w.eng == 0) = false ∧
    sWaits.regWait = hostPart :: [] ∧ (up []).regOld = [] ∧ (up []).regWait = [] ∧ sWaits.regOld = [] ∧ sWaits.behind = [] ∧
    partClass sWaits part1 < 16 ∧ sWaits.time < sWaits.winStart + 2 * max 1 (rd sWaits 0x7000 1) ∧
    ceilOf sWaits 144 (partClass sWaits part1) ≤ 2 ^ 60 - ceilOf sWaits 144 (partClass sWaits part1) ∧
    0 < ceilOf (up []) 144 (partClass (up []) part1) := by decide +kernel

theorem wit_Boundary : ∀ n e, currentOf (tile (up []) n) e = none := noneWork (by decide +kernel)

/-! ## Witnesses: the host interface -/

def q1 : Queue := { Queue.reset with enabled := true, sqTail := 5, sqHead := 2, fetched := 5, cqTail := 6, cqHead := 3 }
def withQueue (x : Queue) : State := { up [] with queues := [(0, x)] }
def asleep : State := { withQueue q1 with power := .sleep }

theorem wit_Doorbells : ∀ s ∈ [withQueue q1, asleep], s.mem = [] ∧ s.touched = [] ∧ s.stalled = none ∧ hostReaches s = true ∧
    queue s 0 = q1 ∧ q1.enabled = true ∧ q1.disabling = false := by decide +kernel

theorem wit_DoorbellValues : (withQueue q1).power = .run ∧ asleep.power = .sleep ∧ q1.fetched ≠ 258 ∧
    (q1.sqTail + 512 - q1.sqHead) % 512 ≤ (5 + 512 - q1.sqHead) % 512 ∧ (258 + 512 - q1.sqHead) % 512 = 256 ∧
    256 < (259 + 512 - q1.sqHead) % 512 ∧ (4 + 512 - q1.sqHead) % 512 < (q1.sqTail + 512 - q1.sqHead) % 512 ∧
    (6 + 512 - q1.cqHead) % 512 ≤ (q1.cqTail + 512 - q1.cqHead) % 512 ∧ (q1.cqTail + 512 - q1.cqHead) % 512 < (7 + 512 - q1.cqHead) % 512 := by
  decide +kernel

def qOff (hi : Nat) : Queue := { Queue.reset with wins := (0, hi) :: List.replicate 7 (0, 0) }
def ctl : BitVec 64 := BitVec.ofNat 64 (2 ^ 63 + 2 ^ 48)

theorem wit_QueueEnable : (qOff 0x1FFF).enabled = false ∧ queue (withQueue (qOff 0x1FFF)) 0 = qOff 0x1FFF ∧ bit1 ctl.toNat 63 = true ∧
    (winsInUse (qOff 0x1FFF)).all (winOk (withQueue (qOff 0x1FFF))) = true ∧
    (winsInUse (qOff 0x1FFE)).all (winOk (withQueue (qOff 0x1FFE))) = false := by decide +kernel

def sIdleQ : State := { withQueue { q1 with sqHead := 5 } with jobs := [] }
theorem wit_QueueDisable : hostReaches sIdleQ = true ∧ bit1 (0#64 : BitVec 64).toNat 63 = false ∧ (queue sIdleQ 0).enabled = true ∧
    (queue sIdleQ 0).disabling = false ∧ (queue sIdleQ 0).sqHead = (queue sIdleQ 0).sqTail ∧ sIdleQ.comps = [] ∧ sIdleQ.jobs = [] := by
  decide +kernel

theorem wit_Registers : State.Inv (up []) ∧ hostReaches (up []) = true ∧ (7#64 : BitVec 64).toNat < 2 ^ 32 ∧
    (queue (withQueue (qOff 0)) 0).enabled = false ∧ (queue (up []) 0).enabled = true ∧
    (BitVec.ofNat 64 (2 ^ 37)).toNat % (2 ^ (up []).link.bar2Log / 8) = 0 ∧ (BitVec.ofNat 64 (2 ^ 30)).toNat % (2 ^ (up []).link.bar2Log / 8) ≠ 0 :=
  ⟨invOf List.Pairwise.nil (by decide), by decide +kernel⟩

def early : State := { up [] with main := .bringup, bringup := { (up []).bringup with step := 7 } }
theorem wit_Config : ∀ s ∈ [up [], early], s.mem = [] ∧ s.touched = [] ∧ s.stalled = none ∧ s.link.l0 = true ∧ s.link.l12 = false := by decide +kernel

theorem wit_ConfigStates : bar0Answers (up []) = true ∧ early.main = .bringup ∧ early.bringup.step < 8 := by decide +kernel

theorem wit_HostReady : HostReady (up []) ∧ (1#32 : BitVec 32) ≠ 0xD15C#32 ∧ State.reset.main ≠ .ready ∧ State.Inv State.reset :=
  ⟨⟨rfl, by decide⟩, by decide, by decide, invOf List.Pairwise.nil (by decide)⟩

def notServed : State := { up [] with everReady := false }
theorem wit_Bar2 : NothingWaits sHome ∧ SramWord sHome 0x1000 (keyOf sHome 0x1000) d64 ∧ (hostReaches sHome = true ∧ bar2Serves sHome = true ∧
    bar2Addr sHome 0x1008 = 0x1000 + 8 ∧ hostReaches notServed = true ∧ bar2Serves notServed = false ∧ notServed.mem = [] ∧
    bar2Addr sHome 0x103F = 0x1000 + 63 ∧ 63 + ([0#8] : List Byte).length ≤ 64) :=
  ⟨openOf (by decide +kernel), sramOf (by decide +kernel), by decide +kernel⟩

def flagA : Nat := 0x200000000000 + 20
def ctxA : Nat := 0x200000100000 + 32
/-- A context write for three contributors with a target. -/
def ctxBytes (t : Nat) : List Byte := leBytes 32 (t + 0x001000001000 * 2 ^ 48 + 2 * 2 ^ 144 + 2 ^ 184)
def sOpen : State := { up [] with ctx := [(1, ctx1)] }

theorem wit_FlagWord : Signalled (up []) 0 0 job1 ∧ homeOf (up []) flagA = .flag 0 20 ∧ (leBytes 4 65535).length = 4 ∧
    leNat (leBytes 4 65535) = 65535 ∧ leNat (leBytes 4 65536) = 65536 ∧ homeOf (up []) (0x200000000000 + 0xBC) = .flag 0 0xBC ∧
    homeOf (up []) (0x200000000000 + 0xC0) = .flag 0 0xC0 ∧ flagCount (up []) 0 5 + 65535 ≤ 65535 ∧ bar2Serves (up []) = true :=
  ⟨signalled List.Pairwise.nil (by decide +kernel), by decide +kernel⟩

theorem wit_Contexts : homeOf (up []) ctxA = .ctx 0 1 0 ∧ (ctxBytes 0x001000000000).length = 32 ∧
    bits (leNat (ctxBytes 0x001000000000)) 185 184 = 1 ∧ (redCtx (up []) 0 1).st ≠ 1 ∧
    ctxOpens (up []) 0 1 (leNat (ctxBytes 0x001000000000)) = true ∧ bits (leNat (ctxBytes 0x001000000020)) 185 184 = 1 ∧
    ctxOpens (up []) 0 1 (leNat (ctxBytes 0x001000000020)) = false ∧ homeOf sOpen ctxA = .ctx 0 1 0 ∧
    bits (leNat (leBytes 32 0)) 185 184 = 0 ∧ (redCtx sOpen 0 1).st = 1 ∧ (up []).fetches = [] ∧ (up []).chans = [] := by decide +kernel

theorem wit_ContextsChannels : ∀ ch, (chan (up []) ch).active = none := fun _ => rfl

/-! ### Descriptors -/

/-- A CRC-32 by way of its register after every 8 bytes. -/
def crcBy : List Byte → BitVec 32 → List (BitVec 32) → Bool
  | bs, _, [] => bs.isEmpty
  | bs, c, c' :: r => (bs.take 8).foldl crc32Step c == c' && crcBy (bs.drop 8) c' r

theorem crcBy_fold : ∀ (l : List (BitVec 32)) (bs : List Byte) (c : BitVec 32), crcBy bs c l = true →
    bs.foldl crc32Step c = l.getLastD c
  | [], bs, c, h => by
    cases bs with
    | nil => rfl
    | cons _ _ => simp [crcBy] at h
  | c' :: r, bs, c, h => by
    simp only [crcBy, Bool.and_eq_true, beq_iff_eq] at h
    rw [← List.take_append_drop 8 bs, List.foldl_append, h.1, crcBy_fold r _ c' h.2]
    cases r <;> simp [List.getLastD]

theorem crc32_by {bs : List Byte} {l : List (BitVec 32)} (h : crcBy bs 0xFFFFFFFF#32 l = true) :
    crc32 bs = l.getLastD 0xFFFFFFFF#32 ^^^ 0xFFFFFFFF#32 := by
  rw [crc32, crcBy_fold l bs _ h]

/-- An output window of one word, in a word of the shared pool. -/
def owinEntry : Nat := 0x1000 * 2 ^ 64 + 64
def listMem : List Host.Cell := storeAt [] (keyOf (up []) 0x1000) (rsEncode 6 (leBytes 64 owinEntry))
def dq : Queue := { Queue.reset with enabled := true, sqTail := 3, wins := (0, 0x1FFF) :: List.replicate 7 (0, 0) }
def sQueued : State := { up [] with queues := [(0, dq)], jobs := [], mem := listMem }

/-- A descriptor of two tiles with one output window; one with a reserved bit set; one with another's CRC; one of a stale epoch. -/
def descOk : BitVec 512 := BitVec.ofNat 512 (2 * 2 ^ 256 + 7 + 0x1000 * 2 ^ 392 + 2 ^ 444 + 2770018657 * 2 ^ 448 + 3959547514 * 2 ^ 480)
def descBad : BitVec 512 := BitVec.ofNat 512 (2 * 2 ^ 256 + 7 + 2 ^ 32 + 54903691 * 2 ^ 480)
def descCrc : BitVec 512 := BitVec.ofNat 512 (2 * 2 ^ 256 + 8 + 517001308 * 2 ^ 480)
def descStale : BitVec 512 := BitVec.ofNat 512 (2 * 2 ^ 256 + 7 + 2 ^ 175 + 9 * 2 ^ 176 + 1660791257 * 2 ^ 480)

theorem crc_descOk : crc32 ((leBytes 64 descOk.toNat).take 60) = 3959547514#32 :=
  crc32_by (l := [2417502607, 4005383391, 1831207592, 1583397063, 2919970404, 985853725, 3146186595, 335419781]) (by decide +kernel)
theorem crc_descBad : crc32 ((leBytes 64 descBad.toNat).take 60) = 54903691#32 :=
  crc32_by (l := [681856746, 1964507312, 138492398, 1607812570, 997974769, 283826047, 3425374609, 4240063604]) (by decide +kernel)
theorem crc_descCrc : crc32 ((leBytes 64 descCrc.toNat).take 60) = 3880785935#32 :=
  crc32_by (l := [1228421923, 1616325605, 2385709409, 98672134, 776291532, 3156806056, 430180353, 414181360]) (by decide +kernel)
theorem crc_descStale : crc32 ((leBytes 64 descStale.toNat).take 60) = 1660791257#32 :=
  crc32_by (l := [2417502607, 4005383391, 1574019681, 3583288978, 3424253657, 381695069, 1816599488, 2634176038]) (by decide +kernel)
theorem crc_list : crc32 (leBytes 16 owinEntry) = 2770018657#32 :=
  crc32_by (l := [3007373947, 1524948638]) (by decide +kernel)

theorem wit_DescriptorFetch : State.Inv sQueued ∧ mayFetch sQueued 0 = true ∧ hostReaches sQueued = true ∧ winsInUse (queue sQueued 0) = [(0, 0x1FFF)] ∧
    (∀ d ∈ [descOk.toNat, descStale.toNat], bits d 443 440 = 0 ∧ bits d 327 320 = 0 ∧ bits d 174 32 = 0 ∧
      jTileFirst d + jTileCount d ≤ tileCount sQueued ∧ jTileCount d = 2 ∧ jWdog d = 0 ∧ jPasidEn d = false ∧ bits d 391 376 = 0 ∧
      bits d 319 272 = 0 ∧ bits d 375 328 = 0) ∧
    bits descOk.toNat 447 444 = 1 ∧ bits descOk.toNat 439 392 = 0x1000 ∧ bits descOk.toNat 511 480 = 3959547514 ∧
    bits descOk.toNat 479 448 = 2770018657 ∧ bit1 descOk.toNat 175 = false ∧ bits descStale.toNat 447 444 = 0 ∧
    bits descStale.toNat 439 392 = 0 ∧ bits descStale.toNat 511 480 = 1660791257 ∧ bits descStale.toNat 479 448 = 0 ∧
    bit1 descStale.toNat 175 = true ∧ bits descStale.toNat 183 176 ≠ sQueued.discardEpoch % 256 ∧ bits descBad.toNat 511 480 = 54903691 ∧
    bits descBad.toNat 174 32 ≠ 0 ∧ bits descCrc.toNat 511 480 ≠ 3880785935 :=
  ⟨invOf (storeAt_wf _ _ _ List.Pairwise.nil) (by decide +kernel), by decide +kernel⟩

theorem wit_WindowList : Clean sQueued 0x1000 16 ∧ peekBytes sQueued 0x1000 16 = leBytes 16 owinEntry ∧ bits (queue sQueued 0).ctrl 59 58 = 0 ∧
    inOne [(0, 0x1FFF)] 0x1000 16 = true ∧ inOne [(0, 0x1FFF)] 0 64 = true ∧ inOne [(0, 0x1FFF)] 0 0 = true ∧
    (entries16 (leBytes 16 owinEntry) 1).any (badOwin [(0, 0x1FFF)]) = false ∧ (entries16 (leBytes 16 owinEntry) 1).any (fun e => bit1 e 63) = false :=
  ⟨cleanOf (by decide +kernel), by decide +kernel⟩

/-! ### Jobs and completions -/

def jobWait : Job := { job1 with running := false }
def sOffered : State := { up [] with jobs := [(0, jobWait)], queues := [(0, { dq with offered := [0], fetched := 1 })] }
theorem wit_Admit : State.Inv sOffered ∧ jobsRun sOffered = true ∧ (toAdmit sOffered).isSome = true :=
  ⟨invOf List.Pairwise.nil (by decide +kernel), by decide +kernel⟩

def sEnded : State := { up [] with tiles := [(0, { tileOf [] with ended := true }), (1, { tileOf [] with ended := true })] }
theorem wit_JobComplete : State.Inv sEnded ∧ sEnded.main = .ready ∧ SMap.find? sEnded.jobs 0 = some job1 ∧ jobDone sEnded 0 job1 = true :=
  ⟨invOf List.Pairwise.nil (by decide +kernel), by decide +kernel⟩

def sDue (due : Bool) : State := { up [] with msixTable := [(0, 0)], comps := [comp1], queues := [(0, { dq with holdoff := some 5, vectorDue := due })] }
theorem wit_CompletionEntry : ∀ due, State.Inv (sDue due) ∧ mayWriteComp (sDue due) 0 = true ∧
    takeFirst (fun (c : Comp) => c.q == 0) (sDue due).comps = (some comp1, []) ∧ (queue (sDue due) 0).holdoff = some 5 ∧
    (queue (sDue due) 0).vectorDue = due ∧ hostReaches (sDue due) = true ∧ bit1 (msixEntry (sDue due) 0) 96 = false := fun due =>
  ⟨invOf List.Pairwise.nil ⟨rfl, rfl⟩, by cases due <;> decide +kernel⟩

/-! ### Movers -/

/-- A range in one of a job's regions. -/
theorem permittedIn {s : State} {jb : Job} {wr : Bool} {hint : Hint} {a n : Nat} (h : a + n ≤ 2 ^ 48 ∧ (hint == .last) = false ∧
    (regions s jb wr hint).any (fun w => decide (w.1 ≤ a) && decide (a + n ≤ w.2 + 1)) = true) : Permitted s jb wr hint a n := by
  refine ⟨h.1, fun o k hk hn => ?_⟩
  obtain ⟨w, hw, hr⟩ := List.any_eq_true.1 h.2.2
  simp only [Bool.and_eq_true, decide_eq_true_eq] at hr
  simp only [allowed, h.2.1, Bool.false_and, covered, inWindows, Bool.or_eq_true, List.any_eq_true, Bool.and_eq_true, decide_eq_true_eq,
    Bool.false_eq_true, if_false]
  exact .inl ⟨w, hw, by omega, by omega⟩

/-- Mover descriptors of each operation over 64 bytes. -/
def dMover (o rest : Nat) : Nat := o * 2 ^ 270 + rest
def dCopy : Nat := dMover 0 (0x1000 + 0x2000 * 2 ^ 64 + 64 * 2 ^ 128)
def dFill : Nat := dMover 1 (0x1000 + 0x2000 * 2 ^ 64 + 64 * 2 ^ 128)
def dBcast : Nat := dMover 2 (0x1000 + 0x2000 * 2 ^ 64 + 64 * 2 ^ 128 + 2 ^ 208)
def dReduce : Nat := dMover 3 (0x1000 + 0x2000 * 2 ^ 64 + 64 * 2 ^ 128)
def dCas : Nat := dMover 4 (0x1000 + 0x1000 * 2 ^ 64 + 64 * 2 ^ 128 + 0x1010 * 2 ^ 192)
def dSig : Nat := dCopy + 5 * 2 ^ 335 + 3 * 2 ^ 341
def jobMv (d : Nat) (st : MvState) : Job := { job1 with movers := [(d, st)], owins := [(0, 0x10000, false)], qwins := [(0, 0xFFFF)] }
/-- Words at the source, the destination and the same place in the first operand store. -/
def mvMem : List Host.Cell := storeAt (put homeMem 0x2000 z64) (opstoreKey 0 128) (rsEncode 6 z64)
def sMv (d : Nat) (st : MvState) : State := { up [] with jobs := [(0, jobMv d st)], mem := mvMem }

theorem mv_wf : Memory.wf mvMem := storeAt_wf _ _ _ (storeAt_wf _ _ _ home_wf)

theorem wit_MoverStart : State.Inv (sMv dCopy .waiting) ∧ (sMv dCopy .waiting).main = .ready ∧
    SMap.find? (sMv dCopy .waiting).jobs 0 = some (jobMv dCopy .waiting) ∧
    (jobMv dCopy .waiting).running = true ∧ (jobMv dCopy .waiting).movers[0]? = some (dCopy, .waiting) ∧
    triggered (sMv dCopy .waiting) (jobMv dCopy .waiting) dCopy = true ∧
    ((List.range 8).find? (fun n => !(busyMovers (sMv dCopy .waiting)).contains (8 * moverDie (sMv dCopy .waiting) dCopy + n))) = some 0 :=
  ⟨invOf mv_wf (by decide +kernel), by decide +kernel⟩

/-- Words in places of their own. -/
theorem ownOf {s : State} {l : List Nat} (h : ∀ x ∈ l, (sramKey s x).isSome = true ∧ ∀ y ∈ l, sramKey s x = sramKey s y → x = y) : OwnPlaces s l := h

theorem wit_MoverWork : ∀ d ∈ [dCopy, dFill, dBcast, dReduce, dCas], (sMv d (.running 3)).touched = [] ∧ (sMv d (.running 3)).stalled = none ∧
    admitted (sMv d (.running 3)) (moverDoes 0 0 d (jobMv d (.running 3)) (sMv d (.running 3))) 0 = true ∧ (sMv d (.running 3)).xfers = [] ∧ (jobMv d (.running 3)).movers[0]? = some (d, .running 3) ∧
    mShost d = false ∧ mDhost d = false ∧ mSrem d = false ∧ mDrem d = false := by decide +kernel

theorem wit_MoverOps : mOp dCopy = 0 ∧ mOp dFill = 1 ∧ mOp dBcast = 2 ∧ mOp dReduce = 3 ∧ mOp dCas = 4 ∧ mRop dReduce = 0 ∧ mHint dCopy = .normal ∧
    mHint dFill = .normal ∧ mHint dBcast = .normal ∧ mHint dReduce = .normal ∧ mHint dCas = .normal ∧ mCas64 dCas = false ∧ mAux dCas = 0x1010 ∧
    mSrc dCopy = 0x1000 ∧ mDst dCopy = 0x2000 ∧ mLen dCopy = 64 ∧ mSrc dReduce = 0x1000 ∧ mDst dReduce = 0x2000 ∧ mLen dReduce = 64 ∧
    mDst dFill = 0x2000 ∧ mLen dFill = 64 ∧ mSrc dBcast = 0x1000 ∧ mDst dBcast = 0x2000 ∧ mLen dBcast = 64 ∧ mDst dCas = 0x1000 ∧
    bcastBases (sMv dBcast (.running 3)) dBcast = [(0x002000000000, 0x100000)] := by decide +kernel

theorem wit_MoverRanges : ∀ d ∈ [dCopy, dFill, dBcast, dReduce, dCas],
    Permitted (sMv d (.running 3)) (jobMv d (.running 3)) false .normal 0x1000 64 ∧
    Permitted (sMv d (.running 3)) (jobMv d (.running 3)) true .normal 0x2000 64 ∧
    Permitted (sMv d (.running 3)) (jobMv d (.running 3)) true .normal 0x1000 4 ∧
    Permitted (sMv d (.running 3)) (jobMv d (.running 3)) true .normal 0x1010 8 ∧
    Permitted (sMv d (.running 3)) (jobMv d (.running 3)) true .normal (0x002000000000 + 0x2000) 64 ∧
    Clean (sMv d (.running 3)) 0x1000 64 ∧ Clean (sMv d (.running 3)) 0x2000 64 ∧
    OwnPlaces (sMv d (.running 3)) (wordsOf 0x1000 64 ++ wordsOf 0x2000 64) ∧
    OwnPlaces (sMv d (.running 3)) (wordsOf 0x1000 64 ++ wordsOf (0x002000000000 + 0x2000) 64) := by
  refine List.forall_mem_cons.2 ⟨?_, List.forall_mem_cons.2 ⟨?_, List.forall_mem_cons.2 ⟨?_, List.forall_mem_cons.2 ⟨?_,
    List.forall_mem_singleton.2 ?_⟩⟩⟩⟩ <;> refine ⟨permittedIn ?_, permittedIn ?_, permittedIn ?_, permittedIn ?_, permittedIn ?_, cleanOf ?_, cleanOf ?_, ?_, ?_⟩ <;>
    (try unfold OwnPlaces) <;> decide +kernel

theorem wit_MoverComplete : ∀ d ∈ [dCopy, dSig], (jobMv d (.worked 3)).movers[0]? = some (d, .worked 3) ∧
    moverSent (sMv d (.worked 3)) 0 0 d = true := by decide +kernel

theorem wit_MoverSignal : mSigN dCopy = 0 ∧ mSigN dSig = 3 ∧ mSigRem dSig = false ∧ bits dSig 334 319 = 0 ∧ bits dSig 340 335 = 5 ∧
    Signalled (sMv dSig (.worked 3)) 0 0 (jobMv dSig (.worked 3)) ∧ flagCount (sMv dSig (.worked 3)) 0 5 + 3 ≤ 65535 :=
  ⟨by decide +kernel, by decide +kernel, by decide +kernel, by decide +kernel, by decide +kernel, signalled mv_wf (by decide +kernel), by decide +kernel⟩

/-! ### Translations and host reads -/

/-- A copy of one word from host memory to the shared pool that waits for its translation. -/
def dHost : Nat := 2 ^ 299 + 0x10040 + 0x2000 * 2 ^ 64 + 64 * 2 ^ 128
def jobHost : Job := { jobMv dHost (.running 3) with desc := job1.desc + 2 ^ 222 + 5 * 2 ^ 202, owins := [(0, 0x10000, false), (0x10000, 0x1000, true)] }
def piece1 : Piece := { far := 8 * 0x10040, dev := 8 * 0x1000, width := 512, data := none, kind := .element }
def xHost (toDev : Bool) : Xfer :=
  { job := 0, eng := .mover 0 0, toDev := toDev, remote := none, hint := .normal, prio := 0, rop := none,
    blocks := [[piece1]], started := false, ats := some 1, prg := none, tags := [], ack := false, last := 0, pend := [] }
def sXlate (pri toDev : Bool) : State :=
  { up [] with jobs := [(0, jobHost)], xfers := [(0, xHost toDev)], nextX := 1, mem := homeMem
               link := { (up []).link with pasid := true, ats := true, pri := pri, priAlloc := 8 } }
def grant (r : Bool) : PageGrant := { page := 16, read := r, write := r, host := 0x77 }
/-- The pages still missing after a translation completion. -/
def missingAfter (s : State) (x : Xfer) (g : PageGrant) : List Nat := missingPages (atcPut s (jPasid jobHost.desc) g) (jPasid jobHost.desc) x

/-- No engine of any tile is at an entry. -/
theorem heldOf {s : State} (h : s.tiles.all (fun x => noCurrent x.2) = true) : EnginesHeld s := fun n e c hc => by
  rw [noneWork h n e] at hc
  cases hc

theorem wit_Translation : ∀ pri toDev, let s := sXlate pri toDev
    State.Inv s ∧ EnginesHeld s ∧ NothingWaits s ∧ (s.main = .ready ∧ SMap.find? s.xfers 0 = some (xHost toDev) ∧ (xHost toDev).ats = some 1 ∧
      SMap.find? s.jobs 0 = some jobHost ∧ jobHost.running = true ∧ jPasidEn jobHost.desc = true ∧ hostReaches s = true ∧
      missingAfter s (xHost toDev) (grant true) = [] ∧ missingAfter s (xHost toDev) (grant false) = [16] ∧ s.link.pri = pri ∧
      s.link.priStopped = false ∧ prgPages s + 1 ≤ s.link.priAlloc) ∧ covered (hostWins jobHost) 0x10040 0x1007F = true := fun pri toDev =>
  ⟨invOf home_wf ⟨rfl, rfl⟩, heldOf (by cases pri <;> cases toDev <;> decide +kernel), openOf (by cases pri <;> cases toDev <;> decide +kernel),
    by cases pri <;> cases toDev <;> decide +kernel, by decide +kernel⟩

theorem wit_TranslationRuns : (runsOf ([piece1].zipIdx.filter (fun p => p.1.data.isNone)) none).map (fun r => (r.lo, r.hi)) = [(0x10040, 0x1007F)] ∧
    (blockRuns [piece1]).map (fun r => (r.lo, r.hi)) = [(0x10040, 0x1007F)] ∧ Readable (sXlate true false) jobHost .normal piece1.dev 512 :=
  ⟨by decide +kernel, by decide +kernel, readableIn (l := [0x1000]) (by decide +kernel) (by decide +kernel)⟩

def prg1 (abandoned : Bool) : Prg := { x := 0, pages := [16], sent := 0, abandoned := abandoned }
def xPrg : Xfer := { xHost true with ats := none, prg := some 0 }
def sPrg (abandoned : Bool) : State :=
  { sXlate true true with xfers := [(0, xPrg)], nextPrg := 1, prgs := [(0, prg1 abandoned)] }
theorem wit_PageGroups : ∀ a, State.Inv (sPrg a) ∧ EnginesHeld (sPrg a) ∧ SMap.find? (sPrg a).prgs 0 = some (prg1 a) ∧ (sPrg a).main = .ready ∧
    SMap.find? (sPrg a).xfers 0 = some xPrg ∧ SMap.find? (sPrg a).jobs 0 = some jobHost ∧ (sPrg a).xfers.all (fun y => y.2.job == 0) = true ∧
    (sPrg a).xfers.all (fun y => y.2.stands) = true ∧ (sPrg a).regWait = [] ∧ hostReaches (sPrg a) = true ∧
    missingPages (sPrg a) (jPasid jobHost.desc) xPrg = [16] := fun a =>
  ⟨invOf home_wf ⟨rfl, rfl⟩, heldOf (by cases a <;> decide +kernel), by cases a <;> decide +kernel⟩

theorem wit_Invalidate : State.Inv (up []) ∧ hostReaches (up []) = true ∧ (up []).xfers = [] ∧ hostReaches (sXlate true true) = true ∧
    (sXlate true true).xfers = [(0, xHost true)] ∧ (xHost true).ats.isSome = true ∧
    (wantPages (xHost true)).any (invalidates none 16 1 (xPasid (sXlate true true) (xHost true))) = true :=
  ⟨invOf List.Pairwise.nil (by decide), by decide +kernel⟩

def xRead (tags : List Nat) : Xfer := { xHost true with ats := none, started := true, tags := tags }
def rd0 (d : Bool) : HostRead := { x := 0, job := 0, pages := [16], pieces := [0], dropped := d }
def sRead (d : Bool) (n : Nat) : State :=
  { sXlate true true with xfers := [(0, xRead (List.range n))], reads := (List.range n).map (fun i => (i, rd0 d)) }
/-- The job has faulted and owes the read's end. -/
def sReadFault : State :=
  { sRead true 1 with jobs := [(0, { jobHost with running := false, fault := some (rejected jobHost 0x34 0xFFFF 0) })], xfers := [] }

theorem wit_HostReads : ∀ d, ∀ n ∈ [1, 2], State.Inv (sRead d n) ∧ EnginesHeld (sRead d n) ∧ NothingWaits (sRead d n) ∧ (sRead d n).main = .ready ∧
    SMap.find? (sRead d n).reads 0 = some (rd0 d) ∧ SMap.find? (sRead d n).xfers 0 = some (xRead (List.range n)) ∧
    SMap.find? (sRead d n).jobs 0 = some jobHost ∧ owesAccess { sRead d n with reads := SMap.erase (sRead d n).reads 0 } 0 = (n == 2) := by
  intro d n hn
  simp only [List.mem_cons, List.not_mem_nil, or_false] at hn
  obtain rfl | rfl := hn <;>
    exact ⟨invOf home_wf ⟨rfl, rfl⟩, heldOf (by cases d <;> decide +kernel), openOf (by cases d <;> decide +kernel), by cases d <;> decide +kernel⟩

theorem wit_HostReadEnds : elemOk (sRead false 1) jobHost true .normal piece1.dev 512 = true ∧ (sramKey (sRead false 1) (piece1.dev / 8)).isSome = true ∧
    (∃ y ∈ List.range 2, y ≠ 0) ∧ (SMap.find? sReadFault.reads 0 = some (rd0 true) ∧
      (SMap.find? sReadFault.jobs 0).bind (·.fault) = some (rejected jobHost 0x34 0xFFFF 0) ∧
      owesAccess { sReadFault with reads := SMap.erase sReadFault.reads 0 } 0 = false) :=
  ⟨by decide +kernel, by decide +kernel, ⟨1, by decide, by decide⟩, by decide +kernel⟩

/-! ## Witnesses: resets, the host link -/

def faultedHome : State := { sHome with main := .faulted }
def askedHome : State := { sHome with resetReq := some 7 }
theorem wit_Resets : ∀ s ∈ [sHome, faultedHome, askedHome], s.touched = [] ∧ s.stalled = none ∧ resettable s = true ∧ s.link.perst = false ∧
    linkIsUp s = true ∧ s.resetBy ≠ 1 ∧ s.link.l0 = true ∧ s.link.l12 = false ∧ bar0Answers s = true := by decide +kernel

theorem wit_ResetKinds : faultedHome.main = .faulted ∧ askedHome.resetReq = some 7 ∧ (∀ p ∈ faultedHome.lay.ports, p = 0 → portUp faultedHome p = true) ∧
    (findRow 0x3010 1).any (fun r => r.keep == .v && r.acc != .cons) = true := by decide +kernel

def standby : State := { State.reset with main := .standby, con := { Conservator.reset with standby := true, settled := true } }
def resetting (n : Nat) : State := { up [] with main := .resetting, resetBy := n }
def pinHeld : State := { resetting 1 with link := { (up []).link with perst := true } }
theorem wit_ResetEnds : standby.link.perst = true ∧ standby.main = .standby ∧ pinHeld.link.perst = true ∧ pinHeld.main = .resetting ∧
    pinHeld.resetBy = 1 ∧ State.reset.link.perst = true ∧ State.reset.main = .off ∧ (resetting 2).resetBy = 2 ∧ (resetting 3).resetBy = 3 ∧
    (resetting 1).main = .resetting := by decide +kernel

theorem wit_ResetEndsInv : ∀ s ∈ [standby, State.reset, pinHeld, resetting 1, resetting 2, resetting 3], s.mem = [] ∧ s.touched = [] ∧ s.stalled = none := by
  decide +kernel

def withLink (l : HostLink) : State := { up [] with link := l }
def linkUp : HostLink := { HostLink.reset with l0 := true, everL0 := true, perst := false }
def recovering : State := withLink { linkUp with l0 := false, recovery := true, waiting := [.msix 3] }
def inD3 : State := withLink { linkUp with d3hot := true }
def inL12 : State := withLink { linkUp with d3hot := true, l12 := true }
theorem wit_LinkStates : ((up []).link.l0 = true ∧ (up []).link.l12 = false ∧ bar0Answers (up []) = true) ∧
    (hostDieRuns recovering = true ∧ recovering.link.perst = false ∧ recovering.link.l12 = false ∧ recovering.link.d3hot = false) ∧
    (inD3.link.l0 = true ∧ inD3.link.d3hot = true ∧ inD3.deepPending = false ∧ ({ inD3 with deepPending := true } : State).main = .ready) ∧
    (inL12.link.l12 = true ∧ inL12.power ≠ .deep ∧ ({ inL12 with power := .deep } : State).power = .deep) := by decide +kernel

theorem wit_LinkInv : ∀ s ∈ [recovering, inD3, { inD3 with deepPending := true }, inL12, { inL12 with power := .deep }],
    s.mem = [] ∧ s.touched = [] ∧ s.stalled = none := by decide +kernel

/-! ## Witnesses: the fabric -/

/-- Port 0 as given. -/
def sPort (v : Port) : State := { up [] with ports := [(0, v)] }
def vUp : Port := { Port.reset with phase := .up, width := 8, rxSeq := 5, credits := [9, 9, 9, 9] }
/-- Two flits sent and not acknowledged. -/
def vSent : Port :=
  { vUp with txSeq := 5, replay := [3, 4].map (fun n => { seq := n, start := 63, data := List.replicate 244 0#8 }) }
/-- A data flit with sequence number 5, and a NAK of flits after 3 with 7 units of channel 1, whose CRCs are good. -/
def flit5 : BitVec 2048 := BitVec.ofNat 2048 (2 ^ 24 + 5 * 2 ^ 52 + 890443689 * 2 ^ 2016)
def flitNak : BitVec 2048 := BitVec.ofNat 2048 (2 ^ 39 + 3 * 2 ^ 40 + 2 ^ 37 + 7 * 2 ^ 27 + 3032319372 * 2 ^ 2016)

theorem crc_flit5 : crc32 (leBytes 252 flit5.toNat) = 890443689#32 :=
  crc32_by (l := [486954098, 2009525095, 1472895545, 3950661421, 630041214, 4044269808, 3295777246, 2260961753, 2902911806, 3473804184, 2939020740, 3862027986, 3614895886, 114067801, 3196939427, 1695381389, 213751117, 1825334029, 464717610, 645891928, 2139576767, 3249290001, 2698957027, 4270834446, 4036878101, 2149325091, 1078841050, 3771387897, 1121327630, 812656041, 2189713371, 3404523606]) (by decide +kernel)
theorem crc_flitNak : crc32 (leBytes 252 flitNak.toNat) = 3032319372#32 :=
  crc32_by (l := [1151431821, 2938788081, 2008784147, 1205141085, 2568912371, 428967112, 1859166838, 2386005843, 2992527320, 1862895715, 3656430233, 374535522, 175012198, 389696079, 1743230255, 3186993414, 3109346101, 3995150882, 2341121236, 2067888065, 3586498843, 3225258633, 837015525, 2848321236, 3990542156, 1941427790, 1303994226, 2790183414, 4270134294, 2419911462, 2617276922, 1262647923]) (by decide +kernel)

theorem wit_FlitCrcs : flCrcOk flit5.toNat = true ∧ flCrcOk flitNak.toNat = true := by
  refine ⟨?_, ?_⟩
  · rw [flCrcOk, crc_flit5]
    decide +kernel
  · rw [flCrcOk, crc_flitNak]
    decide +kernel

theorem wit_Flits : portUp (sPort vUp) 0 = true ∧ (port (sPort vUp) 0).failed < 8 ∧ 8 ≤ (port (sPort { vUp with failed := 8 }) 0).failed ∧
    bits flit5.toNat 26 24 = 1 ∧ bits flit5.toNat 17 0 = 0 ∧ bits flit5.toNat 63 52 = (port (sPort vUp) 0).rxSeq ∧
    startOk (port (sPort vUp) 0) flit5.toNat = true ∧ (port (sPort vUp) 0).txWait = [] ∧ portUp (sPort vSent) 0 = true ∧
    vSent.txWait = [] ∧ bits flitNak.toNat 26 24 = 0 ∧ bit1 flitNak.toNat 39 = true ∧
    (vSent.replay.findIdx? (fun r => r.seq == bits flitNak.toNat 51 40 && r.full)) = some 0 ∧ bits flitNak.toNat 38 37 = 1 ∧
    bits flitNak.toNat 36 27 = 7 := by decide +kernel

def pkTo9 : Packet := { hdr := mkHdr 0 false false 10 9 2 3 8 0x1000 7 0, payload := leBytes 8 5 }
def sTrain : State := sPort { Port.reset with phase := .training }
def sDark : State := sPort { Port.reset with retryAt := some 77 }
/-- Errors and bits of eight lanes: each within 10^-5, one of the lower four not, and one of either four not. -/
def lanes8 (l : List Nat) : List (Nat × Nat) := (List.range 8).map (fun k => (if l.contains k then 2 else 1, 100000))

/-- A port with one packet queued, whose route it is, and ports in training that may and may not go on where they stopped. -/
def wait1 : TxWait := { vc := 0, inp := 16, us := 0, pk := pkTo9, since := 0 }
def vPeer : Port := { Port.reset with phase := .training, resume := true, neighbour := 77, rxSeq := 5 }
def peer1 : LinkPeer := { uid := nbUid 77, incarn := nbIncarn 77, wasReset := false }
theorem wit_Queued : let s : State := { sPort { vUp with txWait := [wait1] } with ent := [(entKey 0x8021 11, 2 ^ 31)] }
    let e := routeEntry s (pkDst pkTo9)
    portUp s 0 = true ∧ (port s 0).txWait = [wait1] ∧ s.fab.held = [] ∧ managers s = [] ∧ pkSrt pkTo9 = false ∧ pkOp pkTo9 ≠ 12 ∧
      ownAddr s ≠ some (pkDst pkTo9) ∧ pkAdaptive pkTo9 = false ∧ entValid e = true ∧ bits e 3 0 = 0 ∧
      s.time < holdEnd s { n := s.fab.nextHeld, port := 0, vc := entVc e, inp := 16, us := 0, pk := pkTo9, since := 0 } := by decide +kernel

theorem wit_Peers : samePeer vPeer peer1 = true ∧ samePeer vPeer { peer1 with wasReset := true } = false ∧
    (port (sPort vPeer) 0).phase = .training ∧ (port (sPort vPeer) 0).txWait = [] := by decide +kernel

theorem wit_Training : laneUsed (port (sPort vUp) 0) 3 = true ∧ 99999 < 10 * 10000 ∧ 10 * 10000 ≤ 100000 ∧
    (port sTrain 0).phase = .training ∧ (up []).lay.ports.contains 0 = true ∧
    sTrain.fab.held = [] ∧ managers sTrain = [] ∧ (port sTrain 0).txWait = [] ∧ (port sDark 0).phase = .dark ∧ (port sDark 0).retryAt = some 77 ∧
    (∀ x ∈ lanes8 [], 0 < x.2 ∧ x.1 * 100000 ≤ x.2) ∧ ¬ (∀ x ∈ (lanes8 [3]).take 4, 0 < x.2 ∧ x.1 * 100000 ≤ x.2) ∧
    (∀ x ∈ (lanes8 [3]).drop 4, 0 < x.2 ∧ x.1 * 100000 ≤ x.2) ∧ ¬ (∀ x ∈ (lanes8 [3, 4]).take 4, 0 < x.2 ∧ x.1 * 100000 ≤ x.2) ∧
    ¬ (∀ x ∈ (lanes8 [3, 4]).drop 4, 0 < x.2 ∧ x.1 * 100000 ≤ x.2) ∧ (lanes8 [3]).length = 8 := by decide +kernel

/-- A job that takes remote requests of domain 3, and one that takes none; the part's address is 4, its route to 9 and 10 port 0. -/
def jobSig : Job := { job1 with desc := job1.desc + 2 ^ 223 + 3 * 2 ^ 224, owins := [(0, 0x10000, false)], qwins := [(0, 0xFFFF)] }
def sFab (sig : Bool) : State :=
  { sHome with jobs := [(0, if sig then jobSig else job1)], ports := [(0, vUp), (1, vUp)]
               ent := [(entKey 0x8010 1, 4), (entKey 0x8010 2, 1), (entKey 0x8021 10, 2 ^ 31), (entKey 0x8021 11, 2 ^ 31)] }

theorem fab_inv (sig : Bool) : State.Inv (sFab sig) := invOf home_wf ⟨rfl, rfl⟩

def pkHello (l : List Byte) : Packet := { hdr := mkHdr 12 false false 0 9 0 0 32 0 0 0, payload := l }
def pkMgmt (o : Nat) (b : List Byte) : Packet := { hdr := mkHdr o true false 4 10 0 0 b.length 0 7 0, payload := b }
def body16 : List Byte := withCrc (List.replicate 16 0#8)

/-- HELLO sent before, as it still is and as it no longer is. -/
def sHello (old : Bool) : State :=
  { sFab true with ports := [(0, { vUp with helloAt := some 20, helloSent := if old then helloBits (sFab true) 0 + 2 ^ 20 else helloBits (sFab true) 0 })] }

theorem wit_HelloSend : (∀ s ∈ [sFab true, sHello false, sHello true], s.touched = [] ∧ s.stalled = none ∧ portUp s 0 = true ∧
      (port s 0).txWait = [] ∧ (port s 0).replay.length < 2048 ∧ ∀ vc, vc < 4 → 1 ≤ (port s 0).credits.getD vc 0) ∧
    (port (sFab true) 0).helloAt = none ∧ (port (sHello false) 0).helloAt = some 20 ∧
    (port (sHello false) 0).helloSent = helloBits (sHello false) 0 ∧ (port (sHello true) 0).helloAt = some 20 ∧
    (port (sHello true) 0).helloSent ≠ helloBits (sHello true) 0 := by decide +kernel

/-- A packet that is a whole HELLO. -/
abbrev helloWhole (pk : Packet) : Prop :=
  pkOp pk = 12 ∧ hcrcOk pk = true ∧ pkWhole pk = true ∧ pkLen pk = 32 ∧ pkSrt pk = false ∧ pkArgs pk = 0

theorem wit_Hello : (∀ pk ∈ [pkHello (withCrc (leBytes 28 99)), pkHello (leBytes 32 99)], helloWhole pk) ∧
    (let pk := pkHello (withCrc (leBytes 28 99))
     bits (leNat pk.payload) 255 224 = (crc32 (pk.payload.take 28)).toNat) ∧
    (let pk := pkHello (leBytes 32 99)
     bits (leNat pk.payload) 255 224 ≠ (crc32 (pk.payload.take 28)).toNat) := by decide +kernel

theorem wit_Management : mgmtServed (sFab true) = true ∧ ∀ o ∈ [4, 5],
    (let pk := pkMgmt o body16
     tooOld (sFab true) pk = false ∧ mgmtBad pk = false ∧ bodyOk (mgmtBody pk) = true ∧ mgmtArrives (sFab true) 0 pk o = true) ∧
    (let pk := pkMgmt o (leBytes 20 5)
     tooOld (sFab true) pk = false ∧ mgmtBad pk = false ∧ bodyOk (mgmtBody pk) = false ∧ mgmtArrives (sFab true) 0 pk o = true) := by
  decide +kernel

/-- Packets for another part: a WRITE, one with a bad header, one of a reserved operation, and ACKs with some hops left. -/
def pkTo10 : Packet := { hdr := mkHdr 0 true false 10 9 0 3 8 0x1000 7 0, payload := leBytes 8 5 }
def pkBadHdr : Packet := { pkTo10 with hdr := pkTo10.hdr ^^^ (1#256 <<< 230) }
def pkReserved : Packet := { hdr := mkHdr 6 false false 10 9 0 3 0 0x1000 7 0, payload := [] }
def pkAck (dst hops : Nat) : Packet :=
  { hdr := BitVec.ofNat 256 (setBits (mkHdr 8 true false dst 9 0 3 0 0 7 0).toNat 136 131 hops), payload := [] }

theorem wit_Forward : portUp (sFab true) 0 = true ∧ ownAddr (sFab true) = some 4 ∧ (sFab true).main ≠ .bringup ∧
    (hcrcOk pkBadHdr = false ∧ pkWhole pkBadHdr = true ∧ ownAddr (sFab true) ≠ some (pkDst pkBadHdr)) ∧
    (hcrcOk pkReserved = true ∧ reservedOp (pkOp pkReserved) = true ∧ pkWhole pkReserved = true ∧ ownAddr (sFab true) ≠ some (pkDst pkReserved)) ∧
    (hcrcOk pkTo10 = true ∧ reservedOp (pkOp pkTo10) = false ∧ pkOp pkTo10 ≠ 12 ∧ pkSrt pkTo10 = false ∧ pkDst pkTo10 ≠ 4 ∧ pkWhole pkTo10 = true ∧
      pkHops pkTo10 ≠ 0 ∧ tooOld (sFab true) (aged pkTo10 3) = false) := by decide +kernel

/-- Its route's port down. -/
def sDown : State := { sFab true with ports := [(0, Port.reset), (1, vUp)] }
theorem wit_Routes : entValid (routeEntry (sFab true) (pkDst pkTo10)) = true ∧
    egress (sFab true) (routeEntry (sFab true) (pkDst pkTo10)) (pkAdaptive pkTo10) 0 = some 0 ∧ heldAt (sFab true) 0 0 = false ∧
    canSend (sFab true) 0 0 (hopped pkTo10) = true ∧ entValid (routeEntry sDown (pkDst pkTo10)) = true ∧ portUp sDown 1 = true ∧
    egress sDown (routeEntry sDown (pkDst pkTo10)) (pkAdaptive pkTo10) 0 = none ∧ pkIsRequest pkTo10 = true ∧
    tooOld sDown (aged pkTo10 3) = false := by decide +kernel

/-- A request without a route, and one that is held. -/
def pkTo12 : Packet := { hdr := mkHdr 0 true false 12 9 0 3 8 0x1000 7 0, payload := leBytes 8 5 }
theorem wit_NoRoute : portUp (sFab true) 0 = true ∧ pkWhole pkTo12 = true ∧ hcrcOk pkTo12 = true ∧ reservedOp (pkOp pkTo12) = false ∧
    pkSrt pkTo12 = false ∧ pkDst pkTo12 ≠ 4 ∧ pkHops pkTo12 ≠ 0 ∧ tooOld (sFab true) (aged pkTo12 3) = false ∧
    entValid (routeEntry (sFab true) (pkDst pkTo12)) = false ∧ pkIsRequest pkTo12 = true ∧ pkOp pkTo12 ≠ 4 ∧ pkSrc pkTo12 ≠ 4 := by decide +kernel

theorem wit_ForwardDrops : (hcrcOk (pkAck 10 0) = true ∧ pkHops (pkAck 10 0) = 0 ∧ pkIsRequest (pkAck 10 0) = false ∧ pkWhole (pkAck 10 0) = true) ∧
    (hcrcOk (pkAck 12 9) = true ∧ pkHops (pkAck 12 9) ≠ 0 ∧ tooOld (sFab true) (aged (pkAck 12 9) 3) = false ∧
      entValid (routeEntry (sFab true) 12) = false ∧ pkDst (pkAck 12 9) = 12 ∧ reservedOp (pkOp (pkAck 12 9)) = false) ∧
    (let pk : Packet := { pkAck 10 0 with hdr := BitVec.ofNat 256 (setBits (mkHdr 1 true false 10 9 0 3 8 0x1000 7 0).toNat 136 131 0) }
     hcrcOk pk = true ∧ pkHops pk = 0 ∧ pkIsRequest pk = true ∧ pkOp pk ≠ 4 ∧ pkSrc pk ≠ 4 ∧ pkWhole pk = true) := by decide +kernel

/-- A management request routed by its source, from port 0 on to port 1. -/
def pkSourced : Packet :=
  { hdr := BitVec.ofNat 256 (let w := 4 * 2 ^ 220 + 2 ^ 219 + 2 ^ 216 + 9 * 2 ^ 185 + 63 * 2 ^ 131 + 52 * 2 ^ 122 + 7 * 2 ^ 58
      w + hcrc w * 2 ^ 224)
    payload := leBytes 32 (2 + 2 ^ 8 + 2 ^ 20) ++ body16 }

theorem wit_Sourced : portUp (sFab true) 0 = true ∧ pkWhole pkSourced = true ∧ hcrcOk pkSourced = true ∧ pkSrt pkSourced = true ∧ pkOp pkSourced = 4 ∧
    rbIdx (routeBlock pkSourced) = 1 ∧ rbHops (routeBlock pkSourced) = 2 ∧ rbPort (routeBlock pkSourced) 1 = 1 ∧ pkHops pkSourced ≠ 0 ∧
    tooOld (sFab true) (aged pkSourced 3) = false ∧ portUp (sFab true) 1 = true ∧ 32 ≤ pkSourced.payload.length := by decide +kernel

theorem wit_SourcedSends : let x := hopped (stamped pkSourced 0)
    let y := withBlock x (setBits (routeBlock x) 15 8 2)
    ∀ vc, vc < 4 → canSend (sFab true) 1 vc y = true := by decide +kernel

def hold3 : HeldPk := { n := 3, port := 0, vc := 2, inp := 16, us := 0, pk := pkAck 10 9, since := 5 }
theorem wit_Hold : ({ sFab true with fab := { Fabric.reset with held := [hold3] } } : State).fab.held.find? (fun x => x.n == hold3.n) = some hold3 ∧
    pkIsRequest hold3.pk = false ∧ pkIsRequest pkTo12 = true ∧ pkOp pkTo12 ≠ 4 ∧ ownAddr (sFab true) ≠ some (pkSrc pkTo12) ∧
    ({ sFab true with fab := { Fabric.reset with held := [{ hold3 with pk := pkTo12 }] } } : State).fab.held.find? (fun x => x.n == 3) =
      some { hold3 with pk := pkTo12 } := by decide +kernel

/-- Requests of another part, adaptive but for the signal. -/
def pkReq (o addr : Nat) (pay : List Byte) : Packet := { hdr := mkHdr o true false 4 9 0 3 64 addr 7 0, payload := pay }
def pkSignal : Packet := { hdr := mkHdr 3 false true 4 9 0 3 0 0 7 (5 * 2 ^ 36 + 2 * 2 ^ 20), payload := [] }
def fabReqs : List (Nat × Packet) := [(0, pkReq 0 0x1000 d64), (1, pkReq 1 0x1000 []), (2, pkReq 2 0x1000 d64), (3, pkSignal)]
def busyFab : State := { sFab true with main := .discarding }

theorem wit_Requests : (sFab true).main = .ready ∧ busyFab.main ≠ .ready ∧ ∀ x ∈ fabReqs, tooOld (sFab true) x.2 = false ∧ badRequest x.2 = false ∧
    arrives (sFab true) 0 x.2 x.1 = true ∧ arrives busyFab 0 x.2 x.1 = true ∧ tooOld busyFab x.2 = false ∧
    (pkAdaptive x.2 = true ∨ pkSync x.2 = true) ∧ (jobTest (sFab true) x.2).isSome = true ∧ jobTest (sFab false) x.2 = none := by decide +kernel

theorem wit_RequestWords : NothingWaits (sFab true) ∧ Clean (sFab true) 0x1000 64 ∧ OwnPlaces (sFab true) (wordsOf 0x1000 64) ∧
    bits (pkArgs (pkReq 2 0x1000 d64)) 57 54 ≠ 5 := by
  refine ⟨openOf (by decide +kernel), cleanOf (by decide +kernel), ?_, by decide +kernel⟩
  unfold OwnPlaces
  decide +kernel

/-- Three errors that leave the first two syndromes zero: no one or two errors explain the others. -/
def threeErrors : Upset := [(5, 1#8), (6, 3#8), (7, 2#8)]

theorem gfMul_zero (b : Byte) : gfMul 0#8 b = 0#8 := by
  have h : ∀ k y, gfMul.go k 0#8 y 0#8 = 0#8 := fun k => by
    induction k with
    | zero => intro y; rfl
    | succ k ih =>
      intro y
      have x : gfX 0#8 = 0#8 := by decide
      simp only [gfMul.go, x]
      split <;> exact ih _
  exact h _ _

theorem rsTwo_none {n : Nat} {s : List Byte} (h0 : s.headD 0#8 = 0#8) (h1 : (s.drop 1).headD 0#8 = 0#8) : rsTwo n s = none := by
  simp only [rsTwo, h0, h1, List.findSome?_eq_none_iff]
  intro x _
  simp [gfMul_zero]

/-- A word that is not poison, whose first two syndromes are zero and whose third is not, cannot be corrected. -/
theorem beyondRepair {w : List Byte} (h : w ≠ poisonWord 6 ∧ rsSyn w 0 = 0#8 ∧ rsSyn w 1 = 0#8 ∧ rsSyn w 2 ≠ 0#8) : rsDecode 6 w = .uncorrectable := by
  obtain ⟨hp, h0, h1, h2⟩ := h
  have s : (List.range 6).map (rsSyn w) = [0#8, 0#8, rsSyn w 2, rsSyn w 3, rsSyn w 4, rsSyn w 5] := by
    simp [List.range, List.range.loop, h0, h1]
  have a : ([0#8, 0#8, rsSyn w 2, rsSyn w 3, rsSyn w 4, rsSyn w 5].all (· == 0#8)) = false := by simp [h2]
  have o : rsOne w.length [0#8, 0#8, rsSyn w 2, rsSyn w 3, rsSyn w 4, rsSyn w 5] = none := by simp [rsOne]
  have t : rsTwo w.length [0#8, 0#8, rsSyn w 2, rsSyn w 3, rsSyn w 4, rsSyn w 5] = none := rsTwo_none rfl rfl
  simp [rsDecode, if_neg hp, s, a, o, t]

/-- A request whose data is lost in the packet buffer. -/
def lostReq (o : Nat) : Packet := { pkReq o 0x1000 d64 with upset := threeErrors }

theorem wit_RequestLost : ∀ pk ∈ [lostReq 0, lostReq 2],
    rsDecode 6 (applyUpset (rsEncode 6 (pk.payload.take 64 ++ List.replicate (64 - pk.payload.length) 0#8)) pk.upset) = .uncorrectable := by
  intro pk h
  simp only [List.mem_cons, List.not_mem_nil, or_false] at h
  obtain rfl | rfl := h <;> exact beyondRepair (by decide +kernel)

theorem fromBuffer_lost {s : State} {rq : Requester} {a : Nat} {d : List Byte} {u : Upset} (h : (u.isEmpty || d.isEmpty) = false)
    (hd : rsDecode 6 (applyUpset (rsEncode 6 (d.take 64 ++ List.replicate (64 - d.length) 0#8)) u) = .uncorrectable) :
    fromBuffer s rq a d u = (none, lostWord s rq a) := by
  simp [fromBuffer, h, received, hd]

/-- A request as it reaches its home. -/
def reqAt (pk : Packet) : State := (streamCheck (giveCredit (sFab true) 0 pk) pk).2

theorem wit_RequestsAdmitted : (∀ x ∈ fabReqs.take 3, Admits (reqAt x.2) (performReq (reqAt x.2) 0 x.2) 0) ∧
    (∀ o ∈ [0, 2], Admits (reqAt (lostReq o)) (performReq (reqAt (lostReq o)) 0 (lostReq o)) 0) ∧ waitingReqs (sFab true) = [] ∧
    (sFab true).paid = [] ∧ (sFab true).power = .run := by
  have h : ∀ x ∈ fabReqs.take 3, admitted (reqAt x.2) (performReq (reqAt x.2) 0 x.2) 0 = true := by decide +kernel
  refine ⟨fun x hx => admitsOf (h x hx), fun o ho => admitsOf ?_, by decide +kernel⟩
  simp only [List.mem_cons, List.not_mem_nil, or_false] at ho
  obtain rfl | rfl := ho
  · have e := fromBuffer_lost (s := reqAt (lostReq 0)) (rq := .fabric 0) (a := pkAddr (lostReq 0)) (by decide +kernel)
      (wit_RequestLost (lostReq 0) (by simp))
    rw [performReq, e]
    decide +kernel
  · have e := fromBuffer_lost (s := reqAt (lostReq 2)) (rq := .fabric 0) (a := pkAddr (lostReq 2)) (by decide +kernel)
      (wit_RequestLost (lostReq 2) (by simp))
    rw [performReq, e]
    decide +kernel

theorem wit_RequestSignal : Signalled (sFab true) (bits (pkArgs pkSignal) 57 42) 0 jobSig ∧ bits (pkArgs pkSignal) 41 36 < 48 ∧
    flagCount (sFab true) (bits (pkArgs pkSignal) 57 42) (bits (pkArgs pkSignal) 41 36) + bits (pkArgs pkSignal) 35 20 ≤ 65535 :=
  ⟨signalled home_wf (by decide +kernel), by decide +kernel⟩

def pkOrd (sync : Bool) (seq : Nat) : Packet := { hdr := mkHdr 0 false sync 4 9 seq 3 64 0x1000 7 0, payload := d64 }
def sRx (l : SMap (Nat × Bool)) : State := { sFab true with fab := { Fabric.reset with rx := l } }

theorem wit_Streams : pkAdaptive (pkOrd true 3) = false ∧ pkSync (pkOrd true 3) = true ∧ pkAdaptive (pkOrd false 3) = false ∧ pkSync (pkOrd false 3) = false ∧
    SMap.find? (sRx []).fab.rx (pkSrc (pkOrd false 3)) = none ∧
    SMap.find? (sRx [(9, (3, false))]).fab.rx (pkSrc (pkOrd false 3)) = some (3, false) ∧ pkSeq (pkOrd false 3) = 3 ∧
    SMap.find? (sRx [(9, (4, false))]).fab.rx (pkSrc (pkOrd false 3)) = some (4, false) ∧
    SMap.find? (sRx [(9, (3, true))]).fab.rx (pkSrc (pkOrd false 3)) = some (3, true) := by decide +kernel

/-- A signal of this part to part 9 that waits for its answer under tag 7, and a read. -/
def req7 : FReq :=
  { job := 0, x := none, t := 0, word := 3, dst := 9, pk := { hdr := mkHdr 3 false false 9 4 2 3 0 0 7 (5 * 2 ^ 36 + 2 ^ 20), payload := [] },
    sentAt := 10, ordered := true, resync := false, abandoned := false, pieces := [], mover := none }
def req7r : FReq := { req7 with ordered := false, pk := { hdr := mkHdr 1 true false 9 4 0 3 64 0x1000 7 0, payload := [] } }
def sReq (r : FReq) (bad : List Nat) : State := { sFab true with fab := { Fabric.reset with reqs := [(7, r)], badDst := bad } }
theorem wit_Resync : resyncAt (sReq { req7 with resync := true } []) 9 = true ∧ orderedOpen (sReq { req7 with resync := true } []) 9 = false ∧
    (sReq { req7 with resync := true } []).fab.badDst.contains 9 = false ∧ resyncAt (sReq { req7 with resync := true } [9]) 9 = true ∧
    (sReq { req7 with resync := true } [9]).fab.badDst.contains 9 = true ∧ (sReq { req7 with resync := true } [9]).fab.waitReqs = [] := by
  decide +kernel

/-- A read of one word that brings data for a transfer to device memory. -/
def jobFar : Job := { jobMv dCopy (.running 3) with desc := jobSig.desc }
def xFar : Xfer := { xHost true with remote := some (9, 0), ats := none, started := true }
def req7x : FReq := { req7r with x := some 0, pieces := [0] }
def sFar : State :=
  { sFab true with jobs := [(0, jobFar)], xfers := [(0, xFar)], nextX := 1, fab := { Fabric.reset with reqs := [(7, req7x)] } }

theorem wit_FarRead : State.Inv sFar ∧ NothingWaits sFar ∧ EnginesHeld sFar ∧ (SMap.find? sFar.fab.reqs 7 = some req7x ∧ req7x.x = some 0 ∧
    req7x.pieces = [0] ∧ SMap.find? sFar.xfers 0 = some xFar ∧ xFar.job = req7x.job ∧ xFar.remote = some (9, 0) ∧ xFar.blocks = [[piece1]] ∧
    SMap.find? sFar.jobs 0 = some jobFar ∧ jobFar.fault = none ∧ elemOk sFar jobFar true .normal piece1.dev 512 = true ∧
    (sramKey sFar (piece1.dev / 8)).isSome = true) :=
  ⟨invOf home_wf (by decide +kernel), openOf (by decide +kernel), heldOf (by decide +kernel), by decide +kernel⟩

def pkAns (o st : Nat) (pay : List Byte) : Packet := { hdr := mkHdr o true false 4 9 0 3 pay.length 0 7 (st * 2 ^ 50), payload := pay }

theorem wit_Responses : State.Inv (sReq req7 []) ∧ EnginesHeld (sReq req7 []) ∧
    (∀ st ∈ [0, 2, 0x0A], pkTag (pkAns 8 st []) = 7 ∧ tooOld (sReq req7 []) (pkAns 8 st []) = false ∧
      badResponse (sReq req7 []) (pkAns 8 st []) = false ∧ arrives (sReq req7 []) 0 (pkAns 8 st []) 8 = true ∧ bits (pkArgs (pkAns 8 st [])) 57 50 = st) ∧
    SMap.find? (sReq req7 []).fab.reqs 7 = some req7 ∧ req7.resync = false ∧ req7.abandoned = false ∧ (sReq req7 []).fab.waitReqs = [] ∧
    pkOp req7.pk ≠ 1 ∧ req7.ordered = true ∧ (sReq req7 []).main = .ready ∧ SMap.find? (sReq req7 []).jobs req7.job = some jobSig ∧
    jobSig.running = true ∧ jobSig.fault = none ∧ req7.x = none ∧ (sReq req7 []).power = .run ∧
    (sReq req7 []).jobs.any (fun j => j.1 == req7.job && j.2.running) = true :=
  ⟨invOf home_wf (by decide +kernel), heldOf (by decide +kernel), by decide +kernel⟩

theorem wit_ReadData : let pk := pkAns 9 0 d64
    (∀ s ∈ [sReq req7r [], sFar], tooOld s pk = false ∧ badResponse s pk = false ∧ arrives s 0 pk 9 = true) ∧ pkTag pk = 7 ∧
      bits (pkArgs pk) 57 50 = 0 ∧ pkOp req7r.pk = 1 ∧ req7r.x = none ∧ pkOp req7x.pk = 1 := by decide +kernel

/-! ## Witnesses: links, supply, heat, bring-up, Ledger -/

def sD2d (v : D2d) : State := setD2d { up [] with bringup := { (up []).bringup with lanes := [(d2dKey 0 0, [0, 1, 2, 3])] } } 0 0 v
/-- A channel at its sixteenth failure, with more replays in a second than the alarm's limit. -/
def vFails : D2d := { D2d.reset with fails := [0, 0, 16, 0, 0], replays := [(0, 10001)] }

theorem wit_D2d : ∀ v ∈ [D2d.reset, vFails], (sD2d v).mem = [] ∧ (sD2d v).touched = [] ∧ (sD2d v).stalled = none ∧ d2dUp (sD2d v) 0 0 = true ∧
    d2dAt (sD2d v) 0 0 = v ∧ v.exp.length = 5 ∧ v.fails.length = 5 ∧ (sD2d v).main = .ready ∧ (d2dLanes (sD2d v) 0 0).contains 2 = true ∧
    v.marginal.contains 2 = false ∧ v.alarmed = false := by decide +kernel

theorem wit_D2dFails : D2d.reset.fails.getD 2 0 < 16 ∧ vFails.fails.getD 2 0 = 16 ∧
    rd (sD2d vFails) 0x9013 2 < replayCount (sD2d vFails) 0 (sD2d vFails).time ∧ linkAlarmed (sD2d vFails) 0 = false ∧
    (∃ x ∈ [1, 2], x ≠ D2d.reset.exp.getD 2 0) := by decide +kernel

theorem wit_PackageFaults : (up []).main = .ready ∧ (up []).power = .run ∧ rd (up []) 0x8040 2 ≠ 1 ∧ (up []).bringup.guests.contains 16 = true ∧
    (up []).bringup.guests.contains 1 = true ∧ routerExists false 5 15 31 = true ∧ routerExists true 11 15 15 = true ∧
    cdiePresent (up []) 11 = true ∧ (up []).lay.ports.contains 0 = true ∧
    (port (up []) 0).txWait = [] := by decide +kernel

def supplied : State := { State.reset with con := { Conservator.reset with standby := true } }
def sRef : State := { up [] with ent := [(entKey 0x9020 1, 1)] }
theorem wit_Supply : State.reset.con.standby = false ∧ (supplied.con.standby = true ∧ supplied.con.settled = false ∧ supplied.con.held = false) ∧
    ((up []).con.settled = true ∧ (up []).main = .ready ∧ rd (up []) 0x9020 1 ≠ 1) ∧ (sRef.con.settled = true ∧ sRef.main = .ready ∧ rd sRef 0x9020 1 = 1) ∧
    10 ≤ ({ (up []).con with good := 9 } : Conservator).good + 1 := by decide +kernel

/-- C-die 0 at its step-down temperature, between, and cool; with two steps taken. -/
def sHot (v : Int) : State := { up [] with hkShown := [(5, v)], con := { (up []).con with hk := [(5, v)], steps := [(0, { n := 2, down := 0, up := 0 })] } }
theorem wit_Heat : (up []).con.settled = true ∧ (up []).con.failed = [] ∧ (up []).con.hk = [] ∧
    ((10 * rd (up []) 0xB000 7 : Nat) : Int) ≤ 2000 ∧ cdiePresent (sHot 2000) 0 = true ∧ inputLevel (sHot 2000) 0 0 = 2 ∧
    inputLevel (sHot ((10 * rd (up []) 0xB000 2 : Nat) - 1)) 0 0 = 1 ∧ inputLevel (sHot ((10 * rd (up []) 0xB000 2 : Nat) - 30)) 0 0 = 0 ∧
    (stepOf (sHot 0) 0 0).down = 0 ∧ (stepOf (sHot 0) 0 0).up = 0 ∧ (stepOf (sHot 0) 0 0).n = 2 := by decide +kernel

/-- A part in bring-up. -/
def rising (b : Bringup) : State :=
  { State.reset with main := .bringup, con := { Conservator.reset with standby := true, settled := true }, bringup := b }
def variant1 : Nat := 2 * 2 ^ 36

/-- A record whose CRC is that of what stands before it passes. -/
theorem withCrc_ok (h : List Byte) (hl : h.length = 4092) (ht : copyAt h 0 1 = 1) (hf : copyAt h 2 2 = 1) : copyOk true (withCrc h) = true := by
  have t : (withCrc h).take 4092 = h := by rw [withCrc, ← hl, List.take_left]
  have e : (withCrc h).drop 4092 = leBytes 4 (crc32 h).toNat := by rw [withCrc, ← hl, List.drop_left]
  have c : ∀ off n, off + n ≤ 4092 → copyAt (withCrc h) off n = copyAt h off n := fun off n ho => by
    unfold copyAt withCrc
    rw [List.drop_append_of_le_length (by omega), List.take_append_of_le_length (by rw [List.length_drop]; omega)]
  have n : ∀ x : BitVec 32, leNat (leBytes 4 x.toNat) = x.toNat := fun x => by
    have := x.isLt
    simp only [leNat, leBytes, BitVec.toNat_ofNat]
    omega
  have s : (withCrc h).length = 4096 := by simp [withCrc, leBytes, hl]
  have z : copyAt (withCrc h) 4092 4 = (crc32 h).toNat := by
    rw [copyAt, e, List.take_of_length_le (by simp [leBytes]), n]
  simp [copyOk, copySize, s, c, t, z, ht, hf]

/-- The records of six B-dies: number 77 and the variant. -/
def recHead : List Byte := leBytes 4092 (1 + 2 ^ 16 + 77 * 2 ^ 128 + variant1 * 2 ^ 192)
def provRec (c : List Byte) (b : Nat) : ProvRecord := { bdie := true, die := b, first := c, second := [] }
def provRecs : List ProvRecord := (List.range 6).map (provRec (withCrc recHead))

theorem recHead_fields : recHead.length = 4092 ∧ copyAt recHead 0 1 = 1 ∧ copyAt recHead 2 2 = 1 ∧ copyAt recHead 0x10 8 = 77 ∧
    copyAt recHead 0x18 8 = variant1 := by decide +kernel

theorem provRec_found (c : List Byte) (b : Nat) (hb : b < 6) :
    ((List.range 6).map (provRec c)).find? (fun r => r.bdie == true && r.die == b) = some (provRec c b) := by
  have : b = 0 ∨ b = 1 ∨ b = 2 ∨ b = 3 ∨ b = 4 ∨ b = 5 := by omega
  obtain rfl | rfl | rfl | rfl | rfl | rfl := this <;> rfl

theorem recs_read (c : List Byte) (h : ∀ b, copyOf (provRec c b) = some c) (b : Nat) (hb : b < 6) :
    recOf ((List.range 6).map (provRec c)) true b = some c := by
  rw [recOf, provRec_found c b hb]
  exact h b

theorem provRec_read (b : Nat) : copyOf (provRec (withCrc recHead) b) = some (withCrc recHead) := by
  have := withCrc_ok recHead recHead_fields.1 recHead_fields.2.1 recHead_fields.2.2.1
  simp [copyOf, provRec, this]

theorem wit_Provenance : recOf [] true 0 = none ∧ (∀ b, b < 6 → recOf provRecs true b = some (withCrc recHead)) ∧
    copyAt (withCrc recHead) 0x18 8 = copyAt recHead 0x18 8 := by
  refine ⟨rfl, fun b hb => ?_, ?_⟩
  · exact recs_read _ provRec_read b hb
  · unfold copyAt withCrc
    rw [List.drop_append_of_le_length (by rw [recHead_fields.1]; omega),
      List.take_append_of_le_length (by rw [List.length_drop, recHead_fields.1]; omega)]

def reports6 : List BdieReport :=
  (List.range 6).map (fun b => { pos := b, posp := (b + b / 2 + b / 4) % 2 == 0, linked := [],
                                 cdies := [{ slot := false, bonds := 3#5, pos := b, kind := 2 }, { slot := true, bonds := 7#5, pos := b, kind := 2 }] })

theorem wit_BringupFirst : (rising { Bringup.reset with step := 1 }).main = .bringup ∧ ({ Bringup.reset with step := 1 } : Bringup).waitFrom = none ∧
    ({ Bringup.reset with step := 1, waitFrom := some 5, waitDue := 55 } : Bringup).waitFrom.isSome = true ∧ variantOk variant1 = true ∧
    (rising { Bringup.reset with step := 2 }).ledger.scanned = false ∧ idFault reports6 = 0 ∧ idFault [] ≠ 0 := by decide +kernel

/-- Bring-up at step 8, and further: the waves after the Vault test, the tiles after the last wave. -/
def b8 : Bringup := { Bringup.reset with step := 8, awake := true, variant := variant1 }
def b8bad : Bringup := { b8 with units := (List.range 145).map (fun l => { bdie := true, die := receiver 3 1, entry := laneEntry 3 1 l }) }
def guestHost : BitVec 128 := 618979907385744023602397108
def guestPort : BitVec 128 := 309490322771868674374031153
def bWaves : Bringup := { b8 with step := 11, vault := true, d2d := List.range 14, guests := List.range 17, waves := 3, waveAt := [0, 500000, 1000000] }
def bTiles : Bringup := { bWaves with step := 12, waves := 6, released := (List.range 24).map (fun h => (h, 5)) }
def bQual : Bringup := { bTiles with step := 13, tilesDone := true, lanes := (List.range 14).map (fun k => (k, List.range 256)) }
def bBuild : Bringup := { bQual with qual := true, trained := List.range 384, step := 14 }

theorem wit_Branches : (rising b8).main = .bringup ∧ b8.awake = true ∧ b8.step = 8 ∧ b8.vault = false ∧ b8.d2d.contains (d2dKey 3 1) = false ∧
    (chooseLanes (laneBad (rising b8) 3 1)).isEmpty = false ∧ (chooseLanes (laneBad (rising b8bad) 3 1)).isEmpty = true ∧
    siteWanted (rising b8) 3 = true ∧ siteWanted (rising b8) 16 = true ∧ b8.guests.contains 16 = false ∧ guestOk 3 guestPort.toNat 32 = true ∧
    guestOk 16 guestHost.toNat 24 = true ∧ unitBad (rising b8) true 0 (7 * 2 ^ 28 + 3) = false ∧ guestOk 16 0 24 = false ∧ guestOk 3 0 32 = false ∧
    chanSettled (rising b8) 9 = false ∧ 5 ≠ stackBytesOf b8.variant := by decide +kernel

theorem wit_Waves : mayWave (rising bWaves) = true ∧ bWaves.waves = 3 ∧ bWaves.waveAt.getLast? = some 1000000 ∧ halfUsed (rising bWaves) 2 = true ∧
    2 % 6 < bWaves.waves ∧ releasedOf (rising bWaves) 2 < 5 ∧ wavesDone (rising bTiles) = true ∧ bTiles.tilesDone = false := by decide +kernel

theorem wit_Qualified : bQual.tilesDone = true ∧ bQual.qual = false ∧
    ∀ k, k < 14 → SMap.find? bQual.lanes k = some (chooseLanes (laneBad (rising bQual) (k / 2) (k % 2))) ∧
      (chooseLanes (laneBad (rising bQual) (k / 2) (k % 2))).isEmpty = false := by decide +kernel

theorem wit_Build : mayBuild (rising bBuild) = true ∧ bBuild.rows = [] ∧ mayBuild (rising b8) = false := by decide +kernel

def rec1 : LRec := { ty := 1, payload := [1#8, 2#8], timeMs := 0, seq := 0, boot := 0, good := true }
/-- A record that waits for the flash, within its temperatures. -/
def sLedger (fails : Nat) : State :=
  { up [] with ledgerQ := [rec1], con := { (up []).con with hk := [(1021, 250)] }, ledger := { Ledger.reset with scanned := true, fails := fails } }
theorem wit_Ledger : (sLedger 0).con.settled = true ∧ ({ (sLedger 0).ledger with scanned := false, cleared := true } : Ledger).scanned = false ∧ (sLedger 0).live = [] ∧
    mayWriteLedger (sLedger 0) = true ∧ (sLedger 0).ledgerQ = rec1 :: [] ∧ bankUsed (activeBank (sLedger 0).ledger) + recBytes rec1 ≤ 2 ^ 25 ∧
    (sLedger 0).ledger.fails < 2 ∧ mayWriteLedger (sLedger 2) = true ∧ (sLedger 2).ledger.fails = 2 := by decide +kernel

/-- A bank with one record of payload `p`. -/
def bankWith (p : List Byte) : LBank := { gen := some 0, recs := [{ rec1 with payload := p }] }
def sCompact (p : List Byte) : State := { sLedger 0 with ledger := { Ledger.reset with scanned := true, bank0 := bankWith p } }

theorem compactable (p : List Byte) (h : p.length = 25165824) : mayWriteLedger (sCompact p) = true ∧ activeBank (sCompact p).ledger = bankWith p ∧
    25165824 ≤ bankUsed (bankWith p) ∧ (bankWith p).gen = some 0 := by
  refine ⟨by rfl, by rfl, ?_, rfl⟩
  simp [bankUsed, bankWith, recBytes, h]

theorem wit_Compaction : ∃ p, mayWriteLedger (sCompact p) = true ∧ activeBank (sCompact p).ledger = bankWith p ∧
    25165824 ≤ bankUsed (bankWith p) ∧ (bankWith p).gen = some 0 := ⟨List.replicate 25165824 0#8, compactable _ List.length_replicate⟩

/-! ## Witnesses: the Catalogue -/

/-- A part whose fabric manager has address 10. -/
def sCat : State := { up [] with ent := [(entKey 0x8010 3, 2 ^ 15 + 10)] }
/-- The request for an entry's data, or a write of it. -/
def req (idx : BitVec 16) (sub : BitVec 8) (len : BitVec 16) (data : List Byte) : CatReq :=
  { tag := 3, index := idx, sub := sub, status := 0, length := len, offset := 0, rsv := 0, ns := 0, data := data }

theorem entryRequest {s : State} {tr : Transport} {r : CatReq} {row : EntRow}
    (h : available s tr = true ∧ findRow r.index.toNat r.sub.toNat = some row ∧ r.sub ≠ 0#8 ∧ entryBlock s tr row r.index.toNat r.sub.toNat = none ∧
      row.ty < 8 ∧ r.length.toNat = tySize row.ty ∧ (r.status = 0#8 ∧ r.offset = 0#32 ∧ r.rsv = 0#32) ∧ stagesDue s = [] ∧ r.ns = 0 ∧
      s.mbx.busy = none ∧ (owing s tr).length < 8) : EntryRequest s tr r row :=
  ⟨h.1, h.2.1, h.2.2.1, h.2.2.2.1, h.2.2.2.2.1, h.2.2.2.2.2.1, h.2.2.2.2.2.2.1, h.2.2.2.2.2.2.2.1, h.2.2.2.2.2.2.2.2.1, h.2.2.2.2.2.2.2.2.2⟩

def rowAt (i k : Nat) : EntRow := (findRow i k).getD default

theorem wit_Read : EntryRequest sCat .mailbox (req 0x1000 1 2 []) (rowAt 0x1000 1) ∧ (rowAt 0x1000 1).acc ≠ .wo ∧ isConsCommand 0x1000 1 = false ∧
    unitAbsent sCat 0x1000 1 = false ∧ SMap.find? (stageOf sCat .mailbox).vals (entKey 0x1000 1) = none :=
  ⟨entryRequest (by decide +kernel), by decide +kernel, by decide +kernel, by decide +kernel, by decide +kernel⟩

def sStaged (k v : Nat) : State := { sCat with stages := [(3, { vals := [(k, v)], since := 5, status := 2 ^ 24 })] }

theorem wit_ReadStaged : EntryRequest (sStaged (entKey 0x5020 1) 1) .mailbox (req 0x5020 1 1 []) (rowAt 0x5020 1) ∧
    SMap.find? (stageOf (sStaged (entKey 0x5020 1) 1) .mailbox).vals (entKey 0x5020 1) = some 1 :=
  ⟨entryRequest (by decide +kernel), by decide +kernel⟩

theorem wit_ReadWo : EntryRequest sCat .mailbox (req 0x6830 3 2 []) (rowAt 0x6830 3) ∧ (rowAt 0x6830 3).acc = .wo :=
  ⟨entryRequest (by decide +kernel), by decide +kernel⟩

theorem wit_Describe : available sCat .mailbox = true ∧ findRow 0x1000 1 = some (rowAt 0x1000 1) ∧
    entryBlock sCat .mailbox (rowAt 0x1000 1) 0x1000 1 = none ∧ (req 0x1000 1 8 []).length = 8#16 := by decide +kernel

theorem wit_NoEntry : available sCat .mailbox = true ∧ maxSub 0x1000 ≠ 0 ∧ maxSub 0x104E = 0 ∧ findRow 0x1000 99 = none ∧
    entryBlock sCat .mailbox (countRow 0x1000) 0x1000 0 = none ∧ sCat.mbx.busy = none ∧ (owing sCat .mailbox).length < 8 := by decide +kernel

theorem wit_WriteRo : EntryRequest sCat .mailbox (req 0x1000 1 2 (leBytes 2 1)) (rowAt 0x1000 1) ∧ (rowAt 0x1000 1).acc = .ro ∧ (leBytes 2 1).length = 2 :=
  ⟨entryRequest (by decide +kernel), by decide +kernel, by decide +kernel⟩

theorem wit_WriteRw : (∀ tr ∈ [Transport.mailbox, .fragor 10], EntryRequest sCat tr (req 0x3010 1 2 (leBytes 2 9)) (rowAt 0x3010 1) ∧ mayWrite sCat tr = true) ∧
    (rowAt 0x3010 1).acc = .rw ∧ inRange 0x3010 1 (kept 0x3010 1 (leNat (leBytes 2 9))) = true := by
  refine ⟨fun tr h => ?_, by decide +kernel, by decide +kernel⟩
  simp only [List.mem_cons, List.not_mem_nil, or_false] at h
  obtain rfl | rfl := h <;> exact ⟨entryRequest (by decide +kernel), by decide +kernel⟩

theorem wit_WriteRws : EntryRequest sCat .mailbox (req 0x5020 1 1 [1#8]) (rowAt 0x5020 1) ∧ (rowAt 0x5020 1).acc = .rws ∧ mayWrite sCat .mailbox = true ∧
    inRange 0x5020 1 (kept 0x5020 1 (leNat [1#8])) = true := ⟨entryRequest (by decide +kernel), by decide +kernel⟩

theorem wit_WriteCons : EntryRequest sCat .cons (req 0xB020 1 4 (leBytes 4 700)) (rowAt 0xB020 1) ∧
    EntryRequest sCat .mailbox (req 0xB020 1 4 (leBytes 4 700)) (rowAt 0xB020 1) ∧ (rowAt 0xB020 1).acc = .cons ∧ isConsCommand 0xB020 1 = false ∧
    inRange 0xB020 1 (kept 0xB020 1 (leNat (leBytes 4 700))) = true ∧
    brokenRule (consRules { sCat with cons := SMap.put sCat.cons (entKey 0xB020 1) (kept 0xB020 1 (leNat (leBytes 4 700))) }) = none :=
  ⟨entryRequest (by decide +kernel), entryRequest (by decide +kernel), by decide +kernel⟩

theorem wit_WriteRights : EntryRequest sCat (.fragor 11) (req 0x3010 1 2 (leBytes 2 9)) (rowAt 0x3010 1) ∧ mayWrite sCat (.fragor 11) = false :=
  ⟨entryRequest (by decide +kernel), by decide +kernel⟩

theorem mayCommand {s : State} {tr : Transport} (h : available s tr = true ∧ mainBlock s = none ∧ mayWrite s tr = true ∧ stagesDue s = [] ∧
    s.mbx.busy = none ∧ (owing s tr).length < 8) : MayCommand s tr :=
  ⟨h.1, h.2.1, h.2.2.1, h.2.2.2.1, h.2.2.2.2⟩

/-- The rule a commit of the staged values breaks. -/
def commitBreaks (s : State) : Option Rule :=
  let c := stageOf s .mailbox
  brokenRule (commitRules s (trial s c.vals) (c.vals.any (fun e => isRegInput e.1 && differs s e)))

theorem wit_Commit : MayCommand (sStaged (entKey 0x5020 1) 1) .mailbox ∧ (stageOf (sStaged (entKey 0x5020 1) 1) .mailbox).vals ≠ [] ∧
    commitBreaks (sStaged (entKey 0x5020 1) 1) = none ∧ (sStaged (entKey 0x5020 1) 1).fab.held = [] ∧ stageKey (sStaged (entKey 0x5020 1) 1) .mailbox = some 3 ∧
    MayCommand (sStaged (entKey 0x6010 1) 5) .mailbox ∧ (commitBreaks (sStaged (entKey 0x6010 1) 5)).isSome = true ∧
    (sStaged (entKey 0x6010 1) 5).main ≠ .off :=
  ⟨mayCommand (by decide +kernel), by decide +kernel, by decide +kernel, by decide +kernel, by decide +kernel, mayCommand (by decide +kernel),
    by decide +kernel, by decide +kernel⟩

theorem wit_ResetCmd : available sCat .mailbox = true ∧ resetRight sCat .mailbox = true ∧ (0x5EC70003#32).toNat / 2 ^ 8 = 0x5EC700 ∧
    (0x5EC70003#32).toNat % 2 ^ 8 ≤ 7 ∧ sCat.main = .ready ∧ available { standby with link := { standby.link with perst := false } } .cons = true ∧
    resetRight { standby with link := { standby.link with perst := false } } .cons = true := by decide +kernel

def sFree : State := { sCat with jobs := [], queues := [] }
theorem wit_Commands : MayCommand sCat .mailbox ∧ MayCommand sFree .mailbox ∧ sFree.main = .ready ∧ sFree.power = .run ∧ descPending sFree = false ∧
    sFree.deepPending = false ∧ resetRight sCat .mailbox = true ∧ (15#8 : BitVec 8).toNat ≤ 15 ∧ sCat.lay.chans.contains (32#16 : BitVec 16).toNat = true ∧
    (chan sCat 32).wait = none ∧ (chan sCat 32).active = none :=
  ⟨mayCommand (by decide +kernel), mayCommand (by decide +kernel), by decide +kernel⟩

def sCooled : State := { standby with main := .shutdown, time := 10 ^ 12, con := { standby.con with coolAt := some 0, faultN := true } }
theorem wit_ShutdownClear : cooled sCooled = true ∧ sCooled.mbx.busy = none ∧ (owing sCooled .cons).length < 8 ∧
    standby.mbx.busy = none ∧ (owing standby .cons).length < 8 ∧ hostReaches sCat = true ∧ (2#32 : BitVec 32) ≠ 1#32 := by decide +kernel

theorem wit_Endpoints : (∀ p, p < 3 → endpointOn sCat p = true) ∧ sCat.main ≠ .off ∧ SMap.find? sCat.i3c 0 = none ∧ SMap.find? sCat.i3c 1 = none := by
  decide +kernel

/-- The states of these witnesses have nothing in memory and nothing left to do. -/
theorem wit_Invariants : ∀ s ∈ [sCat, sFree, sStaged (entKey 0x5020 1) 1, sStaged (entKey 0x6010 1) 5, sCooled, standby, sLedger 0, sHot 2000, supplied, sRef,
    rising b8, rising b8bad, rising bWaves, rising bTiles, rising bQual, rising bBuild], s.mem = [] ∧ s.touched = [] ∧ s.stalled = none := by decide +kernel

/-! ## Worked examples of the manual -/

def digits9 : List Byte := [0x31#8, 0x32#8, 0x33#8, 0x34#8, 0x35#8, 0x36#8, 0x37#8, 0x38#8, 0x39#8]

/-- The check values of R81 over 123456789. -/
theorem test_crc_check_values : crc16 digits9 = 0x29B1#16 ∧ crc32 digits9 = 0xCBF43926#32 := by decide +kernel

/-- The SIG word of the worked example below Table 3.20: ENG 4, flag 5, N 1, tile 37 of the own package. -/
theorem test_sig_fields : let w := 0x2000828000801280000000000000 * 2 ^ 16
    wOpcode w = 0x20 ∧ bits w 111 109 = 4 ∧ sFlag w = 5 ∧ sN w = 1 ∧ bits w 86 71 = 37 := by decide +kernel

/-- The part of the interleave examples: 512 enabled slices on every B-die, all channels in use. -/
def full : State := { up [] with lay := { lay1 with slices := List.replicate 6 (List.range 512), p := 512, chans := List.range 384 } }

/-- The shared-pool address 0x0000_1234_5678 (worked example of R153). -/
theorem test_shared_address : homeOf full 0x12345678 = .vault 3 139 (0x18678 / 64) := by decide +kernel

/-- The home-range address 0x1060_0123_4567 (worked example of R187, R188): channel 2 of stack 7, its offset and its set. -/
theorem test_home_address : homeOf full 0x106001234567 = .hbm 3 74565 1 ∧ lineChan full 3 74565 = 7 * 32 + 2 ∧
    lineSector full 3 74565 1 = 298343 / 64 ∧ lineSet full 74565 = 9029 := by decide +kernel

/-- The exact E5M2 dot product of the worked example of R61: the slot after each row, its FP32, E4M3 and exported results. -/
theorem test_exact_dot : let f (v : Nat) : Machine.Num := decodeFp e5m2 v
    let r0 := Exact.zero.addNum ((f 0x7B).mul (f 0x7B))
    let r1 := r0.addNum ((f 0x01).mul (f 0x01))
    let r2 := r1.addNum ((f 0xFB).mul (f 0x7B))
    r0.value = 0xC4000000000000000#96 ∧ r1.value = 0xC4000000000000010#96 ∧ r2.value = 0x10#96 ∧
      (convertSlot 0 false 0x3F800000#32 r2.num).1 = 0x2F800000 ∧ (convertSlot 3 false 0x4E800000#32 r2.num).1 = 0x28 ∧
      r2.wide = 0x10#128 := by decide +kernel

end Sys2Proof.Tests
end

namespace Sys2Proof.Machine

/-! ## Reset -/

/-- At reset no entry holds a value of its own. -/
theorem rd_reset {idx sub : Nat} {row : EntRow} (h : findRow idx sub = some row) : rd State.reset idx sub = row.dflt := by
  unfold rd
  rw [h]
  exact ite_self _

/-- Memory is empty at reset, and nothing is noted. -/
theorem State.reset_inv : State.Inv State.reset := ⟨List.Pairwise.nil, rfl, rfl⟩

/-- Settles O6: the fields of the reset state, an entry's default where nothing is stored, and the invariant of empty memory. -/
theorem resetIsOffAndInForm : Obligations.ResetIsOffAndInForm :=
  ⟨⟨rfl, rfl, rfl, rfl, rfl, rfl, rfl, fun _ _ _ => rd_reset⟩, State.reset_inv⟩

end Sys2Proof.Machine

namespace Sys2Proof.Machine

/-! ## Every command goes onward

One lemma for each function of the model that answers a state, in the model's order: where its argument is onward of `s`, so is
its result. `f_onward` is the lemma of the function `f`, `execX_leads` that of the meaning of the command `X`; `exec_leads` puts
them together. A function that writes CONS values, or begins time anew, says so by a premise on what `K` promises. -/

/-- What a step is asked to keep besides what every step keeps: the CONS values, and the clock as it stands. -/
structure Promise where
  cons : Prop
  clock : Prop

/-- What every operation of the model keeps from `s` to `t`: the commands that wait, what has been sent, the free values drawn,
the form of memory; the clock and the CONS values as far as `K` promises. -/
structure Onward (K : Promise) (s t : State) : Prop where
  pending : t.pending = s.pending
  sent : s.out <:+ t.out
  drawn : s.free ≤ t.free
  timed : K.clock → s.time ≤ t.time
  form : Memory.wf s.mem → Memory.wf t.mem
  cons : K.cons → t.cons = s.cons

variable {K : Promise} {s t u : State}

/-- A command answers a next state that is onward of `s`. -/
def Leads (K : Promise) (s : State) (r : Res) : Prop := ∃ u, r = .next u ∧ Onward K s u

theorem Onward.refl (s : State) : Onward K s s :=
  ⟨rfl, List.suffix_refl _, le_refl _, fun _ => le_refl _, id, fun _ => rfl⟩

theorem onward_of_snd {α : Type} {p : α × State} {x : α} (e : p = (x, u)) (h : Onward K s p.2) : Onward K s u := by
  rwa [e] at h

theorem onward_of_fst {α : Type} {p : State × α} {x : α} (e : p = (u, x)) (h : Onward K s p.1) : Onward K s u := by
  rwa [e] at h

theorem onward_of_snd_snd {α β : Type} {p : α × β × State} {x : α} {y : β} (e : p = (x, y, u)) (h : Onward K s p.2.2) :
    Onward K s u := by
  rwa [e] at h

theorem onward_of_snd_snd_snd {α β γ : Type} {p : α × β × γ × State} {x : α} {y : β} {z : γ} (e : p = (x, y, z, u))
    (h : Onward K s p.2.2.2) : Onward K s u := by
  rwa [e] at h

theorem onward_of_snd_snd_snd_snd {α β γ δ : Type} {p : α × β × γ × δ × State} {x : α} {y : β} {z : γ} {w : δ}
    (e : p = (x, y, z, w, u)) (h : Onward K s p.2.2.2.2) : Onward K s u := by
  rwa [e] at h

theorem onward_ite {c : Prop} [Decidable c] (ht : Onward K s t) (hu : Onward K s u) : Onward K s (if c then t else u) := by
  split <;> assumption

theorem onward_ite_snd_snd {α β : Type} {c : Prop} [Decidable c] {p q : α × β × State} (hp : Onward K s p.2.2)
    (hq : Onward K s q.2.2) : Onward K s (if c then p else q).2.2 := by
  split <;> assumption

theorem onward_if {c : Prop} [Decidable c] (h : Onward K s t) (hu : Onward K s t → Onward K s u) :
    Onward K s (if c then u else t) :=
  onward_ite (hu h) h

theorem onward_foldl {α : Type} {f : State → α → State} {l : List α} (h : Onward K s t)
    (hf : ∀ v x, Onward K s v → Onward K s (f v x)) : Onward K s (l.foldl f t) :=
  foldl_keeps (Onward K s) f hf l t h

theorem onward_foldl_fst {α β : Type} {f : State × β → α → State × β} {l : List α} {b : β} (h : Onward K s t)
    (hf : ∀ p x, Onward K s p.1 → Onward K s (f p x).1) : Onward K s (l.foldl f (t, b)).1 :=
  foldl_keeps (fun p => Onward K s p.1) f hf l (t, b) h

theorem onward_foldl_snd {α β : Type} {f : β × State → α → β × State} {l : List α} {b : β} (h : Onward K s t)
    (hf : ∀ p x, Onward K s p.2 → Onward K s (f p x).2) : Onward K s (l.foldl f (b, t)).2 :=
  foldl_keeps (fun p => Onward K s p.2) f hf l (b, t) h

theorem onward_foldl_snd_snd {α β γ : Type} {f : β × γ × State → α → β × γ × State} {l : List α} {b : β} {c : γ}
    (h : Onward K s t) (hf : ∀ p x, Onward K s p.2.2 → Onward K s (f p x).2.2) :
    Onward K s (l.foldl f (b, c, t)).2.2 :=
  foldl_keeps (fun p => Onward K s p.2.2) f hf l (b, c, t) h

/-- An update of other fields goes onward. -/
theorem onward_update {main power clkDeep ent devEvents discardEpoch discardCause apertures discard lay indet lines
    fetches recent stalled touched repeats vscrub hscrub ctx chans regU regWait paid behind regOld scale regStart
    winStart lcUsed tiles quiet loans reclaims loanSeq loanVals loanAt queues comps jobs nextJob robin xfers nextX atc
    prgs nextPrg reads nextTag msixTable msixPba link ports fab events summaries ledgerQ live con bringup d2d
    guestDesc ledger hkShown stages mbx owed eids i3c resetReq resetBy resetAt offPath transitAt everReady deepPending
    woken} (h : Onward K s t) :
    Onward K s
      (State.mk t.pending t.out t.free t.time main power clkDeep ent t.cons devEvents discardEpoch discardCause apertures
        discard lay t.mem indet lines fetches recent stalled touched repeats vscrub hscrub ctx chans regU regWait paid
        behind regOld scale regStart winStart lcUsed tiles quiet loans reclaims loanSeq loanVals loanAt queues comps
        jobs nextJob robin xfers nextX atc prgs nextPrg reads nextTag msixTable msixPba link ports fab events
        summaries ledgerQ live con bringup d2d guestDesc ledger hkShown stages mbx owed eids i3c resetReq resetBy
        resetAt offPath transitAt everReady deepPending woken) :=
  ⟨h.pending, h.sent, h.drawn, h.timed, h.form, h.cons⟩

theorem onward_store {k : Nat} {w : List Byte} (h : Onward K s t) : Onward K s { t with mem := storeAt t.mem k w } :=
  { h with form := fun hs => storeAt_wf _ _ _ (h.form hs) }

theorem onward_send {m : Out} (h : Onward K s t) : Onward K s { t with out := m :: t.out } :=
  { h with sent := h.sent.trans (List.suffix_cons ..) }

theorem leads_next (h : Onward K s t) : Leads K s (.next t) := ⟨t, rfl, h⟩

/-! ### The functions of Machine/Ops -/

theorem setEnt_onward {idx sub v : Nat} (h : Onward K s t) : Onward K s (setEnt t idx sub v) := by
  unfold setEnt
  exact onward_update h

theorem bumpBy_onward {idx sub n : Nat} (h : Onward K s t) : Onward K s (bumpBy t idx sub n) := by
  unfold bumpBy
  exact setEnt_onward h

theorem bump_onward {idx sub : Nat} (h : Onward K s t) : Onward K s (bump t idx sub) := by
  unfold bump
  exact bumpBy_onward h

theorem raise_onward {idx sub v : Nat} (h : Onward K s t) : Onward K s (raise t idx sub v) := by
  unfold raise
  exact setEnt_onward h

theorem drawFree_onward (h : Onward K s t) : Onward K s (drawFree t).2 :=
  { h with drawn := Nat.le_succ_of_le h.drawn }

theorem advance_onward {n : Nat} (h : Onward K s t) : Onward K s (advance t n) :=
  { h with timed := fun k => (h.timed k).trans (Nat.le_max_left ..) }

theorem hostSend_onward {m : Out} (h : Onward K s t) : Onward K s (hostSend t m) := by
  unfold hostSend
  split
  · exact { h with sent := h.sent.trans (List.suffix_cons ..) }
  · exact onward_update h

theorem hostFlush_onward (h : Onward K s t) : Onward K s (hostFlush t) := by
  unfold hostFlush
  split
  · exact { h with sent := h.sent.trans (List.suffix_append ..) }
  · exact h

theorem sendVector_onward {v : Nat} (h : Onward K s t) : Onward K s (sendVector t v) := by
  unfold sendVector
  exact onward_ite (onward_update h) (hostSend_onward h)

theorem devEvent_onward {bit : Nat} (h : Onward K s t) : Onward K s (devEvent t bit) := by
  unfold devEvent
  exact onward_ite h (onward_ite h (sendVector_onward (onward_update h)))

theorem mbxDone_onward {msg : List Byte} (h : Onward K s t) : Onward K s (mbxDone t msg) := by
  unfold mbxDone
  exact onward_ite (onward_update h) (sendVector_onward (onward_update h))

theorem mbxSettle_onward (h : Onward K s t) : Onward K s (mbxSettle t) := by
  unfold mbxSettle
  split
  · exact onward_ite (mbxDone_onward h) h
  · exact h

theorem logRecord_onward {code : Nat} {detail : List Byte} (h : Onward K s t) : Onward K s (logRecord t code detail) := by
  have hd : ∀ m, Onward K s (devEvent (bump { t with events := m } 0xE000 2) 2) := fun m =>
    devEvent_onward (bump_onward (onward_update h))
  unfold logRecord
  dsimp only
  split
  · exact { hd _ with sent := (hd _).sent.trans (List.suffix_cons ..) }
  · exact hd _

theorem slotRecord_onward {r : LRec} (h : Onward K s t) : Onward K s (slotRecord t r) := by
  unfold slotRecord
  refine onward_ite (onward_update h) ?_
  dsimp only
  split
  · exact logRecord_onward (bump_onward (onward_update h))
  · exact h

theorem dropDefect_onward {r : LRec} (h : Onward K s t) : Onward K s (dropDefect t r) := by
  unfold dropDefect
  exact logRecord_onward (bump_onward h)

theorem queueRecord_onward {ty : Nat} {payload : List Byte} (h : Onward K s t) : Onward K s (queueRecord t ty payload) := by
  unfold queueRecord
  exact onward_ite (dropDefect_onward h) (slotRecord_onward (onward_update h))

theorem queueSummary_onward {rcd count : Nat} (h : Onward K s t) : Onward K s (queueSummary t rcd count) := by
  unfold queueSummary
  exact queueRecord_onward h

theorem logEvent_onward {code : Nat} {detail : List Byte} (h : Onward K s t) : Onward K s (logEvent t code detail) := by
  unfold logEvent
  refine onward_ite (queueSummary_onward (logRecord_onward h)) (onward_ite ?_ (logRecord_onward h))
  split
  · exact onward_update (queueSummary_onward (logRecord_onward h))
  · exact onward_ite (onward_update (queueSummary_onward (logRecord_onward h))) (onward_update (logRecord_onward h))

theorem setQueue_onward {q : Nat} {v : Queue} (h : Onward K s t) : Onward K s (setQueue t q v) := by
  unfold setQueue
  exact onward_update h

theorem setTile_onward {t' : Nat} {v : Tile} (h : Onward K s t) : Onward K s (setTile t t' v) := by
  unfold setTile
  exact onward_update h

theorem spoil_onward {j : Job} (h : Onward K s t) : Onward K s (spoil t j) := by
  unfold spoil
  exact onward_update h

theorem postComp_onward {c : Comp} (h : Onward K s t) : Onward K s (postComp t c) := by
  unfold postComp
  exact onward_update h

theorem forgetParts_onward {j : Nat} {mine : List Nat} (h : Onward K s t) : Onward K s (forgetParts t j mine) := by
  unfold forgetParts
  split
  · exact h
  · exact onward_update h

theorem stopJob_onward {j : Nat} (h : Onward K s t) : Onward K s (stopJob t j) := by
  unfold stopJob
  exact onward_update (forgetParts_onward h)

theorem abandonJob_onward {j : Nat} (h : Onward K s t) : Onward K s (abandonJob t j) := by
  unfold abandonJob
  exact onward_update (stopJob_onward h)

theorem noteIdle_onward {ts : List Nat} (h : Onward K s t) : Onward K s (noteIdle t ts) := by
  unfold noteIdle
  exact onward_update h

theorem freeTiles_onward {j : Job} (h : Onward K s t) : Onward K s (freeTiles t j) := by
  unfold freeTiles
  exact noteIdle_onward (onward_foldl h (fun _ _ => setTile_onward))

theorem stopTiles_onward {j : Nat} {jb : Job} (h : Onward K s t) : Onward K s (stopTiles t j jb) := by
  unfold stopTiles
  exact noteIdle_onward (onward_foldl h (fun _ _ => setTile_onward))

theorem endJob_onward {j : Nat} (h : Onward K s t) : Onward K s (endJob t j) := by
  unfold endJob
  split
  · exact h
  · exact onward_update (freeTiles_onward (abandonJob_onward h))

theorem recordFault_onward {cause ltile word : Nat} (h : Onward K s t) : Onward K s (recordFault t cause ltile word) := by
  unfold recordFault
  exact setEnt_onward (setEnt_onward (setEnt_onward h))

theorem settleFault_onward {j : Nat} (h : Onward K s t) : Onward K s (settleFault t j) := by
  unfold settleFault
  split
  · exact h
  · split
    · exact onward_ite (postComp_onward (onward_update (freeTiles_onward h))) h
    · exact h

theorem jobFault_onward {j cause ltile word : Nat} (h : Onward K s t) : Onward K s (jobFault t j cause ltile word) := by
  unfold jobFault
  split
  · exact h
  · exact onward_ite (settleFault_onward (onward_update (spoil_onward (stopTiles_onward (stopJob_onward (onward_if (onward_if
      (onward_ite (recordFault_onward h) h) bump_onward) bump_onward)))))) h

theorem coveredOf_onward {cause : Nat} (h : Onward K s t) : Onward K s (coveredOf t cause).2 := by
  unfold coveredOf
  refine onward_foldl_snd h (fun _ _ hu => ?_)
  split
  · exact hu
  · refine onward_foldl_snd hu (fun _ _ hu => ?_)
    split
    · exact hu
    · split
      · exact hu
      · exact drawFree_onward hu

theorem startDiscard_onward {cause : Nat} (h : Onward K s t) : Onward K s (startDiscard t cause) := by
  unfold startDiscard
  exact logEvent_onward (sendVector_onward (onward_update (devEvent_onward (bump_onward (noteIdle_onward (onward_update
    (coveredOf_onward (onward_update h))))))))

theorem classB_onward {cause : Nat} (h : Onward K s t) : Onward K s (classB t cause) := by
  unfold classB
  exact onward_ite (startDiscard_onward h) h

theorem setMain_onward {m : MainState} (h : Onward K s t) : Onward K s (setMain t m) := by
  unfold setMain
  exact devEvent_onward (onward_update h)

/-! ### The functions of Machine/Memory -/

theorem freeWord_onward {n : Nat} (h : Onward K s t) : Onward K s (freeWord t n).2 := by
  unfold freeWord
  exact drawFree_onward h

theorem readCode_onward {key c : Nat} {u : Upset} (h : Onward K s t) : Onward K s (readCode t key c u).2 := by
  unfold readCode
  split
  · split
    · exact h
    · exact onward_store h
  · dsimp only
    exact freeWord_onward h

theorem putCode_onward {key : Nat} {w : List Byte} (h : Onward K s t) : Onward K s (putCode t key w) := by
  unfold putCode
  exact onward_store h

theorem vaultDefect_onward {b loc : Nat} {cols : List Nat} (h : Onward K s t) : Onward K s (vaultDefect t b loc cols) := by
  unfold vaultDefect
  exact queueRecord_onward h

theorem setChan_onward {c : Nat} {v : Chan} (h : Onward K s t) : Onward K s (setChan t c v) := by
  unfold setChan
  exact onward_update h

theorem dropLine_onward {b line : Nat} (h : Onward K s t) : Onward K s (dropLine t b line) := by
  unfold dropLine
  exact onward_update h

theorem putLine_onward {l : Line} (h : Onward K s t) : Onward K s (putLine t l) := by
  unfold putLine
  exact onward_update (dropLine_onward h)

theorem mendLine_onward {b line sec : Nat} {w : List Byte} (h : Onward K s t) : Onward K s (mendLine t b line sec w) := by
  unfold mendLine
  exact onward_update h

theorem putRep_onward {r : RepEntry} (h : Onward K s t) : Onward K s (putRep t r) := by
  unfold putRep
  exact onward_update h

theorem dropRep_onward {b kind loc : Nat} (h : Onward K s t) : Onward K s (dropRep t b kind loc) := by
  unfold dropRep
  exact onward_update h

theorem repEntry_onward {b kind loc : Nat} (h : Onward K s t) : Onward K s (repEntry t b kind loc).2 := by
  unfold repEntry
  dsimp only
  split
  · exact h
  · split
    · exact h
    · split
      · exact dropRep_onward h
      · dsimp only
        exact logEvent_onward (bump_onward h)

theorem repUpdate_onward {b kind loc : Nat} {errs : List (Nat × Byte)} {rewrite : State → State} (h : Onward K s t)
    (hr : ∀ v, Onward K s v → Onward K s (rewrite v)) : Onward K s (repUpdate t b kind loc errs rewrite).2 := by
  unfold repUpdate
  split
  · exact onward_of_snd ‹_› (repEntry_onward h)
  · dsimp only
    split
    · exact bump_onward (onward_if (putRep_onward (onward_of_snd ‹_› (repEntry_onward h))) (fun h => bump_onward (hr _ h)))
    · exact onward_if (putRep_onward (onward_of_snd ‹_› (repEntry_onward h))) (fun h => bump_onward (hr _ h))

theorem noteVault_onward {b loc : Nat} {errs : List (Nat × Byte)} {rewrite : State → State} (h : Onward K s t)
    (hr : ∀ v, Onward K s v → Onward K s (rewrite v)) : Onward K s (noteVault t b loc errs rewrite) := by
  unfold noteVault
  split
  · exact vaultDefect_onward (onward_of_snd ‹_› (repUpdate_onward h (fun _ => hr _)))
  · exact onward_of_snd ‹_› (repUpdate_onward h (fun _ => hr _))

theorem freeSoft_onward {b kind loc : Nat} (h : Onward K s t) : Onward K s (freeSoft t b kind loc) := by
  unfold freeSoft
  exact onward_update h

theorem chanWrite_onward {b line sec : Nat} {w : List Byte} (h : Onward K s t) : Onward K s (chanWrite t b line sec w) := by
  unfold chanWrite
  exact putCode_onward (freeSoft_onward h)

theorem writeBackSector_onward {l : Line} {sw : Nat × List Byte} (h : Onward K s t) : Onward K s (writeBackSector t l sw) := by
  unfold writeBackSector
  split
  · exact chanWrite_onward h
  · exact chanWrite_onward (noteVault_onward (bump_onward h) (fun _ => mendLine_onward))
  · exact chanWrite_onward h
  · exact chanWrite_onward (logEvent_onward (bump_onward (bump_onward h)))

theorem writeBack_onward {l : Line} (h : Onward K s t) : Onward K s (writeBack t l) := by
  unfold writeBack
  exact onward_foldl h (fun _ _ => writeBackSector_onward)

theorem fillWay_onward {l : Line} (h : Onward K s t) : Onward K s (fillWay t l) := by
  unfold fillWay
  exact putLine_onward (onward_foldl h (fun _ _ => freeSoft_onward))

theorem allocLine_onward {b line : Nat} {sectors : List (List Byte)} {dirty : Bool} {prot : Option Nat} {pinned : Bool}
    (h : Onward K s t) : Onward K s (allocLine t b line sectors dirty prot pinned).1 := by
  unfold allocLine
  split
  · exact fillWay_onward h
  · split
    · exact h
    · refine fillWay_onward ?_
      split
      · exact dropLine_onward (onward_ite (writeBack_onward h) h)
      · exact h

theorem copySector_onward {b line sec : Nat} (h : Onward K s t) : Onward K s (copySector t b line sec).2.2.2 := by
  unfold copySector
  split
  · exact onward_of_snd ‹_› (readCode_onward h)
  · exact bump_onward (onward_of_snd ‹_› (readCode_onward h))
  · exact onward_of_snd ‹_› (readCode_onward h)
  · dsimp only
    exact logEvent_onward (bump_onward (bump_onward (onward_of_snd ‹_› (readCode_onward h))))

theorem pinSector_onward {b line sec : Nat} (h : Onward K s t) : Onward K s (pinSector t b line sec).2 := by
  unfold pinSector
  split
  · exact onward_of_snd_snd_snd ‹_› (copySector_onward h)
  · split
    · exact dropRep_onward (onward_of_snd ‹_› (repUpdate_onward (onward_of_snd_snd_snd ‹_› (copySector_onward h))
        (fun _ => putCode_onward)))
    · exact onward_of_snd ‹_› (repUpdate_onward (onward_of_snd_snd_snd ‹_› (copySector_onward h)) (fun _ => putCode_onward))

theorem pinLine_onward {b l : Nat} (h : Onward K s t) : Onward K s (pinLine t b l) := by
  unfold pinLine
  split
  · exact putLine_onward h
  · exact allocLine_onward (onward_foldl_snd h (fun _ _ => pinSector_onward))

theorem remapRow_onward {b ch row : Nat} {fresh : Bool} (h : Onward K s t) : Onward K s (remapRow t b ch row fresh) := by
  unfold remapRow
  exact onward_ite (logEvent_onward (onward_if (setChan_onward h) queueRecord_onward)) (logEvent_onward (onward_if
    (setEnt_onward (setEnt_onward (setChan_onward (onward_foldl h (fun _ _ => pinLine_onward))))) queueRecord_onward))

theorem noteHbm_onward {b loc : Nat} {errs : List (Nat × Byte)} {rewrite : State → State} (h : Onward K s t)
    (hr : ∀ v, Onward K s v → Onward K s (rewrite v)) : Onward K s (noteHbm t b loc errs rewrite) := by
  unfold noteHbm
  split
  · exact dropRep_onward (remapRow_onward (onward_of_snd ‹_› (repUpdate_onward h (fun _ => hr _))))
  · exact onward_of_snd ‹_› (repUpdate_onward h (fun _ => hr _))

theorem sectorCopy_onward {b line sec : Nat} (h : Onward K s t) : Onward K s (sectorCopy t b line sec).2 := by
  unfold sectorCopy
  split
  · exact onward_of_snd_snd_snd ‹_› (copySector_onward h)
  · exact noteHbm_onward (onward_of_snd_snd_snd ‹_› (copySector_onward h)) (fun _ => putCode_onward)

theorem uncorrectableRead_onward {rq : Requester} {addr : Nat} {hbm : Bool} (h : Onward K s t) :
    Onward K s (uncorrectableRead t rq addr hbm) := by
  unfold uncorrectableRead
  exact classB_onward (logEvent_onward (bump_onward (bump_onward h)))

theorem lostWord_onward {rq : Requester} {a : Nat} (h : Onward K s t) : Onward K s (lostWord t rq a) := by
  unfold lostWord
  exact classB_onward (logEvent_onward (bump_onward h))

theorem received_onward {rq : Requester} {a : Nat} {w : List Byte} {transit : Upset} (h : Onward K s t) :
    Onward K s (received t rq a w transit).2 := by
  unfold received
  split
  · exact h
  · exact bump_onward h
  · exact h
  · exact lostWord_onward h

theorem fromBuffer_onward {rq : Requester} {a : Nat} {d : List Byte} {u : Upset} (h : Onward K s t) :
    Onward K s (fromBuffer t rq a d u).2 := by
  unfold fromBuffer
  split
  · exact h
  · split <;> exact onward_of_snd ‹_› (received_onward h)

theorem takeReport_onward {rq : Requester} {r : Received} (h : Onward K s t) : Onward K s (takeReport t rq r).2 := by
  unfold takeReport
  dsimp only
  split
  · exact onward_ite h (bumpBy_onward h)
  · exact lostWord_onward (bump_onward (onward_ite h (bumpBy_onward h)))

theorem touch_onward {how : How} {t' : Touch} (h : Onward K s t) : Onward K s (touch t how t') := by
  unfold touch
  split
  · exact h
  · exact onward_ite h (onward_update h)

theorem touchRead_onward {how : How} {a : Nat} (h : Onward K s t) : Onward K s (touchRead t how a) := by
  unfold touchRead
  exact touch_onward h

theorem touchWrite_onward {how : How} {a : Nat} (h : Onward K s t) : Onward K s (touchWrite t how a) := by
  unfold touchWrite
  exact touch_onward h

theorem touchModify_onward {how : How} {a : Nat} {reduction : Bool} (h : Onward K s t) :
    Onward K s (touchModify t how a reduction) := by
  unfold touchModify
  exact touch_onward h

theorem readVault_onward {rq : Requester} {a key b loc : Nat} {tracked : Bool} {u : Upset} (h : Onward K s t) :
    Onward K s (readVault t rq a key b loc tracked u).2 := by
  unfold readVault
  split
  · exact onward_of_snd ‹_› (readCode_onward h)
  · exact onward_ite (noteVault_onward (bump_onward (onward_of_snd ‹_› (readCode_onward h))) (fun _ => putCode_onward))
      (bump_onward (onward_of_snd ‹_› (readCode_onward h)))
  · exact onward_of_snd ‹_› (readCode_onward h)
  · exact uncorrectableRead_onward (putCode_onward (onward_if (onward_of_snd ‹_› (readCode_onward h)) freeSoft_onward))

theorem readChan_onward {rq : Requester} {b line sec : Nat} {u : Upset} (h : Onward K s t) :
    Onward K s (readChan t rq b line sec u).2 := by
  unfold readChan
  dsimp only
  split
  · exact onward_of_snd ‹_› (readCode_onward h)
  · exact noteHbm_onward (bump_onward (onward_of_snd ‹_› (readCode_onward h))) (fun _ => putCode_onward)
  · exact onward_of_snd ‹_› (readCode_onward h)
  · exact uncorrectableRead_onward (chanWrite_onward (onward_of_snd ‹_› (readCode_onward h)))

theorem fetchLine_onward {rq : Requester} {b line : Nat} {sec : Option Nat} {u : Upset} (h : Onward K s t) :
    Onward K s (fetchLine t rq b line sec u).2.2 := by
  unfold fetchLine
  refine onward_foldl_snd_snd h (fun _ _ hu => ?_)
  split
  · exact readChan_onward hu
  · exact sectorCopy_onward hu

theorem lcCharge_onward {how : How} {ch : Nat} (h : Onward K s t) : Onward K s (lcCharge t how ch) := by
  unfold lcCharge
  exact onward_ite (onward_ite (bump_onward h) (onward_update h)) h

theorem afterHit_onward {how : How} {a : Nat} {l : Line} {wrote : Bool} (h : Onward K s t) :
    Onward K s (afterHit t how a l wrote) := by
  unfold afterHit
  split
  · exact onward_ite (putLine_onward h) (onward_ite (dropLine_onward (writeBack_onward h)) (dropLine_onward (onward_ite
      (bump_onward h) h)))
  · exact onward_ite (putLine_onward h) (putLine_onward h)
  · exact putLine_onward h

theorem countAt_onward {how : How} {sub : Nat} (h : Onward K s t) : Onward K s (countAt t how sub) := by
  unfold countAt
  exact onward_ite h (bump_onward h)

theorem stall_onward {b line : Nat} (h : Onward K s t) : Onward K s (stall t b line) := by
  unfold stall
  exact onward_ite h (onward_update h)

theorem readMiss_onward {how : How} {a b line sec : Nat} {u : Upset} (h : Onward K s t) :
    Onward K s (readMiss t how a b line sec u).2 := by
  unfold readMiss
  dsimp only
  split
  · exact allocLine_onward (fetchLine_onward (lcCharge_onward (countAt_onward h)))
  · exact readChan_onward (lcCharge_onward (countAt_onward h))

theorem refetch_onward {how : How} {a : Nat} {l : Line} {sec : Nat} (h : Onward K s t) :
    Onward K s (refetch t how a l sec).2 := by
  unfold refetch
  dsimp only
  split
  · exact afterHit_onward (allocLine_onward (fetchLine_onward (lcCharge_onward (countAt_onward (logEvent_onward (bump_onward
      (bump_onward (dropLine_onward h))))))))
  · exact allocLine_onward (fetchLine_onward (lcCharge_onward (countAt_onward (logEvent_onward (bump_onward (bump_onward
      (dropLine_onward h)))))))

theorem readHbm_onward {how : How} {a b line sec : Nat} {u : Upset} (h : Onward K s t) :
    Onward K s (readHbm t how a b line sec u).2 := by
  unfold readHbm
  split
  · exact stall_onward h
  · split
    · split
      · exact stall_onward h
      · exact readMiss_onward h
    · dsimp only
      split
      · exact afterHit_onward (countAt_onward h)
      · exact afterHit_onward (noteVault_onward (bump_onward (countAt_onward (putLine_onward h))) (fun _ => mendLine_onward))
      · exact afterHit_onward (countAt_onward h)
      · split
        · exact uncorrectableRead_onward (putLine_onward (countAt_onward (freeSoft_onward h)))
        · split
          · exact stall_onward h
          · exact refetch_onward h

theorem placeCode_onward {a : Nat} {d : List Byte} (h : Onward K s t) : Onward K s (placeCode t a d) := by
  unfold placeCode
  split
  · exact putCode_onward h
  · exact putCode_onward h
  · exact mendLine_onward (putCode_onward h)
  · exact h

theorem settle_onward {a : Nat} (h : Onward K s t) : Onward K s (settle t a) := by
  unfold settle
  refine onward_ite ?_ h
  dsimp only
  split <;> exact onward_ite (onward_update (drawFree_onward h)) (placeCode_onward (onward_update (drawFree_onward h)))

theorem wakeModule_onward {m : Nat} (h : Onward K s t) : Onward K s (wakeModule t m) := by
  unfold wakeModule
  exact onward_ite (onward_update h) h

theorem wakeStack_onward {b line : Nat} (h : Onward K s t) : Onward K s (wakeStack t b line) := by
  unfold wakeStack
  exact wakeModule_onward h

theorem readWord_onward {how : How} {a : Nat} {u : Upset} (h : Onward K s t) : Onward K s (readWord t how a u).2 := by
  unfold readWord
  dsimp only
  split
  · exact readVault_onward (settle_onward (touchRead_onward h))
  · exact readVault_onward (settle_onward (touchRead_onward h))
  · exact readHbm_onward (wakeStack_onward (settle_onward (touchRead_onward h)))
  · exact settle_onward (touchRead_onward h)

theorem writeHbm_onward {how : How} {a b line sec : Nat} {w : List Byte} (h : Onward K s t) :
    Onward K s (writeHbm t how a b line sec w) := by
  unfold writeHbm
  refine onward_ite (stall_onward h) ?_
  dsimp only
  split
  · exact afterHit_onward (countAt_onward (freeSoft_onward (freeSoft_onward h)))
  · exact onward_ite (stall_onward (freeSoft_onward h)) (onward_ite (chanWrite_onward (countAt_onward (freeSoft_onward h)))
      (allocLine_onward (fetchLine_onward (countAt_onward (freeSoft_onward h)))))

theorem noReads_onward {a : Nat} (h : Onward K s t) : Onward K s (noReads t a) := by
  unfold noReads
  exact onward_update h

theorem writeCode_onward {how : How} {a : Nat} {w : List Byte} (h : Onward K s t) : Onward K s (writeCode t how a w) := by
  unfold writeCode
  dsimp only
  split
  · exact putCode_onward (freeSoft_onward (noReads_onward (onward_if (touchWrite_onward h) onward_update)))
  · exact putCode_onward (noReads_onward (onward_if (touchWrite_onward h) onward_update))
  · exact writeHbm_onward (wakeStack_onward (noReads_onward (onward_if (touchWrite_onward h) onward_update)))
  · exact noReads_onward (onward_if (touchWrite_onward h) onward_update)

theorem writeWord_onward {how : How} {a : Nat} {d : List Byte} (h : Onward K s t) : Onward K s (writeWord t how a d) := by
  unfold writeWord
  exact writeCode_onward h

theorem writePoison_onward {how : How} {a : Nat} (h : Onward K s t) : Onward K s (writePoison t how a) := by
  unfold writePoison
  exact writeCode_onward (bump_onward h)

theorem modifyWord_onward {how : How} {a : Nat} {reduction : Bool} {f : List Byte → List Byte} (h : Onward K s t) :
    Onward K s (modifyWord t how a reduction f).2 := by
  unfold modifyWord
  dsimp only
  split
  · exact writeWord_onward (onward_of_snd ‹_› (readWord_onward (touchModify_onward h)))
  · exact onward_of_snd ‹_› (readWord_onward (touchModify_onward h))

theorem writeBytes_onward {how : How} {a : Nat} {d : List Byte} (h : Onward K s t) : Onward K s (writeBytes t how a d).2 := by
  unfold writeBytes
  dsimp only
  split
  · exact writeWord_onward h
  · exact modifyWord_onward h

theorem writeLine_onward {how : How} {a : Nat} {ws : List (List Byte)} (h : Onward K s t) :
    Onward K s (writeLine t how a ws) := by
  unfold writeLine
  split
  · exact onward_ite (stall_onward h) (onward_ite (onward_foldl h (fun _ _ => writeCode_onward)) (onward_ite (stall_onward h)
      (allocLine_onward (bump_onward (onward_foldl (wakeStack_onward (onward_foldl h (fun _ _ => touchWrite_onward)))
      (fun _ _ hu => freeSoft_onward (noReads_onward (onward_update hu))))))))
  · exact onward_foldl h (fun _ _ => writeCode_onward)

theorem failedReq_onward (h : Onward K s t) : Onward K s (failedReq t) := by
  unfold failedReq
  exact bump_onward h

theorem holdReq_onward {b line : Nat} {hr : HeldReq} (h : Onward K s t) : Onward K s (holdReq t b line hr) := by
  unfold holdReq
  exact onward_ite (onward_update h) (setChan_onward h)

/-! ### The functions of Machine/Charges -/

theorem setScale_onward {r f : Nat × Nat} (h : Onward K s t) : Onward K s (setScale t r f) := by
  unfold setScale
  exact onward_ite h (logEvent_onward (setEnt_onward (bump_onward (onward_update h))))

theorem rescale_onward {rs : List (Nat × Nat)} (h : Onward K s t) : Onward K s (rescale t rs) := by
  unfold rescale
  exact onward_foldl h (fun _ _ => setScale_onward)

theorem setGcaps_onward (h : Onward K s t) : Onward K s (setGcaps t) := by
  unfold setGcaps
  exact setEnt_onward (setEnt_onward (setEnt_onward (setEnt_onward (setEnt_onward (setEnt_onward h)))))

theorem admitPart_onward {m : Nat} {p : PartTarget} {forced : Bool} (h : Onward K s t) :
    Onward K s (admitPart t m p forced) := by
  unfold admitPart
  exact onward_update (bumpBy_onward h)

theorem partArrives_onward {m eng : Nat} {p : PartTarget} {forced : Bool} (h : Onward K s t) :
    Onward K s (partArrives t m eng p forced) := by
  unfold partArrives
  exact onward_ite (admitPart_onward h) (onward_update h)

theorem chargeAll_onward {e : Nat} {forced : Bool} (h : Onward K s t) : Onward K s (chargeAll t e forced) := by
  unfold chargeAll
  exact onward_ite h (onward_foldl (onward_update h) (fun _ _ => partArrives_onward))

theorem admitParts_onward {m : Nat} {forced : Bool} {l : List PartTarget} (h : Onward K s t) :
    Onward K s (admitParts t m forced l).1 := by
  induction l generalizing t with
  | nil =>
    unfold admitParts
    exact h
  | cons p r ih =>
    unfold admitParts
    split
    · exact ih (admitPart_onward h)
    · exact h

theorem waitParts_onward {m eng : Nat} {r : HeldReq} {l : List PartTarget} (h : Onward K s t) :
    Onward K s (waitParts t m eng r l) := by
  cases l with
  | nil =>
    unfold waitParts
    exact h
  | cons p l =>
    unfold waitParts
    exact onward_update h

theorem setPaid_onward {k : ReqParts} {l : List PartTarget} (h : Onward K s t) : Onward K s (setPaid t k l) := by
  unfold setPaid
  exact onward_update h

theorem admitWork_onward {u far : State} {e : Nat} (h : Onward K s t) : Onward K s (admitWork t u far e).2 := by
  unfold admitWork
  dsimp only
  split
  · split
    · exact h
    · split
      · exact h
      · split
        · exact setPaid_onward (onward_of_fst ‹_› (admitParts_onward h))
        · exact waitParts_onward (onward_of_fst ‹_› (admitParts_onward h))
  · split
    · exact h
    · split
      · exact h
      · split
        · exact h
        · exact waitParts_onward (onward_of_fst ‹_› (admitParts_onward h))

theorem admitWork_some_onward {u far v w : State} {e : Nat} (h : Onward K s u) (he : admitWork t u far e = (some v, w)) :
    Onward K s v := by
  cases hs : u.stalled.isSome <;> simp only [admitWork, hs, Bool.false_eq_true, if_true, if_false] at he
  · split at he
    · cases he; exact onward_update h
    · split at he
      · cases he
      · split at he <;> cases he
        exact onward_update (admitParts_onward h)
  · split at he
    · cases he
    · split at he
      · cases he
      · split at he <;> cases he

theorem whole_onward {e : Nat} {f : State → State} (h : Onward K s t) (hf : ∀ v, Onward K s v → Onward K s (f v)) :
    Onward K s (whole t e f) := by
  unfold whole
  dsimp only
  split
  · exact admitWork_some_onward (hf _ h) ‹_›
  · exact onward_of_snd ‹_› (admitWork_onward h)

theorem holdLine_onward {far : State} {b line : Nat} {r : HeldReq} (h : Onward K s t) :
    Onward K s (holdLine t far b line r) := by
  unfold holdLine
  exact holdReq_onward (onward_update h)

theorem wholeOr_onward {paid : Bool} {r : HeldReq} {f : State → State} (h : Onward K s t) (hf : ∀ v, Onward K s v → Onward K s
    (f v)) : Onward K s (wholeOr t paid r f) := by
  unfold wholeOr
  refine onward_ite ?_ (onward_ite (waitParts_onward h) ?_)
  · dsimp only
    split
    · exact holdLine_onward h
    · exact onward_update (hf _ h)
  · split
    · dsimp only
      split
      · exact holdLine_onward (onward_of_fst ‹_› (admitParts_onward h))
      · exact onward_update (admitParts_onward (hf _ h))
    · exact waitParts_onward (onward_of_fst ‹_› (admitParts_onward h))

/-! ### The functions of Machine/FabricOps -/

theorem setPort_onward {p : Nat} {v : Port} (h : Onward K s t) : Onward K s (setPort t p v) := by
  unfold setPort
  exact onward_update h

theorem sendIdle_onward {p : Nat} {nak : Bool} {cvc credits : Nat} (h : Onward K s t) :
    Onward K s (sendIdle t p nak cvc credits) := by
  unfold sendIdle
  exact onward_send h

theorem sendFlit_onward {p : Nat} {f : TxFlit} (h : Onward K s t) : Onward K s (sendFlit t p f) := by
  unfold sendFlit
  exact onward_send h

theorem giveCredit_onward {inp : Nat} {pk : Packet} (h : Onward K s t) : Onward K s (giveCredit t inp pk) := by
  unfold giveCredit
  exact onward_ite (sendIdle_onward h) h

theorem sendNow_onward {p vc us inp : Nat} {pk : Packet} (h : Onward K s t) : Onward K s (sendNow t p vc us inp pk) := by
  unfold sendNow
  exact onward_foldl (onward_send (setPort_onward (giveCredit_onward h))) (fun _ _ hu => onward_ite (sendFlit_onward hu) hu)

theorem emitWait_onward {p : Nat} {w : TxWait} (h : Onward K s t) : Onward K s (emitWait t p w) := by
  unfold emitWait
  exact onward_ite (sendNow_onward h) (setPort_onward h)

theorem emit_onward {p vc us inp : Nat} {pk : Packet} (h : Onward K s t) : Onward K s (emit t p vc us inp pk) := by
  unfold emit
  exact onward_ite (sendNow_onward h) (setPort_onward h)

theorem holdPacket_onward {p vc us inp : Nat} {pk : Packet} {since : Nat} (h : Onward K s t) :
    Onward K s (holdPacket t p vc us inp pk since) := by
  unfold holdPacket
  exact onward_update h

theorem holdWait_onward {p : Nat} {w : TxWait} (h : Onward K s t) : Onward K s (holdWait t p w) := by
  unfold holdWait
  exact onward_update h

theorem routePacket_onward {us inp : Nat} {pk : Packet} (h : Onward K s t) (e : routePacket t us inp pk = .sent u) :
    Onward K s u := by
  unfold routePacket at e
  dsimp only at e
  generalize (if pkIsRequest pk = true then _ else _) = vc at e
  split at e
  · cases e; exact onward_send h
  · split at e
    · cases e
    · split at e
      · split at e <;> cases e
        · exact holdPacket_onward h
        · exact emit_onward h
      · cases e; exact holdPacket_onward h

theorem respond_onward {rq : Packet} {op status : Nat} {data : List Byte} (h : Onward K s t) :
    Onward K s (respond t rq op status data) := by
  unfold respond
  dsimp only
  split
  · exact routePacket_onward h ‹_›
  · exact bump_onward h

theorem answer_onward {rq : Packet} {status : Nat} (h : Onward K s t) : Onward K s (answer t rq status) := by
  unfold answer
  exact respond_onward h

theorem requestFailed_onward {r : FReq} {status : Nat} (h : Onward K s t) : Onward K s (requestFailed t r status) := by
  unfold requestFailed
  split
  · exact jobFault_onward h
  · exact jobFault_onward h
  · exact jobFault_onward h
  · exact classB_onward (logEvent_onward h)

theorem launch_onward {r : FReq} (h : Onward K s t) : Onward K s (launch t r) := by
  unfold launch
  dsimp only
  split
  · exact routePacket_onward (onward_update h) ‹_›
  · exact requestFailed_onward (bump_onward (onward_update h))

theorem sendRequest_onward {r : FReq} (h : Onward K s t) : Onward K s (sendRequest t r) := by
  unfold sendRequest
  exact onward_ite (launch_onward h) (onward_update h)

theorem drainWaiting_onward (h : Onward K s t) : Onward K s (drainWaiting t) := by
  unfold drainWaiting
  exact onward_foldl (onward_update h) (fun _ _ => sendRequest_onward)

theorem releaseStream_onward {dst : Nat} (h : Onward K s t) : Onward K s (releaseStream t dst) := by
  unfold releaseStream
  exact drainWaiting_onward (onward_update h)

theorem resend_onward {dst : Nat} (h : Onward K s t) : Onward K s (resend t dst) := by
  unfold resend
  refine releaseStream_onward (onward_foldl h (fun _ _ hu => ?_))
  dsimp only
  split
  · exact routePacket_onward (onward_update hu) ‹_›
  · exact requestFailed_onward (bump_onward (onward_update hu))

theorem remoteSignal_onward {job t' word dst ltile flag n : Nat} {x : Option Nat} (h : Onward K s t) :
    Onward K s (remoteSignal t job t' word dst ltile flag n x).2 := by
  unfold remoteSignal
  split
  · exact h
  · exact sendRequest_onward h

theorem sendSourced_onward {us inp : Nat} {pk : Packet} {q i : Nat} (h : Onward K s t) :
    Onward K s (sendSourced t us inp pk q i) := by
  unfold sendSourced
  exact emit_onward (drawFree_onward h)

theorem freeBytes_onward {n : Nat} (h : Onward K s t) : Onward K s (freeBytes t n).2 := by
  induction n with
  | zero =>
    unfold freeBytes
    exact h
  | succ n ih =>
    unfold freeBytes
    exact drawFree_onward ih

theorem notify_onward {p : Nat} (h : Onward K s t) : Onward K s (notify t p) := by
  unfold notify
  refine onward_ite h (onward_foldl (setPort_onward h) (fun _ _ hu => ?_))
  dsimp only
  split
  · exact routePacket_onward (freeBytes_onward (drawFree_onward hu)) ‹_›
  · exact freeBytes_onward (drawFree_onward hu)

theorem portChanged_onward {p : Nat} (h : Onward K s t) : Onward K s (portChanged t p) := by
  unfold portChanged
  exact notify_onward (rescale_onward (logEvent_onward h))

theorem portsDark_onward (h : Onward K s t) : Onward K s (portsDark t) := by
  unfold portsDark
  exact onward_foldl h (fun _ _ hu => onward_if (setPort_onward hu) portChanged_onward)

theorem portsTrain_onward (h : Onward K s t) : Onward K s (portsTrain t) := by
  unfold portsTrain
  exact onward_foldl h (fun _ _ hu => onward_ite (setPort_onward hu) hu)

theorem respondMgmt_onward {p : Nat} {rq : Packet} {msg : List Byte} (h : Onward K s t) :
    Onward K s (respondMgmt t p rq msg) := by
  unfold respondMgmt
  refine onward_ite (onward_ite (sendSourced_onward h) (bump_onward h)) ?_
  dsimp only
  split
  · exact routePacket_onward h ‹_›
  · exact bump_onward h

theorem refuseMgmt_onward {p : Nat} {rq : Packet} (h : Onward K s t) : Onward K s (refuseMgmt t p rq) := by
  unfold refuseMgmt
  exact respondMgmt_onward (freeBytes_onward h)

/-! ### The functions of Machine/Flags -/

theorem setFlag_onward {t' f n : Nat} (h : Onward K s t) : Onward K s (setFlag t t' f n) := by
  unfold setFlag
  exact setTile_onward h

theorem openReclaim_onward {lender : Nat} {ls : List Loan} (h : Onward K s t) : Onward K s (openReclaim t lender ls) := by
  unfold openReclaim
  exact onward_ite h (onward_ite h (bump_onward (onward_update h)))

theorem checkLender_onward {hr : Nat} (h : Onward K s t) : Onward K s (checkLender t hr) := by
  unfold checkLender
  exact onward_ite h (openReclaim_onward h)

theorem unquiet_onward {t' : Nat} (h : Onward K s t) : Onward K s (unquiet t t') := by
  unfold unquiet
  exact checkLender_onward (onward_update h)

theorem noteArmed_onward {t' : Nat} (h : Onward K s t) : Onward K s (noteArmed t t') := by
  unfold noteArmed
  exact onward_ite (onward_update h) h

theorem addFlag_onward {t' f n : Nat} (h : Onward K s t) : Onward K s (addFlag t t' f n) := by
  unfold addFlag
  split
  · exact bump_onward h
  · exact onward_ite (bump_onward h) (onward_ite (jobFault_onward (bump_onward (setFlag_onward h))) (setFlag_onward h))

theorem unblock_onward {t' : Nat} (h : Onward K s t) : Onward K s (unblock t t') := by
  unfold unblock
  exact unquiet_onward (setTile_onward h)

theorem barRemote_onward {t' j idx dst ltile flag : Nat} (h : Onward K s t) :
    Onward K s (barRemote t t' j idx dst ltile flag) := by
  unfold barRemote
  exact onward_ite (remoteSignal_onward h) (jobFault_onward h)

theorem releaseKids_onward {x j idx : Nat} {l : List (Nat × Nat × Bool × Nat)} {ts : List Nat} (h : Onward K s t) :
    Onward K s (releaseKids x j idx l ts t).2 := by
  induction l generalizing t ts with
  | nil =>
    unfold releaseKids
    exact h
  | cons y r ih =>
    unfold releaseKids
    split
    · exact h
    · split
      · exact ih (barRemote_onward h)
      · exact ih (addFlag_onward h)

theorem barArrive_onward {t' : Nat} {d : BarDesc} (h : Onward K s t) : Onward K s (barArrive t t' d) := by
  unfold barArrive
  exact addFlag_onward (setTile_onward h)

theorem barReport_onward {t' : Nat} {d : BarDesc} (h : Onward K s t) : Onward K s (barReport t t' d).2 := by
  unfold barReport
  dsimp only
  split
  · exact unquiet_onward (setTile_onward (setFlag_onward h))
  · split
    · exact barRemote_onward (unquiet_onward (setTile_onward (setFlag_onward h)))
    · exact addFlag_onward (unquiet_onward (setTile_onward (setFlag_onward h)))

theorem barDone_onward {t' : Nat} {d : BarDesc} (h : Onward K s t) : Onward K s (barDone t t' d).2 := by
  unfold barDone
  exact releaseKids_onward (unblock_onward (onward_ite h (setFlag_onward h)))

theorem moveTile_onward {t' : Nat} (h : Onward K s t) : Onward K s (moveTile t t').2.2 := by
  unfold moveTile
  dsimp only
  split
  · split
    · exact unblock_onward (setFlag_onward h)
    · exact h
  · split
    · exact unblock_onward h
    · exact h
  · split
    · exact unblock_onward h
    · exact h
  · split
    · exact setTile_onward h
    · exact h
  · split
    · exact barArrive_onward h
    · exact h
  · split
    · exact barReport_onward h
    · exact h
  · split
    · exact barDone_onward h
    · exact h
  · exact h

theorem pump_onward {k : Nat} {l : List Nat} (h : Onward K s t) : Onward K s (pump k t l) := by
  induction k generalizing t l with
  | zero =>
    unfold pump
    exact h
  | succ k ih =>
    cases l with
    | nil =>
      unfold pump
      exact h
    | cons y l =>
      unfold pump
      exact onward_ite (ih (moveTile_onward h)) (ih (noteArmed_onward h))

theorem signal_onward {t' f n : Nat} (h : Onward K s t) : Onward K s (signal t t' f n) := by
  unfold signal
  exact pump_onward (addFlag_onward h)

theorem wake_onward {t' : Nat} (h : Onward K s t) : Onward K s (wake t t') := by
  unfold wake
  exact noteArmed_onward (pump_onward h)

/-! ### The functions of Machine/States -/

theorem defectRec_onward {source : Nat} {bdie : Bool} {die entry : Nat} (h : Onward K s t) :
    Onward K s (defectRec t source bdie die entry) := by
  unfold defectRec
  exact queueRecord_onward h

theorem noteState_onward {v : State} (h : Onward K s t) : Onward K s (noteState v t) := by
  unfold noteState
  exact onward_ite (devEvent_onward h) h

theorem rested_onward (h : Onward K s t) : Onward K s (rested t) := by
  unfold rested
  exact onward_update (chargeAll_onward h)

theorem ends_leads {v : State} (h : Onward K s t) : Leads K s (ends v t) :=
  ⟨_, rfl, noteState_onward (rested_onward h)⟩

theorem clearMain_onward (h : Onward K s t) : Onward K s (clearMain t) := by
  have hp := portsDark_onward h
  unfold clearMain
  exact { hp with form := fun _ => List.Pairwise.nil }

theorem beginReset_onward {by' : Nat} {keepRun : Bool} (h : Onward K s t) : Onward K s (beginReset t by' keepRun) := by
  unfold beginReset
  exact onward_update (clearMain_onward h)

theorem dropJobs_onward (h : Onward K s t) : Onward K s (dropJobs t) := by
  unfold dropJobs
  exact onward_update (onward_foldl h (fun _ _ => endJob_onward))

theorem undoDiscard_onward (h : Onward K s t) : Onward K s (undoDiscard t) := by
  unfold undoDiscard
  split
  · exact onward_ite (onward_update (setEnt_onward h)) h
  · exact h

theorem enterTransit_onward {trigger transport : Nat} (h : Onward K s t) : Onward K s (enterTransit t trigger transport) := by
  unfold enterTransit
  exact logEvent_onward (setMain_onward (onward_update (dropJobs_onward (undoDiscard_onward (onward_ite
    (portsTrain_onward h) h)))))

theorem enterFaulted_onward {onPath : Bool} (h : Onward K s t) : Onward K s (enterFaulted t onPath) := by
  unfold enterFaulted
  exact setMain_onward (onward_update (dropJobs_onward (undoDiscard_onward h)))

theorem classC_onward {onPath : Bool} (h : Onward K s t) : Onward K s (classC t onPath) := by
  unfold classC
  split
  · exact beginReset_onward h
  · exact beginReset_onward h
  · exact onward_ite (onward_ite h (enterFaulted_onward h)) (onward_ite (beginReset_onward h) h)
  · exact onward_ite (enterTransit_onward h) (enterFaulted_onward h)
  · exact onward_ite (enterTransit_onward h) (enterFaulted_onward h)
  · exact h

theorem bringupFault_onward {cause : Nat} (h : Onward K s t) : Onward K s (bringupFault t cause) := by
  unfold bringupFault
  exact logEvent_onward (onward_if (setEnt_onward (onward_update (clearMain_onward h))) setEnt_onward)

theorem classD_onward {code channel : Nat} {reading : Int} {steps : Nat} (h : Onward K s t) :
    Onward K s (classD t code channel reading steps) := by
  unfold classD
  exact onward_ite h (onward_ite (logEvent_onward h) (queueRecord_onward (logEvent_onward (bump_onward (setEnt_onward
    (onward_update (clearMain_onward h)))))))

/-! ### The functions of Machine/Inventory -/

theorem setEnts_onward {l : List (Nat × Nat × Nat)} (h : Onward K s t) : Onward K s (setEnts t l) := by
  unfold setEnts
  exact onward_foldl h (fun _ _ => setEnt_onward)

theorem tileEntries_onward {b : Build} (h : Onward K s t) : Onward K s (tileEntries t b) := by
  unfold tileEntries
  exact setEnts_onward (setEnts_onward h)

theorem unitEntries_onward {b : Build} (h : Onward K s t) : Onward K s (unitEntries t b) := by
  unfold unitEntries
  exact setEnts_onward (setEnts_onward (setEnts_onward h))

/-! ### The functions of Machine/Operands -/

theorem readBuf_onward {how : How} {b : RBuf} {a : Nat} (h : Onward K s t) : Onward K s (readBuf how b t a).2.2 := by
  unfold readBuf
  dsimp only
  split
  · split
    · exact h
    · split
      · split
        · exact dropLine_onward (readWord_onward (putLine_onward h))
        · exact readWord_onward h
      · exact readWord_onward h
  · exact readWord_onward h

theorem readBytesB_onward {how : How} {k a n : Nat} {b : RBuf} (h : Onward K s t) :
    Onward K s (readBytesB how k b t a n).2.2.2 := by
  induction k generalizing t b a n with
  | zero =>
    unfold readBytesB
    exact h
  | succ k ih =>
    unfold readBytesB
    split
    · exact h
    · dsimp only
      split
      · exact ih (onward_of_snd_snd ‹_› (readBuf_onward h))
      · exact onward_of_snd_snd ‹_› (readBuf_onward h)
      · exact onward_of_snd_snd ‹_› (readBuf_onward h)

theorem readBytes_onward {how : How} {fuel a n : Nat} (h : Onward K s t) : Onward K s (readBytes how fuel t a n).2.2 := by
  unfold readBytes
  exact readBytesB_onward h

theorem readElemB_onward {j : Job} {how : How} {b : RBuf} {ba w : Nat} (h : Onward K s t) :
    Onward K s (readElemB t j how b ba w).2.2 := by
  unfold readElemB
  split
  · exact h
  · dsimp only
    split <;> exact onward_of_snd_snd_snd ‹_› (readBytesB_onward h)

theorem readElem_onward {j : Job} {how : How} {ba w : Nat} (h : Onward K s t) : Onward K s (readElem t j how ba w).2 := by
  unfold readElem
  exact readElemB_onward h

theorem flushWord_onward {how : How} {x : PendWord} (h : Onward K s t) : Onward K s (flushWord t how x).2 := by
  unfold flushWord
  split
  · exact writePoison_onward h
  · split
    · exact writeWord_onward h
    · exact modifyWord_onward h

theorem flushWords_onward {how : How} {l : List PendWord} {bad : Bool} (h : Onward K s t) :
    Onward K s (flushWords how l bad t).2 := by
  induction l generalizing t bad with
  | nil =>
    unfold flushWords
    exact h
  | cons y r ih =>
    unfold flushWords
    split
    · exact ih (onward_of_snd ‹_› (flushWord_onward h))
    · exact onward_of_snd ‹_› (flushWord_onward h)
    · exact ih (onward_of_snd ‹_› (flushWord_onward h))

theorem flush_onward {how : How} {p : List PendWord} (h : Onward K s t) : Onward K s (flush t how p).2 := by
  unfold flush
  exact flushWords_onward h

theorem readRowB_onward {j : Job} {how : How} {g : Gen} {a m k : Nat} {b : RBuf} {acc : List (Option Nat)} (h : Onward K s t) :
    Onward K s (readRowB t j how g a m k b acc).2.2 := by
  induction k generalizing t b acc with
  | zero =>
    unfold readRowB
    exact h
  | succ k ih =>
    unfold readRowB
    dsimp only
    split
    · exact ih h
    · split
      · exact ih (onward_of_snd_snd ‹_› (readElemB_onward h))
      · exact onward_of_snd_snd ‹_› (readElemB_onward h)

theorem readRow_onward {j : Job} {how : How} {g : Gen} {a0 m n : Nat} (h : Onward K s t) :
    Onward K s (readRow t j how g a0 m n).2.2 := by
  unfold readRow
  exact readRowB_onward h

theorem flushFor_onward {t' : Nat} {how : How} {g : Gen} {m : Nat} {p : List PendWord} (h : Onward K s t) :
    Onward K s (flushFor t t' how g m p).2.2 := by
  unfold flushFor
  split
  · exact flushWords_onward h
  · exact h

/-! ### The functions of Machine/Issue -/

theorem nextWord_onward {t' : Nat} (h : Onward K s t) : Onward K s (nextWord t t') := by
  unfold nextWord
  exact onward_ite h (setTile_onward h)

theorem tileFault_onward {t' cause : Nat} (h : Onward K s t) : Onward K s (tileFault t t' cause) := by
  unfold tileFault
  split
  · exact jobFault_onward h
  · exact h

theorem issue_onward {x : Nat} {mine : Nat → Bool} {run : State → Nat → State} (h : Onward K s t)
    (hr : ∀ v w, Onward K s v → Onward K s (run v w)) : Onward K s (issue t x mine run) := by
  unfold issue
  split
  · exact h
  · exact tileFault_onward h
  · refine onward_ite h ?_
    split
    · exact tileFault_onward h
    · exact onward_ite (tileFault_onward h) (hr _ _ h)

theorem enqueue_onward {t' : Nat} {e : Engine} {c : QCmd} (h : Onward K s t) : Onward K s (enqueue t t' e c) := by
  unfold enqueue
  split
  · exact h
  · exact nextWord_onward (unquiet_onward (setTile_onward h))

theorem submit_onward {t' : Nat} {e : Engine} {w : Nat} {reads writes : List (Nat × Nat)} (h : Onward K s t) :
    Onward K s (submit t t' e w reads writes) := by
  unfold submit
  exact onward_ite (enqueue_onward h) h

/-! ### The functions of Machine/Array -/

theorem readRows_onward {x off pitch len n : Nat} (h : Onward K s t) : Onward K s (readRows t x off pitch len n).2.2 := by
  induction n with
  | zero =>
    unfold readRows
    exact h
  | succ n ih =>
    unfold readRows
    split
    · exact readBytes_onward (onward_of_snd_snd ‹_› ih)
    · exact onward_of_snd_snd ‹_› ih

theorem ldsWork_onward {t' : Nat} {c : QCmd} {j : Job} (h : Onward K s t) : Onward K s (ldsWork t' c t j).2 := by
  unfold ldsWork
  dsimp only
  split
  · exact h
  · split
    · rename_i er
      have hr := onward_of_snd_snd er (readRows_onward h)
      split
      · exact setTile_onward (onward_of_snd_snd ‹_› (onward_ite_snd_snd (readRows_onward hr) hr))
      · exact onward_of_snd_snd ‹_› (onward_ite_snd_snd (readRows_onward hr) hr)
      · exact onward_of_snd_snd ‹_› (onward_ite_snd_snd (readRows_onward hr) hr)
    · exact onward_of_snd_snd ‹_› (readRows_onward h)
    · exact onward_of_snd_snd ‹_› (readRows_onward h)

theorem deliver_onward {j : Job} {t' w m : Nat} {og : Gen} {res : List Nat} {p : List PendWord} (h : Onward K s t) :
    Onward K s (deliver t j t' w m og res p).2 := by
  unfold deliver
  dsimp only
  split
  · exact setTile_onward h
  · exact h

theorem seedRows_onward {j : Job} {x w k m : Nat} {g : Gen} (h : Onward K s t) : Onward K s (seedRows j x w g k m t).2 := by
  induction k generalizing t m with
  | zero =>
    unfold seedRows
    exact h
  | succ k ih =>
    unfold seedRows
    split
    · exact ih (setTile_onward (onward_of_snd_snd ‹_› (readRow_onward h)))
    · exact onward_of_snd_snd ‹_› (readRow_onward h)

theorem passRow_onward {j : Job} {t' m : Nat} {c : QCmd} {p : List PendWord} (h : Onward K s t) :
    Onward K s (passRow j t' m c p t).2.2 := by
  unfold passRow
  dsimp only
  split
  · rename_i er
    have hr := onward_of_snd_snd er (readRow_onward h)
    split
    · rename_i ea
      have ha := onward_of_snd_snd ea (onward_ite_snd_snd (readRow_onward hr) hr)
      split
      · split
        · exact onward_of_snd ‹_› (deliver_onward (setTile_onward ha))
        · exact onward_of_snd ‹_› (deliver_onward (setTile_onward ha))
      · exact setTile_onward ha
    · exact onward_of_snd_snd ‹_› (onward_ite_snd_snd (readRow_onward hr) hr)
  · exact onward_of_snd_snd ‹_› (readRow_onward h)

theorem passFlush_onward {t' : Nat} {p : List PendWord} {k : Work} (h : Onward K s t) :
    Onward K s (passFlush t t' p k).2.2 := by
  unfold passFlush
  exact flushWords_onward h

theorem passRows_onward {j : Job} {x k m : Nat} {c : QCmd} {p : List PendWord} (h : Onward K s t) :
    Onward K s (passRows j x c k m p t).2.2 := by
  induction k generalizing t m p with
  | zero =>
    unfold passRows
    exact passFlush_onward h
  | succ k ih =>
    unfold passRows
    split
    · exact passFlush_onward h
    · split
      · split
        · split
          · refine ih (onward_of_snd_snd ‹_› (passRow_onward (onward_of_snd_snd ‹_› ?_)))
            split
            · exact flushFor_onward (onward_of_snd_snd ‹_› (flushFor_onward h))
            · exact onward_of_snd_snd ‹_› (flushFor_onward h)
          · refine flush_onward (onward_of_snd_snd ‹_› (passRow_onward (onward_of_snd_snd ‹_› ?_)))
            split
            · exact flushFor_onward (onward_of_snd_snd ‹_› (flushFor_onward h))
            · exact onward_of_snd_snd ‹_› (flushFor_onward h)
        · refine onward_of_snd_snd ‹_› ?_
          split
          · exact flushFor_onward (onward_of_snd_snd ‹_› (flushFor_onward h))
          · exact onward_of_snd_snd ‹_› (flushFor_onward h)
      · exact onward_of_snd_snd ‹_› (flushFor_onward h)

theorem faulted_onward {bad : Bool} {cause : Nat} (h : Onward K s t) : Onward K s (faulted bad cause t).2 := by
  unfold faulted
  exact onward_ite (failedReq_onward h) h

theorem faultWith_onward {bad : Bool} {e : EAcc} (h : Onward K s t) : Onward K s (faultWith bad e t).2 := by
  unfold faultWith
  split
  · exact faulted_onward h
  · exact h

theorem passGo_onward {t' : Nat} {c : QCmd} {m : Nat} {j : Job} (h : Onward K s t) : Onward K s (passGo t' c m t j).2 := by
  unfold passGo
  dsimp only
  split
  · exact onward_if (onward_of_snd_snd ‹_› (passRows_onward h)) setTile_onward
  · exact onward_of_snd_snd ‹_› (passRows_onward h)
  · exact onward_of_snd_snd ‹_› (passRows_onward h)

theorem passWork_onward {t' : Nat} {c : QCmd} {j : Job} (h : Onward K s t) : Onward K s (passWork t' c t j).2 := by
  unfold passWork
  split
  · exact passGo_onward h
  · split
    · exact h
    · dsimp only
      split
      · split
        · exact passGo_onward (onward_of_snd ‹_› (seedRows_onward (setTile_onward h)))
        · exact onward_of_snd ‹_› (seedRows_onward (setTile_onward h))
      · exact passGo_onward (setTile_onward h)

/-! ### The functions of Machine/Selector -/

theorem topkOpenWork_onward {t' : Nat} {c : QCmd} {j : Job} (h : Onward K s t) : Onward K s (topkOpenWork t' c t j).2 := by
  unfold topkOpenWork
  dsimp only
  split
  · exact h
  · exact setTile_onward h

theorem loadEntries_onward {x a col n i : Nat} {j : Job} (h : Onward K s t) : Onward K s (loadEntries x a col j n i t).2 := by
  induction n generalizing t i with
  | zero =>
    unfold loadEntries
    exact h
  | succ n ih =>
    unfold loadEntries
    split
    · exact ih (setTile_onward (onward_of_snd ‹_› (readElem_onward h)))
    · exact onward_of_snd ‹_› (readElem_onward h)

theorem loadColumns_onward {x base k n : Nat} {j : Job} (h : Onward K s t) : Onward K s (loadColumns x base k j n t).2 := by
  induction n with
  | zero =>
    unfold loadColumns
    exact h
  | succ n ih =>
    unfold loadColumns
    split
    · split
      · split
        · exact onward_of_snd ‹_› (readElem_onward (onward_of_snd ‹_› ih))
        · exact loadEntries_onward (onward_of_snd ‹_› (readElem_onward (onward_of_snd ‹_› ih)))
      · exact onward_of_snd ‹_› (readElem_onward (onward_of_snd ‹_› ih))
    · exact ih

theorem topkLoadWork_onward {t' : Nat} {c : QCmd} {j : Job} (h : Onward K s t) : Onward K s (topkLoadWork t' c t j).2 := by
  unfold topkLoadWork
  dsimp only
  split
  · exact h
  · split
    · exact h
    · exact loadColumns_onward h

theorem topkEmitGo_onward {t' : Nat} {c : QCmd} {x : Selection} {j : Job} (h : Onward K s t) :
    Onward K s (topkEmitGo t' c x t j).2 := by
  unfold topkEmitGo
  dsimp only
  split
  · exact h
  · split
    · exact onward_ite (onward_of_snd ‹_› (flush_onward h)) (setTile_onward (onward_of_snd ‹_› (flush_onward h)))
    · exact onward_of_snd ‹_› (flush_onward h)

theorem topkEmitWork_onward {t' : Nat} {c : QCmd} {j : Job} (h : Onward K s t) : Onward K s (topkEmitWork t' c t j).2 := by
  unfold topkEmitWork
  split
  · exact h
  · split
    · exact h
    · split
      · exact h
      · split
        · exact h
        · exact topkEmitGo_onward h

theorem topkCloseWork_onward {t' : Nat} {j : Job} (h : Onward K s t) : Onward K s (topkCloseWork t' t j).2 := by
  unfold topkCloseWork
  dsimp only
  split
  · exact h
  · exact setTile_onward h

theorem topkWork_onward {t' : Nat} {c : QCmd} {j : Job} (h : Onward K s t) : Onward K s (topkWork t' c t j).2 := by
  unfold topkWork
  split
  · exact topkOpenWork_onward h
  · exact topkLoadWork_onward h
  · exact topkEmitWork_onward h
  · exact topkCloseWork_onward h

/-! ### The functions of Machine/Vector -/

theorem vecSource_onward {j : Job} {t' : Nat} {c : QCmd} {spec inc r : Nat} (h : Onward K s t) :
    Onward K s (vecSource t j t' c spec inc r).2.2 := by
  unfold vecSource
  dsimp only
  split
  · exact h
  · split
    · exact setTile_onward h
    · split
      · exact h
      · split
        · split <;> exact onward_of_snd_snd ‹_› (readRow_onward h)
        · exact h

theorem vecStore_onward {j : Job} {t' : Nat} {c : QCmd} {r : Nat} {res : List F32} {p : List PendWord} (h : Onward K s t) :
    Onward K s (vecStore t j t' c r res p).2 := by
  unfold vecStore
  dsimp only
  split
  · split <;> exact h
  · split
    · exact h
    · exact setTile_onward h

theorem vecRep_onward {j : Job} {t' : Nat} {c : QCmd} {r : Nat} {p : List PendWord} (h : Onward K s t) :
    Onward K s (vecRep t j t' c r p).2.2 := by
  unfold vecRep
  dsimp only
  split
  · rename_i ea
    have ha := onward_of_snd_snd ea (vecSource_onward h)
    split
    · rename_i eb
      have hb := onward_of_snd_snd eb (onward_ite_snd_snd (vecSource_onward ha) ha)
      split
      · rename_i ed
        have hd := onward_of_snd_snd ed (onward_ite_snd_snd (vecSource_onward hb) hb)
        split
        · exact onward_of_snd ‹_› (vecStore_onward hd)
        · exact onward_of_snd ‹_› (vecStore_onward hd)
      · exact onward_of_snd_snd ‹_› (onward_ite_snd_snd (vecSource_onward hb) hb)
    · exact onward_of_snd_snd ‹_› (onward_ite_snd_snd (vecSource_onward ha) ha)
  · exact onward_of_snd_snd ‹_› (vecSource_onward h)

theorem vecFlush_onward {t' : Nat} {p : List PendWord} {k : Work} (h : Onward K s t) : Onward K s (vecFlush t t' p k).2 := by
  unfold vecFlush
  split <;> exact onward_of_snd ‹_› (flush_onward h)

theorem vecReps_onward {j : Job} {x k r : Nat} {c : QCmd} {p : List PendWord} (h : Onward K s t) :
    Onward K s (vecReps j x c k r p t).2 := by
  induction k generalizing t r p with
  | zero =>
    unfold vecReps
    exact vecFlush_onward h
  | succ k ih =>
    unfold vecReps
    split
    · exact vecFlush_onward h
    · split
      · split
        · refine ih (onward_of_snd_snd ‹_› (vecRep_onward (onward_of_snd_snd ‹_› ?_)))
          split
          · exact flushFor_onward h
          · exact h
        · refine flush_onward (onward_of_snd_snd ‹_› (vecRep_onward (onward_of_snd_snd ‹_› ?_)))
          split
          · exact flushFor_onward h
          · exact h
      · refine onward_of_snd_snd ‹_› ?_
        split
        · exact flushFor_onward h
        · exact h

theorem vecWork_onward {t' : Nat} {c : QCmd} {j : Job} (h : Onward K s t) : Onward K s (vecWork t' c t j).2 := by
  unfold vecWork
  exact vecReps_onward h

/-! ### The functions of Machine/Reduce -/

theorem setCtx_onward {b n : Nat} {c : RedCtx} (h : Onward K s t) : Onward K s (setCtx t b n c) := by
  unfold setCtx
  exact onward_update h

theorem clearBitmaps_onward {c : RedCtx} (h : Onward K s t) : Onward K s (clearBitmaps t c) := by
  unfold clearBitmaps
  exact onward_foldl h (fun _ _ hu => writeWord_onward (writeWord_onward hu))

theorem ctxWrite_onward {b n o : Nat} {data : List Byte} (h : Onward K s t) : Onward K s (ctxWrite t b n o data) := by
  unfold ctxWrite
  exact onward_ite (logEvent_onward h) (onward_ite (onward_ite (setCtx_onward (clearBitmaps_onward h)) (setCtx_onward h))
    (onward_ite (setCtx_onward h) (logEvent_onward h)))

theorem readWords_onward {how : How} {a n : Nat} (h : Onward K s t) : Onward K s (readWords t how a n).2.2 := by
  induction n with
  | zero =>
    unfold readWords
    exact h
  | succ n ih =>
    unfold readWords
    split
    · split <;> exact onward_of_snd ‹_› (readWord_onward (onward_of_snd_snd ‹_› ih))
    · exact ih

theorem finishWord_onward {how : How} {k a slots : Nat} (h : Onward K s t) : Onward K s (finishWord t how k a slots).2 := by
  unfold finishWord
  dsimp only
  split
  · split
    · split
      · exact onward_ite (setCtx_onward (writeWord_onward (onward_of_snd_snd ‹_› (readWords_onward (onward_of_snd ‹_›
          (readWord_onward h)))))) (signal_onward (setCtx_onward (writeWord_onward (onward_of_snd_snd ‹_› (readWords_onward
          (onward_of_snd ‹_› (readWord_onward h)))))))
      · exact setCtx_onward (writeWord_onward (onward_of_snd_snd ‹_› (readWords_onward (onward_of_snd ‹_›
          (readWord_onward h)))))
    · exact onward_of_snd_snd ‹_› (readWords_onward (onward_of_snd ‹_› (readWord_onward h)))
  · exact onward_of_snd ‹_› (readWord_onward h)

theorem contribute_onward {how : How} {a cid : Nat} {d : List Byte} (h : Onward K s t) :
    Onward K s (contribute t how a cid d).2 := by
  unfold contribute
  split
  · exact bump_onward h
  · split
    · exact bump_onward h
    · dsimp only
      split
      · split
        · exact bump_onward (onward_of_snd_snd ‹_› (readWords_onward h))
        · split
          · exact finishWord_onward (writeWord_onward (writeWord_onward (onward_of_snd_snd ‹_› (readWords_onward h))))
          · exact writeWord_onward (writeWord_onward (onward_of_snd_snd ‹_› (readWords_onward h)))
      · exact onward_of_snd_snd ‹_› (readWords_onward h)

theorem reduceAt_onward {how : How} {rop cid a : Nat} {d : List Byte} (h : Onward K s t) :
    Onward K s (reduceAt t how rop cid a d).2 := by
  unfold reduceAt
  split
  · exact contribute_onward (touchModify_onward h)
  · dsimp only
    exact modifyWord_onward h

theorem flagWrite_onward {t' off : Nat} {d : List Byte} (h : Onward K s t) : Onward K s (flagWrite t t' off d) := by
  unfold flagWrite
  exact onward_ite (signal_onward h) (bump_onward h)

/-! ### The functions of Machine/Xfer -/

theorem openShared_onward {l : List Piece} (h : Onward K s t) : Onward K s (openShared l t).2 := by
  induction l generalizing t with
  | nil =>
    unfold openShared
    exact h
  | cons y r ih =>
    unfold openShared
    split
    · exact ih (drawFree_onward h)
    · exact ih h

theorem setX_onward {n : Nat} {x : Xfer} (h : Onward K s t) : Onward K s (setX t n x) := by
  unfold setX
  exact onward_update h

theorem xFault_onward {x : Xfer} {cause : Nat} (h : Onward K s t) : Onward K s (xFault t x cause) := by
  unfold xFault
  exact jobFault_onward h

theorem finishX_onward {n : Nat} {x : Xfer} (h : Onward K s t) : Onward K s (finishX t n x) := by
  unfold finishX
  split
  · exact xFault_onward (onward_of_snd ‹_› (flush_onward h))
  · dsimp only
    split
    · exact setTile_onward (onward_update (onward_of_snd ‹_› (flush_onward h)))
    · split
      · exact onward_update (onward_of_snd ‹_› (flush_onward h))
      · split <;> exact onward_update (onward_of_snd ‹_› (flush_onward h))
  · exact failedReq_onward (onward_of_snd ‹_› (flush_onward h))

theorem readPieces_onward {j : Job} {how : How} {l acc : List Piece} {b : RBuf} (h : Onward K s t) :
    Onward K s (readPieces j how l b acc t).2.2 := by
  induction l generalizing t b acc with
  | nil =>
    unfold readPieces
    exact h
  | cons y r ih =>
    unfold readPieces
    split
    · exact ih h
    · split
      · exact ih (onward_of_snd_snd ‹_› (readElemB_onward h))
      · exact onward_of_snd_snd ‹_› (readElemB_onward h)

theorem storeParts_onward {how : How} {k a : Nat} {l : List (Option (List Byte) × Nat)} (h : Onward K s t) :
    Onward K s (storeParts how k t a l).2 := by
  induction k generalizing t a l with
  | zero =>
    unfold storeParts
    exact h
  | succ k ih =>
    cases l with
    | nil =>
      unfold storeParts
      exact h
    | cons y l =>
      unfold storeParts
      dsimp only
      split
      · exact ih (writeLine_onward (onward_ite (bumpBy_onward h) h))
      · split
        · exact ih (writePoison_onward h)
        · split
          · exact ih (onward_of_snd ‹_› (writeBytes_onward h))
          · exact onward_of_snd ‹_› (writeBytes_onward h)
          · exact onward_of_snd ‹_› (writeBytes_onward h)

theorem storeFlags_onward {jb : Job} {k a : Nat} {d : List Byte} (h : Onward K s t) : Onward K s (storeFlags jb k t a d).2 := by
  induction k generalizing t a d with
  | zero =>
    unfold storeFlags
    exact h
  | succ k ih =>
    unfold storeFlags
    split
    · exact h
    · dsimp only
      split
      · split
        · exact ih (flagWrite_onward h)
        · exact h
      · exact h

theorem storeCtx_onward {jb : Job} {a : Nat} {d : List Byte} (h : Onward K s t) : Onward K s (storeCtx t jb a d).2 := by
  unfold storeCtx
  split
  · dsimp only
    split
    · exact ctxWrite_onward h
    · exact h
  · exact h

theorem storeCopy_onward {jb : Job} {how : How} {a : Nat} {ps : List (Option (List Byte) × Nat)} (h : Onward K s t) :
    Onward K s (storeCopy t jb how a ps).2 := by
  unfold storeCopy
  dsimp only
  split
  · exact h
  · split
    · split
      · exact h
      · split
        · exact storeFlags_onward h
        · exact storeCtx_onward h
    · split
      · exact h
      · exact storeParts_onward h

theorem reduceWords_onward {jb : Job} {how : How} {rop cid : Nat} {l : List (Nat × List Byte)} (h : Onward K s t) :
    Onward K s (reduceWords jb how rop cid l t).2 := by
  induction l generalizing t with
  | nil =>
    unfold reduceWords
    exact h
  | cons y r ih =>
    unfold reduceWords
    split
    · exact h
    · split
      · exact ih (onward_of_snd ‹_› (reduceAt_onward h))
      · exact onward_of_snd ‹_› (reduceAt_onward h)
      · exact onward_of_snd ‹_› (reduceAt_onward h)
      · exact onward_of_snd ‹_› (reduceAt_onward h)

theorem storeWords_onward {how : How} {lines : Bool} {k : Nat} {l : List PendWord} (h : Onward K s t) :
    Onward K s (storeWords how lines k l t) := by
  induction k generalizing t l with
  | zero =>
    unfold storeWords
    exact h
  | succ k ih =>
    cases l with
    | nil =>
      unfold storeWords
      exact h
    | cons y l =>
      unfold storeWords
      exact onward_ite (ih (writeLine_onward h)) (ih (writeWord_onward h))

theorem landPieces_onward {jb : Job} {x : Xfer} {b : List Piece} (h : Onward K s t) : Onward K s (landPieces jb x b t).2.2 := by
  unfold landPieces
  dsimp only
  split
  · split
    · exact storeCopy_onward h
    · split
      · exact openShared_onward h
      · split
        · exact reduceWords_onward (openShared_onward h)
        · exact storeWords_onward (openShared_onward h)
  · split
    · exact storeCopy_onward h
    · split
      · exact openShared_onward h
      · split
        · exact reduceWords_onward (openShared_onward h)
        · exact storeWords_onward (openShared_onward h)

theorem xEnd_onward {x : Xfer} {e : EAcc} (h : Onward K s t) : Onward K s (xEnd t x e) := by
  unfold xEnd
  dsimp only
  split
  · exact xFault_onward (onward_ite (failedReq_onward h) h)
  · exact onward_ite (failedReq_onward h) h

theorem issueReads_onward {n : Nat} {x : Xfer} {pasid : Nat} {b : List Piece} (h : Onward K s t) :
    Onward K s (issueReads t n x pasid b) := by
  unfold issueReads
  exact setX_onward (onward_foldl_fst h (fun _ _ hu => hostSend_onward (touch_onward (onward_update hu))))

theorem sendWrites_onward {x : Xfer} {pasid : Nat} {b : List Piece} (h : Onward K s t) :
    Onward K s (sendWrites t x pasid b) := by
  unfold sendWrites
  exact onward_ite (onward_foldl h (fun _ _ hu => hostSend_onward (touch_onward hu))) (onward_update (onward_foldl h
    (fun _ _ hu => hostSend_onward (touch_onward hu))))

theorem askPages_onward {n : Nat} {x : Xfer} {pasid : Nat} {missing : List Nat} (h : Onward K s t) :
    Onward K s (askPages t n x pasid missing) := by
  unfold askPages
  exact hostSend_onward (bump_onward (setX_onward h))

theorem confirmRead_onward {n : Nat} {x : Xfer} {pasid : Nat} (h : Onward K s t) : Onward K s (confirmRead t n x pasid) := by
  unfold confirmRead
  exact hostSend_onward (setX_onward (onward_update h))

theorem hostGo_onward {k n : Nat} (h : Onward K s t) : Onward K s (hostGo k t n) := by
  induction k generalizing t with
  | zero =>
    unfold hostGo
    exact h
  | succ k ih =>
    unfold hostGo
    split
    · exact h
    · split
      · exact h
      · exact onward_ite (xFault_onward h) (onward_ite (onward_ite (askPages_onward h) (confirmRead_onward h))
          (finishX_onward h))
      · refine onward_ite h (onward_ite (xFault_onward h) (onward_ite (xFault_onward h) (onward_ite (askPages_onward h)
          (onward_ite (issueReads_onward h) ?_))))
        split
        · exact ih (setX_onward (sendWrites_onward (openShared_onward (onward_of_snd_snd ‹_› (readPieces_onward h)))))
        · exact xEnd_onward (onward_of_snd_snd ‹_› (readPieces_onward h))

theorem hostStart_onward {paid : Bool} {n : Nat} (h : Onward K s t) : Onward K s (hostStart t paid n) := by
  unfold hostStart
  split
  · exact h
  · exact onward_ite h (wholeOr_onward h (fun _ => hostGo_onward))

theorem hostPut_onward {n : Nat} (h : Onward K s t) : Onward K s (hostPut t n) := by
  unfold hostPut
  split
  · exact h
  · split
    · refine onward_ite (setX_onward h) ?_
      split
      · exact setX_onward (onward_of_snd_snd ‹_› (landPieces_onward h))
      · exact xEnd_onward (onward_of_snd_snd ‹_› (landPieces_onward h))
    · exact h

theorem hostLand_onward {paid : Bool} {n : Nat} (h : Onward K s t) : Onward K s (hostLand t paid n) := by
  unfold hostLand
  dsimp only
  split
  · exact onward_ite (onward_ite h (wholeOr_onward h (fun _ => hostPut_onward))) (hostStart_onward (onward_ite h
      (wholeOr_onward h (fun _ => hostPut_onward))))
  · exact onward_ite h (wholeOr_onward h (fun _ => hostPut_onward))

theorem hostReadDone_onward {tag : Nat} {ok : Bool} {data : List Byte} (h : Onward K s t) :
    Onward K s (hostReadDone t tag ok data) := by
  unfold hostReadDone
  split
  · exact h
  · refine onward_ite (settleFault_onward (onward_update h)) ?_
    split
    · exact onward_update h
    · exact onward_ite (xFault_onward (onward_update h)) (onward_if (setX_onward (onward_update h)) hostLand_onward)

theorem xRequest_onward {n : Nat} {x : Xfer} {op faddr cls addr len args : Nat} {payload : List Byte} {k : Nat}
    (h : Onward K s t) : Onward K s (xRequest t n x op faddr cls addr len args payload k) := by
  unfold xRequest
  exact sendRequest_onward (touch_onward h)

theorem remoteOut_onward {n faddr cls : Nat} {jb : Job} {l : List (List Piece × Nat)} {x : Xfer} (h : Onward K s t) :
    Onward K s (remoteOut n faddr cls jb l x t) := by
  induction l generalizing t x with
  | nil =>
    unfold remoteOut
    exact onward_ite (finishX_onward h) (setX_onward h)
  | cons y r ih =>
    unfold remoteOut
    split
    · exact ih h
    · refine onward_ite (ih h) (onward_ite (ih (xRequest_onward h)) ?_)
      split
      · refine ih ?_
        split <;> exact xRequest_onward (openShared_onward (onward_of_snd_snd ‹_› (readPieces_onward h)))
      · exact xEnd_onward (onward_of_snd_snd ‹_› (readPieces_onward h))

theorem remoteIn_onward {n faddr cls : Nat} {l : List (List Piece × Nat)} {x : Xfer} (h : Onward K s t) :
    Onward K s (remoteIn n x faddr cls l t) := by
  induction l generalizing t with
  | nil =>
    unfold remoteIn
    exact h
  | cons y r ih =>
    unfold remoteIn
    split
    · exact ih (xRequest_onward h)
    · exact ih h

theorem remoteStart_onward {n : Nat} (h : Onward K s t) : Onward K s (remoteStart t n) := by
  unfold remoteStart
  split
  · exact h
  · split
    · exact onward_ite (xFault_onward h) (onward_ite (finishX_onward h) (onward_ite (remoteIn_onward h) (remoteOut_onward h)))
    · exact h

theorem remoteLand_onward {n k : Nat} {data : List Byte} (h : Onward K s t) : Onward K s (remoteLand t n k data) := by
  unfold remoteLand
  split
  · exact h
  · split
    · refine onward_ite (remoteOut_onward h) ?_
      split
      · exact onward_if (setX_onward (onward_of_snd_snd ‹_› (landPieces_onward h))) finishX_onward
      · exact xEnd_onward (onward_of_snd_snd ‹_› (landPieces_onward h))
    · exact h

theorem newXfer_onward {x : Xfer} (h : Onward K s t) : Onward K s (newXfer t x).2 := by
  unfold newXfer
  exact onward_update (setX_onward h)

theorem xGo_onward {paid : Bool} {n : Nat} (h : Onward K s t) : Onward K s (xGo t paid n) := by
  unfold xGo
  split
  · exact onward_ite (onward_ite h (wholeOr_onward h (fun _ => remoteStart_onward))) (hostStart_onward h)
  · exact h

theorem fabricLand_onward {paid : Bool} {n k : Nat} {data : List Byte} (h : Onward K s t) :
    Onward K s (fabricLand t paid n k data) := by
  unfold fabricLand
  exact wholeOr_onward h (fun _ => remoteLand_onward)

theorem remoteMore_onward {n : Nat} (h : Onward K s t) : Onward K s (remoteMore t n) := by
  unfold remoteMore
  split
  · exact onward_ite (xGo_onward h) h
  · exact h

/-! ### The functions of Machine/Move -/

theorem copyEls_onward {j : Job} {how : How} {w : Nat} {fixed : Bool} {clash : CopyEl → Bool} {l : List CopyEl} {b : RBuf}
    {p : List PendWord} {bad : Bool} (h : Onward K s t) : Onward K s (copyEls j how w fixed clash l b p bad t).2 := by
  induction l generalizing t b p bad with
  | nil =>
    unfold copyEls
    split
    · exact onward_of_snd ‹_› (flush_onward h)
    · exact faultWith_onward (onward_of_snd ‹_› (flush_onward h))
  | cons e r ih =>
    have put : ∀ {v : State} {q : RBuf} {x d : Nat} {poison bad : Bool}, Onward K s v →
        Onward K s (match stageElem v j how p d w x poison with
          | some p => copyEls j how w fixed clash r q p bad v
          | none => faulted bad 0x25 (flush v how p).2).2 := fun hv => by
      split
      · exact ih hv
      · exact faulted_onward (flush_onward hv)
    obtain ⟨a, d⟩ := e
    unfold copyEls
    cases a with
    | none =>
      cases clash (none, d) <;> cases fixed
      · exact put h
      · exact put h
      · exact put (drawFree_onward h)
      · exact put h
    | some a =>
      have hu : Onward K s (readElemB t j how b a w).2.2 := readElemB_onward h
      dsimp only
      generalize readElemB t j how b a w = x at hu
      obtain ⟨v, q, u⟩ := x
      cases v with
      | val v =>
        cases clash (some a, d) <;> cases fixed
        · exact put hu
        · exact put hu
        · exact put (drawFree_onward hu)
        · exact put hu
      | poison => exact put hu
      | failed => exact put hu
      | outside => exact faultWith_onward (flush_onward hu)
      | context => exact faultWith_onward (flush_onward hu)

theorem moveXfer_onward {t' : Nat} {c : QCmd} {toDev : Bool} {remote : Option (Nat × Nat)} {how : How} {ps : List Piece}
    (h : Onward K s t) : Onward K s (moveXfer t t' c toDev remote how ps).2 := by
  unfold moveXfer
  exact newXfer_onward h

theorem moveWork_onward {t' : Nat} {c : QCmd} {j : Job} (h : Onward K s t) : Onward K s (moveWork t' c t j).2 := by
  unfold moveWork
  dsimp only
  split
  · exact copyEls_onward h
  · split
    · split
      · exact moveXfer_onward (onward_of_snd ‹_› (copyEls_onward h))
      · exact copyEls_onward h
    · exact moveXfer_onward h

theorem movexWork_onward {t' : Nat} {c : QCmd} {j : Job} (h : Onward K s t) : Onward K s (movexWork t' c t j).2 := by
  unfold movexWork
  exact copyEls_onward h

theorem takeAll_onward {j : Job} {how : How} {g : Gen} {a k n : Nat} {b : RBuf} {acc : List EAcc} (h : Onward K s t) :
    Onward K s (takeAll j how g a k n b acc t).2.2 := by
  induction k generalizing t n b acc with
  | zero =>
    unfold takeAll
    exact h
  | succ k ih =>
    unfold takeAll
    dsimp only
    split
    · exact ih h
    · split
      · exact onward_of_snd_snd ‹_› (readElemB_onward h)
      · exact ih (onward_of_snd_snd ‹_› (readElemB_onward h))

theorem indices_onward {j : Job} {how : How} {t' w : Nat} {ig : Gen} (h : Onward K s t) :
    Onward K s (indices t j how t' w ig).2.2 := by
  unfold indices
  split
  · exact h
  · exact takeAll_onward h

theorem rowWords_onward {j : Job} {how : How} {a k n : Nat} {acc : List (Option (List Byte))} {bad : Bool} (h : Onward K s t) :
    Onward K s (rowWords j how a k n acc bad t).2.2.2 := by
  induction k generalizing t n acc bad with
  | zero =>
    unfold rowWords
    exact h
  | succ k ih =>
    unfold rowWords
    dsimp only
    split
    · exact h
    · split <;> exact ih (onward_of_snd ‹_› (readWord_onward h))

theorem putRow_onward {j : Job} {how : How} {g : Gen} {a k n o : Nat} {ws : List (Option (List Byte))} {p : List PendWord}
    (h : Onward K s t) : Onward K s (putRow j how g a ws k n o p t).2 := by
  induction k generalizing t n o p with
  | zero =>
    unfold putRow
    exact flush_onward h
  | succ k ih =>
    unfold putRow
    dsimp only
    split
    · exact ih h
    · split
      · exact ih h
      · exact flush_onward h

theorem gatherRows_onward {x w : Nat} {j : Job} {how : How} {l : List EAcc} {bad : Bool} {acc : List (Option (List Byte))}
    (h : Onward K s t) : Onward K s (gatherRows x w j how l bad acc t).2.2.2 := by
  induction l generalizing t bad acc with
  | nil =>
    unfold gatherRows
    exact h
  | cons y r ih =>
    cases y with
    | val y =>
      unfold gatherRows
      dsimp only
      split
      · exact ih h
      · split
        · exact ih (onward_of_snd_snd_snd ‹_› (rowWords_onward h))
        · exact onward_of_snd_snd_snd ‹_› (rowWords_onward h)
    | _ =>
      unfold gatherRows
      exact h

theorem gatherWork_onward {t' : Nat} {c : QCmd} {j : Job} (h : Onward K s t) : Onward K s (gatherWork t' c t j).2 := by
  unfold gatherWork
  dsimp only
  split
  · exact h
  · split
    · split
      · split
        · exact onward_of_snd ‹_› (putRow_onward (onward_of_snd_snd_snd ‹_› (gatherRows_onward (onward_of_snd_snd ‹_›
            (indices_onward h)))))
        · exact faultWith_onward (onward_of_snd ‹_› (putRow_onward (onward_of_snd_snd_snd ‹_› (gatherRows_onward
            (onward_of_snd_snd ‹_› (indices_onward h))))))
      · exact faultWith_onward (onward_of_snd_snd_snd ‹_› (gatherRows_onward (onward_of_snd_snd ‹_› (indices_onward h))))
    · exact onward_of_snd_snd ‹_› (indices_onward h)

theorem scatterRow_onward {j : Job} {how : How} {rop cid a v k : Nat} (h : Onward K s t) :
    Onward K s (scatterRow j how rop cid a v k t).2 := by
  induction k with
  | zero =>
    unfold scatterRow
    exact h
  | succ k ih =>
    unfold scatterRow
    split
    · exact onward_of_snd ‹_› ih
    · dsimp only
      split
      · exact faulted_onward (onward_of_snd ‹_› ih)
      · split
        · exact onward_of_snd ‹_› (reduceAt_onward (onward_of_snd ‹_› ih))
        · exact onward_of_snd ‹_› (reduceAt_onward (onward_of_snd ‹_› ih))
        · exact faulted_onward (onward_of_snd ‹_› (reduceAt_onward (onward_of_snd ‹_› ih)))
        · exact onward_of_snd ‹_› (reduceAt_onward (onward_of_snd ‹_› ih))

theorem scatterRows_onward {x w i width : Nat} {j : Job} {els l : List EAcc} {how : How} {bad : Bool} (h : Onward K s t) :
    Onward K s (scatterRows x w j width els how l i bad t).2 := by
  induction l generalizing t i bad with
  | nil =>
    unfold scatterRows
    exact h
  | cons y r ih =>
    cases y with
    | val y =>
      unfold scatterRows
      split
      · exact ih h
      · split
        · split
          · exact ih (onward_of_snd ‹_› (scatterRow_onward h))
          · exact ih (onward_of_snd ‹_› (scatterRow_onward h))
          · exact faulted_onward (onward_of_snd ‹_› (scatterRow_onward h))
          · exact scatterRow_onward h
        · exact ih h
        · exact faultWith_onward h
    | _ =>
      unfold scatterRows
      exact faultWith_onward h

theorem scatterWork_onward {t' : Nat} {c : QCmd} {j : Job} (h : Onward K s t) : Onward K s (scatterWork t' c t j).2 := by
  unfold scatterWork
  dsimp only
  split
  · exact h
  · split
    · split
      · exact scatterRows_onward (onward_of_snd_snd ‹_› (takeAll_onward (onward_of_snd_snd ‹_› (indices_onward h))))
      · exact onward_of_snd_snd ‹_› (takeAll_onward (onward_of_snd_snd ‹_› (indices_onward h)))
    · exact onward_of_snd_snd ‹_› (indices_onward h)

theorem moverWork_onward {t' : Nat} {c : QCmd} {j : Job} (h : Onward K s t) : Onward K s (moverWork t' c t j).2 := by
  unfold moverWork
  split
  · exact moveWork_onward h
  · exact movexWork_onward h
  · exact gatherWork_onward h
  · exact scatterWork_onward h

/-! ### The functions of Machine/Engines -/

theorem raiseSig_onward {t' w idx : Nat} (h : Onward K s t) : Onward K s (raiseSig t t' w idx) := by
  unfold raiseSig
  split
  · exact h
  · refine onward_ite ?_ (signal_onward h)
    split
    · exact onward_of_snd ‹_› (remoteSignal_onward h)
    · exact jobFault_onward (onward_of_snd ‹_› (remoteSignal_onward h))

theorem sigRun_onward {k x : Nat} {e : Engine} (h : Onward K s t) : Onward K s (sigRun k t x e) := by
  induction k generalizing t with
  | zero =>
    unfold sigRun
    exact h
  | succ k ih =>
    unfold sigRun
    split
    · exact onward_ite (ih (raiseSig_onward (setTile_onward h))) h
    · exact h

theorem engineWork_onward {e : Engine} {t' : Nat} {c : QCmd} {j : Job} (h : Onward K s t) :
    Onward K s (engineWork e t' c t j).2 := by
  unfold engineWork
  split
  · split
    · exact ldsWork_onward h
    · exact passWork_onward h
  · exact topkWork_onward h
  · exact vecWork_onward h
  · exact moverWork_onward h

theorem putEntry_onward {t' : Nat} {e : Engine} {c : QCmd} (h : Onward K s t) : Onward K s (putEntry t t' e c) := by
  unfold putEntry
  exact setTile_onward h

theorem vecSince_onward {t' : Nat} {e : Engine} {at' : Option Nat} (h : Onward K s t) : Onward K s (vecSince t t' e at') := by
  unfold vecSince
  exact onward_ite (setTile_onward h) h

theorem engineEnd_onward {v : State} {x j : Nat} {e : Engine} {c : QCmd} {r : Work} (hs : Onward K s t) (h : Onward K s v) :
    Onward K s (engineEnd t v x e j c r).2 := by
  unfold engineEnd
  split
  · exact vecSince_onward (putEntry_onward h)
  · split
    · exact hs
    · exact vecSince_onward (putEntry_onward h)
  · exact xGo_onward (putEntry_onward h)
  · exact jobFault_onward (onward_ite (failedReq_onward h) h)
  · exact failedReq_onward (putEntry_onward h)

theorem engineWaits_onward {t' : Nat} {e : Engine} (h : Onward K s t) : Onward K s (engineWaits t t' e) := by
  unfold engineWaits
  exact onward_ite h (vecSince_onward h)

theorem engineStep_onward {t' : Nat} {e : Engine} (h : Onward K s t) : Onward K s (engineStep t t' e).2 := by
  unfold engineStep
  split
  · split
    · exact h
    · dsimp only
      split
      · exact engineEnd_onward h (admitWork_some_onward (engineWork_onward h) ‹_›)
      · exact engineWaits_onward (onward_of_snd ‹_› (admitWork_onward h))
  · exact h

theorem enginesRun_onward {k x : Nat} (h : Onward K s t) : Onward K s (enginesRun k t x) := by
  induction k generalizing t with
  | zero =>
    unfold enginesRun
    exact h
  | succ k ih =>
    unfold enginesRun
    exact onward_if (engineStep_onward (engineStep_onward (engineStep_onward (engineStep_onward h)))) ih

theorem enginesGo_onward {t' : Nat} (h : Onward K s t) : Onward K s (enginesGo t t') := by
  unfold enginesGo
  exact enginesRun_onward h

theorem enginesAll_onward (h : Onward K s t) : Onward K s (enginesAll t) := by
  unfold enginesAll
  exact onward_foldl h (fun _ _ => enginesGo_onward)

/-! ### The functions of Machine/Order -/

theorem inTurn_onward {r : HeldReq} {f : State → State} (h : Onward K s t) (hf : ∀ v, Onward K s v → Onward K s (f v)) :
    Onward K s (inTurn t r f) := by
  unfold inTurn
  exact onward_ite (onward_update h) (wholeOr_onward h (fun _ => hf _))

/-! ### The functions of Machine/FabricCmds -/

theorem settleStream_onward {dst : Nat} (h : Onward K s t) : Onward K s (settleStream t dst) := by
  unfold settleStream
  exact onward_ite (drainWaiting_onward h) (releaseStream_onward h)

theorem dropReq_onward {tag : Nat} (h : Onward K s t) : Onward K s (dropReq t tag) := by
  unfold dropReq
  exact onward_update h

theorem markBad_onward {r : FReq} (h : Onward K s t) : Onward K s (markBad t r) := by
  unfold markBad
  exact onward_ite (onward_update h) h

theorem failReq_onward {tag : Nat} {r : FReq} {status : Nat} (h : Onward K s t) : Onward K s (failReq t tag r status) := by
  unfold failReq
  exact settleStream_onward (requestFailed_onward (onward_if (markBad_onward (dropReq_onward h)) onward_update))

theorem gotResponse_onward {tag status : Nat} {data : List Byte} (h : Onward K s t) :
    Onward K s (gotResponse t tag status data) := by
  unfold gotResponse
  split
  · exact h
  · refine onward_ite h (onward_ite (settleFault_onward (settleStream_onward (dropReq_onward h))) (settleFault_onward
      (onward_ite (settleStream_onward ?_) (onward_ite (onward_update h) (failReq_onward h)))))
    split
    · exact onward_ite (fabricLand_onward (dropReq_onward h)) (remoteMore_onward (dropReq_onward h))
    · exact dropReq_onward h

theorem answerDropped_onward {pk : Packet} {status : Nat} (h : Onward K s t) : Onward K s (answerDropped t pk status) := by
  unfold answerDropped
  exact onward_ite h (onward_ite (gotResponse_onward h) (onward_ite (refuseMgmt_onward h) (answer_onward h)))

theorem dropHeld_onward {hr : HeldPk} (h : Onward K s t) : Onward K s (dropHeld t hr) := by
  unfold dropHeld
  exact answerDropped_onward (giveCredit_onward (bump_onward h))

theorem reroute_onward (h : Onward K s t) : Onward K s (reroute t) := by
  unfold reroute
  refine onward_foldl (onward_update h) (fun _ _ hu => onward_ite (dropHeld_onward hu) (onward_ite (giveCredit_onward
    (onward_send hu)) (onward_ite (answerDropped_onward (giveCredit_onward (bump_onward hu))) ?_)))
  split
  · exact onward_ite (onward_update hu) (emitWait_onward hu)
  · exact onward_update hu

theorem txGo_onward {p : Nat} (h : Onward K s t) : Onward K s (txGo t p) := by
  unfold txGo
  exact onward_ite h (onward_foldl (setPort_onward h) (fun _ _ hu => onward_ite (answerDropped_onward (giveCredit_onward
    (bump_onward hu))) (emitWait_onward hu)))

theorem holdQueued_onward {p : Nat} (h : Onward K s t) : Onward K s (holdQueued t p) := by
  unfold holdQueued
  exact onward_ite (onward_foldl (setPort_onward h) (fun _ _ hu => onward_ite (giveCredit_onward (bump_onward hu))
    (onward_ite hu (holdWait_onward hu)))) (reroute_onward (onward_foldl (setPort_onward h) (fun _ _ hu => onward_ite
    (giveCredit_onward (bump_onward hu)) (onward_ite hu (holdWait_onward hu)))))

theorem execHoldExpiry_leads {n : Nat} (h : Onward K s t) : Leads K s (execHoldExpiry n t) := by
  unfold execHoldExpiry
  refine ends_leads ?_
  split
  · exact dropHeld_onward (onward_update (advance_onward h))
  · exact h

theorem leaveService_onward {p : Nat} (h : Onward K s t) : Onward K s (leaveService t p) := by
  unfold leaveService
  exact holdQueued_onward (portChanged_onward (bump_onward (setPort_onward h)))

theorem execPortBerWindow_leads {p lane errs bits : Nat} (h : Onward K s t) :
    Leads K s (execPortBerWindow p lane errs bits t) := by
  unfold execPortBerWindow
  exact ends_leads (onward_ite (leaveService_onward h) h)

theorem execPortLossOfSignal_leads {p : Nat} (h : Onward K s t) : Leads K s (execPortLossOfSignal p t) := by
  unfold execPortLossOfSignal
  exact ends_leads (onward_ite (leaveService_onward h) h)

theorem replayAll_onward {p : Nat} (h : Onward K s t) : Onward K s (replayAll t p) := by
  unfold replayAll
  exact onward_foldl h (fun _ _ => sendFlit_onward)

theorem trainingDone_onward {p : Nat} {lanes : List (Nat × Nat)} {peer : LinkPeer} (h : Onward K s t) :
    Onward K s (trainingDone t p lanes peer) := by
  unfold trainingDone
  exact onward_ite (setPort_onward h) (txGo_onward (reroute_onward (portChanged_onward (onward_if
    (setPort_onward h) replayAll_onward))))

theorem execPortTrainingDone_leads {p : Nat} {lanes : List (Nat × Nat)} {peer : LinkPeer} (h : Onward K s t) :
    Leads K s (execPortTrainingDone p lanes peer t) := by
  unfold execPortTrainingDone
  exact ends_leads (onward_ite (trainingDone_onward h) h)

theorem execPortTrainRetry_leads {p : Nat} (h : Onward K s t) : Leads K s (execPortTrainRetry p t) := by
  unfold execPortTrainRetry
  refine ends_leads ?_
  split
  · exact setPort_onward (advance_onward h)
  · exact h

theorem flitFailed_onward {p : Nat} {counts : Bool} (h : Onward K s t) : Onward K s (flitFailed t p counts) := by
  unfold flitFailed
  exact onward_ite (leaveService_onward (setPort_onward h)) (sendIdle_onward (setPort_onward h))

theorem flitControl_onward {p f : Nat} (h : Onward K s t) : Onward K s (flitControl t p f) := by
  unfold flitControl
  exact onward_if (setPort_onward h) (fun h => bump_onward (replayAll_onward h))

theorem flitIn_onward {p : Nat} {fecOk : Bool} {f : Nat} (h : Onward K s t) : Onward K s (flitIn t p fecOk f) := by
  unfold flitIn
  have h1 : Onward K s (txGo (flitControl t p f) p) := txGo_onward (flitControl_onward h)
  exact onward_ite (flitFailed_onward h) (onward_ite h1 (onward_ite (flitFailed_onward h1) (onward_ite (flitFailed_onward h1)
    (onward_ite (flitFailed_onward h1) (sendIdle_onward (setPort_onward h1))))))

theorem execFlitReceive_leads {p : Nat} {fecOk : Bool} {flit : BitVec 2048} (h : Onward K s t) :
    Leads K s (execFlitReceive p fecOk flit t) := by
  unfold execFlitReceive
  exact ends_leads (onward_ite (flitIn_onward h) h)

theorem sendHello_onward {p : Nat} (h : Onward K s t) : Onward K s (sendHello t p) := by
  unfold sendHello
  exact emit_onward (setPort_onward (drawFree_onward h))

theorem execHelloSend_leads {p : Nat} (h : Onward K s t) : Leads K s (execHelloSend p t) := by
  unfold execHelloSend
  refine ends_leads (onward_ite ?_ h)
  split
  · exact sendHello_onward (onward_ite (advance_onward h) h)
  · exact sendHello_onward h

theorem helloIn_onward {p : Nat} {pk : Packet} (h : Onward K s t) : Onward K s (helloIn t p pk) := by
  unfold helloIn
  exact onward_ite (bump_onward h) (onward_ite (bump_onward h) (onward_ite (setPort_onward h) (notify_onward (logEvent_onward
    (setPort_onward h)))))

theorem execHello_leads {p : Nat} {pk : Packet} (h : Onward K s t) : Leads K s (execHello p pk t) := by
  unfold execHello
  exact ends_leads (onward_ite (helloIn_onward (giveCredit_onward h)) h)

theorem ageDrop_onward {p : Nat} {pk : Packet} (h : Onward K s t) : Onward K s (ageDrop t p pk) := by
  unfold ageDrop
  exact onward_ite (onward_if (bump_onward h) refuseMgmt_onward) (answerDropped_onward (bump_onward h))

theorem forwardSourced_onward {p us : Nat} {pk : Packet} (h : Onward K s t) : Onward K s (forwardSourced t p us pk) := by
  unfold forwardSourced
  exact onward_ite (giveCredit_onward (bump_onward h)) (onward_ite h (onward_ite (ageDrop_onward (giveCredit_onward h))
    (onward_ite (giveCredit_onward (bump_onward h)) (sendSourced_onward h))))

theorem forward_onward {p us : Nat} {pk : Packet} (h : Onward K s t) : Onward K s (forward t p us pk) := by
  unfold forward
  refine onward_ite (giveCredit_onward (bump_onward h)) (onward_ite (giveCredit_onward (bump_onward h)) (onward_ite
    (giveCredit_onward h) (onward_ite (onward_ite (giveCredit_onward (bump_onward h)) (onward_ite (giveCredit_onward
    (bump_onward h)) (forwardSourced_onward h))) (onward_ite (giveCredit_onward h) (onward_ite (ageDrop_onward
    (giveCredit_onward h)) ?_)))))
  split
  · exact routePacket_onward h ‹_›
  · exact answerDropped_onward (giveCredit_onward (bump_onward h))

theorem execPacketForward_leads {p : Nat} {pk : Packet} {us : Nat} (h : Onward K s t) :
    Leads K s (execPacketForward p pk us t) := by
  unfold execPacketForward
  exact ends_leads (onward_ite (forward_onward h) h)

theorem streamCheck_onward {pk : Packet} (h : Onward K s t) : Onward K s (streamCheck t pk).2 := by
  unfold streamCheck
  dsimp only
  split
  · exact h
  · split
    · exact onward_update h
    · split
      · exact bump_onward h
      · split
        · exact onward_update h
        · exact onward_if (bump_onward (onward_update h)) (fun h => classB_onward (logEvent_onward h))

theorem putWords_onward {how : How} {k a : Nat} {d : List Byte} (h : Onward K s t) : Onward K s (putWords how k t a d).2 := by
  induction k generalizing t a d with
  | zero =>
    unfold putWords
    exact h
  | succ k ih =>
    unfold putWords
    split
    · exact h
    · split
      · exact ih (writeLine_onward h)
      · dsimp only
        split
        · exact ih (onward_of_snd ‹_› (writeBytes_onward h))
        · exact onward_of_snd ‹_› (writeBytes_onward h)

theorem redWords_onward {how : How} {rop cid k a : Nat} {d : List Byte} (h : Onward K s t) :
    Onward K s (redWords how rop cid k t a d).2 := by
  induction k generalizing t a d with
  | zero =>
    unfold redWords
    exact h
  | succ k ih =>
    unfold redWords
    split
    · exact h
    · split
      · exact ih (onward_of_snd ‹_› (reduceAt_onward h))
      · exact onward_of_snd ‹_› (reduceAt_onward h)

theorem answerAs_onward {pk : Packet} {r : CRes} (h : Onward K s t) : Onward K s (answerAs t pk r) := by
  unfold answerAs
  exact answer_onward (onward_ite (failedReq_onward h) h)

theorem performReq_onward {p : Nat} {pk : Packet} (h : Onward K s t) : Onward K s (performReq t p pk) := by
  unfold performReq
  dsimp only
  split
  · exact answerAs_onward (onward_if (onward_of_snd ‹_› (fromBuffer_onward h)) writePoison_onward)
  · split
    · exact answerAs_onward (putWords_onward (onward_of_snd ‹_› (fromBuffer_onward h)))
    · split
      · exact respond_onward (onward_of_snd_snd ‹_› (readBytes_onward (onward_of_snd ‹_› (fromBuffer_onward h))))
      · exact answerAs_onward (onward_of_snd_snd ‹_› (readBytes_onward (onward_of_snd ‹_› (fromBuffer_onward h))))
      · exact answerAs_onward (onward_of_snd_snd ‹_› (readBytes_onward (onward_of_snd ‹_› (fromBuffer_onward h))))
    · exact answerAs_onward (redWords_onward (onward_of_snd ‹_› (fromBuffer_onward h)))

theorem dropSignal_onward {pk : Packet} (h : Onward K s t) : Onward K s (dropSignal t pk) := by
  unfold dropSignal
  exact logEvent_onward (bump_onward h)

theorem performSignal_onward {pk : Packet} (h : Onward K s t) : Onward K s (performSignal t pk) := by
  unfold performSignal
  exact onward_ite (answer_onward (dropSignal_onward h)) (answer_onward (onward_ite (signal_onward h) (dropSignal_onward h)))

theorem requestIn_onward {p : Nat} {pk : Packet} (h : Onward K s t) : Onward K s (requestIn t p pk) := by
  unfold requestIn
  refine onward_ite (ageDrop_onward h) (onward_ite (answer_onward (bump_onward h)) (onward_ite (answer_onward (onward_ite
    (dropSignal_onward h) h)) ?_))
  split
  · exact answer_onward (onward_of_snd ‹_› (streamCheck_onward h))
  · exact onward_ite (inTurn_onward (onward_of_snd ‹_› (streamCheck_onward h)) (fun _ => performSignal_onward)) (onward_ite
      (inTurn_onward (onward_of_snd ‹_› (streamCheck_onward h)) (fun _ => performReq_onward)) (answer_onward (bump_onward
      (onward_of_snd ‹_› (streamCheck_onward h)))))

theorem execFabWrite_leads {p : Nat} {pk : Packet} (h : Onward K s t) : Leads K s (execFabWrite p pk t) := by
  unfold execFabWrite
  exact ends_leads (onward_ite (requestIn_onward (giveCredit_onward h)) h)

theorem execFabRead_leads {p : Nat} {pk : Packet} (h : Onward K s t) : Leads K s (execFabRead p pk t) := by
  unfold execFabRead
  exact ends_leads (onward_ite (requestIn_onward (giveCredit_onward h)) h)

theorem execFabReduce_leads {p : Nat} {pk : Packet} (h : Onward K s t) : Leads K s (execFabReduce p pk t) := by
  unfold execFabReduce
  exact ends_leads (onward_ite (requestIn_onward (giveCredit_onward h)) h)

theorem execFabSignal_leads {p : Nat} {pk : Packet} (h : Onward K s t) : Leads K s (execFabSignal p pk t) := by
  unfold execFabSignal
  exact ends_leads (onward_ite (requestIn_onward (giveCredit_onward h)) h)

theorem execHcrcOrReservedOpPacket_leads {p : Nat} {pk : Packet} (h : Onward K s t) :
    Leads K s (execHcrcOrReservedOpPacket p pk t) := by
  unfold execHcrcOrReservedOpPacket
  exact ends_leads (onward_ite h (onward_ite (giveCredit_onward (bump_onward h)) (onward_ite (giveCredit_onward
    (bump_onward h)) h)))

theorem responseIn_onward {p : Nat} {pk : Packet} (h : Onward K s t) : Onward K s (responseIn t p pk) := by
  unfold responseIn
  refine onward_ite (bump_onward h) (onward_ite (bump_onward h) ?_)
  split
  · exact gotResponse_onward (onward_of_snd ‹_› (fromBuffer_onward h))
  · exact gotResponse_onward (failedReq_onward (onward_of_snd ‹_› (fromBuffer_onward h)))

theorem execAck_leads {p : Nat} {pk : Packet} (h : Onward K s t) : Leads K s (execAck p pk t) := by
  unfold execAck
  exact ends_leads (onward_ite (enginesAll_onward (responseIn_onward (giveCredit_onward h))) h)

theorem execReadData_leads {p : Nat} {pk : Packet} (h : Onward K s t) : Leads K s (execReadData p pk t) := by
  unfold execReadData
  exact ends_leads (onward_ite (enginesAll_onward (responseIn_onward (giveCredit_onward h))) h)

theorem abandonResync_onward {dst : Nat} (h : Onward K s t) : Onward K s (abandonResync t dst) := by
  unfold abandonResync
  exact releaseStream_onward (onward_update h)

theorem execFabResyncResend_leads {dst : Nat} (h : Onward K s t) : Leads K s (execFabResyncResend dst t) := by
  unfold execFabResyncResend
  exact ends_leads (onward_ite (onward_ite (abandonResync_onward h) (resend_onward h)) h)

theorem reqTimeout_onward {tag : Nat} {r : FReq} (h : Onward K s t) : Onward K s (reqTimeout t tag r) := by
  unfold reqTimeout
  refine onward_ite (onward_if h (fun h => settleFault_onward (drainWaiting_onward (dropReq_onward h)))) ?_
  refine onward_ite ?_ ?_
  · exact settleFault_onward (settleStream_onward (dropReq_onward (advance_onward h)))
  · refine settleFault_onward (settleStream_onward (classB_onward (logEvent_onward (bump_onward ?_))))
    exact markBad_onward (dropReq_onward (advance_onward h))

theorem execFabReqTimeout_leads {tag : Nat} (h : Onward K s t) : Leads K s (execFabReqTimeout tag t) := by
  unfold execFabReqTimeout
  refine ends_leads ?_
  split
  · exact reqTimeout_onward h
  · exact h

/-! ### The functions of Machine/HomeCmds -/

theorem answerHome_onward {c : HAcc} {poison ok : Bool} {d : List Byte} (h : Onward K s t) :
    Onward K s (answerHome t c poison ok d) := by
  unfold answerHome
  exact onward_send h

theorem blame_onward {rq : Requester} {cause : Nat} (h : Onward K s t) : Onward K s (blame t rq cause) := by
  unfold blame
  split
  · split
    · exact jobFault_onward h
    · exact h
  · split
    · exact jobFault_onward h
    · exact h
  · exact jobFault_onward h
  · exact h

theorem refusePoison_onward {c : HAcc} (h : Onward K s t) : Onward K s (refusePoison t c) := by
  unfold refusePoison
  dsimp only
  split
  · exact logEvent_onward (bump_onward (answerHome_onward h))
  · exact blame_onward (answerHome_onward h)

theorem deliverPoison_onward {c : HAcc} (h : Onward K s t) : Onward K s (deliverPoison t c) := by
  unfold deliverPoison
  dsimp only
  split
  · exact blame_onward (answerHome_onward h)
  · exact answerHome_onward h

theorem atomicAt_onward {how : How} {a : Nat} {wide : Bool} {f : Nat → Option Nat} (h : Onward K s t) :
    Onward K s (atomicAt t how a wide f).2.2 := by
  unfold atomicAt
  dsimp only
  split
  · split
    · exact writeWord_onward (onward_of_snd ‹_› (readWord_onward (touchModify_onward (noReads_onward h))))
    · exact onward_of_snd ‹_› (readWord_onward (touchModify_onward (noReads_onward h)))
  · exact onward_of_snd ‹_› (readWord_onward (touchModify_onward (noReads_onward h)))

theorem endModify_onward {r : CRes} {c : HAcc} {d : List Byte} (h : Onward K s t) : Onward K s (endModify r t c d) := by
  unfold endModify
  split
  · exact answerHome_onward h
  · exact refusePoison_onward h
  · exact answerHome_onward (failedReq_onward h)
  · exact blame_onward (answerHome_onward (failedReq_onward h))

theorem countMerged_onward {c : HAcc} {held : List HeldReq} (h : Onward K s t) : Onward K s (countMerged t c held) := by
  unfold countMerged
  exact onward_ite (bump_onward h) h

theorem noteRead_onward {c : HAcc} (h : Onward K s t) : Onward K s (noteRead t c) := by
  unfold noteRead
  exact onward_update h

theorem endRead_onward {c : HAcc} {transit : Upset} {r : RdRes} (h : Onward K s t) : Onward K s (endRead t c transit r) := by
  unfold endRead
  extract_lets got
  have hg : Onward K s got.2 := by
    cases r with
    | data d => exact received_onward h
    | poison => exact received_onward h
    | failed => exact h
  clear_value got
  split
  · exact answerHome_onward hg
  · exact deliverPoison_onward hg
  · exact answerHome_onward (failedReq_onward hg)

theorem endWrite_onward {how : How} {c : HAcc} {d : List Byte} {transit : Upset} (h : Onward K s t) :
    Onward K s (endWrite t how c d transit) := by
  unfold endWrite
  split
  · exact answerHome_onward (writeWord_onward (onward_of_snd ‹_› (received_onward h)))
  · exact answerHome_onward (failedReq_onward (writePoison_onward (onward_of_snd ‹_› (received_onward h))))

theorem performAcc_onward {counted : Bool} {c : HAcc} (h : Onward K s t) : Onward K s (performAcc t counted c) := by
  unfold performAcc
  dsimp only
  split
  · exact endRead_onward (noteRead_onward (readWord_onward h))
  · exact endWrite_onward h
  · exact endModify_onward (writeBytes_onward h)
  · exact endModify_onward (reduceAt_onward h)
  · exact endModify_onward (reduceAt_onward h)
  · exact endModify_onward (atomicAt_onward h)
  · exact endModify_onward (atomicAt_onward h)

theorem missAcc_onward {b line : Nat} {c : HAcc} (h : Onward K s t) : Onward K s (missAcc t b line c) := by
  unfold missAcc
  exact onward_ite (setChan_onward h) (onward_ite (bump_onward (onward_update h)) (wholeOr_onward h
    (fun _ => performAcc_onward)))

theorem homeServe_onward {c : HAcc} (h : Onward K s t) : Onward K s (homeServe t c) := by
  unfold homeServe
  split
  · exact onward_ite (holdReq_onward h) (onward_ite (wholeOr_onward h (fun _ => performAcc_onward)) (missAcc_onward h))
  · exact onward_ite (wholeOr_onward h (fun _ => performAcc_onward)) h

theorem homeAccess_onward {c : HAcc} (h : Onward K s t) : Onward K s (homeAccess t c) := by
  unfold homeAccess
  refine onward_ite h ?_
  split
  · exact homeServe_onward (onward_ite (countMerged_onward h) (noReads_onward h))
  · exact homeServe_onward (onward_ite (countMerged_onward h) h)

theorem homeFails_onward {c : HAcc} (h : Onward K s t) : Onward K s (homeFails t c) := by
  unfold homeFails
  exact onward_ite (classB_onward (answerHome_onward (failedReq_onward h))) h

theorem execHomeRead_leads {rq : Requester} {a : Nat} {hint : Hint} {upset : ReadUpset} (h : Onward K s t) :
    Leads K s (execHomeRead rq a hint upset t) := by
  unfold execHomeRead
  exact ends_leads (onward_ite (homeFails_onward h) (homeAccess_onward h))

theorem execHomeWrite_leads {rq : Requester} {a : Nat} {hint : Hint} {data : SentWord} (h : Onward K s t) :
    Leads K s (execHomeWrite rq a hint data t) := by
  unfold execHomeWrite
  exact ends_leads (homeAccess_onward h)

theorem execHomeSubwordWrite_leads {rq : Requester} {a : Nat} {hint : Hint} {data : List Byte} (h : Onward K s t) :
    Leads K s (execHomeSubwordWrite rq a hint data t) := by
  unfold execHomeSubwordWrite
  exact ends_leads (homeAccess_onward h)

theorem execRedInt32Add_leads {rq : Requester} {a : Nat} {data : BitVec 512} (h : Onward K s t) :
    Leads K s (execRedInt32Add rq a data t) := by
  unfold execRedInt32Add
  exact ends_leads (homeAccess_onward h)

theorem execRedInt64Add_leads {rq : Requester} {a : Nat} {data : BitVec 512} (h : Onward K s t) :
    Leads K s (execRedInt64Add rq a data t) := by
  unfold execRedInt64Add
  exact ends_leads (homeAccess_onward h)

theorem execRedWidePartialAdd_leads {rq : Requester} {a : Nat} {data : BitVec 512} (h : Onward K s t) :
    Leads K s (execRedWidePartialAdd rq a data t) := by
  unfold execRedWidePartialAdd
  exact ends_leads (homeAccess_onward h)

theorem execRedBf16Add_leads {rq : Requester} {a : Nat} {data : BitVec 512} (h : Onward K s t) :
    Leads K s (execRedBf16Add rq a data t) := by
  unfold execRedBf16Add
  exact ends_leads (homeAccess_onward h)

theorem execRedFp32Add_leads {rq : Requester} {a : Nat} {data : BitVec 512} (h : Onward K s t) :
    Leads K s (execRedFp32Add rq a data t) := by
  unfold execRedFp32Add
  exact ends_leads (homeAccess_onward h)

theorem execRedFp32OrderedAdd_leads {rq : Requester} {a cid : Nat} {data : BitVec 512} (h : Onward K s t) :
    Leads K s (execRedFp32OrderedAdd rq a cid data t) := by
  unfold execRedFp32OrderedAdd
  exact ends_leads (homeAccess_onward h)

theorem execRedInt32Min_leads {rq : Requester} {a : Nat} {data : BitVec 512} (h : Onward K s t) :
    Leads K s (execRedInt32Min rq a data t) := by
  unfold execRedInt32Min
  exact ends_leads (homeAccess_onward h)

theorem execRedInt32Max_leads {rq : Requester} {a : Nat} {data : BitVec 512} (h : Onward K s t) :
    Leads K s (execRedInt32Max rq a data t) := by
  unfold execRedInt32Max
  exact ends_leads (homeAccess_onward h)

theorem execRedFp32Min_leads {rq : Requester} {a : Nat} {data : BitVec 512} (h : Onward K s t) :
    Leads K s (execRedFp32Min rq a data t) := by
  unfold execRedFp32Min
  exact ends_leads (homeAccess_onward h)

theorem execRedFp32Max_leads {rq : Requester} {a : Nat} {data : BitVec 512} (h : Onward K s t) :
    Leads K s (execRedFp32Max rq a data t) := by
  unfold execRedFp32Max
  exact ends_leads (homeAccess_onward h)

theorem execCompareAndSwap_leads {rq : Requester} {a : Nat} {wide : Bool} {cmp swap : BitVec 64} (h : Onward K s t) :
    Leads K s (execCompareAndSwap rq a wide cmp swap t) := by
  unfold execCompareAndSwap
  exact ends_leads (homeAccess_onward h)

theorem execFetchAdd_leads {rq : Requester} {a : Nat} {wide : Bool} {v : BitVec 64} (h : Onward K s t) :
    Leads K s (execFetchAdd rq a wide v t) := by
  unfold execFetchAdd
  exact ends_leads (homeAccess_onward h)

/-! ### The functions of Machine/HbmCmds -/

theorem execHbmRefresh_leads {ch : Nat} (h : Onward K s t) : Leads K s (execHbmRefresh ch t) := by
  unfold execHbmRefresh
  exact leads_next h

theorem channelFail_onward {ch : Nat} (h : Onward K s t) : Onward K s (channelFail t ch) := by
  unfold channelFail
  exact classC_onward (logEvent_onward (defectRec_onward (setChan_onward h)))

theorem parityTrigger_onward {ch : Nat} (h : Onward K s t) : Onward K s (parityTrigger t ch) := by
  unfold parityTrigger
  exact onward_if (setChan_onward h) channelFail_onward

theorem parityErrors_onward {k ch n : Nat} (h : Onward K s t) : Onward K s (parityErrors k t ch n) := by
  induction k generalizing t n with
  | zero =>
    unfold parityErrors
    exact h
  | succ k ih =>
    unfold parityErrors
    exact onward_ite (setChan_onward h) (onward_if (parityTrigger_onward h) ih)

theorem execHbmParityTrigger_leads {e : ParityErrors} (h : Onward K s t) : Leads K s (execHbmParityTrigger e t) := by
  unfold execHbmParityTrigger
  exact ends_leads (onward_ite (parityErrors_onward h) h)

theorem retrainGo_onward {ch : Nat} (h : Onward K s t) : Onward K s (retrainGo t ch) := by
  unfold retrainGo
  split
  · exact h
  · exact onward_ite h (rescale_onward (logEvent_onward (bump_onward (setChan_onward (wakeModule_onward (advance_onward h))))))

theorem execRetrainStart_leads {ch : Nat} (h : Onward K s t) : Leads K s (execRetrainStart ch t) := by
  unfold execRetrainStart
  exact ends_leads (onward_ite (retrainGo_onward h) h)

theorem selfRefreshIdle_onward {m : Nat} (h : Onward K s t) : Onward K s (selfRefreshIdle t m) := by
  unfold selfRefreshIdle
  refine onward_ite h ?_
  split
  · exact h
  · exact onward_update (advance_onward h)

theorem execHbmSelfRefreshIdle_leads {m : Nat} (h : Onward K s t) : Leads K s (execHbmSelfRefreshIdle m t) := by
  unfold execHbmSelfRefreshIdle
  exact ends_leads (onward_ite (selfRefreshIdle_onward h) h)

theorem scrubPoison_onward {hbm : Bool} {a : Nat} (h : Onward K s t) : Onward K s (scrubPoison t hbm a) := by
  unfold scrubPoison
  exact logEvent_onward (bump_onward (bump_onward h))

theorem scrubVault_onward {b site w : Nat} {u : Upset} (h : Onward K s t) : Onward K s (scrubVault t b site w u) := by
  unfold scrubVault
  split
  · dsimp only
    split
    · exact noteVault_onward (bump_onward (mendLine_onward h)) (fun _ => mendLine_onward)
    · exact onward_ite (scrubPoison_onward (mendLine_onward (freeSoft_onward (mendLine_onward h)))) (onward_ite (stall_onward
        (mendLine_onward h)) (allocLine_onward (onward_foldl_snd (logEvent_onward (bump_onward (bump_onward (dropLine_onward
        (mendLine_onward h))))) (fun _ _ => sectorCopy_onward))))
    · exact mendLine_onward h
  · split
    · exact noteVault_onward (bump_onward (onward_of_snd ‹_› (readCode_onward h))) (fun _ => putCode_onward)
    · exact scrubPoison_onward (putCode_onward (freeSoft_onward (onward_of_snd ‹_› (readCode_onward h))))
    · exact onward_of_snd ‹_› (readCode_onward h)

theorem freeWrittenBack_onward {p : RepEntry → Bool} {laps : Nat} (h : Onward K s t) :
    Onward K s (freeWrittenBack t p laps) := by
  unfold freeWrittenBack
  exact onward_update h

theorem vaultLap_onward {b : Nat} (h : Onward K s t) : Onward K s (vaultLap t b) := by
  unfold vaultLap
  exact onward_ite (freeWrittenBack_onward (onward_update (raise_onward (setEnt_onward h)))) h

theorem execVaultScrubAccess_leads {b site : Nat} {upset : Upset} (h : Onward K s t) :
    Leads K s (execVaultScrubAccess b site upset t) := by
  unfold execVaultScrubAccess
  exact ends_leads (onward_ite (whole_onward h (fun _ hu => vaultLap_onward (onward_update (scrubVault_onward
    (advance_onward hu))))) h)

theorem scrubSector_onward {b ch line sector : Nat} {u : Upset} (h : Onward K s t) :
    Onward K s (scrubSector t b ch line sector u) := by
  unfold scrubSector
  dsimp only
  split
  · exact noteHbm_onward (bump_onward (onward_of_snd ‹_› (readCode_onward h))) (fun _ => putCode_onward)
  · exact scrubPoison_onward (putCode_onward (freeSoft_onward (onward_of_snd ‹_› (readCode_onward h))))
  · exact onward_of_snd ‹_› (readCode_onward h)

theorem hbmLap_onward {ch : Nat} {c : Scrub} (h : Onward K s t) : Onward K s (hbmLap t ch c) := by
  unfold hbmLap
  exact freeWrittenBack_onward (onward_update h)

theorem scrubHbm_onward {ch : Nat} {u : Upset} (h : Onward K s t) : Onward K s (scrubHbm t ch u) := by
  unfold scrubHbm
  exact onward_ite (hbmLap_onward (onward_ite (onward_ite (advance_onward h) h) (scrubSector_onward (onward_ite
    (advance_onward h) h)))) (onward_update (onward_ite (onward_ite (advance_onward h) h) (scrubSector_onward (onward_ite
    (advance_onward h) h))))

theorem eccReport_onward {ecc : Bool} (h : Onward K s t) : Onward K s (eccReport t ecc) := by
  unfold eccReport
  exact onward_ite (bump_onward h) h

theorem execHbmScrubAccess_leads {ch : Nat} {upset : SectorUpset} (h : Onward K s t) :
    Leads K s (execHbmScrubAccess ch upset t) := by
  unfold execHbmScrubAccess
  exact ends_leads (onward_ite (scrubHbm_onward (eccReport_onward h)) h)

theorem lapAlarm_onward {c : Scrub} {detail : Nat} (h : Onward K s t) : Onward K s (lapAlarm t c detail) := by
  unfold lapAlarm
  exact logEvent_onward (bump_onward (advance_onward h))

theorem execScrubLapAlarm_leads {vault : Bool} {n : Nat} (h : Onward K s t) : Leads K s (execScrubLapAlarm vault n t) := by
  unfold execScrubLapAlarm
  exact ends_leads (onward_ite h (onward_ite (onward_ite (lapAlarm_onward (onward_update h)) h) (onward_ite (lapAlarm_onward
    (onward_update h)) h)))

theorem discardDone_onward {d : Discard} {us : Nat} (h : Onward K s t) : Onward K s (discardDone t d us) := by
  unfold discardDone
  exact setMain_onward (raise_onward (onward_update (onward_update (onward_foldl (advance_onward h)
    (fun _ _ hu => spoil_onward (endJob_onward hu))))))

theorem execDiscardEnd_leads {us : Nat} (h : Onward K s t) : Leads K s (execDiscardEnd us t) := by
  unfold execDiscardEnd
  refine ends_leads ?_
  split
  · exact onward_ite (discardDone_onward h) h
  · exact h

/-! ### The functions of Machine/Resets -/

theorem beginWait_onward (h : Onward K s t) : Onward K s (beginWait t) := by
  unfold beginWait
  exact onward_update h

theorem endWait_onward (h : Onward K s t) : Onward K s (endWait t) := by
  unfold endWait
  exact onward_update h

theorem startBringup_onward {start : Nat} (h : Onward K s t) : Onward K s (startBringup t start) := by
  unfold startBringup
  exact onward_ite (onward_update h) (beginWait_onward (onward_update h))

theorem perstAssert_onward (h : Onward K s t) : Onward K s (perstAssert t) := by
  unfold perstAssert
  exact onward_if (onward_update h) beginReset_onward

theorem execPerstNAssert_leads (h : Onward K s t) : Leads K s (execPerstNAssert t) := by
  unfold execPerstNAssert
  exact ends_leads (onward_ite h (perstAssert_onward h))

theorem perstRelease_onward (h : Onward K s t) : Onward K s (perstRelease t) := by
  unfold perstRelease
  dsimp only
  split
  · exact startBringup_onward (onward_update h)
  · exact onward_ite (onward_update h) (startBringup_onward (onward_update h))
  · exact onward_if (onward_update h) startBringup_onward
  · exact onward_update h

theorem execPerstNRelease_leads (h : Onward K s t) : Leads K s (execPerstNRelease t) := by
  unfold execPerstNRelease
  exact ends_leads (onward_ite (perstRelease_onward h) h)

theorem linkReset_onward (h : Onward K s t) : Onward K s (linkReset t) := by
  unfold linkReset
  exact onward_ite (beginReset_onward h) h

theorem execHotReset_leads (h : Onward K s t) : Leads K s (execHotReset t) := by
  unfold execHotReset
  exact ends_leads (linkReset_onward h)

theorem execLinkDisable_leads (h : Onward K s t) : Leads K s (execLinkDisable t) := by
  unfold execLinkDisable
  exact ends_leads (linkReset_onward h)

theorem execDlDown_leads (h : Onward K s t) : Leads K s (execDlDown t) := by
  unfold execDlDown
  exact ends_leads (linkReset_onward h)

theorem execFunctionLevelReset_leads (h : Onward K s t) : Leads K s (execFunctionLevelReset t) := by
  unfold execFunctionLevelReset
  exact ends_leads (onward_ite (onward_update (beginReset_onward h)) h)

theorem execFaultedResetStart_leads (h : Onward K s t) : Leads K s (execFaultedResetStart t) := by
  unfold execFaultedResetStart
  exact ends_leads (onward_ite (onward_update (beginReset_onward h)) h)

theorem execResetByCommandStart_leads (h : Onward K s t) : Leads K s (execResetByCommandStart t) := by
  unfold execResetByCommandStart
  refine ends_leads ?_
  split
  · exact onward_ite (beginReset_onward (advance_onward h)) (onward_update h)
  · exact h

theorem resettingEnd_onward (h : Onward K s t) : Onward K s (resettingEnd t) := by
  unfold resettingEnd
  exact onward_ite (startBringup_onward h) (onward_ite (startBringup_onward (advance_onward h)) h)

theorem execResettingEnd_leads (h : Onward K s t) : Leads K s (execResettingEnd t) := by
  unfold execResettingEnd
  exact ends_leads (onward_ite (resettingEnd_onward h) h)

theorem execLinkL0Entry_leads (h : Onward K s t) : Leads K s (execLinkL0Entry t) := by
  unfold execLinkL0Entry
  exact ends_leads (onward_ite (hostFlush_onward (onward_update h)) h)

theorem execLinkRecoveryEntry_leads (h : Onward K s t) : Leads K s (execLinkRecoveryEntry t) := by
  unfold execLinkRecoveryEntry
  exact ends_leads (onward_ite (onward_update h) h)

theorem execD3hotTransition_leads {into : Bool} (h : Onward K s t) : Leads K s (execD3hotTransition into t) := by
  unfold execD3hotTransition
  exact ends_leads (onward_ite (hostFlush_onward (onward_update h)) h)

theorem enterDeep_onward (h : Onward K s t) : Onward K s (enterDeep t) := by
  unfold enterDeep
  exact portsDark_onward (onward_update h)

theorem leaveDeep_onward (h : Onward K s t) : Onward K s (leaveDeep t) := by
  unfold leaveDeep
  exact portsTrain_onward (onward_update h)

theorem execL12Entry_leads (h : Onward K s t) : Leads K s (execL12Entry t) := by
  unfold execL12Entry
  exact ends_leads (onward_ite (onward_if (onward_update h) enterDeep_onward) h)

theorem execL12Exit_leads (h : Onward K s t) : Leads K s (execL12Exit t) := by
  unfold execL12Exit
  exact ends_leads (onward_ite (onward_if (onward_update h) leaveDeep_onward) h)

theorem waitEvent_onward {step : Nat} (h : Onward K s t) : Onward K s (waitEvent t step) := by
  unfold waitEvent
  exact onward_if (logEvent_onward (onward_update (advance_onward h))) logEvent_onward

theorem execBringupWaitEvent_leads (h : Onward K s t) : Leads K s (execBringupWaitEvent t) := by
  unfold execBringupWaitEvent
  exact ends_leads (onward_ite (waitEvent_onward h) (onward_ite (waitEvent_onward h) h))

theorem execBringupTimeLimit_leads (h : Onward K s t) : Leads K s (execBringupTimeLimit t) := by
  unfold execBringupTimeLimit
  exact ends_leads (onward_ite (bringupFault_onward (advance_onward h)) h)

/-! ### The functions of Machine/Ledger -/

theorem persist_onward {key v : Nat} (h : Onward K s t) : Onward K s (persist t key v) := by
  unfold persist
  exact queueRecord_onward h

theorem putCons_onward {l : List (Nat × Nat)} (hK : ¬K.cons) (h : Onward K s t) : Onward K s (putCons t l) :=
  { h with cons := fun k => absurd k hK }

theorem putEnts_onward {l : List (Nat × Nat)} (h : Onward K s t) : Onward K s (putEnts t l) := by
  unfold putEnts
  exact onward_update h

theorem notLoaded_onward {code : Nat} {l : List (Nat × Nat)} (h : Onward K s t) : Onward K s (notLoaded t code l) := by
  unfold notLoaded
  exact onward_foldl h (fun _ _ hu => logEvent_onward (onward_ite (bump_onward hu) hu))

theorem loadValues_onward {l : List (Nat × Nat)} {rules : State → List Rule} {put : State → List
    (Nat × Nat) → State} {code : Nat} (hp : ∀ v l, Onward K s v → Onward K s (put v l)) (h : Onward K s t) : Onward K s
    (loadValues t l rules put code) := by
  unfold loadValues
  exact notLoaded_onward (hp _ _ h)

theorem loadCons_onward (hK : ¬K.cons) (h : Onward K s t) : Onward K s (loadCons t) := by
  unfold loadCons
  exact loadValues_onward (fun _ _ => putCons_onward hK) h

theorem loadMain_onward (h : Onward K s t) : Onward K s (loadMain t) := by
  unfold loadMain
  exact loadValues_onward (fun _ _ => putEnts_onward) h

theorem reachLedger_onward (h : Onward K s t) : Onward K s (reachLedger t) := by
  unfold reachLedger
  exact onward_ite (onward_update (onward_update h)) (beginWait_onward (onward_update h))

theorem scanRecord_onward {r : LRec} (h : Onward K s t) : Onward K s (scanRecord t r) := by
  unfold scanRecord
  exact onward_ite (dropDefect_onward h) (onward_update h)

theorem ledgerScan_onward (hK : ¬K.cons) (h : Onward K s t) : Onward K s (ledgerScan t) := by
  unfold ledgerScan
  have scanned : ∀ {v : State} {l : List LRec}, Onward K s v → Onward K s (l.foldl scanRecord v) :=
    fun hv => onward_foldl hv (fun _ _ => scanRecord_onward)
  extract_lets l1 s1 img recs boot seq queued s2 s3 s4 l5 s5 s6 s7 s8
  have h3 : Onward K s s3 := onward_if (scanned (onward_update (onward_update h))) onward_update
  have h8 : Onward K s s8 := queueRecord_onward (loadCons_onward hK (setEnt_onward (onward_update (scanned h3))))
  exact onward_if h8 (fun h => reachLedger_onward (endWait_onward h))

theorem execLedgerScan_leads (hK : ¬K.cons) (h : Onward K s t) : Leads K s (execLedgerScan t) := by
  unfold execLedgerScan
  exact ends_leads (onward_ite (ledgerScan_onward hK h) h)

theorem programRec_onward {r : LRec} {ok : Bool} (h : Onward K s t) : Onward K s (programRec t r ok) := by
  unfold programRec
  exact onward_update h

theorem writeRecord_onward {r : LRec} {rest : List LRec} {ok : Bool} (h : Onward K s t) :
    Onward K s (writeRecord t r rest ok) := by
  unfold writeRecord
  exact onward_ite h (onward_ite (onward_update (programRec_onward h)) (onward_ite (onward_update (programRec_onward h))
    (logEvent_onward (setEnt_onward (onward_update (programRec_onward h))))))

theorem execLedgerRecordWrite_leads {ok : Bool} (h : Onward K s t) : Leads K s (execLedgerRecordWrite ok t) := by
  unfold execLedgerRecordWrite
  refine ends_leads ?_
  split
  · exact h
  · exact onward_ite (writeRecord_onward h) h

theorem compact_onward (h : Onward K s t) : Onward K s (compact t) := by
  unfold compact
  exact bump_onward (onward_update h)

theorem execLedgerCompaction_leads (h : Onward K s t) : Leads K s (execLedgerCompaction t) := by
  unfold execLedgerCompaction
  exact ends_leads (onward_ite (compact_onward h) h)

/-! ### The functions of Machine/Links -/

theorem setD2d_onward {pair dir : Nat} {v : D2d} (h : Onward K s t) : Onward K s (setD2d t pair dir v) := by
  unfold setD2d
  exact onward_update h

theorem laneDefect_onward {source pair dir lane : Nat} (h : Onward K s t) : Onward K s (laneDefect t source pair dir lane) := by
  unfold laneDefect
  exact defectRec_onward h

theorem linkLost_onward {pair dir : Nat} {lanes : List Nat} (h : Onward K s t) : Onward K s (linkLost t pair dir lanes) := by
  unfold linkLost
  exact classC_onward (logEvent_onward (onward_foldl h (fun _ _ => laneDefect_onward)))

theorem setAlarmed_onward {pair : Nat} {b : Bool} (h : Onward K s t) : Onward K s (setAlarmed t pair b) := by
  unfold setAlarmed
  exact setD2d_onward (setD2d_onward h)

theorem countReplay_onward {pair dir chan : Nat} (h : Onward K s t) : Onward K s (countReplay t pair dir chan) := by
  unfold countReplay
  exact onward_send (bump_onward (setD2d_onward (onward_ite (setAlarmed_onward h) h)))

theorem d2dFlit_onward {pair dir chan : Nat} {c : FlitCheck} {seq : Nat} (h : Onward K s t) :
    Onward K s (d2dFlit t pair dir chan c seq) := by
  unfold d2dFlit
  exact onward_ite (setD2d_onward h) (onward_if (countReplay_onward (setD2d_onward h)) linkLost_onward)

theorem execD2dFlitReceive_leads {pair dir chan : Nat} {crcOk : FlitCheck} {seq : Nat} (h : Onward K s t) :
    Leads K s (execD2dFlitReceive pair dir chan crcOk seq t) := by
  unfold execD2dFlitReceive
  exact ends_leads (onward_ite (d2dFlit_onward h) h)

theorem execD2dLaneLoss_leads {pair dir lane : Nat} (h : Onward K s t) : Leads K s (execD2dLaneLoss pair dir lane t) := by
  unfold execD2dLaneLoss
  exact ends_leads (onward_ite (linkLost_onward h) h)

theorem marginal_onward {pair dir lane : Nat} (h : Onward K s t) : Onward K s (marginal t pair dir lane) := by
  unfold marginal
  exact onward_ite h (laneDefect_onward (logEvent_onward (setEnt_onward (setD2d_onward h))))

theorem execD2dMarginWindow_leads {pair dir lane : Nat} (h : Onward K s t) :
    Leads K s (execD2dMarginWindow pair dir lane t) := by
  unfold execD2dMarginWindow
  exact ends_leads (onward_ite (marginal_onward h) h)

theorem replayAlarm_onward {pair dir : Nat} (h : Onward K s t) : Onward K s (replayAlarm t pair dir) := by
  unfold replayAlarm
  exact onward_ite (logEvent_onward (setAlarmed_onward h)) h

theorem execD2dReplayAlarm_leads {pair dir : Nat} (h : Onward K s t) : Leads K s (execD2dReplayAlarm pair dir t) := by
  unfold execD2dReplayAlarm
  exact ends_leads (onward_ite (replayAlarm_onward h) h)

theorem execPllLockLoss_leads {die source : Nat} (h : Onward K s t) : Leads K s (execPllLockLoss die source t) := by
  unfold execPllLockLoss
  exact ends_leads (onward_ite (classC_onward (logEvent_onward h)) h)

theorem execOpticalSiteLinkDown_leads {p : Nat} (h : Onward K s t) : Leads K s (execOpticalSiteLinkDown p t) := by
  unfold execOpticalSiteLinkDown
  exact ends_leads (onward_ite (onward_ite (leaveService_onward (logEvent_onward h)) (setPort_onward (logEvent_onward h))) h)

theorem execHostSiteLinkLost_leads (h : Onward K s t) : Leads K s (execHostSiteLinkLost t) := by
  unfold execHostSiteLinkLost
  exact ends_leads (onward_ite (classC_onward (logEvent_onward h)) h)

theorem execGuestResetRequest_leads {site : Nat} (h : Onward K s t) : Leads K s (execGuestResetRequest site t) := by
  unfold execGuestResetRequest
  exact ends_leads (onward_ite (classC_onward (logEvent_onward h)) h)

theorem execRouterOrMeshLinkFailed_leads {cdie : Bool} {die row col link : Nat} (h : Onward K s t) :
    Leads K s (execRouterOrMeshLinkFailed cdie die row col link t) := by
  unfold execRouterOrMeshLinkFailed
  exact ends_leads (onward_ite (classC_onward (logEvent_onward (defectRec_onward h))) h)

/-! ### The functions of Machine/Sequencer -/

theorem readEntry_onward {t' jn : Nat} {j : Job} (h : Onward K s t) : Onward K s (readEntry t t' jn j) := by
  unfold readEntry
  dsimp only
  split
  · exact onward_ite (setTile_onward (onward_of_snd ‹_› (readWord_onward h))) (jobFault_onward (onward_of_snd ‹_›
      (readWord_onward h)))
  · exact jobFault_onward (onward_of_snd ‹_› (readWord_onward h))
  · exact failedReq_onward (onward_of_snd ‹_› (readWord_onward h))

theorem fetchMore_onward {t' : Nat} (h : Onward K s t) : Onward K s (fetchMore t t') := by
  unfold fetchMore
  refine onward_ite ?_ h
  dsimp only
  split
  · exact setTile_onward (onward_of_snd ‹_› (readWord_onward h))
  · exact setTile_onward (onward_of_snd ‹_› (readWord_onward h))
  · exact failedReq_onward (onward_of_snd ‹_› (readWord_onward h))

theorem fetchGo_onward {t' : Nat} (h : Onward K s t) : Onward K s (fetchGo t t') := by
  unfold fetchGo
  refine onward_ite ?_ h
  split
  · exact onward_ite (onward_if (readEntry_onward h) fetchMore_onward) (fetchMore_onward h)
  · exact h

theorem agenRun_onward {t' w : Nat} (h : Onward K s t) : Onward K s (agenRun t' t w) := by
  unfold agenRun
  exact nextWord_onward (setTile_onward h)

theorem sigExec_onward {t' w : Nat} (h : Onward K s t) : Onward K s (sigExec t' t w) := by
  unfold sigExec
  exact onward_ite (nextWord_onward (raiseSig_onward h)) (onward_ite h (wake_onward (sigRun_onward (enqueue_onward h))))

theorem blockOn_onward {t' : Nat} {b : Block} {d : Option BarDesc} (h : Onward K s t) : Onward K s (blockOn t t' b d) := by
  unfold blockOn
  exact wake_onward (nextWord_onward (setTile_onward h))

theorem waitRun_onward {t' w : Nat} (h : Onward K s t) : Onward K s (waitRun t' t w) := by
  unfold waitRun
  exact blockOn_onward h

theorem waitpRun_onward {t' w : Nat} (h : Onward K s t) : Onward K s (waitpRun t' t w) := by
  unfold waitpRun
  exact blockOn_onward h

theorem fenceRun_onward {t' w : Nat} (h : Onward K s t) : Onward K s (fenceRun t' t w) := by
  unfold fenceRun
  exact blockOn_onward h

theorem endRun_onward {t' w : Nat} (h : Onward K s t) : Onward K s (endRun t' t w) := by
  unfold endRun
  exact blockOn_onward h

theorem readKids_onward {j : Job} {t' a n : Nat} (h : Onward K s t) : Onward K s (readKids t j t' a n).2.2 := by
  unfold readKids
  refine onward_foldl_snd_snd h (fun _ _ hu => ?_)
  split
  · split <;> exact onward_of_snd ‹_› (readElem_onward hu)
  · exact hu

theorem seqEnd_onward {jn t' idx : Nat} {e : EAcc} (h : Onward K s t) : Onward K s (seqEnd t jn t' idx e) := by
  unfold seqEnd
  dsimp only
  split
  · exact jobFault_onward (onward_ite (failedReq_onward h) h)
  · exact onward_ite (failedReq_onward h) h

theorem barRun_onward {t' w : Nat} (h : Onward K s t) : Onward K s (barRun t' t w) := by
  unfold barRun
  split
  · exact h
  · refine onward_ite h ?_
    split
    · split
      · split
        · exact jobFault_onward (onward_of_snd_snd ‹_› (readKids_onward (onward_of_snd ‹_› (readElem_onward h))))
        · exact blockOn_onward (onward_of_snd_snd ‹_› (readKids_onward (onward_of_snd ‹_› (readElem_onward h))))
      · exact seqEnd_onward (onward_of_snd_snd ‹_› (readKids_onward (onward_of_snd ‹_› (readElem_onward h))))
    · exact seqEnd_onward (onward_of_snd ‹_› (readElem_onward h))

theorem dropEntry_onward {t' : Nat} {e : Engine} {pos : Nat} (h : Onward K s t) : Onward K s (dropEntry t t' e pos) := by
  unfold dropEntry
  exact wake_onward (enginesGo_onward (sigRun_onward (setTile_onward h)))

theorem completeEntry_onward {t' : Nat} {e : Engine} {pos : Nat} (h : Onward K s t) :
    Onward K s (completeEntry t t' e pos) := by
  unfold completeEntry
  split
  · exact onward_ite (dropEntry_onward h) h
  · exact h

theorem drainPass_onward {t' : Nat} (h : Onward K s t) : Onward K s (drainPass t t') := by
  unfold drainPass
  dsimp only
  split
  · exact h
  · exact onward_ite (dropEntry_onward (setTile_onward h)) h

/-! ### The functions of Machine/FlagCmds -/

theorem execFlagSignal_leads {t' f : Nat} {n : BitVec 16} (h : Onward K s t) : Leads K s (execFlagSignal t' f n t) := by
  unfold execFlagSignal
  exact ends_leads (onward_ite (signal_onward h) h)

theorem blockFlag_onward {v : Tile} {b : Block} (h : Onward K s t) : Onward K s (blockFlag t v b).2 := by
  unfold blockFlag
  split
  · exact h
  · exact h
  · exact h
  · exact h
  · exact drawFree_onward h

theorem timedBlock_onward {t' : Nat} (h : Onward K s t) : Onward K s (timedBlock t t').2 := by
  unfold timedBlock
  dsimp only
  split
  · dsimp only
    split
    · exact h
    · exact h
    · exact h
    · exact blockFlag_onward h
  · dsimp only
    split
    · exact h
    · exact h
    · exact h
    · exact blockFlag_onward h
  · dsimp only
    split
    · exact h
    · exact h
    · exact h
    · exact blockFlag_onward h

theorem expiryNoted_onward {j : Job} {t' at' word flag : Nat} (h : Onward K s t) :
    Onward K s (expiryNoted t j t' at' word flag) := by
  unfold expiryNoted
  exact logEvent_onward (setEnt_onward (bump_onward (recordFault_onward (advance_onward h))))

theorem execWaitWatchdog_leads {t' : Nat} (h : Onward K s t) : Leads K s (execWaitWatchdog t' t) := by
  unfold execWaitWatchdog
  refine ends_leads ?_
  split
  · exact onward_ite (classB_onward (postComp_onward (spoil_onward (endJob_onward (expiryNoted_onward (onward_of_snd ‹_›
      (timedBlock_onward h))))))) (onward_ite (setTile_onward (expiryNoted_onward (onward_of_snd ‹_› (timedBlock_onward h)))) h)
  · exact h

theorem execTileQuiet_leads {t' : Nat} (h : Onward K s t) : Leads K s (execTileQuiet t' t) := by
  unfold execTileQuiet
  exact ends_leads (onward_ite (onward_update (advance_onward h)) h)

theorem handOut_onward {lender n k : Nat} {bs : List Nat} (h : Onward K s t) : Onward K s (handOut lender bs n k t) := by
  induction n generalizing t k with
  | zero =>
    unfold handOut
    exact h
  | succ n ih =>
    unfold handOut
    split
    · exact h
    · exact ih (onward_update h)

theorem returnHeld_onward {hr : Nat} (h : Onward K s t) : Onward K s (returnHeld t hr) := by
  unfold returnHeld
  exact onward_foldl h (fun _ _ => openReclaim_onward)

theorem lendOut_onward {hs back : List Nat} (h : Onward K s t) : Onward K s (lendOut t hs back) := by
  unfold lendOut
  exact onward_foldl h (fun _ _ => handOut_onward)

theorem decide'_onward {b : Nat} (h : Onward K s t) : Onward K s (decide' t b) := by
  unfold decide'
  exact onward_ite h (onward_ite (onward_foldl (onward_foldl (onward_update h) (fun _ _ => checkLender_onward))
    (fun _ _ => returnHeld_onward)) (lendOut_onward (onward_foldl (onward_foldl (onward_update h)
    (fun _ _ => checkLender_onward)) (fun _ _ => returnHeld_onward))))

theorem execLoanDecision_leads {b : Nat} (h : Onward K s t) : Leads K s (execLoanDecision b t) := by
  unfold execLoanDecision
  exact ends_leads (onward_ite (decide'_onward (onward_update (advance_onward h))) h)

theorem confirmAt_onward {borrower lender ns : Nat} (h : Onward K s t) : Onward K s (confirmAt t borrower lender ns) := by
  unfold confirmAt
  split
  · exact h
  · exact onward_ite (raise_onward (onward_update (onward_update (advance_onward h)))) (onward_update (onward_update
      (advance_onward h)))

theorem execBorrowerConfirm_leads {borrower lender ns : Nat} (h : Onward K s t) :
    Leads K s (execBorrowerConfirm borrower lender ns t) := by
  unfold execBorrowerConfirm
  exact ends_leads (onward_ite (confirmAt_onward h) h)

theorem throttleLoans_onward (h : Onward K s t) : Onward K s (throttleLoans t) := by
  unfold throttleLoans
  exact onward_foldl (onward_foldl h (fun _ _ => returnHeld_onward)) (fun _ _ hu => onward_ite (openReclaim_onward hu) hu)

/-! ### The functions of Machine/Power -/

theorem execStandbySupplyApplied_leads (hT : ¬K.clock) (h : Onward K s t) : Leads K s (execStandbySupplyApplied t) := by
  unfold execStandbySupplyApplied
  exact ends_leads (onward_ite h { h with timed := fun k => absurd k hT })

theorem standbyLost_onward (hK : ¬K.cons) (hT : ¬K.clock) (h : Onward K s t) : Onward K s (standbyLost t) :=
  { h with timed := fun k => absurd k hT, form := fun _ => List.Pairwise.nil, cons := fun k => absurd k hK }

theorem execStandbySupplyRemoved_leads (hK : ¬K.cons) (hT : ¬K.clock) (h : Onward K s t) :
    Leads K s (execStandbySupplyRemoved t) := by
  unfold execStandbySupplyRemoved
  exact ends_leads (onward_ite (standbyLost_onward hK hT h) h)

theorem execFallbackSettled_leads {us : Nat} (h : Onward K s t) : Leads K s (execFallbackSettled us t) := by
  unfold execFallbackSettled
  exact ends_leads (onward_ite (setEnt_onward (onward_update (advance_onward h))) h)

theorem execFallbackSettleTimeout_leads (h : Onward K s t) : Leads K s (execFallbackSettleTimeout t) := by
  unfold execFallbackSettleTimeout
  exact ends_leads (onward_ite (logEvent_onward (onward_update (advance_onward h))) h)

theorem classDPlain_onward {code : Nat} (h : Onward K s t) : Onward K s (classDPlain t code) := by
  unfold classDPlain
  exact classD_onward (drawFree_onward h)

theorem execFallbackStop_leads (h : Onward K s t) : Leads K s (execFallbackStop t) := by
  unfold execFallbackStop
  exact ends_leads (onward_ite (classDPlain_onward (logEvent_onward h)) h)

theorem refValid_onward (h : Onward K s t) : Onward K s (refValid t) := by
  unfold refValid
  exact onward_if (setEnt_onward (setEnt_onward h)) (fun h => onward_update (endWait_onward h))

theorem refFail_onward (h : Onward K s t) : Onward K s (refFail t) := by
  unfold refFail
  exact classC_onward (logEvent_onward (bump_onward (onward_update (setEnt_onward (setEnt_onward h)))))

theorem monitorWindow_onward {ppm : Int} (h : Onward K s t) : Onward K s (monitorWindow t ppm) := by
  unfold monitorWindow
  exact onward_ite (onward_if (onward_update (setEnt_onward h)) refFail_onward) (onward_if (onward_update
    (setEnt_onward h)) refValid_onward)

theorem execClockMonitorWindow_leads {ppm : Int} {fallbackOk : Bool} (h : Onward K s t) :
    Leads K s (execClockMonitorWindow ppm fallbackOk t) := by
  unfold execClockMonitorWindow
  exact ends_leads (onward_ite (onward_ite (classDPlain_onward (advance_onward (onward_update h))) (monitorWindow_onward
    (advance_onward (onward_update h)))) h)

theorem execRefEdgeTimeout_leads (h : Onward K s t) : Leads K s (execRefEdgeTimeout t) := by
  unfold execRefEdgeTimeout
  exact ends_leads (onward_ite (refFail_onward h) h)

theorem sensorFail_onward {x : Nat × Int} (h : Onward K s t) : Onward K s (sensorFail t x) := by
  unfold sensorFail
  exact defectRec_onward (logEvent_onward (bump_onward (onward_update h)))

theorem checkDie_onward {round : List (Nat × Int)} {cdie : Bool} {d : Nat} (h : Onward K s t) :
    Onward K s (checkDie t round cdie d) := by
  unfold checkDie
  dsimp only
  split
  · exact onward_if (onward_foldl h (fun _ _ => sensorFail_onward)) classD_onward
  · exact onward_foldl h (fun _ _ => sensorFail_onward)

theorem trips_onward {old : SMap Int} {l : List (Nat × Int)} (h : Onward K s t) : Onward K s (trips t old l) := by
  unfold trips
  exact onward_foldl h (fun _ _ => classD_onward)

theorem warnDie_onward {v : State} {c : Nat} (h : Onward K s t) : Onward K s (warnDie v t c) := by
  unfold warnDie
  dsimp only
  split
  · exact h
  · exact onward_ite (logEvent_onward (bump_onward h)) h

theorem checkInlet_onward (h : Onward K s t) : Onward K s (checkInlet t) := by
  unfold checkInlet
  split
  · exact h
  · exact onward_if (onward_update h) logEvent_onward

theorem creditUpdate_onward (h : Onward K s t) : Onward K s (creditUpdate t) := by
  unfold creditUpdate
  exact setEnt_onward (setEnt_onward (onward_update h))

theorem coolRequest_onward (h : Onward K s t) : Onward K s (coolRequest t) := by
  unfold coolRequest
  exact setEnt_onward (setEnt_onward h)

theorem report_onward {idx sub : Nat} {signed : Bool} {v : Option Int} (h : Onward K s t) :
    Onward K s (report t idx sub signed v) := by
  unfold report
  split
  · exact h
  · exact setEnt_onward h

theorem reports_onward (h : Onward K s t) : Onward K s (reports t) := by
  unfold reports
  exact setEnt_onward (report_onward (report_onward (report_onward (report_onward (onward_foldl (onward_foldl (onward_foldl h
    (fun _ _ hu => report_onward (report_onward hu))) (fun _ _ => report_onward)) (fun _ _ => report_onward))))))

theorem coldCheck_onward (h : Onward K s t) : Onward K s (coldCheck t) := by
  unfold coldCheck
  exact onward_ite (portsTrain_onward (endWait_onward (onward_update h))) h

theorem warmCheck_onward (h : Onward K s t) : Onward K s (warmCheck t) := by
  unfold warmCheck
  exact onward_ite (onward_update h) h

theorem coolWatch_onward (h : Onward K s t) : Onward K s (coolWatch t) := by
  unfold coolWatch
  exact onward_ite (onward_update h) h

theorem halfVoltage_onward {hr : Nat} (h : Onward K s t) : Onward K s (halfVoltage t hr) := by
  unfold halfVoltage
  exact onward_ite (setEnt_onward (drawFree_onward h)) (onward_ite h (setEnt_onward h))

theorem halfVoltages_onward (h : Onward K s t) : Onward K s (halfVoltages t) := by
  unfold halfVoltages
  exact onward_foldl h (fun _ _ => halfVoltage_onward)

theorem inputWait_onward (h : Onward K s t) : Onward K s (inputWait t) := by
  unfold inputWait
  exact onward_ite (endWait_onward h) (onward_ite (beginWait_onward h) h)

theorem housekeeping_onward {readings : List (Nat × Int)} (h : Onward K s t) : Onward K s (housekeeping t readings) := by
  unfold housekeeping
  extract_lets l put con s1 s2 s3 s4 s5 s6
  have h1 : Onward K s s1 := onward_update h
  have h3 : Onward K s s3 := onward_foldl (onward_foldl h1 (fun _ _ => checkDie_onward)) (fun _ _ => checkDie_onward)
  have h5 : Onward K s s5 := onward_foldl (trips_onward h3) (fun _ _ => warnDie_onward)
  have h6 : Onward K s s6 := coolRequest_onward (creditUpdate_onward (checkInlet_onward (reports_onward h5)))
  exact mbxSettle_onward (inputWait_onward (halfVoltages_onward (coolWatch_onward (warmCheck_onward (coldCheck_onward h6)))))

theorem execHousekeepingRound_leads {readings : List (Nat × Int)} (h : Onward K s t) :
    Leads K s (execHousekeepingRound readings t) := by
  unfold execHousekeepingRound
  exact ends_leads (onward_ite (housekeeping_onward (advance_onward (onward_update h))) h)

theorem stepTick_onward (h : Onward K s t) : Onward K s (stepTick t) := by
  unfold stepTick
  exact onward_if (onward_foldl h (fun _ _ hu => onward_foldl hu (fun _ _ hv => onward_if
    (onward_update hv) bump_onward))) throttleLoans_onward

theorem execStepMachineTick_leads (h : Onward K s t) : Leads K s (execStepMachineTick t) := by
  unfold execStepMachineTick
  exact ends_leads (onward_ite (stepTick_onward (advance_onward (onward_update h))) h)

theorem execHbmCattripAssert_leads {m : Nat} (h : Onward K s t) : Leads K s (execHbmCattripAssert m t) := by
  unfold execHbmCattripAssert
  exact ends_leads (onward_ite (classDPlain_onward h) h)

/-! ### The functions of Machine/Bringup -/

theorem reach_onward {n : Nat} (h : Onward K s t) : Onward K s (reach t n) := by
  unfold reach
  exact onward_update h

theorem execPackageRailGood_leads (h : Onward K s t) : Leads K s (execPackageRailGood t) := by
  unfold execPackageRailGood
  exact ends_leads (onward_ite (onward_update (reach_onward h)) h)

theorem execPackageRailTimeout_leads (h : Onward K s t) : Leads K s (execPackageRailTimeout t) := by
  unfold execPackageRailTimeout
  exact ends_leads (onward_ite (bringupFault_onward (advance_onward h)) h)

theorem unreadableC_onward {c : Nat} (h : Onward K s t) : Onward K s (unreadableC t c) := by
  unfold unreadableC
  exact logEvent_onward (onward_update h)

theorem takeDefects_onward {bdie : Bool} {die : Nat} {c : List Byte} (h : Onward K s t) :
    Onward K s (takeDefects t bdie die c) := by
  unfold takeDefects
  exact onward_foldl h (fun _ _ hu => onward_ite (onward_update hu) (logEvent_onward hu))

theorem afterRecords_onward (h : Onward K s t) : Onward K s (afterRecords t) := by
  unfold afterRecords
  exact onward_ite (reachLedger_onward (reach_onward h)) (beginWait_onward (onward_update (reach_onward h)))

theorem provenance_onward {recs : List ProvRecord} (h : Onward K s t) : Onward K s (provenance t recs) := by
  unfold provenance
  split
  · exact bringupFault_onward h
  · refine onward_ite (bringupFault_onward h) (afterRecords_onward (onward_foldl (onward_foldl (onward_update h)
      (fun _ _ hu => ?_)) (fun _ _ hu => ?_)))
    · split
      · exact takeDefects_onward hu
      · exact hu
    · split
      · exact takeDefects_onward hu
      · exact unreadableC_onward hu

theorem execProvenanceReadDone_leads {recs : List ProvRecord} (h : Onward K s t) :
    Leads K s (execProvenanceReadDone recs t) := by
  unfold execProvenanceReadDone
  exact ends_leads (onward_ite (provenance_onward h) h)

theorem settingsInForce_onward (h : Onward K s t) : Onward K s (settingsInForce t) := by
  unfold settingsInForce
  exact setEnts_onward (onward_update h)

theorem coldStep_onward (h : Onward K s t) : Onward K s (coldStep t) := by
  unfold coldStep
  exact reach_onward (onward_ite (reach_onward h) (beginWait_onward (onward_update (reach_onward h))))

theorem bdieWake_onward {locked : Bool} {reports : List BdieReport} (h : Onward K s t) :
    Onward K s (bdieWake t locked reports) := by
  unfold bdieWake
  exact onward_ite (bringupFault_onward h) (onward_ite (bringupFault_onward (setEnt_onward h)) (coldStep_onward
    (settingsInForce_onward (loadMain_onward (reach_onward (onward_update h))))))

theorem execBdieWakeDone_leads {locked : Bool} {reports : List BdieReport} (h : Onward K s t) :
    Leads K s (execBdieWakeDone locked reports t) := by
  unfold execBdieWakeDone
  exact ends_leads (onward_ite (bdieWake_onward h) h)

theorem selfFail_onward {bdie : Bool} {die entry : Nat} (h : Onward K s t) : Onward K s (selfFail t bdie die entry) := by
  unfold selfFail
  exact onward_ite h (defectRec_onward (logEvent_onward (onward_update h)))

theorem vaultTested_onward {fails : List (Nat × BitVec 32)} (h : Onward K s t) : Onward K s (vaultTested t fails) := by
  unfold vaultTested
  exact reach_onward (onward_update (onward_foldl (onward_foldl h (fun _ _ => selfFail_onward)) (fun _ _ hu => onward_foldl hu
    (fun _ _ => selfFail_onward))))

theorem execVaultSelfTestDone_leads {fails : List (Nat × BitVec 32)} (h : Onward K s t) :
    Leads K s (execVaultSelfTestDone fails t) := by
  unfold execVaultSelfTestDone
  exact ends_leads (onward_ite (vaultTested_onward h) h)

theorem recordUnit_onward {n : Nat} (h : Onward K s t) : Onward K s (recordUnit t n) := by
  unfold recordUnit
  exact onward_update h

theorem settleLanes_onward {pair dir : Nat} (h : Onward K s t) : Onward K s (settleLanes t pair dir) := by
  unfold settleLanes
  exact onward_ite (recordUnit_onward (bringupFault_onward h)) (onward_update h)

theorem noteLinks_onward (h : Onward K s t) : Onward K s (noteLinks t) := by
  unfold noteLinks
  exact onward_ite (reach_onward h) h

theorem linkTrained_onward {pair dir : Nat} {fails : List Nat} (h : Onward K s t) :
    Onward K s (linkTrained t pair dir fails) := by
  unfold linkTrained
  exact onward_ite (settleLanes_onward (onward_foldl h (fun _ _ => selfFail_onward))) (noteLinks_onward (onward_update
    (settleLanes_onward (onward_foldl h (fun _ _ => selfFail_onward)))))

theorem execDieToDieTrainingDone_leads {pair dir : Nat} {fails : List Nat} (h : Onward K s t) :
    Leads K s (execDieToDieTrainingDone pair dir fails t) := by
  unfold execDieToDieTrainingDone
  exact ends_leads (onward_ite (linkTrained_onward h) h)

theorem guestTrained_onward {site d rate : Nat} (h : Onward K s t) : Onward K s (guestTrained t site d rate) := by
  unfold guestTrained
  exact onward_ite (noteLinks_onward (onward_ite (setEnt_onward (onward_update (onward_update h))) (onward_update
    (setPort_onward (setEnt_onward (onward_update (onward_update h))))))) (onward_ite (recordUnit_onward (bringupFault_onward
    (onward_update h))) (noteLinks_onward (setEnt_onward (selfFail_onward (onward_update h)))))

theorem execGuestSiteTrainingDone_leads {site : Nat} {desc : BitVec 128} {rate : Nat} (h : Onward K s t) :
    Leads K s (execGuestSiteTrainingDone site desc rate t) := by
  unfold execGuestSiteTrainingDone
  exact ends_leads (onward_ite (guestTrained_onward h) h)

theorem noteChans_onward (h : Onward K s t) : Onward K s (noteChans t) := by
  unfold noteChans
  exact onward_ite (reach_onward h) h

theorem chanTrained_onward {ch : Nat} {ok : Bool} {rows : List Nat} (h : Onward K s t) :
    Onward K s (chanTrained t ch ok rows) := by
  unfold chanTrained
  exact onward_ite (noteChans_onward (selfFail_onward h)) (noteChans_onward (onward_update (onward_foldl h
    (fun _ _ => selfFail_onward))))

theorem stackFails_onward {stack : Nat} (h : Onward K s t) : Onward K s (stackFails t stack) := by
  unfold stackFails
  exact noteChans_onward (onward_foldl (onward_update h) (fun _ _ => selfFail_onward))

theorem execHbmChannelTrainingDone_leads {ch : Nat} {trained tested : Bool} {stackBytes : Nat} {unrepaired : List Nat}
    (h : Onward K s t) : Leads K s (execHbmChannelTrainingDone ch trained tested stackBytes unrepaired t) := by
  unfold execHbmChannelTrainingDone
  exact ends_leads (onward_ite (onward_ite (chanTrained_onward h) (stackFails_onward h)) h)

theorem waveStart_onward {w : Nat} (h : Onward K s t) : Onward K s (waveStart t w) := by
  unfold waveStart
  refine reach_onward (onward_update ?_)
  split
  · exact advance_onward h
  · exact h

theorem execHalfWaveStart_leads {w : Nat} (h : Onward K s t) : Leads K s (execHalfWaveStart w t) := by
  unfold execHalfWaveStart
  exact ends_leads (onward_ite (waveStart_onward h) h)

theorem release_onward {hr : Nat} (h : Onward K s t) : Onward K s (release t hr) := by
  unfold release
  exact onward_update (advance_onward h)

theorem execTileRelease_leads {hr : Nat} (h : Onward K s t) : Leads K s (execTileRelease hr t) := by
  unfold execTileRelease
  exact ends_leads (onward_ite (release_onward h) h)

theorem tilesTested_onward {fails : List (Nat × BitVec 32)} {bonds : List (Nat × Nat × Nat)} (h : Onward K s t) :
    Onward K s (tilesTested t fails bonds) := by
  unfold tilesTested
  exact reach_onward (onward_update (onward_foldl (onward_foldl h (fun _ _ => selfFail_onward)) (fun _ _ => selfFail_onward)))

theorem execTileSelfTestDone_leads {fails : TileTests} (h : Onward K s t) : Leads K s (execTileSelfTestDone fails t) := by
  unfold execTileSelfTestDone
  exact ends_leads (onward_ite (tilesTested_onward h) h)

theorem qualFail_onward {f : Nat × Nat × Nat × Nat} (h : Onward K s t) : Onward K s (qualFail t f) := by
  unfold qualFail
  exact onward_ite h (laneDefect_onward (onward_update h))

theorem requalify_onward (h : Onward K s t) : Onward K s (requalify t) := by
  unfold requalify
  exact onward_ite (onward_foldl (onward_update h) (fun _ _ hu => onward_ite hu (settleLanes_onward hu))) (onward_ite
    (onward_foldl (onward_update h) (fun _ _ hu => onward_ite hu (settleLanes_onward hu))) (reach_onward (onward_update
    (onward_foldl (onward_update h) (fun _ _ hu => onward_ite hu (settleLanes_onward hu))))))

theorem qualWindow_onward {errors : List (Nat × Nat × Nat × Nat)} (h : Onward K s t) : Onward K s (qualWindow t errors) := by
  unfold qualWindow
  exact requalify_onward (onward_foldl (onward_update (advance_onward h)) (fun _ _ => qualFail_onward))

theorem execLaneQualWindowEnd_leads {errors : List (Nat × Nat × Nat × Nat)} (h : Onward K s t) :
    Leads K s (execLaneQualWindowEnd errors t) := by
  unfold execLaneQualWindowEnd
  exact ends_leads (onward_ite (qualWindow_onward h) h)

theorem remapRows_onward (h : Onward K s t) : Onward K s (remapRows t) := by
  unfold remapRows
  exact onward_foldl h (fun _ _ hu => onward_foldl hu (fun _ _ => remapRow_onward))

theorem buildInventory_onward (h : Onward K s t) : Onward K s (buildInventory t) := by
  unfold buildInventory
  exact setEnt_onward (setEnt_onward (rescale_onward (setGcaps_onward (reach_onward (onward_update (setEnts_onward
    (setEnt_onward (unitEntries_onward (tileEntries_onward (onward_update h))))))))))

theorem becomeReady_onward (h : Onward K s t) : Onward K s (becomeReady t) := by
  unfold becomeReady
  exact onward_ite (setMain_onward (onward_update (setEnt_onward (remapRows_onward (reach_onward h))))) (logEvent_onward
    (setMain_onward (onward_update (setEnt_onward (remapRows_onward (reach_onward h))))))

theorem execInventoryBuild_leads (h : Onward K s t) : Leads K s (execInventoryBuild t) := by
  unfold execInventoryBuild
  exact ends_leads (onward_ite (becomeReady_onward (buildInventory_onward h)) h)

/-! ### The functions of Machine/Host -/

theorem unmappedAccess_onward {a : Nat} (h : Onward K s t) : Onward K s (unmappedAccess t a) := by
  unfold unmappedAccess
  exact logEvent_onward (bump_onward h)

theorem hostWord_onward {a : Nat} {transit : Upset} (h : Onward K s t) : Onward K s (hostWord t a transit).2 := by
  unfold hostWord
  split
  · split
    · exact onward_of_snd ‹_› (readWord_onward h)
    · exact received_onward (onward_of_snd ‹_› (readWord_onward h))
  · exact readWord_onward h

theorem readPart_onward {tag a n : Nat} {transit : Upset} (h : Onward K s t) : Onward K s (readPart t tag a n transit).2 := by
  unfold readPart
  split
  · exact hostSend_onward h
  · split
    · exact hostSend_onward h
    · split
      · exact hostSend_onward (onward_of_snd ‹_› (hostWord_onward h))
      · exact hostSend_onward (bump_onward (onward_of_snd ‹_› (hostWord_onward h)))

theorem readEnds_onward {tag : ReadTag} {at' : Nat} (h : Onward K s t) : Onward K s (readEnds t tag at') := by
  unfold readEnds
  exact raise_onward (advance_onward h)

theorem readParts_onward {ps : List (Nat × Nat)} {tag : ReadTag} {at' : Nat} (h : Onward K s t) :
    Onward K s (readParts t ps tag at') := by
  unfold readParts
  refine readEnds_onward (onward_if (onward_foldl_snd ?_ (fun _ _ => readPart_onward)) failedReq_onward)
  split
  · exact unmappedAccess_onward h
  · exact h

theorem bar2Read_onward {off len : Nat} {tag : ReadTag} (h : Onward K s t) : Onward K s (bar2Read t off len tag) := by
  unfold bar2Read
  exact onward_ite (readEnds_onward (hostSend_onward h)) (inTurn_onward h (fun _ => readParts_onward))

theorem hostPoison_onward {a : Nat} (h : Onward K s t) : Onward K s (hostPoison t a) := by
  unfold hostPoison
  exact logEvent_onward (bump_onward h)

theorem writePart_onward {a : Nat} {d : List Byte} (h : Onward K s t) : Onward K s (writePart t a d).2 := by
  unfold writePart
  split
  · exact flagWrite_onward h
  · exact ctxWrite_onward h
  · exact h
  · split
    · exact hostPoison_onward (onward_of_snd ‹_› (writeBytes_onward h))
    · exact onward_of_snd ‹_› (writeBytes_onward h)

theorem writeParts_onward {k : Nat} {l : List (Nat × List Byte)} {bad : Bool} (h : Onward K s t) :
    Onward K s (writeParts k l bad t).2 := by
  induction k generalizing t l bad with
  | zero =>
    unfold writeParts
    exact h
  | succ k ih =>
    cases l with
    | nil =>
      unfold writeParts
      exact h
    | cons y l =>
      unfold writeParts
      dsimp only
      split
      · exact ih (writeLine_onward h)
      · exact ih (writePart_onward h)

theorem putLost_onward {ps : List (Nat × List Byte)} (h : Onward K s t) : Onward K s (putLost t ps) := by
  unfold putLost
  split
  · exact onward_ite (writePoison_onward h) h
  · exact h

theorem putParts_onward {ps : List (Nat × List Byte)} {upset : Upset} (h : Onward K s t) :
    Onward K s (putParts t ps upset) := by
  unfold putParts
  dsimp only
  split
  · refine failedReq_onward (writeParts_onward (putLost_onward (onward_of_snd ‹_› (fromBuffer_onward ?_))))
    split
    · exact unmappedAccess_onward h
    · exact h
  · refine onward_if (writeParts_onward (onward_of_snd ‹_› (fromBuffer_onward ?_))) failedReq_onward
    split
    · exact unmappedAccess_onward h
    · exact h

theorem bar2Write_onward {off : Nat} {x : SentBytes} (h : Onward K s t) : Onward K s (bar2Write t off x) := by
  unfold bar2Write
  exact onward_ite h (inTurn_onward h (fun _ => putParts_onward))

theorem hostAtomic_onward {a : Nat} {wide cas : Bool} {cmp v tag : Nat} (h : Onward K s t) :
    Onward K s (hostAtomic t a wide cas cmp v tag) := by
  unfold hostAtomic
  dsimp only
  split
  · exact hostSend_onward (onward_of_snd_snd ‹_› (atomicAt_onward h))
  · exact hostSend_onward (hostPoison_onward (onward_of_snd_snd ‹_› (atomicAt_onward h)))
  · exact hostSend_onward (bump_onward (failedReq_onward (onward_of_snd_snd ‹_› (atomicAt_onward h))))

theorem bar2Atomic_onward {off : Nat} {wide cas : Bool} {cmp v tag : Nat} (h : Onward K s t) :
    Onward K s (bar2Atomic t off wide cas cmp v tag) := by
  unfold bar2Atomic
  exact onward_ite (hostSend_onward h) (onward_ite (hostSend_onward (unmappedAccess_onward h)) (onward_ite (hostSend_onward
    (unmappedAccess_onward h)) (inTurn_onward h (fun _ => hostAtomic_onward))))

theorem settleQueue_onward {n : Nat} (h : Onward K s t) : Onward K s (settleQueue t n) := by
  unfold settleQueue
  exact onward_ite (setQueue_onward h) h

theorem rejectSlot_onward {n slot : Nat} (h : Onward K s t) : Onward K s (rejectSlot t n slot) := by
  unfold rejectSlot
  refine onward_ite h ?_
  split
  · exact onward_ite h (postComp_onward (onward_update h))
  · exact postComp_onward (drawFree_onward h)

theorem rejectOpen_onward {n : Nat} (h : Onward K s t) : Onward K s (rejectOpen t n) := by
  unfold rejectOpen
  refine setQueue_onward (onward_foldl h (fun _ _ hu => ?_))
  split
  · exact onward_ite hu (rejectSlot_onward hu)
  · exact rejectSlot_onward hu

theorem disableQueue_onward {n : Nat} (h : Onward K s t) : Onward K s (disableQueue t n) := by
  unfold disableQueue
  exact settleQueue_onward (rejectOpen_onward (setQueue_onward h))

theorem enableQueue_onward {n v : Nat} (h : Onward K s t) : Onward K s (enableQueue t n v) := by
  unfold enableQueue
  exact onward_ite (setQueue_onward (onward_update h)) (setQueue_onward (onward_update h))

theorem ctrlWrite_onward {n v : Nat} (h : Onward K s t) : Onward K s (ctrlWrite t n v) := by
  unfold ctrlWrite
  exact onward_ite (onward_if (onward_ite h (bump_onward h)) disableQueue_onward) (onward_ite (enableQueue_onward h)
    (setQueue_onward h))

theorem leaveSleep_onward (h : Onward K s t) : Onward K s (leaveSleep t) := by
  unfold leaveSleep
  exact onward_ite (onward_update h) h

theorem dbErr_onward {n : Nat} (h : Onward K s t) : Onward K s (dbErr t n) := by
  unfold dbErr
  exact setQueue_onward h

theorem tailWrite_onward {n v : Nat} (h : Onward K s t) : Onward K s (tailWrite t n v) := by
  unfold tailWrite
  exact onward_ite h (onward_ite (dbErr_onward h) (onward_ite (dbErr_onward h) (onward_if (onward_if
    (setQueue_onward h) rejectOpen_onward) leaveSleep_onward)))

theorem headWrite_onward {n v : Nat} (h : Onward K s t) : Onward K s (headWrite t n v) := by
  unfold headWrite
  exact onward_ite h (onward_ite (dbErr_onward h) (setQueue_onward h))

theorem queueReg_onward {n o v : Nat} (h : Onward K s t) : Onward K s (queueReg t n o v) := by
  unfold queueReg
  exact onward_ite (bump_onward h) (onward_ite (onward_ite (setQueue_onward h) h) (onward_ite (setQueue_onward h) (onward_ite
    (setQueue_onward h) (setQueue_onward h))))

theorem apertureWrite_onward {i v : Nat} (h : Onward K s t) : Onward K s (apertureWrite t i v) := by
  unfold apertureWrite
  exact onward_ite (onward_update h) h

theorem discardReq_onward {v : Nat} (h : Onward K s t) : Onward K s (discardReq t v) := by
  unfold discardReq
  exact onward_ite (classB_onward h) h

theorem eventsClear_onward {v : Nat} (h : Onward K s t) : Onward K s (eventsClear t v) := by
  unfold eventsClear
  exact onward_update h

theorem msixWrite_onward {k v : Nat} (h : Onward K s t) : Onward K s (msixWrite t k v) := by
  unfold msixWrite
  exact onward_if (onward_update h) (fun h => hostSend_onward (onward_update h))

theorem wideWrite_onward {off v : Nat} (h : Onward K s t) : Onward K s (wideWrite t off v) := by
  unfold wideWrite
  exact onward_ite (apertureWrite_onward h) (onward_ite (ctrlWrite_onward h) (queueReg_onward h))

theorem regWrite4_onward {off v : Nat} (h : Onward K s t) : Onward K s (regWrite4 t off v) := by
  unfold regWrite4
  exact onward_ite (wideWrite_onward h) (onward_ite (eventsClear_onward h) (onward_ite (discardReq_onward h) (onward_ite
    (queueReg_onward h) (onward_ite (onward_ite (tailWrite_onward h) (onward_ite (headWrite_onward h) h)) (onward_ite
    (msixWrite_onward h) h)))))

theorem bar0Read_onward {off len : Nat} {tag : ReadTag} (h : Onward K s t) : Onward K s (bar0Read t off len tag) := by
  unfold bar0Read
  exact readEnds_onward (hostSend_onward (mbxSettle_onward h))

theorem readList_onward {a n : Nat} (h : Onward K s t) : Onward K s (readList t a n).2.2 := by
  unfold readList
  exact readBytes_onward h

theorem checkDesc_onward {q : Queue} {d : Nat} (h : Onward K s t) : Onward K s (checkDesc t q d).2 := by
  unfold checkDesc
  dsimp only
  split
  · exact h
  · split
    · split
      · exact readList_onward h
      · split
        · exact onward_if (readList_onward h) bump_onward
        · exact readList_onward h
    · split
      · exact h
      · split
        · exact onward_ite (bump_onward h) h
        · exact h

theorem refuseJob_onward {j status cause : Nat} (h : Onward K s t) : Onward K s (refuseJob t j status cause) := by
  unfold refuseJob
  split
  · exact h
  · exact postComp_onward (onward_update h)

theorem fetchDesc_onward {n d : Nat} (h : Onward K s t) : Onward K s (fetchDesc t n d) := by
  unfold fetchDesc
  dsimp only
  split
  · exact refuseJob_onward (onward_of_snd ‹_› (checkDesc_onward (hostSend_onward (onward_update (setQueue_onward
      (onward_update h))))))
  · exact failedReq_onward (onward_of_snd ‹_› (checkDesc_onward (hostSend_onward (onward_update (setQueue_onward
      (onward_update h))))))
  · exact onward_ite (refuseJob_onward (onward_of_snd ‹_› (checkDesc_onward (hostSend_onward (onward_update (setQueue_onward
      (onward_update h))))))) (setQueue_onward (onward_update (onward_of_snd ‹_› (checkDesc_onward (hostSend_onward
      (onward_update (setQueue_onward (onward_update h))))))))

theorem admitJob_onward {o : Nat × Nat × Job × Nat} (h : Onward K s t) : Onward K s (admitJob t o) := by
  unfold admitJob
  exact onward_foldl (setQueue_onward (onward_update h)) (fun _ _ hu => unquiet_onward (setTile_onward hu))

theorem queueVector_onward {n : Nat} (h : Onward K s t) : Onward K s (queueVector t n) := by
  unfold queueVector
  exact onward_ite h (onward_ite (setQueue_onward h) (sendVector_onward (setQueue_onward h)))

theorem writeComp_onward {n : Nat} {c : Comp} (h : Onward K s t) : Onward K s (writeComp t n c) := by
  unfold writeComp
  exact settleQueue_onward (queueVector_onward (hostSend_onward (bump_onward (setQueue_onward h))))

/-! ### The functions of Machine/Catalogue -/

theorem setStage_onward {tr : Transport} {v : Stage} (h : Onward K s t) : Onward K s (setStage t tr v) := by
  unfold setStage
  split
  · exact onward_update h
  · exact h

theorem countFab_onward {tr : Transport} (h : Onward K s t) : Onward K s (countFab t tr) := by
  unfold countFab
  split
  · exact bump_onward h
  · exact h

theorem catRead_onward {tr : Transport} {staged : Bool} {r : CatReq} {row : EntRow} (h : Onward K s t) :
    Onward K s (catRead t tr staged r row).2.2 := by
  unfold catRead
  dsimp only
  split
  · split
    · exact h
    · split <;> exact h
  · split
    · exact h
    · split <;> exact h

theorem enterSleep_onward (h : Onward K s t) : Onward K s (enterSleep t) := by
  unfold enterSleep
  exact onward_update h

theorem powerRefused_onward (h : Onward K s t) : Onward K s (powerRefused t).2 := by
  unfold powerRefused
  exact bump_onward h

theorem powerRun_onward (h : Onward K s t) : Onward K s (powerRun t).2 := by
  unfold powerRun
  exact leaveSleep_onward (onward_update h)

theorem powerSleep_onward (h : Onward K s t) : Onward K s (powerSleep t).2 := by
  unfold powerSleep
  split
  · exact enterSleep_onward h
  · exact powerRefused_onward h

theorem powerDeep_onward (h : Onward K s t) : Onward K s (powerDeep t).2 := by
  unfold powerDeep
  split
  · exact h
  · split
    · exact onward_ite h (onward_update (leaveSleep_onward h))
    · exact powerRefused_onward h

theorem powerReq_onward {v : Nat} (h : Onward K s t) : Onward K s (powerReq t v).2 := by
  unfold powerReq
  split
  · exact powerRun_onward h
  · split
    · exact powerSleep_onward h
    · split
      · exact powerDeep_onward h
      · exact h

theorem transitReq_onward {tr : Transport} {v : Nat} (h : Onward K s t) : Onward K s (transitReq t tr v).2 := by
  unfold transitReq
  split
  · exact h
  · split
    · exact countFab_onward h
    · split
      · exact enterTransit_onward (onward_ite (leaveDeep_onward h) h)
      · exact h

theorem keepRelease_onward {v : Nat} (h : Onward K s t) : Onward K s (keepRelease t v).2 := by
  unfold keepRelease
  split
  · exact h
  · exact onward_update h

theorem retrainReq_onward {v : Nat} (h : Onward K s t) : Onward K s (retrainReq t v).2 := by
  unfold retrainReq
  split
  · exact h
  · split
    · exact h
    · split
      · exact h
      · dsimp only
        split
        · exact h
        · exact onward_update h

theorem consNote_onward {key v : Nat} (h : Onward K s t) : Onward K s (consNote t key v) := by
  unfold consNote
  exact logEvent_onward (bump_onward h)

theorem shutdownClear_onward {v : Nat} (h : Onward K s t) : Onward K s (shutdownClear t v).2 := by
  unfold shutdownClear
  split
  · exact consNote_onward (onward_update h)
  · exact h

theorem resetCmd_onward {tr : Transport} {v : Nat} (h : Onward K s t) : Onward K s (resetCmd t tr v).2 := by
  unfold resetCmd
  dsimp only
  split
  · exact h
  · split
    · exact countFab_onward (onward_ite (bump_onward h) (bump_onward h))
    · split
      · exact h
      · split
        · exact h
        · exact startBringup_onward h
      · split
        · exact h
        · exact startBringup_onward h
      · dsimp only
        exact logEvent_onward (onward_update h)

theorem persistClear_onward {v : Nat} (h : Onward K s t) : Onward K s (persistClear t v).2 := by
  unfold persistClear
  split
  · dsimp only
    exact queueRecord_onward h
  · exact h

theorem stageWrite_onward {tr : Transport} {key v : Nat} (h : Onward K s t) : Onward K s (stageWrite t tr key v) := by
  unfold stageWrite
  exact setStage_onward h

theorem countRefusal_onward {v : State} {changed : Bool} (h : Onward K s t) : Onward K s (countRefusal t v changed) := by
  unfold countRefusal
  refine onward_ite h ?_
  dsimp only
  split
  · exact setEnt_onward (bump_onward h)
  · exact bump_onward h

theorem fabricCommit_onward {v : State} (h : Onward K s t) : Onward K s (fabricCommit v t) := by
  unfold fabricCommit
  exact reroute_onward (onward_update h)

theorem applyCommit_onward {vals : SMap Nat} (h : Onward K s t) : Onward K s (applyCommit t vals) := by
  unfold applyCommit
  exact onward_foldl (onward_ite (putEnts_onward h) (fabricCommit_onward (onward_update h))) (fun _ _ hu => onward_ite
    (persist_onward hu) hu)

theorem commit_onward {tr : Transport} {v : Nat} (h : Onward K s t) : Onward K s (commit t tr v).2 := by
  unfold commit
  split
  · exact h
  · dsimp only
    split
    · exact setStage_onward h
    · split
      · exact setStage_onward (countRefusal_onward h)
      · exact applyCommit_onward (setStage_onward h)

theorem abort_onward {tr : Transport} {v : Nat} (h : Onward K s t) : Onward K s (abort t tr v).2 := by
  unfold abort
  split
  · exact h
  · exact setStage_onward h

theorem stageEmpty_onward {key : Nat} (h : Onward K s t) : Onward K s (stageEmpty t key) := by
  unfold stageEmpty
  exact logEvent_onward (onward_update h)

theorem stageExpire_onward {tr : Transport} (h : Onward K s t) : Onward K s (stageExpire t tr) := by
  unfold stageExpire
  refine onward_ite h ?_
  dsimp only
  split
  · exact stageEmpty_onward (advance_onward h)
  · exact advance_onward h

theorem expireStages_onward (h : Onward K s t) : Onward K s (expireStages t) := by
  unfold expireStages
  exact onward_foldl h (fun _ _ => stageEmpty_onward)

theorem consWrite_onward {key v : Nat} (hK : ¬K.cons) (h : Onward K s t) : Onward K s (consWrite t key v).2 := by
  have hw : ∀ c, Onward K s { t with cons := SMap.put t.cons key v, con := c } := fun c =>
    { h with cons := fun k => absurd k hK }
  unfold consWrite
  dsimp only
  split
  · exact consNote_onward (persist_onward (hw _))
  · exact h

theorem rwWrite_onward {row : EntRow} {idx sub v : Nat} (h : Onward K s t) : Onward K s (rwWrite t row idx sub v).2 := by
  unfold rwWrite
  split
  · exact h
  · exact onward_if (setEnt_onward h) persist_onward

theorem woWrite_onward {tr : Transport} {idx sub v : Nat} (h : Onward K s t) : Onward K s (woWrite t tr idx sub v).2 := by
  unfold woWrite
  split
  · exact commit_onward h
  · exact abort_onward h
  · exact resetCmd_onward h
  · exact persistClear_onward h
  · exact powerReq_onward h
  · exact transitReq_onward h
  · exact keepRelease_onward h
  · exact retrainReq_onward h

theorem writeValue_onward {tr : Transport} {row : EntRow} {idx sub v : Nat}
    (hK : tr = .cons → row.acc = .cons → isConsCommand idx sub = false → ¬K.cons) (h : Onward K s t) :
    Onward K s (writeValue t tr row idx sub v).2 := by
  unfold writeValue
  split
  · exact h
  · split
    · exact bump_onward h
    · split
      · exact shutdownClear_onward h
      · exact consWrite_onward (hK (not_not.1 ‹_›) ‹_› (eq_false_of_ne_true ‹_›)) h
  · split
    · exact rwWrite_onward h
    · exact countFab_onward h
  · split
    · exact countFab_onward h
    · split
      · exact stageWrite_onward h
      · exact h
  · split
    · exact woWrite_onward h
    · exact countFab_onward h

theorem writeEntry_onward {tr : Transport} {r : CatReq} {row : EntRow}
    (hK : tr = .cons → row.acc = .cons → isConsCommand r.index.toNat r.sub.toNat = false → ¬K.cons) (h : Onward K s t) :
    Onward K s (writeEntry t tr r row).2 := by
  unfold writeEntry
  extract_lets idx sub
  split
  · exact h
  · generalize (decide (r.offset ≠ 0#32) || _) = bad
    cases bad
    · exact writeValue_onward hK h
    · exact h

theorem serveCount_onward {tr : Transport} {op : CatOp} {r : CatReq} (h : Onward K s t) :
    Onward K s (serveCount t tr op r).2.2 := by
  unfold serveCount
  dsimp only
  split
  · exact h
  · split
    · exact onward_ite (bump_onward h) h
    · split
      · exact h
      · split <;> split <;> exact h

/-- A request that may change a CONS value: a WRITE through the Conservator port of one that is no command (R30). -/
def WritesCons (tr : Transport) (op : CatOp) (r : CatReq) : Prop :=
  tr = .cons ∧ op = .write ∧ (findRow r.index.toNat r.sub.toNat).map (·.acc) = some .cons ∧
    isConsCommand r.index.toNat r.sub.toNat = false

theorem serveEntry_onward {tr : Transport} {op : CatOp} {r : CatReq} {row : EntRow} (hK : WritesCons tr op r → ¬K.cons)
    (hr : findRow r.index.toNat r.sub.toNat = some row) (h : Onward K s t) : Onward K s (serveEntry t tr op r row).2.2 := by
  unfold serveEntry
  split
  · exact onward_ite (bump_onward h) h
  · split
    · split <;> exact h
    · exact writeEntry_onward (fun ht ha hc => hK ⟨ht, rfl, by rw [hr, Option.map_some, ha], hc⟩) h
    · exact catRead_onward h
    · exact catRead_onward h

theorem serveNow_onward {tr : Transport} {op : CatOp} {r : CatReq} (hK : WritesCons tr op r → ¬K.cons) (h : Onward K s t) :
    Onward K s (serveNow t tr op r).2.2 := by
  unfold serveNow
  split
  · exact h
  · split
    · exact serveCount_onward h
    · split
      · exact h
      · exact serveEntry_onward hK ‹_› h

theorem serve_onward {tr : Transport} {op : CatOp} {r : CatReq} (hK : WritesCons tr op r → ¬K.cons) (h : Onward K s t) :
    Onward K s (serve t tr op r).2.2 := by
  unfold serve
  exact serveNow_onward hK (expireStages_onward h)

theorem mbxAnswer_onward {ns : Nat} {msg : List Byte} (h : Onward K s t) : Onward K s (mbxAnswer t ns msg) := by
  unfold mbxAnswer
  exact onward_ite (mbxDone_onward h) (onward_update h)

theorem catDeliver_onward {tr : Transport} {ns : Nat} {msg : List Byte} (h : Onward K s t) :
    Onward K s (catDeliver t tr ns msg) := by
  unfold catDeliver
  split
  · exact mbxAnswer_onward h
  · exact onward_send h
  · exact onward_send h

theorem owe_onward {v : State} {tr : Transport} {ns : Nat} (h : Onward K s v) : Onward K s (owe t v tr ns) := by
  unfold owe
  exact onward_ite h (onward_update h)

theorem mbxDrop_onward (h : Onward K s t) : Onward K s (mbxDrop t) := by
  unfold mbxDrop
  exact onward_update h

theorem request_onward {tr : Transport} {op : CatOp} {r : CatReq} (hK : WritesCons tr op r → ¬K.cons) (h : Onward K s t) :
    Onward K s (request t tr op r) := by
  unfold request
  exact onward_ite (mbxDrop_onward (mbxSettle_onward h)) (onward_ite (catDeliver_onward (mbxSettle_onward h))
    (catDeliver_onward (owe_onward (serve_onward hK (mbxSettle_onward h)))))

theorem arrive_onward {tr : Transport} {op : CatOp} {r : CatReq} (hK : WritesCons tr op r → ¬K.cons) (h : Onward K s t) :
    Onward K s (arrive t tr op r) := by
  unfold arrive
  exact onward_ite (request_onward hK h) h

theorem serveMessage_onward {tr : Transport} {d : List Byte} (ht : tr ≠ .cons) (h : Onward K s t) :
    Onward K s (serveMessage t tr d).2 := by
  unfold serveMessage
  dsimp only
  split
  · split
    · exact h
    · exact serve_onward (fun hw => absurd hw.1 ht) h
  · exact h

theorem mbxGo_onward {ns : Nat} (h : Onward K s t) : Onward K s (mbxGo t ns) := by
  unfold mbxGo
  exact mbxAnswer_onward (owe_onward (serveMessage_onward nofun h))

theorem mbxDoor_onward {v ns : Nat} (h : Onward K s t) : Onward K s (mbxDoor t v ns) := by
  unfold mbxDoor
  exact onward_ite (mbxDrop_onward (mbxSettle_onward h)) (onward_if (mbxSettle_onward h) mbxGo_onward)

theorem mbxWrite_onward {o v : Nat} (h : Onward K s t) : Onward K s (mbxWrite t o v) := by
  unfold mbxWrite
  have h1 : Onward K s (mbxSettle t) := mbxSettle_onward h
  exact onward_ite (mbxDoor_onward h1) (onward_ite (onward_ite (onward_update h1) h1) (onward_ite (onward_ite
    (onward_update h1) h1)
    (onward_ite (onward_ite (mbxDrop_onward h1) (onward_update h1)) h1)))

/-! ### The functions of Machine/CatalogueCmds -/

theorem execCatalogueRead_leads {tr : Transport} {r : CatReq} (h : Onward K s t) : Leads K s (execCatalogueRead tr r t) :=
  ends_leads (arrive_onward (fun hw => nomatch hw.2.1) h)

theorem execCatalogueWrite_leads {tr : Transport} {r : CatReq} (hK : WritesCons tr .write r → ¬K.cons) (h : Onward K s t) :
    Leads K s (execCatalogueWrite tr r t) := by
  unfold execCatalogueWrite
  exact ends_leads (arrive_onward hK h)

theorem execReadStaged_leads {tr : Transport} {r : CatReq} (h : Onward K s t) : Leads K s (execReadStaged tr r t) :=
  ends_leads (arrive_onward (fun hw => nomatch hw.2.1) h)

theorem execDescribe_leads {tr : Transport} {r : CatReq} (h : Onward K s t) : Leads K s (execDescribe tr r t) :=
  ends_leads (arrive_onward (fun hw => nomatch hw.2.1) h)

theorem execStagedEntryWrite_leads {tr : Transport} {r : CatReq} (h : Onward K s t) :
    Leads K s (execStagedEntryWrite tr r t) := by
  unfold execStagedEntryWrite
  refine ends_leads ?_
  split
  case isTrue hn =>
    refine arrive_onward (fun ⟨_, _, ha, _⟩ => ?_) h
    obtain ⟨row, hr, hc⟩ := Option.map_eq_some_iff.1 ha
    simp [names, hr, hc] at hn
  case isFalse => exact h

theorem execConsEntryWrite_leads {tr : Transport} {r : CatReq} (hK : WritesCons tr .write r → ¬K.cons) (h : Onward K s t) :
    Leads K s (execConsEntryWrite tr r t) := by
  unfold execConsEntryWrite
  exact ends_leads (onward_ite (arrive_onward hK h) h)

theorem execCatalogueReservedOp_leads {tr : Transport} {op : BitVec 8} {r : CatReq} (h : Onward K s t) :
    Leads K s (execCatalogueReservedOp tr op r t) := by
  unfold execCatalogueReservedOp
  exact ends_leads (onward_ite (catDeliver_onward h) h)

theorem cmdWrite_onward {tr : Transport} {tag : BitVec 8} {idx sub n v : Nat}
    (hc : (findRow (idx % 2 ^ 16) (sub % 2 ^ 8)).map (·.acc) = some .cons → isConsCommand (idx % 2 ^ 16) (sub % 2 ^ 8) = true)
    (h : Onward K s t) : Onward K s (cmdWrite t tr tag idx sub n v) := by
  unfold cmdWrite
  refine arrive_onward (fun ⟨_, _, ha, hn⟩ => ?_) h
  simp only [writeReq, BitVec.toNat_ofNat] at ha hn
  exact absurd (hc ha) (by simp [hn])

theorem execCommit_leads {tr : Transport} {tag v : BitVec 8} (h : Onward K s t) : Leads K s (execCommit tr tag v t) := by
  unfold execCommit
  exact ends_leads (cmdWrite_onward nofun h)

theorem execAbort_leads {tr : Transport} {tag v : BitVec 8} (h : Onward K s t) : Leads K s (execAbort tr tag v t) := by
  unfold execAbort
  exact ends_leads (cmdWrite_onward nofun h)

theorem execStageContextExpiry_leads {tr : Transport} (h : Onward K s t) : Leads K s (execStageContextExpiry tr t) := by
  unfold execStageContextExpiry
  exact ends_leads (onward_ite h (stageExpire_onward h))

theorem execResetCmd_leads {tr : Transport} {tag : BitVec 8} {v : BitVec 32} (h : Onward K s t) :
    Leads K s (execResetCmd tr tag v t) := by
  unfold execResetCmd
  exact ends_leads (cmdWrite_onward nofun h)

theorem execPersistClear_leads {tr : Transport} {tag : BitVec 8} {v : BitVec 32} (h : Onward K s t) :
    Leads K s (execPersistClear tr tag v t) := by
  unfold execPersistClear
  exact ends_leads (cmdWrite_onward nofun h)

theorem execPowerReqRun_leads {tr : Transport} {tag : BitVec 8} (h : Onward K s t) : Leads K s (execPowerReqRun tr tag t) := by
  unfold execPowerReqRun
  exact ends_leads (cmdWrite_onward nofun h)

theorem execPowerReqSleep_leads {tr : Transport} {tag : BitVec 8} (h : Onward K s t) :
    Leads K s (execPowerReqSleep tr tag t) := by
  unfold execPowerReqSleep
  exact ends_leads (cmdWrite_onward nofun h)

theorem execPowerReqDeep_leads {tr : Transport} {tag : BitVec 8} (h : Onward K s t) :
    Leads K s (execPowerReqDeep tr tag t) := by
  unfold execPowerReqDeep
  exact ends_leads (cmdWrite_onward nofun h)

theorem execFabTransitReq_leads {tr : Transport} {tag v : BitVec 8} (h : Onward K s t) :
    Leads K s (execFabTransitReq tr tag v t) := by
  unfold execFabTransitReq
  exact ends_leads (cmdWrite_onward nofun h)

theorem execKeepRelease_leads {tr : Transport} {tag v : BitVec 8} (h : Onward K s t) :
    Leads K s (execKeepRelease tr tag v t) := by
  unfold execKeepRelease
  exact ends_leads (cmdWrite_onward nofun h)

theorem execRetrainReq_leads {tr : Transport} {tag : BitVec 8} {v : BitVec 16} (h : Onward K s t) :
    Leads K s (execRetrainReq tr tag v t) := by
  unfold execRetrainReq
  exact ends_leads (cmdWrite_onward nofun h)

theorem execShutdownClear_leads {tr : Transport} {tag v : BitVec 8} (h : Onward K s t) :
    Leads K s (execShutdownClear tr tag v t) := by
  unfold execShutdownClear
  exact ends_leads (cmdWrite_onward (fun hu => rfl) h)

theorem execMbxDoorbell_leads {d : Doorbell} (h : Onward K s t) : Leads K s (execMbxDoorbell d t) := by
  unfold execMbxDoorbell
  exact ends_leads (onward_ite (mbxDoor_onward h) h)

theorem regWord_onward {off v : Nat} (h : Onward K s t) : Onward K s (regWord t off v) := by
  unfold regWord
  exact onward_ite (mbxWrite_onward h) (regWrite4_onward h)

theorem registerWrite_onward {off size v : Nat} (h : Onward K s t) : Onward K s (registerWrite t off size v) := by
  unfold registerWrite
  exact onward_ite (regWord_onward h) (onward_ite (onward_ite (wideWrite_onward h) (regWord_onward (regWord_onward h))) h)

theorem execRegisterWrite_leads {off size : Nat} {v : BitVec 64} (h : Onward K s t) :
    Leads K s (execRegisterWrite off size v t) := by
  unfold execRegisterWrite
  exact ends_leads (onward_ite (registerWrite_onward h) h)

theorem sendMgmtResp_onward {p : Nat} {rq : Packet} {msg : List Byte} (h : Onward K s t) :
    Onward K s (sendMgmtResp t p rq msg) := by
  unfold sendMgmtResp
  exact respondMgmt_onward h

theorem mgmtIn_onward {p : Nat} {pk : Packet} (h : Onward K s t) : Onward K s (mgmtIn t p pk) := by
  unfold mgmtIn
  exact onward_ite (ageDrop_onward h) (onward_ite (sendMgmtResp_onward (bump_onward h)) (onward_ite (bump_onward h)
    (sendMgmtResp_onward (serveMessage_onward nofun h))))

theorem execMgmtReq_leads {p : Nat} {pk : Packet} (h : Onward K s t) : Leads K s (execMgmtReq p pk t) := by
  unfold execMgmtReq
  exact ends_leads (onward_ite (mgmtIn_onward (giveCredit_onward h)) h)

theorem mgmtBack_onward {pk : Packet} (h : Onward K s t) : Onward K s (mgmtBack t pk) := by
  unfold mgmtBack
  exact onward_ite (bump_onward h) (onward_ite (bump_onward h) (onward_ite (bump_onward h) (onward_send h)))

theorem execMgmtResp_leads {p : Nat} {pk : Packet} (h : Onward K s t) : Leads K s (execMgmtResp p pk t) := by
  unfold execMgmtResp
  exact ends_leads (onward_ite (mgmtBack_onward (giveCredit_onward h)) h)

theorem mctpAnswer_onward {port cmd cc : Nat} {data : List Byte} (h : Onward K s t) :
    Onward K s (mctpAnswer t port cmd cc data) := by
  unfold mctpAnswer
  exact onward_ite (onward_send h) h

theorem setEid_onward {port : Nat} {eid : BitVec 8} (h : Onward K s t) : Onward K s (setEid t port eid) := by
  unfold setEid
  exact onward_ite h (onward_ite (mctpAnswer_onward h) (mctpAnswer_onward (onward_update h)))

theorem execSetEndpointId_leads {port : Nat} {eid : BitVec 8} (h : Onward K s t) :
    Leads K s (execSetEndpointId port eid t) := by
  unfold execSetEndpointId
  exact ends_leads (setEid_onward h)

theorem execGetEndpointId_leads {port : Nat} (h : Onward K s t) : Leads K s (execGetEndpointId port t) := by
  unfold execGetEndpointId
  exact ends_leads (mctpAnswer_onward h)

theorem execGetEndpointUuid_leads {port : Nat} (h : Onward K s t) : Leads K s (execGetEndpointUuid port t) := by
  unfold execGetEndpointUuid
  exact ends_leads (mctpAnswer_onward h)

theorem execGetMctpVersionSupport_leads {port : Nat} (h : Onward K s t) : Leads K s (execGetMctpVersionSupport port t) := by
  unfold execGetMctpVersionSupport
  exact ends_leads (mctpAnswer_onward h)

theorem execGetMessageTypeSupport_leads {port : Nat} (h : Onward K s t) : Leads K s (execGetMessageTypeSupport port t) := by
  unfold execGetMessageTypeSupport
  exact ends_leads (mctpAnswer_onward h)

theorem execGetVendorDefinedMsgSupport_leads {port : Nat} (h : Onward K s t) :
    Leads K s (execGetVendorDefinedMsgSupport port t) := by
  unfold execGetVendorDefinedMsgSupport
  exact ends_leads (mctpAnswer_onward h)

theorem execMctpUnsupportedCmd_leads {port : Nat} {cmd : BitVec 8} (h : Onward K s t) :
    Leads K s (execMctpUnsupportedCmd port cmd t) := by
  unfold execMctpUnsupportedCmd
  exact ends_leads (onward_ite h (mctpAnswer_onward h))

theorem i3cAssign_onward {port addr : Nat} (h : Onward K s t) : Onward K s (i3cAssign t port addr) := by
  unfold i3cAssign
  exact onward_ite h (onward_update h)

theorem execSetdasa_leads {static addr : Nat} (h : Onward K s t) : Leads K s (execSetdasa static addr t) := by
  unfold execSetdasa
  exact ends_leads (onward_ite (i3cAssign_onward h) (onward_ite (i3cAssign_onward h) h))

theorem entdaa_onward {port addr : Nat} (h : Onward K s t) : Onward K s (entdaa t port addr) := by
  unfold entdaa
  exact onward_ite h (i3cAssign_onward (onward_send h))

theorem execEntdaa_leads {port addr : Nat} (h : Onward K s t) : Leads K s (execEntdaa port addr t) := by
  unfold execEntdaa
  exact ends_leads (onward_ite (entdaa_onward h) h)

/-! ### The functions of Machine/HostCmds -/

theorem fromHost_onward {f : State → State} (h : Onward K s t) (hf : ∀ v, Onward K s v → Onward K s (f v)) :
    Onward K s (fromHost t f) := by
  unfold fromHost
  exact onward_ite (hf _ h) h

theorem execSqTailDoorbell_leads {q : Nat} {v : BitVec 32} (h : Onward K s t) : Leads K s (execSqTailDoorbell q v t) := by
  unfold execSqTailDoorbell
  exact ends_leads (fromHost_onward h (fun _ hu => onward_ite (tailWrite_onward hu) hu))

theorem execCqHeadDoorbell_leads {q : Nat} {v : BitVec 32} (h : Onward K s t) : Leads K s (execCqHeadDoorbell q v t) := by
  unfold execCqHeadDoorbell
  exact ends_leads (fromHost_onward h (fun _ hu => onward_ite (headWrite_onward hu) hu))

theorem execQueueEnable_leads {q : Nat} {v : BitVec 64} (h : Onward K s t) : Leads K s (execQueueEnable q v t) := by
  unfold execQueueEnable
  exact ends_leads (fromHost_onward h (fun _ hu => onward_ite (ctrlWrite_onward hu) hu))

theorem execQueueDisable_leads {q : Nat} {v : BitVec 64} (h : Onward K s t) : Leads K s (execQueueDisable q v t) := by
  unfold execQueueDisable
  exact ends_leads (fromHost_onward h (fun _ hu => onward_ite (ctrlWrite_onward hu) hu))

theorem execDiscardReq_leads {v : BitVec 32} (h : Onward K s t) : Leads K s (execDiscardReq v t) := by
  unfold execDiscardReq
  exact ends_leads (fromHost_onward h (fun _ => discardReq_onward))

theorem execApertureBaseWrite_leads {i : Nat} {v : BitVec 64} (h : Onward K s t) : Leads K s (execApertureBaseWrite i v t) := by
  unfold execApertureBaseWrite
  exact ends_leads (fromHost_onward h (fun _ => apertureWrite_onward))

theorem execBar2Read_leads {off : BarOffset} {len : Nat} {tag : ReadTag} (h : Onward K s t) :
    Leads K s (execBar2Read off len tag t) := by
  unfold execBar2Read
  exact ends_leads (fromHost_onward h (fun _ hu => onward_ite (onward_ite (bar0Read_onward hu) (bar2Read_onward hu)) hu))

theorem execBar2Write_leads {off : Nat} {data : SentBytes} (h : Onward K s t) : Leads K s (execBar2Write off data t) := by
  unfold execBar2Write
  exact ends_leads (fromHost_onward h (fun _ => bar2Write_onward))

theorem execFlagWordWrite_leads {a : Nat} {data : List Byte} (h : Onward K s t) : Leads K s (execFlagWordWrite a data t) := by
  unfold execFlagWordWrite
  refine ends_leads (fromHost_onward h (fun _ hu => onward_ite ?_ hu))
  split
  · exact inTurn_onward hu (fun _ => flagWrite_onward)
  · exact hu

theorem execReductionContextWrite_leads {a : Nat} {data : List Byte} (h : Onward K s t) :
    Leads K s (execReductionContextWrite a data t) := by
  unfold execReductionContextWrite
  refine ends_leads (fromHost_onward h (fun _ hu => onward_ite ?_ hu))
  split
  · exact inTurn_onward hu (fun _ => ctxWrite_onward)
  · exact hu

theorem execBar2AtomicFetchadd_leads {off : Nat} {wide : Bool} {v : BitVec 64} {tag : Nat} (h : Onward K s t) :
    Leads K s (execBar2AtomicFetchadd off wide v tag t) := by
  unfold execBar2AtomicFetchadd
  exact ends_leads (fromHost_onward h (fun _ hu => onward_ite (bar2Atomic_onward hu) hu))

theorem execBar2AtomicCas_leads {off : Nat} {wide : Bool} {cmp swap : BitVec 64} {tag : Nat} (h : Onward K s t) :
    Leads K s (execBar2AtomicCas off wide cmp swap tag t) := by
  unfold execBar2AtomicCas
  exact ends_leads (fromHost_onward h (fun _ hu => onward_ite (bar2Atomic_onward hu) hu))

theorem execBar2AtomicUnsupported_leads {off tag : Nat} (h : Onward K s t) :
    Leads K s (execBar2AtomicUnsupported off tag t) := by
  unfold execBar2AtomicUnsupported
  exact ends_leads (fromHost_onward h (fun _ => hostSend_onward))

theorem configAnswer_onward {op : ConfigOp} {tag : Nat} (h : Onward K s t) : Onward K s (configAnswer t op tag) := by
  unfold configAnswer
  extract_lets done
  have hd : ∀ {v x}, Onward K s v → Onward K s (done v x) := onward_send
  cases op with
  | readIds | readClass | readSerial | readCap => exact hd h
  | setBar2Log => exact onward_ite (hd (setEnt_onward (onward_update h))) (hd h)
  | _ => exact hd (onward_update h)

theorem execConfigRequest_leads {op : ConfigOp} {tag : Nat} (h : Onward K s t) : Leads K s (execConfigRequest op tag t) := by
  unfold execConfigRequest
  exact ends_leads (onward_ite h (onward_ite (configAnswer_onward h) (onward_ite (onward_send h) h)))

theorem execDescriptorFetch_leads {q : Nat} {desc : BitVec 512} (h : Onward K s t) :
    Leads K s (execDescriptorFetch q desc t) := by
  unfold execDescriptorFetch
  exact ends_leads (onward_ite (whole_onward h (fun _ => fetchDesc_onward)) h)

theorem execJobAdmit_leads (h : Onward K s t) : Leads K s (execJobAdmit t) := by
  unfold execJobAdmit
  refine ends_leads (onward_ite ?_ h)
  split
  · exact admitJob_onward h
  · exact h

theorem execJobComplete_leads {j : Nat} (h : Onward K s t) : Leads K s (execJobComplete j t) := by
  unfold execJobComplete
  refine ends_leads ?_
  split
  · exact onward_ite (postComp_onward (endJob_onward h)) h
  · exact h

theorem execCompletionEntryWrite_leads {q : Nat} (h : Onward K s t) : Leads K s (execCompletionEntryWrite q t) := by
  unfold execCompletionEntryWrite
  refine ends_leads (onward_ite ?_ h)
  split
  · exact writeComp_onward (onward_update h)
  · exact h

theorem execMsixHoldoffEnd_leads {q : Nat} (h : Onward K s t) : Leads K s (execMsixHoldoffEnd q t) := by
  unfold execMsixHoldoffEnd
  refine ends_leads ?_
  split
  · exact h
  · exact onward_ite (sendVector_onward (setQueue_onward (advance_onward h))) (setQueue_onward (advance_onward h))

/-! ### The functions of Machine/Movers -/

theorem mFault_onward {j cause : Nat} (h : Onward K s t) : Onward K s (mFault t j cause) := by
  unfold mFault
  exact jobFault_onward h

theorem fetchMovers_onward {j i k : Nat} (h : Onward K s t) : Onward K s (fetchMovers j i k t) := by
  induction k generalizing t with
  | zero =>
    unfold fetchMovers
    exact h
  | succ k ih =>
    unfold fetchMovers
    split
    · exact h
    · refine onward_ite h ?_
      split
      · exact onward_ite (mFault_onward (onward_of_snd ‹_› (readWord_onward h))) (ih (onward_update (onward_of_snd ‹_›
          (readWord_onward h))))
      · exact mFault_onward (onward_of_snd ‹_› (readWord_onward h))
      · exact failedReq_onward (onward_of_snd ‹_› (readWord_onward h))

theorem setMover_onward {j i : Nat} {st : MvState} (h : Onward K s t) : Onward K s (setMover t j i st) := by
  unfold setMover
  split
  · exact h
  · exact onward_update h

theorem startMover_onward {j i : Nat} (h : Onward K s t) : Onward K s (startMover t j i) := by
  unfold startMover
  split
  · exact h
  · split
    · dsimp only
      split
      · exact onward_ite (setMover_onward h) h
      · exact h
    · exact h

theorem copySource_onward {jb : Job} {how : How} {b : RBuf} {a dst n : Nat} {clash : Bool} (h : Onward K s t) :
    Onward K s (copySource t jb how b a dst n clash).2.2.2.2 := by
  unfold copySource
  split
  · exact h
  · split <;> exact onward_of_snd_snd_snd ‹_› (readBytesB_onward h)

theorem readUnit_onward {jb : Job} {how : How} {src dst len : Nat} {l : List (Nat × Nat)} {b : RBuf} {acc : List (Option
    (List Byte) × Nat)} {bad : Bool} (h : Onward K s t) : Onward K s (readUnit jb how src dst len l b acc bad t).2.2.2.2 := by
  induction l generalizing t b acc bad with
  | nil =>
    unfold readUnit
    exact h
  | cons y r ih =>
    unfold readUnit
    dsimp only
    split
    · exact ih (onward_of_snd_snd_snd_snd ‹_› (copySource_onward h))
    · exact onward_of_snd_snd_snd_snd ‹_› (copySource_onward h)

theorem copyUnits_onward {jb : Job} {how : How} {src dst len : Nat} {l : List (List (Nat × Nat))} {b : RBuf} {bad : Bool}
    (h : Onward K s t) : Onward K s (copyUnits jb how src dst len l b bad t).2 := by
  induction l generalizing t b bad with
  | nil =>
    unfold copyUnits
    exact h
  | cons y r ih =>
    unfold copyUnits
    split
    · split
      · exact ih (onward_of_snd ‹_› (storeCopy_onward (onward_of_snd_snd_snd_snd ‹_› (readUnit_onward h))))
      · exact ih (onward_of_snd ‹_› (storeCopy_onward (onward_of_snd_snd_snd_snd ‹_› (readUnit_onward h))))
      · exact faultWith_onward (onward_of_snd ‹_› (storeCopy_onward (onward_of_snd_snd_snd_snd ‹_› (readUnit_onward h))))
    · exact faultWith_onward (onward_of_snd_snd_snd_snd ‹_› (readUnit_onward h))

theorem moverXfer_onward {j i d : Nat} {toDev : Bool} {far dev : Nat} {rop : Option (Nat × Nat)} (h : Onward K s t) :
    Onward K s (moverXfer t j i d toDev far dev rop).2 := by
  unfold moverXfer
  exact newXfer_onward h

theorem copyWork_onward {j i d : Nat} {jb : Job} (h : Onward K s t) : Onward K s (copyWork j i d jb t).2 := by
  unfold copyWork
  split
  · exact moverXfer_onward h
  · split
    · exact moverXfer_onward h
    · exact copyUnits_onward h

theorem fillWork_onward {j i d : Nat} {jb : Job} (h : Onward K s t) : Onward K s (fillWork j i d jb t).2 := by
  unfold fillWork
  dsimp only
  split
  · exact h
  · split
    · exact h
    · exact storeParts_onward h

theorem bcastWord_onward {jb : Job} {how : How} {d o : Nat} {v : Option (List Byte)} {l : List (Nat × Nat)} (h : Onward K s t) :
    Onward K s (bcastWord jb how d v l o t).2 := by
  induction l generalizing t o with
  | nil =>
    unfold bcastWord
    exact h
  | cons y r ih =>
    unfold bcastWord
    split
    · exact ih (onward_of_snd ‹_› (storeCopy_onward h))
    · exact storeCopy_onward h

theorem bcastWords_onward {jb : Job} {how : How} {d k o : Nat} {bs : List (Nat × Nat)} {b : RBuf} {bad : Bool}
    (h : Onward K s t) : Onward K s (bcastWords jb how d bs k o b bad t).2 := by
  induction k generalizing t o b bad with
  | zero =>
    unfold bcastWords
    exact h
  | succ k ih =>
    unfold bcastWords
    split
    · split
      · exact ih (onward_of_snd ‹_› (bcastWord_onward (onward_of_snd_snd_snd_snd ‹_› (copySource_onward h))))
      · exact faultWith_onward (onward_of_snd ‹_› (bcastWord_onward (onward_of_snd_snd_snd_snd ‹_› (copySource_onward h))))
    · exact faultWith_onward (onward_of_snd_snd_snd_snd ‹_› (copySource_onward h))

theorem bcastWork_onward {j i d : Nat} {jb : Job} (h : Onward K s t) : Onward K s (bcastWork j i d jb t).2 := by
  unfold bcastWork
  dsimp only
  split
  · exact h
  · split
    · exact h
    · exact bcastWords_onward h

theorem reduceGo_onward {jb : Job} {how : How} {d k o : Nat} {b : RBuf} {bad : Bool} (h : Onward K s t) :
    Onward K s (reduceGo jb how d k o b bad t).2 := by
  induction k generalizing t o b bad with
  | zero =>
    unfold reduceGo
    exact h
  | succ k ih =>
    unfold reduceGo
    split
    · split
      · exact ih (onward_of_snd ‹_› (reduceWords_onward (onward_of_snd_snd_snd_snd ‹_› (copySource_onward h))))
      · exact ih (onward_of_snd ‹_› (reduceWords_onward (onward_of_snd_snd_snd_snd ‹_› (copySource_onward h))))
      · exact faultWith_onward (onward_of_snd ‹_› (reduceWords_onward (onward_of_snd_snd_snd_snd ‹_› (copySource_onward h))))
    · exact ih (onward_of_snd_snd_snd_snd ‹_› (copySource_onward h))
    · exact faulted_onward (onward_of_snd_snd_snd_snd ‹_› (copySource_onward h))
    · exact faultWith_onward (onward_of_snd_snd_snd_snd ‹_› (copySource_onward h))

theorem moverReduceWork_onward {j i d : Nat} {jb : Job} (h : Onward K s t) : Onward K s (moverReduceWork j i d jb t).2 := by
  unfold moverReduceWork
  split
  · exact moverXfer_onward h
  · split
    · exact moverXfer_onward h
    · exact reduceGo_onward h

theorem casWork_onward {j i d : Nat} {jb : Job} (h : Onward K s t) : Onward K s (casWork j i d jb t).2 := by
  unfold casWork
  dsimp only
  split
  · split
    · exact h
    · split
      · split <;> exact onward_of_snd ‹_› (flush_onward (onward_of_snd_snd ‹_› (atomicAt_onward h)))
      · exact onward_of_snd_snd ‹_› (atomicAt_onward h)
      · exact onward_of_snd_snd ‹_› (atomicAt_onward h)
  · split
    · exact h
    · split
      · split <;> exact onward_of_snd ‹_› (flush_onward (onward_of_snd_snd ‹_› (atomicAt_onward h)))
      · exact onward_of_snd_snd ‹_› (atomicAt_onward h)
      · exact onward_of_snd_snd ‹_› (atomicAt_onward h)

theorem runMover_onward {j i op : Nat} {work : Nat → Job → State → Work × State} (h : Onward K s t)
    (hw : ∀ d jb v, Onward K s v → Onward K s (work d jb v).2) : Onward K s (runMover t j i op work) := by
  unfold runMover
  split
  · exact h
  · split
    · refine onward_ite h (whole_onward h (fun _ hu => ?_))
      split
      · exact setMover_onward (onward_of_snd ‹_› (hw _ _ _ hu))
      · exact mFault_onward (onward_if (onward_of_snd ‹_› (hw _ _ _ hu)) failedReq_onward)
      · exact xGo_onward (onward_of_snd ‹_› (hw _ _ _ hu))
      · exact failedReq_onward (onward_of_snd ‹_› (hw _ _ _ hu))
    · exact h

theorem moverSignal_onward {j d : Nat} (h : Onward K s t) : Onward K s (moverSignal t j d) := by
  unfold moverSignal
  exact onward_ite h (onward_ite (onward_ite (remoteSignal_onward h) (mFault_onward h)) (signal_onward h))

theorem completeMover_onward {j i : Nat} (h : Onward K s t) : Onward K s (completeMover t j i) := by
  unfold completeMover
  split
  · exact h
  · split
    · exact onward_ite (moverSignal_onward (setMover_onward (onward_ite (bump_onward h) h))) h
    · exact h

theorem execMoverDescriptorStart_leads {j i : Nat} (h : Onward K s t) : Leads K s (execMoverDescriptorStart j i t) := by
  unfold execMoverDescriptorStart
  exact ends_leads (onward_ite (whole_onward h (fun _ hu => startMover_onward (fetchMovers_onward hu))) h)

theorem execMoverCopy_leads {j i : Nat} (h : Onward K s t) : Leads K s (execMoverCopy j i t) := by
  unfold execMoverCopy
  exact ends_leads (runMover_onward h (fun _ _ _ => copyWork_onward))

theorem execMoverFill_leads {j i : Nat} (h : Onward K s t) : Leads K s (execMoverFill j i t) := by
  unfold execMoverFill
  exact ends_leads (runMover_onward h (fun _ _ _ => fillWork_onward))

theorem execMoverBcast_leads {j i : Nat} (h : Onward K s t) : Leads K s (execMoverBcast j i t) := by
  unfold execMoverBcast
  exact ends_leads (runMover_onward h (fun _ _ _ => bcastWork_onward))

theorem execMoverReduce_leads {j i : Nat} (h : Onward K s t) : Leads K s (execMoverReduce j i t) := by
  unfold execMoverReduce
  exact ends_leads (runMover_onward h (fun _ _ _ => moverReduceWork_onward))

theorem execMoverCas_leads {j i : Nat} (h : Onward K s t) : Leads K s (execMoverCas j i t) := by
  unfold execMoverCas
  exact ends_leads (runMover_onward h (fun _ _ _ => casWork_onward))

theorem execMoverDescriptorComplete_leads {j : Nat} {i : MoverEnd} (h : Onward K s t) :
    Leads K s (execMoverDescriptorComplete j i t) := by
  unfold execMoverDescriptorComplete
  refine ends_leads (onward_ite ?_ h)
  split
  · refine onward_ite ?_ h
    split
    · exact onward_of_snd ‹_› (takeReport_onward h)
    · exact completeMover_onward (onward_of_snd ‹_› (takeReport_onward h))
  · exact h

/-! ### The functions of Machine/Xlate -/

theorem atcPut_onward {pasid : Nat} {g : PageGrant} (h : Onward K s t) : Onward K s (atcPut t pasid g) := by
  unfold atcPut
  exact onward_ite (onward_update h) (onward_update h)

theorem stallBlock_onward {n : Nat} {x : Xfer} {jb : Job} {missing : List Nat} (h : Onward K s t) :
    Onward K s (stallBlock t n x jb missing) := by
  unfold stallBlock
  exact onward_ite (xFault_onward h) (onward_ite h (hostSend_onward (bump_onward (onward_update (setX_onward h)))))

theorem retryStalled_onward (h : Onward K s t) : Onward K s (retryStalled t) := by
  unfold retryStalled
  refine onward_foldl h (fun _ _ hu => ?_)
  split
  · exact onward_ite (hostStart_onward hu) hu
  · exact hu

theorem translated_onward {n : Nat} {pages : List PageGrant} (h : Onward K s t) : Onward K s (translated t n pages) := by
  unfold translated
  split
  · exact h
  · split
    · exact onward_ite (hostStart_onward (setX_onward h)) (onward_ite (setX_onward (onward_foldl h
        (fun _ _ => atcPut_onward))) (onward_ite (hostStart_onward (setX_onward (onward_foldl h (fun _ _ => atcPut_onward))))
        (stallBlock_onward (setX_onward (onward_foldl h (fun _ _ => atcPut_onward))))))
    · exact h

theorem execAtsTranslationCompletion_leads {x : Nat} {pages : List PageGrant} (h : Onward K s t) :
    Leads K s (execAtsTranslationCompletion x pages t) := by
  unfold execAtsTranslationCompletion
  exact ends_leads (enginesAll_onward (translated_onward h))

theorem prgAnswer_onward {k : Nat} {success : Bool} (h : Onward K s t) : Onward K s (prgAnswer t k success) := by
  unfold prgAnswer
  split
  · exact h
  · refine retryStalled_onward (onward_ite (onward_update h) ?_)
    dsimp only
    split
    · exact onward_update h
    · exact onward_ite (hostStart_onward (setX_onward (onward_update h))) (xFault_onward (onward_update h))

theorem execPrgResponse_leads {prg : Nat} {success : Bool} (h : Onward K s t) : Leads K s (execPrgResponse prg success t) := by
  unfold execPrgResponse
  exact ends_leads (enginesAll_onward (prgAnswer_onward h))

theorem execPriTimeout_leads {prg : Nat} (h : Onward K s t) : Leads K s (execPriTimeout prg t) := by
  unfold execPriTimeout
  refine ends_leads ?_
  split
  · exact h
  · exact enginesAll_onward (prgAnswer_onward (advance_onward h))

theorem replayX_onward {n : Nat} {x : Xfer} (h : Onward K s t) : Onward K s (replayX t n x) := by
  unfold replayX
  exact hostStart_onward (setX_onward (onward_update h))

theorem invalidateX_onward {hit : Nat → Nat → Bool} {n : Nat} (h : Onward K s t) : Onward K s (invalidateX hit t n) := by
  unfold invalidateX
  split
  · exact h
  · exact onward_ite h (onward_ite (onward_ite (setX_onward h) h) (onward_ite (replayX_onward h) h))

theorem invalidate_onward {pasid : Option Nat} {page pages ns : Nat} (h : Onward K s t) :
    Onward K s (invalidate t pasid page pages ns) := by
  unfold invalidate
  exact hostSend_onward (raise_onward (onward_foldl (onward_update (advance_onward h)) (fun _ _ => invalidateX_onward)))

theorem execAtsInvalidate_leads {pasid : Option Nat} {page pages ns : Nat} (h : Onward K s t) :
    Leads K s (execAtsInvalidate pasid page pages ns t) := by
  unfold execAtsInvalidate
  exact ends_leads (onward_ite (invalidate_onward h) h)

theorem execHostReadCompletion_leads {tag : Nat} {ok : Bool} {data : List Byte} (h : Onward K s t) :
    Leads K s (execHostReadCompletion tag ok data t) := by
  unfold execHostReadCompletion
  exact ends_leads (enginesAll_onward (hostReadDone_onward h))

theorem execHostCompletionTimeout_leads {tag : Nat} (h : Onward K s t) : Leads K s (execHostCompletionTimeout tag t) := by
  unfold execHostCompletionTimeout
  exact ends_leads (enginesAll_onward (hostReadDone_onward h))

/-! ### The functions of Machine/Held -/

theorem perform_onward {paid : Bool} {hr : HeldReq} (h : Onward K s t) : Onward K s (perform t paid hr) := by
  unfold perform
  split
  · exact homeServe_onward h
  · exact wholeOr_onward h (fun _ => readParts_onward)
  · exact wholeOr_onward h (fun _ => putParts_onward)
  · exact wholeOr_onward h (fun _ => hostAtomic_onward)
  · split
    · exact wholeOr_onward h (fun _ => ctxWrite_onward)
    · exact h
  · split
    · exact wholeOr_onward h (fun _ => flagWrite_onward)
    · exact h
  · exact xGo_onward h
  · exact hostLand_onward h
  · exact wholeOr_onward h (fun _ hu => onward_ite (performSignal_onward hu) (performReq_onward hu))
  · exact fabricLand_onward h
  · exact h

theorem performBehind_onward (h : Onward K s t) : Onward K s (performBehind t) := by
  unfold performBehind
  exact onward_foldl (onward_update h) (fun _ _ hu => onward_ite (onward_update hu) (perform_onward hu))

theorem fillSectors_onward {b line : Nat} {held : List HAcc} {u : Upset} (h : Onward K s t) :
    Onward K s (fillSectors t b line held u).2.2 := by
  unfold fillSectors
  refine onward_foldl_snd_snd h (fun _ _ hu => ?_)
  split
  · exact readChan_onward hu
  · exact sectorCopy_onward hu

theorem releaseHeld_onward {failed : List Nat} {first : Bool} {l : List HeldReq} (h : Onward K s t) :
    Onward K s (releaseHeld t failed first l) := by
  induction l generalizing t failed first with
  | nil =>
    unfold releaseHeld
    exact h
  | cons y r ih =>
    cases y with
    | acc c =>
      unfold releaseHeld
      exact onward_ite (ih (answerHome_onward (failedReq_onward h))) (onward_ite (ih (wholeOr_onward h
        (fun _ => performAcc_onward))) (ih (perform_onward h)))
    | _ =>
      unfold releaseHeld
      exact ih (perform_onward h)

theorem lineFill_onward {b line : Nat} {u : Upset} (h : Onward K s t) : Onward K s (lineFill t b line u) := by
  unfold lineFill
  split
  · exact h
  · exact onward_ite (releaseHeld_onward (onward_update h)) (releaseHeld_onward (allocLine_onward (fillSectors_onward
      (onward_update h))))

theorem execHbmLineFill_leads {b line : Nat} {upset : SectorUpset} (h : Onward K s t) :
    Leads K s (execHbmLineFill b line upset t) := by
  unfold execHbmLineFill
  exact ends_leads (onward_ite (enginesAll_onward (performBehind_onward (lineFill_onward (eccReport_onward h)))) h)

theorem retrainDone_onward {ch : Nat} {ok : Bool} {ns : Nat} (h : Onward K s t) : Onward K s (retrainDone t ch ok ns) := by
  unfold retrainDone
  split
  · exact h
  · exact onward_ite (channelFail_onward (advance_onward h)) (enginesAll_onward (performBehind_onward (onward_foldl
      (rescale_onward (logEvent_onward (raise_onward (setChan_onward (advance_onward h))))) (fun _ _ => perform_onward))))

theorem execRetrainEnd_leads {ch : Nat} {ok : Bool} {ns : Nat} (h : Onward K s t) : Leads K s (execRetrainEnd ch ok ns t) := by
  unfold execRetrainEnd
  exact ends_leads (onward_ite (retrainDone_onward h) h)

/-! ### The functions of Machine/Regulate -/

theorem letIn_onward {w : RegPart} {forced : Bool} (h : Onward K s t) : Onward K s (letIn t w forced) := by
  unfold letIn
  split
  · exact onward_update (onward_of_fst ‹_› (admitParts_onward (admitPart_onward h)))
  · exact onward_of_fst ‹_› (admitParts_onward (admitPart_onward h))
  · exact setPaid_onward (onward_of_fst ‹_› (admitParts_onward (admitPart_onward h)))
  · exact perform_onward (onward_of_fst ‹_› (admitParts_onward (admitPart_onward h)))

theorem admitWaiting_onward {l : List RegPart} (h : Onward K s t) : Onward K s (admitWaiting t l) := by
  unfold admitWaiting
  exact onward_foldl (onward_update h) (fun _ _ hu => onward_ite (letIn_onward hu) (onward_update hu))

theorem passBoundaries_onward {n : Nat} (h : Onward K s t) : Onward K s (passBoundaries t n) := by
  unfold passBoundaries
  exact onward_update (onward_foldl h (fun _ _ hu => onward_ite hu (bumpBy_onward hu)))

theorem applyRegulation_onward (h : Onward K s t) : Onward K s (applyRegulation t) := by
  unfold applyRegulation
  exact onward_ite h (rescale_onward (onward_update h))

theorem boundary_onward (h : Onward K s t) : Onward K s (boundary t) := by
  unfold boundary
  exact enginesAll_onward (performBehind_onward (admitWaiting_onward (applyRegulation_onward (onward_update
    (passBoundaries_onward h)))))

theorem boundaries_onward {n : Nat} (h : Onward K s t) : Onward K s (boundaries n t) := by
  induction n generalizing t with
  | zero =>
    unfold boundaries
    exact h
  | succ n ih =>
    unfold boundaries
    exact onward_ite (ih (boundary_onward h)) (onward_update (passBoundaries_onward h))

theorem windowBoundary_onward (h : Onward K s t) : Onward K s (windowBoundary t) := by
  unfold windowBoundary
  exact boundaries_onward (boundary_onward (advance_onward h))

theorem execRegWindowBoundary_leads (h : Onward K s t) : Leads K s (execRegWindowBoundary t) := by
  unfold execRegWindowBoundary
  exact ends_leads (onward_ite (windowBoundary_onward h) h)

theorem execRequestPartAdmit_leads {m : PartSource} {p : PartTarget} (h : Onward K s t) :
    Leads K s (execRequestPartAdmit m p t) := by
  unfold execRequestPartAdmit
  exact ends_leads (onward_ite (onward_foldl h (fun _ _ => partArrives_onward)) h)

theorem execHostIngressForcedAdmit_leads (h : Onward K s t) : Leads K s (execHostIngressForcedAdmit t) := by
  unfold execHostIngressForcedAdmit
  refine ends_leads ?_
  split
  · exact performBehind_onward (letIn_onward (advance_onward (onward_update h)))
  · exact h

/-! ### The functions of Machine/TileCmds -/

theorem toEngine_onward {t' : Nat} {mine : Nat → Bool} {e : Engine} {reads writes : State → Nat → List (Nat × Nat)}
    (h : Onward K s t) : Onward K s (toEngine t t' mine e reads writes) := by
  unfold toEngine
  exact issue_onward h (fun _ _ hu => enginesGo_onward (submit_onward hu))

theorem passExec_onward {o t' : Nat} (h : Onward K s t) : Onward K s (passExec o t t') := by
  unfold passExec
  exact toEngine_onward h

theorem topkExec_onward {sub t' : Nat} {reads writes : State → Nat → List (Nat × Nat)} (h : Onward K s t) :
    Onward K s (topkExec sub t t' reads writes) := by
  unfold topkExec
  exact toEngine_onward h

theorem vecExec_onward {vop t' : Nat} (h : Onward K s t) : Onward K s (vecExec vop t t') := by
  unfold vecExec
  exact toEngine_onward h

theorem agenExec_onward {lo hi t' : Nat} (h : Onward K s t) : Onward K s (agenExec lo hi t t') := by
  unfold agenExec
  exact issue_onward h (fun _ _ => agenRun_onward)

theorem execLds_leads {t' : Nat} (h : Onward K s t) : Leads K s (execLds t' t) := by
  unfold execLds
  exact ends_leads (toEngine_onward h)

theorem execMma_leads {t' : Nat} (h : Onward K s t) : Leads K s (execMma t' t) := by
  unfold execMma
  exact ends_leads (passExec_onward h)

theorem execConv_leads {t' : Nat} (h : Onward K s t) : Leads K s (execConv t' t) := by
  unfold execConv
  exact ends_leads (passExec_onward h)

theorem execPqs_leads {t' : Nat} (h : Onward K s t) : Leads K s (execPqs t' t) := by
  unfold execPqs
  exact ends_leads (passExec_onward h)

theorem execBds_leads {t' : Nat} (h : Onward K s t) : Leads K s (execBds t' t) := by
  unfold execBds
  exact ends_leads (passExec_onward h)

theorem execTopkOpen_leads {t' : Nat} (h : Onward K s t) : Leads K s (execTopkOpen t' t) := by
  unfold execTopkOpen
  exact ends_leads (topkExec_onward h)

theorem execTopkLoad_leads {t' : Nat} (h : Onward K s t) : Leads K s (execTopkLoad t' t) := by
  unfold execTopkLoad
  exact ends_leads (topkExec_onward h)

theorem execTopkEmit_leads {t' : Nat} (h : Onward K s t) : Leads K s (execTopkEmit t' t) := by
  unfold execTopkEmit
  exact ends_leads (topkExec_onward h)

theorem execTopkClose_leads {t' : Nat} (h : Onward K s t) : Leads K s (execTopkClose t' t) := by
  unfold execTopkClose
  exact ends_leads (topkExec_onward h)

theorem execVecMov_leads {t' : Nat} (h : Onward K s t) : Leads K s (execVecMov t' t) := by
  unfold execVecMov
  exact ends_leads (vecExec_onward h)

theorem execVecAdd_leads {t' : Nat} (h : Onward K s t) : Leads K s (execVecAdd t' t) := by
  unfold execVecAdd
  exact ends_leads (vecExec_onward h)

theorem execVecSub_leads {t' : Nat} (h : Onward K s t) : Leads K s (execVecSub t' t) := by
  unfold execVecSub
  exact ends_leads (vecExec_onward h)

theorem execVecMul_leads {t' : Nat} (h : Onward K s t) : Leads K s (execVecMul t' t) := by
  unfold execVecMul
  exact ends_leads (vecExec_onward h)

theorem execVecFma_leads {t' : Nat} (h : Onward K s t) : Leads K s (execVecFma t' t) := by
  unfold execVecFma
  exact ends_leads (vecExec_onward h)

theorem execVecMin_leads {t' : Nat} (h : Onward K s t) : Leads K s (execVecMin t' t) := by
  unfold execVecMin
  exact ends_leads (vecExec_onward h)

theorem execVecMax_leads {t' : Nat} (h : Onward K s t) : Leads K s (execVecMax t' t) := by
  unfold execVecMax
  exact ends_leads (vecExec_onward h)

theorem execVecExp2_leads {t' : Nat} (h : Onward K s t) : Leads K s (execVecExp2 t' t) := by
  unfold execVecExp2
  exact ends_leads (vecExec_onward h)

theorem execVecLog2_leads {t' : Nat} (h : Onward K s t) : Leads K s (execVecLog2 t' t) := by
  unfold execVecLog2
  exact ends_leads (vecExec_onward h)

theorem execVecRcp_leads {t' : Nat} (h : Onward K s t) : Leads K s (execVecRcp t' t) := by
  unfold execVecRcp
  exact ends_leads (vecExec_onward h)

theorem execVecRsqrt_leads {t' : Nat} (h : Onward K s t) : Leads K s (execVecRsqrt t' t) := by
  unfold execVecRsqrt
  exact ends_leads (vecExec_onward h)

theorem execVecRsum_leads {t' : Nat} (h : Onward K s t) : Leads K s (execVecRsum t' t) := by
  unfold execVecRsum
  exact ends_leads (vecExec_onward h)

theorem execVecRmin_leads {t' : Nat} (h : Onward K s t) : Leads K s (execVecRmin t' t) := by
  unfold execVecRmin
  exact ends_leads (vecExec_onward h)

theorem execVecRmax_leads {t' : Nat} (h : Onward K s t) : Leads K s (execVecRmax t' t) := by
  unfold execVecRmax
  exact ends_leads (vecExec_onward h)

theorem execVecMxq_leads {t' : Nat} (h : Onward K s t) : Leads K s (execVecMxq t' t) := by
  unfold execVecMxq
  exact ends_leads (vecExec_onward h)

theorem execMove_leads {t' : Nat} (h : Onward K s t) : Leads K s (execMove t' t) := by
  unfold execMove
  exact ends_leads (toEngine_onward h)

theorem execMovex_leads {t' : Nat} (h : Onward K s t) : Leads K s (execMovex t' t) := by
  unfold execMovex
  exact ends_leads (toEngine_onward h)

theorem execGather_leads {t' : Nat} (h : Onward K s t) : Leads K s (execGather t' t) := by
  unfold execGather
  exact ends_leads (toEngine_onward h)

theorem execScatteradd_leads {t' : Nat} (h : Onward K s t) : Leads K s (execScatteradd t' t) := by
  unfold execScatteradd
  exact ends_leads (toEngine_onward h)

theorem execSig_leads {t' : Nat} (h : Onward K s t) : Leads K s (execSig t' t) := by
  unfold execSig
  exact ends_leads (issue_onward h (fun _ _ => sigExec_onward))

theorem execWait_leads {t' : Nat} (h : Onward K s t) : Leads K s (execWait t' t) := by
  unfold execWait
  exact ends_leads (issue_onward h (fun _ _ => waitRun_onward))

theorem execWaitp_leads {t' : Nat} (h : Onward K s t) : Leads K s (execWaitp t' t) := by
  unfold execWaitp
  exact ends_leads (issue_onward h (fun _ _ => waitpRun_onward))

theorem execBar_leads {t' : Nat} (h : Onward K s t) : Leads K s (execBar t' t) := by
  unfold execBar
  exact ends_leads (whole_onward h (fun _ hu => issue_onward hu (fun _ _ => barRun_onward)))

theorem execFence_leads {t' : Nat} (h : Onward K s t) : Leads K s (execFence t' t) := by
  unfold execFence
  exact ends_leads (issue_onward h (fun _ _ => fenceRun_onward))

theorem execAgenBase_leads {t' : Nat} (h : Onward K s t) : Leads K s (execAgenBase t' t) := by
  unfold execAgenBase
  exact ends_leads (agenExec_onward h)

theorem execAgenBounds_leads {t' : Nat} (h : Onward K s t) : Leads K s (execAgenBounds t' t) := by
  unfold execAgenBounds
  exact ends_leads (agenExec_onward h)

theorem execAgenLoop_leads {t' : Nat} (h : Onward K s t) : Leads K s (execAgenLoop t' t) := by
  unfold execAgenLoop
  exact ends_leads (agenExec_onward h)

theorem execEndCmd_leads {t' : Nat} (h : Onward K s t) : Leads K s (execEndCmd t' t) := by
  unfold execEndCmd
  exact ends_leads (issue_onward h (fun _ _ => endRun_onward))

theorem execReservedOpcode_leads {t' : Nat} (h : Onward K s t) : Leads K s (execReservedOpcode t' t) := by
  unfold execReservedOpcode
  exact ends_leads (issue_onward h (fun _ _ hu => hu))

theorem execProgramFetch_leads {t' : Nat} (h : Onward K s t) : Leads K s (execProgramFetch t' t) := by
  unfold execProgramFetch
  exact ends_leads (whole_onward h (fun _ => fetchGo_onward))

theorem execEngineCommandComplete_leads {t' : Nat} {e : Engine} {pos : EntryEnd} (h : Onward K s t) :
    Leads K s (execEngineCommandComplete t' e pos t) := by
  unfold execEngineCommandComplete
  refine ends_leads (onward_ite h ?_)
  split
  · exact onward_of_snd ‹_› (takeReport_onward h)
  · exact onward_ite (classB_onward (onward_of_snd ‹_› (takeReport_onward h))) (completeEntry_onward (onward_of_snd ‹_›
      (takeReport_onward h)))

theorem execArrayPassDrain_leads {t' : Nat} (h : Onward K s t) : Leads K s (execArrayPassDrain t' t) := by
  unfold execArrayPassDrain
  exact ends_leads (drainPass_onward h)

/-! ### The functions of Machine/Dispatch -/

/-- What a step by a command promises: the CONS values stay unless the command may write them, and the clock goes forward unless
the command ends the supply. -/
def promised (c : Instr) : Promise := ⟨mayWriteCons c = false, endsSupply c = false⟩

/-- Every command answers a next state that is onward of the state before it. -/
theorem exec_leads (c : Instr) (s : State) : Leads (promised c) s (exec c s) :=
  match c with
  | .lds _ => execLds_leads (.refl s)
  | .mma _ => execMma_leads (.refl s)
  | .conv _ => execConv_leads (.refl s)
  | .pqs _ => execPqs_leads (.refl s)
  | .bds _ => execBds_leads (.refl s)
  | .topkOpen _ => execTopkOpen_leads (.refl s)
  | .topkLoad _ => execTopkLoad_leads (.refl s)
  | .topkEmit _ => execTopkEmit_leads (.refl s)
  | .topkClose _ => execTopkClose_leads (.refl s)
  | .vecMov _ => execVecMov_leads (.refl s)
  | .vecAdd _ => execVecAdd_leads (.refl s)
  | .vecSub _ => execVecSub_leads (.refl s)
  | .vecMul _ => execVecMul_leads (.refl s)
  | .vecFma _ => execVecFma_leads (.refl s)
  | .vecMin _ => execVecMin_leads (.refl s)
  | .vecMax _ => execVecMax_leads (.refl s)
  | .vecExp2 _ => execVecExp2_leads (.refl s)
  | .vecLog2 _ => execVecLog2_leads (.refl s)
  | .vecRcp _ => execVecRcp_leads (.refl s)
  | .vecRsqrt _ => execVecRsqrt_leads (.refl s)
  | .vecRsum _ => execVecRsum_leads (.refl s)
  | .vecRmin _ => execVecRmin_leads (.refl s)
  | .vecRmax _ => execVecRmax_leads (.refl s)
  | .vecMxq _ => execVecMxq_leads (.refl s)
  | .move _ => execMove_leads (.refl s)
  | .movex _ => execMovex_leads (.refl s)
  | .gather _ => execGather_leads (.refl s)
  | .scatteradd _ => execScatteradd_leads (.refl s)
  | .sig _ => execSig_leads (.refl s)
  | .wait _ => execWait_leads (.refl s)
  | .waitp _ => execWaitp_leads (.refl s)
  | .bar _ => execBar_leads (.refl s)
  | .fence _ => execFence_leads (.refl s)
  | .agenBase _ => execAgenBase_leads (.refl s)
  | .agenBounds _ => execAgenBounds_leads (.refl s)
  | .agenLoop _ => execAgenLoop_leads (.refl s)
  | .endCmd _ => execEndCmd_leads (.refl s)
  | .programFetch _ => execProgramFetch_leads (.refl s)
  | .engineCommandComplete _ _ _ => execEngineCommandComplete_leads (.refl s)
  | .arrayPassDrain _ => execArrayPassDrain_leads (.refl s)
  | .flagSignal _ _ _ => execFlagSignal_leads (.refl s)
  | .waitWatchdog _ => execWaitWatchdog_leads (.refl s)
  | .tileQuiet _ => execTileQuiet_leads (.refl s)
  | .loanDecision _ => execLoanDecision_leads (.refl s)
  | .borrowerConfirm _ _ _ => execBorrowerConfirm_leads (.refl s)
  | .homeRead _ _ _ _ => execHomeRead_leads (.refl s)
  | .homeWrite _ _ _ _ => execHomeWrite_leads (.refl s)
  | .homeSubwordWrite _ _ _ _ => execHomeSubwordWrite_leads (.refl s)
  | .redInt32Add _ _ _ => execRedInt32Add_leads (.refl s)
  | .redInt64Add _ _ _ => execRedInt64Add_leads (.refl s)
  | .redWidePartialAdd _ _ _ => execRedWidePartialAdd_leads (.refl s)
  | .redBf16Add _ _ _ => execRedBf16Add_leads (.refl s)
  | .redFp32Add _ _ _ => execRedFp32Add_leads (.refl s)
  | .redFp32OrderedAdd _ _ _ _ => execRedFp32OrderedAdd_leads (.refl s)
  | .redInt32Min _ _ _ => execRedInt32Min_leads (.refl s)
  | .redInt32Max _ _ _ => execRedInt32Max_leads (.refl s)
  | .redFp32Min _ _ _ => execRedFp32Min_leads (.refl s)
  | .redFp32Max _ _ _ => execRedFp32Max_leads (.refl s)
  | .compareAndSwap _ _ _ _ _ => execCompareAndSwap_leads (.refl s)
  | .fetchAdd _ _ _ _ => execFetchAdd_leads (.refl s)
  | .hbmLineFill _ _ _ => execHbmLineFill_leads (.refl s)
  | .hbmRefresh ch => execHbmRefresh_leads (ch := ch) (.refl s)
  | .hbmParityTrigger _ => execHbmParityTrigger_leads (.refl s)
  | .retrainStart _ => execRetrainStart_leads (.refl s)
  | .retrainEnd _ _ _ => execRetrainEnd_leads (.refl s)
  | .hbmSelfRefreshIdle _ => execHbmSelfRefreshIdle_leads (.refl s)
  | .vaultScrubAccess _ _ _ => execVaultScrubAccess_leads (.refl s)
  | .hbmScrubAccess _ _ => execHbmScrubAccess_leads (.refl s)
  | .scrubLapAlarm _ _ => execScrubLapAlarm_leads (.refl s)
  | .discardEnd _ => execDiscardEnd_leads (.refl s)
  | .regWindowBoundary => execRegWindowBoundary_leads (.refl s)
  | .requestPartAdmit _ _ => execRequestPartAdmit_leads (.refl s)
  | .hostIngressForcedAdmit => execHostIngressForcedAdmit_leads (.refl s)
  | .sqTailDoorbell _ _ => execSqTailDoorbell_leads (.refl s)
  | .cqHeadDoorbell _ _ => execCqHeadDoorbell_leads (.refl s)
  | .queueEnable _ _ => execQueueEnable_leads (.refl s)
  | .queueDisable _ _ => execQueueDisable_leads (.refl s)
  | .registerWrite _ _ _ => execRegisterWrite_leads (.refl s)
  | .discardReq _ => execDiscardReq_leads (.refl s)
  | .apertureBaseWrite _ _ => execApertureBaseWrite_leads (.refl s)
  | .bar2Read _ _ _ => execBar2Read_leads (.refl s)
  | .bar2Write _ _ => execBar2Write_leads (.refl s)
  | .flagWordWrite _ _ => execFlagWordWrite_leads (.refl s)
  | .reductionContextWrite _ _ => execReductionContextWrite_leads (.refl s)
  | .bar2AtomicFetchadd _ _ _ _ => execBar2AtomicFetchadd_leads (.refl s)
  | .bar2AtomicCas _ _ _ _ _ => execBar2AtomicCas_leads (.refl s)
  | .bar2AtomicUnsupported off _ => execBar2AtomicUnsupported_leads (off := off) (.refl s)
  | .configRequest _ _ => execConfigRequest_leads (.refl s)
  | .descriptorFetch _ _ => execDescriptorFetch_leads (.refl s)
  | .jobAdmit => execJobAdmit_leads (.refl s)
  | .jobComplete _ => execJobComplete_leads (.refl s)
  | .completionEntryWrite _ => execCompletionEntryWrite_leads (.refl s)
  | .msixHoldoffEnd _ => execMsixHoldoffEnd_leads (.refl s)
  | .moverDescriptorStart _ _ => execMoverDescriptorStart_leads (.refl s)
  | .moverCopy _ _ => execMoverCopy_leads (.refl s)
  | .moverFill _ _ => execMoverFill_leads (.refl s)
  | .moverBcast _ _ => execMoverBcast_leads (.refl s)
  | .moverReduce _ _ => execMoverReduce_leads (.refl s)
  | .moverCas _ _ => execMoverCas_leads (.refl s)
  | .moverDescriptorComplete _ _ => execMoverDescriptorComplete_leads (.refl s)
  | .atsTranslationCompletion _ _ => execAtsTranslationCompletion_leads (.refl s)
  | .prgResponse _ _ => execPrgResponse_leads (.refl s)
  | .priTimeout _ => execPriTimeout_leads (.refl s)
  | .atsInvalidate _ _ _ _ => execAtsInvalidate_leads (.refl s)
  | .hostReadCompletion _ _ _ => execHostReadCompletion_leads (.refl s)
  | .hostCompletionTimeout _ => execHostCompletionTimeout_leads (.refl s)
  | .perstNAssert => execPerstNAssert_leads (.refl s)
  | .perstNRelease => execPerstNRelease_leads (.refl s)
  | .hotReset => execHotReset_leads (.refl s)
  | .linkDisable => execLinkDisable_leads (.refl s)
  | .dlDown => execDlDown_leads (.refl s)
  | .functionLevelReset => execFunctionLevelReset_leads (.refl s)
  | .linkRecoveryEntry => execLinkRecoveryEntry_leads (.refl s)
  | .linkL0Entry => execLinkL0Entry_leads (.refl s)
  | .d3hotTransition _ => execD3hotTransition_leads (.refl s)
  | .l12Entry => execL12Entry_leads (.refl s)
  | .l12Exit => execL12Exit_leads (.refl s)
  | .resettingEnd => execResettingEnd_leads (.refl s)
  | .faultedResetStart => execFaultedResetStart_leads (.refl s)
  | .flitReceive _ _ _ => execFlitReceive_leads (.refl s)
  | .portBerWindow _ _ _ _ => execPortBerWindow_leads (.refl s)
  | .portLossOfSignal _ => execPortLossOfSignal_leads (.refl s)
  | .portTrainingDone _ _ _ => execPortTrainingDone_leads (.refl s)
  | .portTrainRetry _ => execPortTrainRetry_leads (.refl s)
  | .helloSend _ => execHelloSend_leads (.refl s)
  | .hello _ _ => execHello_leads (.refl s)
  | .packetForward _ _ _ => execPacketForward_leads (.refl s)
  | .holdExpiry _ => execHoldExpiry_leads (.refl s)
  | .fabWrite _ _ => execFabWrite_leads (.refl s)
  | .fabRead _ _ => execFabRead_leads (.refl s)
  | .fabReduce _ _ => execFabReduce_leads (.refl s)
  | .fabSignal _ _ => execFabSignal_leads (.refl s)
  | .mgmtReq _ _ => execMgmtReq_leads (.refl s)
  | .mgmtResp _ _ => execMgmtResp_leads (.refl s)
  | .ack _ _ => execAck_leads (.refl s)
  | .readData _ _ => execReadData_leads (.refl s)
  | .fabResyncResend _ => execFabResyncResend_leads (.refl s)
  | .fabReqTimeout _ => execFabReqTimeout_leads (.refl s)
  | .d2dFlitReceive _ _ _ _ _ => execD2dFlitReceive_leads (.refl s)
  | .d2dLaneLoss _ _ _ => execD2dLaneLoss_leads (.refl s)
  | .d2dMarginWindow _ _ _ => execD2dMarginWindow_leads (.refl s)
  | .d2dReplayAlarm _ _ => execD2dReplayAlarm_leads (.refl s)
  | .pllLockLoss _ _ => execPllLockLoss_leads (.refl s)
  | .opticalSiteLinkDown _ => execOpticalSiteLinkDown_leads (.refl s)
  | .hostSiteLinkLost => execHostSiteLinkLost_leads (.refl s)
  | .guestResetRequest _ => execGuestResetRequest_leads (.refl s)
  | .standbySupplyApplied => execStandbySupplyApplied_leads (by simp [promised, endsSupply]) (.refl s)
  | .standbySupplyRemoved => execStandbySupplyRemoved_leads (by simp [promised, mayWriteCons])
    (by simp [promised, endsSupply]) (.refl s)
  | .fallbackSettled _ => execFallbackSettled_leads (.refl s)
  | .fallbackSettleTimeout => execFallbackSettleTimeout_leads (.refl s)
  | .fallbackStop => execFallbackStop_leads (.refl s)
  | .clockMonitorWindow _ _ => execClockMonitorWindow_leads (.refl s)
  | .refEdgeTimeout => execRefEdgeTimeout_leads (.refl s)
  | .housekeepingRound _ => execHousekeepingRound_leads (.refl s)
  | .stepMachineTick => execStepMachineTick_leads (.refl s)
  | .hbmCattripAssert _ => execHbmCattripAssert_leads (.refl s)
  | .bringupWaitEvent => execBringupWaitEvent_leads (.refl s)
  | .halfWaveStart _ => execHalfWaveStart_leads (.refl s)
  | .tileRelease _ => execTileRelease_leads (.refl s)
  | .laneQualWindowEnd _ => execLaneQualWindowEnd_leads (.refl s)
  | .inventoryBuild => execInventoryBuild_leads (.refl s)
  | .bringupTimeLimit => execBringupTimeLimit_leads (.refl s)
  | .ledgerScan => execLedgerScan_leads (by simp [promised, mayWriteCons]) (.refl s)
  | .ledgerRecordWrite _ => execLedgerRecordWrite_leads (.refl s)
  | .ledgerCompaction => execLedgerCompaction_leads (.refl s)
  | .catalogueRead _ _ => execCatalogueRead_leads (.refl s)
  | .catalogueWrite _ _ => execCatalogueWrite_leads (fun h => by simp [promised, mayWriteCons, h.1]) (.refl s)
  | .readStaged _ _ => execReadStaged_leads (.refl s)
  | .describe _ _ => execDescribe_leads (.refl s)
  | .stagedEntryWrite _ _ => execStagedEntryWrite_leads (.refl s)
  | .consEntryWrite _ _ => execConsEntryWrite_leads (fun h => by simp [promised, mayWriteCons, h.1]) (.refl s)
  | .commit _ _ _ => execCommit_leads (.refl s)
  | .abort _ _ _ => execAbort_leads (.refl s)
  | .stageContextExpiry _ => execStageContextExpiry_leads (.refl s)
  | .resetCmd _ _ _ => execResetCmd_leads (.refl s)
  | .persistClear _ _ _ => execPersistClear_leads (.refl s)
  | .powerReqRun _ _ => execPowerReqRun_leads (.refl s)
  | .powerReqSleep _ _ => execPowerReqSleep_leads (.refl s)
  | .powerReqDeep _ _ => execPowerReqDeep_leads (.refl s)
  | .fabTransitReq _ _ _ => execFabTransitReq_leads (.refl s)
  | .keepRelease _ _ _ => execKeepRelease_leads (.refl s)
  | .retrainReq _ _ _ => execRetrainReq_leads (.refl s)
  | .shutdownClear _ _ _ => execShutdownClear_leads (.refl s)
  | .mbxDoorbell _ => execMbxDoorbell_leads (.refl s)
  | .setEndpointId _ _ => execSetEndpointId_leads (.refl s)
  | .getEndpointId _ => execGetEndpointId_leads (.refl s)
  | .getEndpointUuid _ => execGetEndpointUuid_leads (.refl s)
  | .getMctpVersionSupport _ => execGetMctpVersionSupport_leads (.refl s)
  | .getMessageTypeSupport _ => execGetMessageTypeSupport_leads (.refl s)
  | .getVendorDefinedMsgSupport _ => execGetVendorDefinedMsgSupport_leads (.refl s)
  | .mctpUnsupportedCmd _ _ => execMctpUnsupportedCmd_leads (.refl s)
  | .setdasa _ _ => execSetdasa_leads (.refl s)
  | .entdaa _ _ => execEntdaa_leads (.refl s)
  | .reservedOpcode _ => execReservedOpcode_leads (.refl s)
  | .hcrcOrReservedOpPacket _ _ => execHcrcOrReservedOpPacket_leads (.refl s)
  | .catalogueReservedOp _ _ _ => execCatalogueReservedOp_leads (.refl s)
  | .routerOrMeshLinkFailed _ _ _ _ _ => execRouterOrMeshLinkFailed_leads (.refl s)
  | .resetByCommandStart => execResetByCommandStart_leads (.refl s)
  | .packageRailGood => execPackageRailGood_leads (.refl s)
  | .packageRailTimeout => execPackageRailTimeout_leads (.refl s)
  | .provenanceReadDone _ => execProvenanceReadDone_leads (.refl s)
  | .bdieWakeDone _ _ => execBdieWakeDone_leads (.refl s)
  | .vaultSelfTestDone _ => execVaultSelfTestDone_leads (.refl s)
  | .dieToDieTrainingDone _ _ _ => execDieToDieTrainingDone_leads (.refl s)
  | .guestSiteTrainingDone _ _ _ => execGuestSiteTrainingDone_leads (.refl s)
  | .hbmChannelTrainingDone _ _ _ _ _ => execHbmChannelTrainingDone_leads (.refl s)
  | .tileSelfTestDone _ => execTileSelfTestDone_leads (.refl s)

end Sys2Proof.Machine

namespace Sys2Proof.Machine

/-- Settles O4: every command leads onward, and onward is forward. -/
theorem stepGoesForward : Obligations.StepGoesForward := by
  intro c s t e
  obtain ⟨u, hu, h⟩ := exec_leads c s
  obtain rfl : t = u := Host.Outcome.next.inj (e.symm.trans hu)
  exact ⟨⟨h.sent, h.drawn⟩, h.timed⟩

end Sys2Proof.Machine

namespace Sys2Proof.Machine

/-! ## Faults of a job and the wait watchdog -/

/-! ### What noting leaves of the rest of the state -/

section Noted
variable {ks : List Nat} {s t : State}

theorem Noted.comps (h : Noted ks s t) : t.comps = s.comps := by
  obtain ⟨⟨_, _, _, _, _, _, _, _, _, _, rfl⟩, -, -⟩ := h
  rfl

theorem Noted.power (h : Noted ks s t) : t.power = s.power := by
  obtain ⟨⟨_, _, _, _, _, _, _, _, _, _, rfl⟩, -, -⟩ := h
  rfl

theorem Noted.discardCause (h : Noted ks s t) : t.discardCause = s.discardCause := by
  obtain ⟨⟨_, _, _, _, _, _, _, _, _, _, rfl⟩, -, -⟩ := h
  rfl

theorem Noted.touched (h : Noted ks s t) : t.touched = s.touched := by
  obtain ⟨⟨_, _, _, _, _, _, _, _, _, _, rfl⟩, -, -⟩ := h
  rfl

theorem Noted.stalled (h : Noted ks s t) : t.stalled = s.stalled := by
  obtain ⟨⟨_, _, _, _, _, _, _, _, _, _, rfl⟩, -, -⟩ := h
  rfl

/-- An entry that noting does not write reads as before. -/
theorem Noted.rd (h : Noted ks s t) {i u : Nat} (hk : entKey i u ∉ ks) : rd t i u = rd s i u := by
  unfold Machine.rd SMap.get
  rw [h.entries _ hk, h.cons]

theorem Noted.set (h : Noted ks s t) {i u v : Nat} (hk : entKey i u ∈ ks) : Noted ks s (setEnt t i u v) :=
  h.trans (setEnt_noted ks t i u v hk)

theorem Noted.bump (h : Noted ks s t) {i u : Nat} (hk : entKey i u ∈ ks) : Noted ks s (bump t i u) :=
  h.trans (bump_noted ks t i u hk)

theorem Noted.log (h : Noted ks s t) {code : Nat} {d : List Byte} (hk : ∀ k ∈ logKeys, k ∈ ks) : Noted ks s (logEvent t code d) :=
  h.trans ((logEvent_noted t code d).mono hk)

/-- A value of an entry that is not a CONS value, after other entries were noted. -/
theorem Noted.rd_setEnt {i u v : Nat} (h : Noted ks (setEnt s i u v) t) (hk : entKey i u ∉ ks)
    (hc : (findRow i u).map (·.acc) ≠ some .cons) : Machine.rd t i u = v := by
  rw [h.rd hk]
  exact Machine.rd_setEnt _ _ _ _ (fun r hr ha => hc (by simp [hr, ha]))

end Noted

/-! ### Tiles set one after the other -/

/-- Setting tiles changes nothing but tiles. -/
theorem foldl_setTile_rest (f : State → Nat → Tile) (l : List Nat) (s : State) :
    ∃ tiles, l.foldl (fun s t => setTile s t (f s t)) s = { s with tiles := tiles } :=
  foldl_keeps (fun u => ∃ tiles, u = { s with tiles := tiles }) _ (fun _ _ ⟨_, e⟩ => ⟨_, by rw [e]; rfl⟩) l s ⟨_, rfl⟩

/-- What holds of every tile set holds of each tile of the list. -/
theorem tile_foldl_setTile {P : Tile → Prop} {f : State → Nat → Tile} (hf : ∀ s t, P (f s t)) (l : List Nat) (s : State) (n : Nat)
    (h : n ∈ l ∨ P (tile s n)) : P (tile (l.foldl (fun s t => setTile s t (f s t)) s) n) := by
  induction l generalizing s with
  | nil => exact h.resolve_left List.not_mem_nil
  | cons a l ih =>
    refine ih _ ?_
    by_cases e : n = a
    · subst e
      exact .inr (by rw [tile_setTile]; exact hf s n)
    · rw [tile_setTile_other _ _ _ _ e]
      exact h.imp_left (fun hm => (List.mem_cons.1 hm).resolve_left e)

/-! ### Stopping and freeing a job's tiles -/

theorem stopTiles_rest (s : State) (j : Nat) (jb : Job) :
    ∃ tiles quiet, stopTiles s j jb = { s with tiles := tiles, quiet := quiet } := by
  unfold stopTiles
  obtain ⟨tiles, h⟩ := foldl_setTile_rest (fun s t => { Tile.reset with
    job := some j, flags := (tile s t).flags, saturated := (tile s t).saturated, rampLen := (tile s t).rampLen }) (jobTiles jb) s
  exact ⟨tiles, _, by rw [h]; rfl⟩

theorem freeTiles_rest (s : State) (jb : Job) : ∃ tiles quiet, freeTiles s jb = { s with tiles := tiles, quiet := quiet } := by
  unfold freeTiles
  obtain ⟨tiles, h⟩ := foldl_setTile_rest (fun s t => { Tile.reset with rampLen := (tile s t).rampLen }) (jobTiles jb) s
  exact ⟨tiles, _, by rw [h]; rfl⟩

/-- A freed tile holds no job and its flags read zero (R118). -/
theorem tile_freeTiles {s : State} {jb : Job} {n : Nat} (h : n ∈ jobTiles jb) :
    (tile (freeTiles s jb) n).job = none ∧ ∀ f, flagCount (freeTiles s jb) n f = 0 :=
  tile_foldl_setTile (P := fun v => v.job = none ∧ ∀ f, SMap.get v.flags f 0 = 0) (fun _ _ => ⟨rfl, fun _ => rfl⟩) _ s n (.inl h)

/-- A stopped tile still belongs to its job, and no program runs on it. -/
theorem tile_stopTiles {s : State} {j : Nat} {jb : Job} {n : Nat} (h : n ∈ jobTiles jb) :
    (tile (stopTiles s j jb) n).job = some j ∧ (tile (stopTiles s j jb) n).running = false :=
  tile_foldl_setTile (P := fun v => v.job = some j ∧ v.running = false) (fun _ _ => ⟨rfl, rfl⟩) _ s n (.inl h)

/-- The flags stand when tiles are stopped (R115). -/
theorem flags_stopTiles (s : State) (j : Nat) (jb : Job) (n : Nat) : (tile (stopTiles s j jb) n).flags = (tile s n).flags := by
  refine foldl_keeps (fun u => ∀ n, (tile u n).flags = (tile s n).flags) _ (fun u a hu n => ?_) (jobTiles jb) s (fun _ => rfl) n
  by_cases e : n = a
  · rw [e, tile_setTile]
    exact hu a
  · rw [tile_setTile_other _ _ _ _ e]
    exact hu n

theorem stopJob_rest (s : State) (j : Nat) : ∃ regWait paid xfers prgs reads fab,
    stopJob s j = { s with regWait := regWait, paid := paid, xfers := xfers, prgs := prgs, reads := reads, fab := fab } := by
  unfold stopJob forgetParts
  split <;> exact ⟨_, _, _, _, _, _, rfl⟩

/-! ### A job fault (R278) -/

/-- The completion entry of a job that heldFault. -/
def faultEntry (jb : Job) (cause ltile word : Nat) : Comp :=
  { q := jb.q, slot := jb.slot, jobId := jId jb.desc, status := 2, cause := cause, ltile := ltile, word := word }

/-- A job that has heldFault with its entry kept back: it is stopped, and what it may have written is indeterminate. -/
def heldFault (s : State) (j : Nat) (jb : Job) (c : Comp) : State :=
  let u := spoil (stopTiles (stopJob s j) j jb) jb
  { u with jobs := SMap.put u.jobs j { jb with running := false, movers := [], fault := some c } }

section Fault
variable {s : State} {j : Nat} {jb : Job} {c : Comp}

theorem heldFault_rest (s : State) (j : Nat) (jb : Job) (c : Comp) : ∃ tiles quiet regWait paid xfers prgs reads fab indet,
    heldFault s j jb c = { s with
      tiles := tiles, quiet := quiet, regWait := regWait, paid := paid, xfers := xfers, prgs := prgs, reads := reads, fab := fab,
      indet := indet, jobs := SMap.put s.jobs j { jb with running := false, movers := [], fault := some c } } := by
  obtain ⟨_, _, _, _, _, _, h⟩ := stopJob_rest s j
  obtain ⟨_, _, g⟩ := stopTiles_rest (stopJob s j) j jb
  exact ⟨_, _, _, _, _, _, _, _, _, by rw [heldFault, g, h]; rfl⟩

theorem owesAccess_heldFault : owesAccess (heldFault s j jb c) j = owesAccess (stopJob s j) j := by
  obtain ⟨_, _, g⟩ := stopTiles_rest (stopJob s j) j jb
  rw [heldFault, g]
  rfl

/-- A fault whose accesses have ended posts its entry and frees the tiles; otherwise the job waits, stopped. -/
theorem settleFault_heldFault (hm : s.main = .ready) :
    settleFault (heldFault s j jb c) j =
      if owesAccess (stopJob s j) j then heldFault s j jb c
      else postComp { freeTiles (heldFault s j jb c) jb with jobs := SMap.erase (heldFault s j jb c).jobs j } c := by
  have hf : SMap.find? (heldFault s j jb c).jobs j = some { jb with running := false, movers := [], fault := some c } :=
    SMap.find?_put_same ..
  have hr : (heldFault s j jb c).main = .ready := by
    obtain ⟨_, _, _, _, _, _, _, _, _, h⟩ := heldFault_rest s j jb c
    rw [h, ← hm]
  unfold settleFault
  rw [hf]
  dsimp only
  rw [owesAccess_heldFault]
  cases owesAccess (stopJob s j) j <;> simp only [hr] <;> rfl

/-- What a job fault leaves as it is: memory, the CONS values, the entries made ready, and what a command notes. -/
structure FaultKeeps (s u : State) : Prop where
  mem : u.mem = s.mem
  cons : u.cons = s.cons
  comps : u.comps = s.comps
  touched : u.touched = s.touched
  stalled : u.stalled = s.stalled

theorem heldFault_keeps : FaultKeeps s (heldFault s j jb c) := by
  obtain ⟨_, _, _, _, _, _, _, _, _, h⟩ := heldFault_rest s j jb c
  rw [h]
  exact ⟨rfl, rfl, rfl, rfl, rfl⟩

theorem freeTiles_keeps : FaultKeeps s (freeTiles s jb) := by
  obtain ⟨_, _, h⟩ := freeTiles_rest s jb
  rw [h]
  exact ⟨rfl, rfl, rfl, rfl, rfl⟩

theorem FaultKeeps.trans {t u : State} (h : FaultKeeps s t) (g : FaultKeeps t u) : FaultKeeps s u :=
  ⟨g.mem.trans h.mem, g.cons.trans h.cons, g.comps.trans h.comps, g.touched.trans h.touched, g.stalled.trans h.stalled⟩

/-- A fault of a running job with a cause of decode, up to the entries in which it is recorded. -/
theorem jobFault_heldFault {cause ltile word : Nat} (hj : SMap.find? s.jobs j = some jb) (hm : s.main = .ready)
    (hr : jb.running = true) (hc : cause < 0x31) :
    ∃ e, jobFault s j cause ltile word = settleFault (heldFault { s with ent := e } j jb (faultEntry jb cause ltile word)) j := by
  have recorded : ∃ e, (if cause < 0x32 && ltile != 0xFFFF then recordFault s cause ltile word else s) = { s with ent := e } := by
    split <;> exact ⟨_, rfl⟩
  obtain ⟨e, he⟩ := recorded
  refine ⟨e, ?_⟩
  have h31 : cause ≠ 0x31 := by omega
  have h32 : cause ≠ 0x32 := by omega
  have hlt : cause < 0x32 := by omega
  unfold jobFault
  rw [hj]
  dsimp only
  rw [if_pos (by simp [hm, hr]), he, if_neg h32, if_neg h31, if_pos hlt, if_pos hlt]
  rfl

end Fault

/-- How a running job stands after a fault at tile `t` with the entry `c`: while accesses are out it waits, stopped, with its
tiles; otherwise it is gone and its entry is ready (R278). -/
structure FaultEnds (s u : State) (j : Nat) (jb : Job) (c : Comp) : Prop where
  mem : u.mem = s.mem
  cons : u.cons = s.cons
  touched : u.touched = s.touched
  stalled : u.stalled = s.stalled
  freed : owesAccess (stopJob s j) j = false → ∀ n ∈ jobTiles jb, (tile u n).job = none ∧ ∀ f, flagCount u n f = 0
  gone : owesAccess (stopJob s j) j = false → SMap.find? u.jobs j = none ∧ u.comps = s.comps ++ [c]
  held : owesAccess (stopJob s j) j = true →
    ∀ n ∈ jobTiles jb, (tile u n).job = some j ∧ (tile u n).running = false ∧ (tile u n).flags = (tile s n).flags
  owing : owesAccess (stopJob s j) j = true → (SMap.find? u.jobs j).map (·.fault) = some (some c) ∧ u.comps = s.comps

section Fault
variable {s : State} {j : Nat} {jb : Job} {c : Comp}

/-- The tiles of a job that waits are stopped, their flags as they were. -/
theorem tile_heldFault {n : Nat} (h : n ∈ jobTiles jb) : (tile (heldFault s j jb c) n).job = some j ∧
    (tile (heldFault s j jb c) n).running = false ∧ (tile (heldFault s j jb c) n).flags = (tile s n).flags := by
  obtain ⟨_, _, _, _, _, _, hs⟩ := stopJob_rest s j
  have ht := tile_stopTiles (s := stopJob s j) (j := j) h
  have hf := flags_stopTiles (stopJob s j) j jb n
  exact ⟨ht.1, ht.2, hf.trans (by rw [hs]; rfl)⟩

/-- A held fault settles as its accesses stand. -/
theorem settleFault_ends (hm : s.main = .ready) : FaultEnds s (settleFault (heldFault s j jb c) j) j jb c := by
  have held : FaultKeeps s (heldFault s j jb c) := heldFault_keeps
  have freed : FaultKeeps s (freeTiles (heldFault s j jb c) jb) := held.trans freeTiles_keeps
  rw [settleFault_heldFault hm]
  cases ho : owesAccess (stopJob s j) j
  case true =>
    have other : owesAccess (stopJob s j) j ≠ false := by simp [ho]
    exact ⟨held.mem, held.cons, held.touched, held.stalled, fun h => (other h).elim, fun h => (other h).elim,
      fun _ n hn => tile_heldFault hn, fun _ => ⟨congrArg (Option.map Job.fault) (SMap.find?_put_same ..), held.comps⟩⟩
  case false =>
    have other : owesAccess (stopJob s j) j ≠ true := by simp [ho]
    exact ⟨freed.mem, freed.cons, freed.touched, freed.stalled, fun _ n hn => tile_freeTiles (s := heldFault s j jb c) hn,
      fun _ => ⟨SMap.find?_erase_same .., congrArg (· ++ [c]) freed.comps⟩, fun h => (other h).elim,
      fun h => (other h).elim⟩

/-- The entries in which a fault is recorded are no part of how its job ends. -/
theorem FaultEnds.of_ent {e : SMap Nat} {u : State} (h : FaultEnds { s with ent := e } u j jb c) : FaultEnds s u j jb c :=
  ⟨h.mem, h.cons, h.touched, h.stalled, h.freed, h.gone, h.held, h.owing⟩

theorem jobFault_ends {cause ltile word : Nat} (hj : SMap.find? s.jobs j = some jb) (hm : s.main = .ready)
    (hr : jb.running = true) (hc : cause < 0x31) :
    FaultEnds s (jobFault s j cause ltile word) j jb (faultEntry jb cause ltile word) := by
  obtain ⟨e, he⟩ := jobFault_heldFault (ltile := ltile) (word := word) hj hm hr hc
  rw [he]
  exact (settleFault_ends (s := { s with ent := e }) hm).of_ent

/-- A change of the visible state that is noted leaves how the job stands. -/
theorem FaultEnds.noted {u v : State} (h : FaultEnds s u j jb c) (n : Noted [] u v) : FaultEnds s v j jb c := by
  have ht : tile v = tile u := funext fun _ => by rw [tile, tile, n.tiles]
  have hf : flagCount v = flagCount u := funext fun _ => funext fun _ => by rw [flagCount, flagCount, ht]
  exact ⟨n.mem.trans h.mem, n.cons.trans h.cons, n.touched.trans h.touched, n.stalled.trans h.stalled,
    by rw [ht, hf]; exact h.freed, by rw [n.jobs, n.comps]; exact h.gone, by rw [ht]; exact h.held,
    by rw [n.jobs, n.comps]; exact h.owing⟩

end Fault

/-! ### Reserved words at decode (R21, R82) -/

/-- A word next to decode stands in READY. -/
theorem headWord_ready {s : State} {t : Nat} {w : Option Nat} (h : headWord s t = some w) : s.main = .ready := by
  unfold headWord at h
  dsimp only at h
  split at h
  · rename_i hc
    simp only [Bool.and_eq_true, decide_eq_true_eq] at hc
    exact hc.1.1.1.1
  · cases h

/-- The running job of a tile, and where it stands. -/
theorem jobOf_some {s : State} {t j : Nat} {jb : Job} (h : jobOf s t = some (j, jb)) :
    (tile s t).job = some j ∧ SMap.find? s.jobs j = some jb := by
  unfold jobOf at h
  split at h
  · cases h
  · rename_i k hk
    obtain ⟨b, hb, e⟩ := Option.map_eq_some_iff.1 h
    cases e
    exact ⟨hk, hb⟩

/-- The first cause of a reserved word whose CRC is right (Table 3.21). -/
def reservedCause (w : Nat) : Nat := if knownOpcode (wOpcode w) then 0x22 else 0x21

theorem firstCause_true {b : Bool} {c : Nat} {l : List (Bool × Nat)} (h : b = true) : firstCause ((b, c) :: l) = some c := by
  rw [h]
  rfl

theorem checkWord_reserved {s : State} {t w : Nat} (hr : reservedWord w = true) (hc : bits w 15 0 = wordCrc w) :
    checkWord s t w = some (reservedCause w) := by
  unfold checkWord reservedCause
  simp only [hc, bne_self_eq_false, Bool.false_eq_true, if_false]
  cases hk : knownOpcode (wOpcode w)
  case false => rfl
  case true =>
    simp only [reservedWord, hk, Bool.not_true, Bool.false_or, Bool.or_eq_true, Bool.and_eq_true, beq_iff_eq,
      decide_eq_true_eq] at hr
    simp only [Bool.not_true, Bool.false_eq_true, if_false, if_true]
    obtain (⟨ho, hv⟩ | ⟨ho, hv⟩) | ⟨ho, hv⟩ := hr <;> rw [ho]
    · exact firstCause_true (by simp [hv])
    · exact firstCause_true (by simp [hv])
    · exact firstCause_true (by simp [hv])

/-- A word that this command gives a meaning and that decode rejects faults its tile. -/
theorem issue_rejected {s : State} {t w c : Nat} {mine : Nat → Bool} {run : State → Nat → State}
    (h : headWord s t = some (some w)) (hm : mine w = true) (hc : checkWord s t w = some c) :
    issue s t mine run = tileFault s t c := by
  simp [issue, h, hm, hc]

theorem execReservedOpcode_ends {s : State} {t w j : Nat} {jb : Job} (hi : s.Inv) (hw : headWord s t = some (some w))
    (hr : reservedWord w = true) (hc : bits w 15 0 = wordCrc w) (hj : jobOf s t = some (j, jb)) (hrun : jb.running = true) :
    ∃ u, exec (.reservedOpcode t) s = .next u ∧
      FaultEnds s u j jb (faultEntry jb (reservedCause w) t (tile s t).word) := by
  obtain ⟨htile, hfind⟩ := jobOf_some hj
  have hlt : reservedCause w < 0x31 := by
    unfold reservedCause
    split <;> decide
  have hf := jobFault_ends (ltile := t) (word := (tile s t).word) hfind (headWord_ready hw) hrun hlt
  have ht : issue s t reservedWord (fun s _ => s) = jobFault s j (reservedCause w) t (tile s t).word := by
    rw [issue_rejected hw hr (checkWord_reserved hr hc), tileFault, htile]
  refine ⟨_, ?_, hf.noted (noteState_noted s _)⟩
  exact (congrArg (ends s) ht).trans (ends_noted s _ (hf.touched.trans hi.charged) (hf.stalled.trans hi.inReach))

/-! ### The wait watchdog (R112, R134, R135) -/

/-- The entries of an expiry, as they read: the cause, the tile, the word and the flag waited on (R112, R135). -/
structure ExpiryRead (s : State) (t word flag : Nat) : Prop where
  cause : rd s 0x4030 1 = 0x2D
  ltile : rd s 0x4030 2 = t
  word : rd s 0x4030 3 = word
  flag : rd s 0x5010 3 = flag

/-- The keys of those entries. -/
def expiryKeys : List Nat := [entKey 0x4030 1, entKey 0x4030 2, entKey 0x4030 3, entKey 0x5010 3]

/-- The entries read the same where their values are the same and other entries were noted. -/
theorem ExpiryRead.noted {ks : List Nat} {s v u : State} {t word flag : Nat} (h : ExpiryRead s t word flag) (n : Noted ks v u)
    (hk : ∀ k ∈ expiryKeys, k ∉ ks) (he : v.ent = s.ent) (hc : v.cons = s.cons) : ExpiryRead u t word flag := by
  have kept : ∀ i k, entKey i k ∈ expiryKeys → rd u i k = rd s i k := fun i k hm => by
    rw [n.rd (hk _ hm), rd, rd, he, hc]
  exact ⟨(kept _ _ (by decide)).trans h.cause, (kept _ _ (by decide)).trans h.ltile, (kept _ _ (by decide)).trans h.word,
    (kept _ _ (by decide)).trans h.flag⟩

section Expiry
variable {s : State} {jb : Job} {t at' word flag : Nat}

/-- The entries an expiry writes besides those recorded. -/
def expiryKept : List Nat := entKey 0x5010 2 :: logKeys

theorem expiryNoted_noted : Noted (expiryKeys ++ expiryKept) (advance s (at' + wdogNs s jb)) (expiryNoted s jb t at' word flag) := by
  unfold expiryNoted recordFault
  refine (Noted.refl _ _).set ?_ |>.set ?_ |>.set ?_ |>.bump ?_ |>.set ?_ |>.log ?_
  all_goals decide

/-- Each entry of an expiry is written once, and what is written after it leaves it. -/
theorem expiryNoted_read : ExpiryRead (expiryNoted s jb t at' word flag) t word flag := by
  unfold expiryNoted recordFault
  constructor
  case cause =>
    refine Noted.rd_setEnt (ks := expiryKept ++ [entKey 0x4030 2, entKey 0x4030 3, entKey 0x5010 3])
      ((Noted.refl _ _).set ?_ |>.set ?_ |>.bump ?_ |>.set ?_ |>.log ?_) ?_ ?_
    all_goals decide
  case ltile =>
    refine Noted.rd_setEnt (ks := expiryKept ++ [entKey 0x4030 3, entKey 0x5010 3])
      ((Noted.refl _ _).set ?_ |>.bump ?_ |>.set ?_ |>.log ?_) ?_ ?_
    all_goals decide
  case word =>
    refine Noted.rd_setEnt (ks := expiryKept ++ [entKey 0x5010 3]) ((Noted.refl _ _).bump ?_ |>.set ?_ |>.log ?_) ?_ ?_
    all_goals decide
  case flag =>
    refine Noted.rd_setEnt (ks := expiryKept) ((Noted.refl _ _).log ?_) ?_ ?_
    all_goals decide

end Expiry

theorem endJob_rest {s : State} {j : Nat} {jb : Job} (h : SMap.find? s.jobs j = some jb) :
    ∃ tiles quiet regWait paid xfers prgs reads fab, endJob s j = { s with
      tiles := tiles, quiet := quiet, regWait := regWait, paid := paid, xfers := xfers, prgs := prgs, reads := reads, fab := fab,
      jobs := SMap.erase s.jobs j } := by
  obtain ⟨_, _, _, _, _, _, hs⟩ := stopJob_rest s j
  obtain ⟨_, _, hf⟩ := freeTiles_rest (abandonJob s j) jb
  exact ⟨_, _, _, _, _, _, _, _, by unfold endJob; rw [h]; dsimp only; rw [hf, abandonJob, hs]⟩

/-- The state in which a discard has begun, before its event is counted and logged. -/
def discardBegun (s : State) (cause : Nat) : State :=
  let d := { s with discardEpoch := (s.discardEpoch + 1) % 2 ^ 32, discardCause := cause }
  let c := coveredOf d cause
  let u := { c.2 with main := .discarding,
                      discard := some { began := c.2.time, prior := (s.discardEpoch, s.discardCause, s.devEvents), covered := c.1,
                                        opened := openRanges c.2 },
                      queues := c.2.queues.map (fun q => (q.1, { q.2 with fetched := q.2.sqTail })),
                      prgs := c.2.prgs.map (fun p => (p.1, { p.2 with abandoned := true })),
                      fab := { c.2.fab with reqs := c.2.fab.reqs.map (fun r => (r.1, { r.2 with abandoned := true })),
                                            waitReqs := [] } }
  noteIdle u (u.jobs.flatMap (fun j => jobTiles j.2))

theorem startDiscard_noted (s : State) (cause : Nat) :
    Noted (entKey 0x3030 5 :: logKeys) (discardBegun s cause) (startDiscard s cause) := by
  have counted : ∀ (v : State) (n : Nat), Noted (entKey 0x3030 5 :: logKeys) v { v with devEvents := n } :=
    fun _ _ => ⟨⟨_, _, _, _, _, _, _, _, _, _, rfl⟩, List.suffix_rfl, fun _ _ => rfl⟩
  have h := (Noted.refl (entKey 0x3030 5 :: logKeys) (discardBegun s cause)).bump (i := 0x3030) (u := 5) (by decide)
  unfold startDiscard
  refine Noted.log ?_ (by decide)
  refine Noted.trans ?_ (sendVector_noted _ _ 0)
  exact (h.trans (devEvent_noted _ _ 1)).trans (counted _ _)

/-- What the beginning of a discard leaves, and what it sets (Table 9.16). -/
theorem discardBegun_rest (s : State) (cause : Nat) : ∃ free discard queues prgs fab quiet, discardBegun s cause = { s with
    free := free, discard := discard, queues := queues, prgs := prgs, fab := fab, quiet := quiet,
    discardEpoch := (s.discardEpoch + 1) % 2 ^ 32, discardCause := cause, main := .discarding } := by
  obtain ⟨_, -, h⟩ := coveredOf_draws { s with discardEpoch := (s.discardEpoch + 1) % 2 ^ 32, discardCause := cause } cause
  exact ⟨_, _, _, _, _, _, by unfold discardBegun; dsimp only; rw [h]; rfl⟩

/-- How a discard that begins in `s` stands in `u`: what it sets, and what of the rest an expiry speaks of. -/
structure DiscardBegins (s u : State) (cause : Nat) : Prop where
  main : u.main = .discarding
  cause : u.discardCause = cause
  jobs : u.jobs = s.jobs
  comps : u.comps = s.comps
  time : u.time = s.time
  touched : u.touched = s.touched
  stalled : u.stalled = s.stalled
  reads : ∀ {t word flag}, ExpiryRead s t word flag → ExpiryRead u t word flag

theorem startDiscard_begins (s : State) (cause : Nat) : DiscardBegins s (startDiscard s cause) cause := by
  have n := startDiscard_noted s cause
  obtain ⟨_, _, _, _, _, _, h⟩ := discardBegun_rest s cause
  rw [h] at n
  exact ⟨n.main, n.discardCause, n.jobs, n.comps, n.time, n.touched, n.stalled,
    fun hr => hr.noted n (by decide) rfl rfl⟩

theorem classB_begins {s : State} {cause : Nat} (hm : s.main = .ready) (hp : s.power ≠ .deep) :
    DiscardBegins s (classB s cause) cause := by
  unfold classB
  rw [if_pos (by simp [hm, hp])]
  exact startDiscard_begins s cause

/-- A change of the visible state that is noted leaves how the discard began. -/
theorem DiscardBegins.noted {s u v : State} {cause : Nat} (h : DiscardBegins s u cause) (n : Noted [] u v) : DiscardBegins s v cause :=
  ⟨n.main.trans h.main, n.discardCause.trans h.cause, n.jobs.trans h.jobs, n.comps.trans h.comps, n.time.trans h.time,
    n.touched.trans h.touched, n.stalled.trans h.stalled, fun hr => (h.reads hr).noted n (fun _ _ => List.not_mem_nil) rfl rfl⟩

/-- A job ended by its watchdog, before the discard that follows. -/
def expired (s : State) (j : Nat) (jb : Job) (t at' word flag : Nat) (c : Comp) : State :=
  postComp (spoil (endJob (expiryNoted s jb t at' word flag) j) jb) c

section Expired
variable {s : State} {j t at' word flag : Nat} {jb : Job} {c : Comp}

theorem expired_rest (h : SMap.find? s.jobs j = some jb) : ∃ tiles quiet regWait paid xfers prgs reads fab indet,
    expired s j jb t at' word flag c = { expiryNoted s jb t at' word flag with
      tiles := tiles, quiet := quiet, regWait := regWait, paid := paid, xfers := xfers, prgs := prgs, reads := reads, fab := fab,
      indet := indet, jobs := SMap.erase s.jobs j, comps := s.comps ++ [c] } := by
  have n := expiryNoted_noted (s := s) (jb := jb) (t := t) (at' := at') (word := word) (flag := flag)
  obtain ⟨_, _, _, _, _, _, _, _, he⟩ := endJob_rest (j := j) (jb := jb) ((congrArg (SMap.find? · j) n.jobs).trans h)
  have hj : s.jobs = (expiryNoted s jb t at' word flag).jobs := n.jobs.symm
  have hc : s.comps = (expiryNoted s jb t at' word flag).comps := n.comps.symm
  exact ⟨_, _, _, _, _, _, _, _, _, by rw [expired, he, hj, hc]; rfl⟩

/-- The entries of the expiry read as recorded in the state in which its job has ended. -/
theorem expired_read (h : SMap.find? s.jobs j = some jb) : ExpiryRead (expired s j jb t at' word flag c) t word flag := by
  obtain ⟨_, _, _, _, _, _, _, _, _, e⟩ := expired_rest (t := t) (at' := at') (word := word) (flag := flag) (c := c) h
  rw [e]
  exact expiryNoted_read.noted (Noted.refl [] _) (fun _ _ => List.not_mem_nil) rfl rfl

/-- The outcome of an expiry in READY: its job gone with an entry ready, the interval over, and a discard begun. -/
structure Expires (s u : State) (j : Nat) (jb : Job) (t at' word flag : Nat) (c : Comp) : Prop where
  main : u.main = .discarding
  cause : u.discardCause = 0x41
  gone : SMap.find? u.jobs j = none
  entry : u.comps = s.comps ++ [c]
  time : u.time = max s.time (at' + wdogNs s jb)
  touched : u.touched = s.touched
  stalled : u.stalled = s.stalled
  read : ExpiryRead u t word flag

theorem classB_expired (hj : SMap.find? s.jobs j = some jb) (hm : s.main = .ready) (hp : s.power ≠ .deep) :
    Expires s (classB (expired s j jb t at' word flag c) 0x41) j jb t at' word flag c := by
  have n := expiryNoted_noted (s := s) (jb := jb) (t := t) (at' := at') (word := word) (flag := flag)
  have hr := expired_read (t := t) (at' := at') (word := word) (flag := flag) (c := c) hj
  obtain ⟨_, _, _, _, _, _, _, _, _, e⟩ := expired_rest (t := t) (at' := at') (word := word) (flag := flag) (c := c) hj
  generalize expired s j jb t at' word flag c = v at hr e ⊢
  have d : DiscardBegins v (classB v 0x41) 0x41 :=
    classB_begins (by rw [e]; exact n.main.trans hm) (by rw [e]; exact fun h => hp (n.power.symm.trans h))
  exact {
    main := d.main
    cause := d.cause
    gone := by rw [d.jobs, e]; exact SMap.find?_erase_same ..
    entry := by rw [d.comps, e]
    time := by rw [d.time, e]; exact n.time
    touched := by rw [d.touched, e]; exact n.touched
    stalled := by rw [d.stalled, e]; exact n.stalled
    read := d.reads hr }

/-- A change of the visible state that is noted leaves the outcome of an expiry. -/
theorem Expires.noted {u v : State} (h : Expires s u j jb t at' word flag c) (n : Noted [] u v) :
    Expires s v j jb t at' word flag c :=
  ⟨n.main.trans h.main, n.discardCause.trans h.cause, (congrArg (SMap.find? · j) n.jobs).trans h.gone, n.comps.trans h.entry,
    n.time.trans h.time, n.touched.trans h.touched, n.stalled.trans h.stalled,
    h.read.noted n (fun _ _ => List.not_mem_nil) rfl rfl⟩

end Expired

/-- A tile blocked in WAIT alone is timed from when it blocked (R134). -/
theorem timedBlock_wait {s : State} {t f n : Nat} (hb : (tile s t).block = some (.wait f n)) (hv : (tile s t).vecAt = none) :
    timedBlock s t = (some ((tile s t).blockAt, (tile s t).blockIdx, f), s) := by
  simp [timedBlock, hb, hv, blockFlag]

/-- The completion entry of a job that timed out (R135). -/
def timeoutEntry (jb : Job) (t word : Nat) : Comp :=
  { q := jb.q, slot := jb.slot, jobId := jId jb.desc, status := 3, cause := 0x2D, ltile := t, word := word }

theorem execWaitWatchdog_expires {s : State} {t j f n : Nat} {jb : Job} (hi : s.Inv) (hm : s.main = .ready) (hp : s.power ≠ .deep)
    (hj : jobOf s t = some (j, jb)) (hr : jb.running = true) (hb : (tile s t).block = some (.wait f n))
    (hv : (tile s t).vecAt = none) : ∃ r, exec (.waitWatchdog t) s = .next r ∧
      Expires s r j jb t (tile s t).blockAt (tile s t).blockIdx f (timeoutEntry jb t (tile s t).blockIdx) := by
  have hx := classB_expired (t := t) (at' := (tile s t).blockAt) (word := (tile s t).blockIdx) (flag := f)
    (c := timeoutEntry jb t (tile s t).blockIdx) (jobOf_some hj).2 hm hp
  refine ⟨_, ?_, hx.noted (noteState_noted s _)⟩
  rw [← ends_noted s _ (hx.touched.trans hi.charged) (hx.stalled.trans hi.inReach)]
  change execWaitWatchdog t s = _
  unfold execWaitWatchdog
  rw [hj, timedBlock_wait hb hv]
  dsimp only
  rw [if_pos (by simp [hm, hr])]
  rfl

/-- Settles O9: a reserved word is rejected at decode and faults its job, and an expiry ends its job and begins a discard. -/
theorem tileFaultsEndJobs : Obligations.TileFaultsEndJobs := by
  constructor
  · intro s t w j jb hi hw hr hc hj hrun
    obtain ⟨u, hu, h⟩ := execReservedOpcode_ends hi hw hr hc hj hrun
    exact ⟨checkWord_reserved hr hc, u, hu, h.mem, h.cons, fun ho => ⟨h.freed ho, h.gone ho⟩, fun ho => ⟨h.held ho, h.owing ho⟩⟩
  · intro s t j f n jb hi hm hp hj hr hb hv
    obtain ⟨r, he, h⟩ := execWaitWatchdog_expires hi hm hp hj hr hb hv
    refine ⟨r, he, h.main, h.gone, ?_, h.read.flag, h.read.cause, h.read.ltile, h.read.word, ?_, ?_, h.cause⟩
    · rw [h.entry]
      exact List.mem_append_right _ (List.mem_singleton_self _)
    · exact (le_max_left _ _).trans h.time.ge
    · exact (le_max_right _ _).trans h.time.ge

end Sys2Proof.Machine

namespace Sys2Proof.Machine

/-- Settles O5: what every command keeps, for a command that promises the CONS values. -/
theorem consValuesOnlyThroughConservator : Obligations.ConsValuesOnlyThroughConservator := by
  intro c s t hc e
  obtain ⟨u, hu, h⟩ := exec_leads c s
  obtain rfl : t = u := Host.Outcome.next.inj (e.symm.trans hu)
  exact h.cons hc

end Sys2Proof.Machine

namespace Sys2Proof.Machine

/-! ## The end of a discard (R279, Table 9.16) -/

section DiscardEnd
variable {s t : State}

/-- A table that does not list a key is the table without it. -/
theorem erase_eq_of_find?_none {α : Type} {m : SMap α} {k : Nat} (h : m.find? k = none) : m.erase k = m := by
  induction m with
  | nil => rfl
  | cons p r ih =>
    obtain ⟨j, w⟩ := p
    by_cases e : j = k
    · simp [SMap.find?, e] at h
    · simp only [SMap.find?, if_neg e] at h
      simp [SMap.erase, if_neg e, ih h]

/-- What is left of a table without a key has other keys. -/
theorem key_ne_of_mem_erase {α : Type} {m : SMap α} {k : Nat} {p : Nat × α} (h : p ∈ m.erase k) : p.1 ≠ k := by
  induction m with
  | nil => cases h
  | cons q r ih =>
    obtain ⟨j, w⟩ := q
    simp only [SMap.erase] at h
    split at h
    · exact ih h
    · rename_i e
      rcases List.mem_cons.1 h with rfl | h
      · exact e
      · exact ih h

/-- What the part keeps while jobs end and what they may have written becomes indeterminate, in the terms of the end of a
discard. -/
structure JobsEnding (s t : State) : Prop where
  time : t.time = s.time
  comps : t.comps = s.comps
  mem : t.mem = s.mem
  spoiled : s.indet ⊆ t.indet

theorem JobsEnding.refl (s : State) : JobsEnding s s := ⟨rfl, rfl, rfl, fun _ => id⟩

theorem JobsEnding.trans {u : State} (h : JobsEnding s t) (g : JobsEnding t u) : JobsEnding s u :=
  ⟨g.time.trans h.time, g.comps.trans h.comps, g.mem.trans h.mem, List.Subset.trans h.spoiled g.spoiled⟩

/-- A job that ends is gone, whether it was there or not. -/
theorem endJob_jobs (s : State) (j : Nat) : (endJob s j).jobs = SMap.erase s.jobs j := by
  cases hj : SMap.find? s.jobs j with
  | none =>
    rw [erase_eq_of_find?_none hj, endJob, hj]
  | some jb =>
    obtain ⟨_, _, _, _, _, _, _, _, h⟩ := endJob_rest hj
    rw [h]

theorem endJob_ending (s : State) (j : Nat) : JobsEnding s (endJob s j) := by
  cases hj : SMap.find? s.jobs j with
  | none =>
    rw [endJob, hj]
    exact .refl s
  | some jb =>
    obtain ⟨_, _, _, _, _, _, _, _, h⟩ := endJob_rest hj
    rw [h]
    exact ⟨rfl, rfl, rfl, fun _ => id⟩

theorem spoil_ending (s : State) (jb : Job) : JobsEnding s (spoil s jb) :=
  ⟨rfl, rfl, rfl, List.subset_append_right _ _⟩

/-- A job ended with what it may have written. -/
theorem spoil_endJob_ending (s : State) (j : Nat × Job) : JobsEnding s (spoil (endJob s j.1) j.2) :=
  (endJob_ending s j.1).trans (spoil_ending _ j.2)

/-- The jobs of a list ended one after the other, as the end of a discard does (`discardDone`). -/
def endJobs (l : List (Nat × Job)) (s : State) : State := l.foldl (fun s j => spoil (endJob s j.1) j.2) s

theorem endJobs_ending (l : List (Nat × Job)) (s : State) : JobsEnding s (endJobs l s) :=
  foldl_keeps (JobsEnding s) _ (fun u j h => h.trans (spoil_endJob_ending u j)) l s (.refl s)

/-- None of the jobs of the list is left. -/
theorem endJobs_jobs {l : List (Nat × Job)} {s : State} {p : Nat × Job} (h : p ∈ (endJobs l s).jobs) :
    p ∈ s.jobs ∧ ∀ q ∈ l, p.1 ≠ q.1 := by
  induction l generalizing s with
  | nil => exact ⟨h, by simp⟩
  | cons j l ih =>
    obtain ⟨hmem, hne⟩ := ih h
    have herase : p ∈ SMap.erase s.jobs j.1 := endJob_jobs s j.1 ▸ hmem
    exact ⟨SMap.mem_erase _ _ _ herase, List.forall_mem_cons.2 ⟨key_ne_of_mem_erase herase, hne⟩⟩

theorem endJobs_all (s : State) : (endJobs s.jobs s).jobs = [] := by
  refine List.eq_nil_iff_forall_not_mem.2 fun p hp => ?_
  obtain ⟨hmem, hne⟩ := endJobs_jobs hp
  exact hne p hmem rfl

/-- What each job of the list may have written is indeterminate. -/
theorem deviceWins_endJobs {l : List (Nat × Job)} {s : State} {j : Nat × Job} (h : j ∈ l) :
    deviceWins j.2 ⊆ (endJobs l s).indet := by
  induction l generalizing s with
  | nil => cases h
  | cons i l ih =>
    rcases List.mem_cons.1 h with rfl | h
    · have hj : deviceWins j.2 ⊆ (spoil (endJob s j.1) j.2).indet :=
        List.Subset.trans (List.subset_append_left _ _) (List.subset_append_left _ _)
      exact List.Subset.trans hj (endJobs_ending l _).spoiled
    · exact ih h

/-- How the part stands when the discard `d` of `s` has ended after `us` microseconds. -/
structure DiscardEnded (s : State) (d : Discard) (us : Nat) (t : State) : Prop where
  main : t.main = .ready
  jobs : t.jobs = []
  discard : t.discard = none
  comps : t.comps = s.comps ++ d.covered
  closed : ∀ c ∈ t.ctx, c.2.st = 0
  written : ∀ j ∈ s.jobs, ∀ r ∈ deviceWins j.2, r ∈ t.indet
  opened : ∀ r ∈ d.opened, r ∈ t.indet
  mem : t.mem = s.mem
  time : d.began + us * 1000 ≤ t.time

/-- What is noted afterwards, or charged to regulators, is no part of it. -/
theorem DiscardEnded.noted {d : Discard} {us : Nat} {u : State} {ks : List Nat} (h : DiscardEnded s d us t) (n : Noted ks t u) :
    DiscardEnded s d us u := by
  obtain ⟨⟨_, _, _, _, _, _, _, _, _, _, rfl⟩, -, -⟩ := n
  exact ⟨h.main, h.jobs, h.discard, h.comps, h.closed, h.written, h.opened, h.mem, h.time⟩

theorem discardDone_ended (s : State) (d : Discard) (us : Nat) : DiscardEnded s d us (discardDone s d us) := by
  have hkeep := endJobs_ending s.jobs (advance s (d.began + us * 1000))
  unfold discardDone setMain
  refine DiscardEnded.noted ?_ (devEvent_noted [] _ 1)
  exact {
    main := rfl
    jobs := endJobs_all (advance s (d.began + us * 1000))
    discard := rfl
    comps := congrArg (· ++ d.covered) hkeep.comps
    closed := by
      intro c hc
      obtain ⟨_, -, rfl⟩ := List.mem_map.1 hc
      rfl
    written := fun j hj r hr => List.mem_append_right _ (deviceWins_endJobs hj hr)
    opened := fun r hr => List.mem_append_left _ hr
    mem := hkeep.mem
    time := (Nat.le_max_right _ _).trans_eq hkeep.time.symm }

/-- What was touched is charged where its regulator keeps count of it, and nowhere else. -/
theorem chargeAll_rest (s : State) (e : Nat) (forced : Bool) : ∃ ent regU regWait touched,
    chargeAll s e forced = { s with ent := ent, regU := regU, regWait := regWait, touched := touched } := by
  unfold chargeAll
  split
  · exact ⟨_, _, _, _, rfl⟩
  · refine foldl_keeps (fun u => ∃ ent regU regWait touched,
      u = { s with ent := ent, regU := regU, regWait := regWait, touched := touched }) _ ?_ _ _
      ⟨s.ent, s.regU, s.regWait, [], rfl⟩
    rintro _ x ⟨_, _, _, _, rfl⟩
    unfold partArrives
    split <;> exact ⟨_, _, _, _, rfl⟩

/-- A command that ends a discard leaves it ended. -/
theorem DiscardEnded.ends {d : Discard} {us : Nat} (h : DiscardEnded s d us t) : DiscardEnded s d us (noteState s (rested t)) := by
  refine DiscardEnded.noted ?_ (noteState_noted s _)
  obtain ⟨_, _, _, _, e⟩ := chargeAll_rest t 0 false
  rw [rested, e]
  exact ⟨h.main, h.jobs, h.discard, h.comps, h.closed, h.written, h.opened, h.mem, h.time⟩

/-- The discard ends once its host reads are done and no request of a job waits. -/
theorem execDiscardEnd_done {d : Discard} (us : Nat) (hm : s.main = .discarding) (hd : s.discard = some d) (hr : s.reads = [])
    (hh : jobHeld s = false) : exec (.discardEnd us) s = ends s (discardDone s d us) := by
  change execDiscardEnd us s = _
  simp [execDiscardEnd, hm, hd, hr, hh]

end DiscardEnd

/-- Settles O30: every job ends with its windows indeterminate, contexts close, and the covered completions become due. -/
theorem discardEndsInReady : Obligations.DiscardEndsInReady := by
  intro s d us hm hd hr hh
  have h := (discardDone_ended s d us).ends
  exact ⟨_, execDiscardEnd_done us hm hd hr hh, h.main, h.jobs, h.discard, h.comps, h.closed, h.written, h.opened, h.mem, h.time⟩

end Sys2Proof.Machine

namespace Sys2Proof.Machine

/-! ## The codes of stored words (R231, R233, R234) -/

/-! ### Arithmetic of GF(2^8) -/

/-- A value taken where a sum of two bits is 1 is the sum of what each bit takes. -/
theorem bif_xor (b c : Bool) (x : Byte) :
    (bif b ^^ c then x else 0#8) = (bif b then x else 0#8) ^^^ (bif c then x else 0#8) := by
  cases b <;> cases c <;> simp

theorem gfX_eq (a : Byte) : gfX a = a <<< 1 ^^^ bif a.getLsbD 7 then 0x1D#8 else 0#8 := by
  unfold gfX
  cases a.getLsbD 7 <;> simp

@[simp] theorem gfX_zero : gfX 0#8 = 0#8 := rfl

theorem gfX_xor (a b : Byte) : gfX (a ^^^ b) = gfX a ^^^ gfX b := by
  rw [gfX_eq, gfX_eq, gfX_eq, BitVec.shiftLeft_xor_distrib, BitVec.getLsbD_xor, bif_xor]
  ac_rfl

theorem gfMul_go_acc (k : Nat) (x : Byte) (y : Nat) (acc : Byte) :
    gfMul.go k x y acc = acc ^^^ gfMul.go k x y 0#8 := by
  induction k generalizing x y acc with
  | zero => simp [gfMul.go]
  | succ k ih =>
    rw [gfMul.go, gfMul.go, ih, ih _ _ (if y % 2 = 1 then _ else _)]
    split <;> simp [BitVec.xor_assoc]

/-- One round of the multiplication adds the first factor where the second is odd. -/
theorem gfMul_go_succ (k : Nat) (x : Byte) (y : Nat) :
    gfMul.go (k + 1) x y 0#8 = (bif y.testBit 0 then x else 0#8) ^^^ gfMul.go k (gfX x) (y / 2) 0#8 := by
  rw [gfMul.go, gfMul_go_acc, Nat.testBit_zero, Bool.cond_decide]
  simp

theorem gfMul_xor_left (a b c : Byte) : gfMul (a ^^^ b) c = gfMul a c ^^^ gfMul b c := by
  have rounds : ∀ k y x z, gfMul.go k (x ^^^ z) y 0#8 = gfMul.go k x y 0#8 ^^^ gfMul.go k z y 0#8 := by
    intro k
    induction k with
    | zero => simp [gfMul.go]
    | succ k ih =>
      intro y x z
      rw [gfMul_go_succ, gfMul_go_succ, gfMul_go_succ, gfX_xor, ih]
      cases y.testBit 0
      · simp
      · simp only [cond_true]
        ac_rfl
  exact rounds 8 c.toNat a b

theorem gfMul_xor_right (a b c : Byte) : gfMul a (b ^^^ c) = gfMul a b ^^^ gfMul a c := by
  have rounds : ∀ k x y z, gfMul.go k x (y ^^^ z) 0#8 = gfMul.go k x y 0#8 ^^^ gfMul.go k x z 0#8 := by
    intro k
    induction k with
    | zero => simp [gfMul.go]
    | succ k ih =>
      intro x y z
      rw [gfMul_go_succ, gfMul_go_succ, gfMul_go_succ, Nat.xor_div_two, ih, Nat.testBit_xor, bif_xor]
      ac_rfl
  have h := rounds 8 a b.toNat c.toNat
  rwa [← BitVec.toNat_xor] at h

/-- What holds of the single bits and of the sums of two holds of every byte. -/
theorem byte_induction {P : Byte → Prop} (zero : P 0#8) (bit : ∀ i < 8, P (1#8 <<< i)) (xor : ∀ a b, P a → P b → P (a ^^^ b))
    (b : Byte) : P b := by
  have sum : ∀ b : Byte, b = (List.range 8).foldl (fun x i => x ^^^ bif b.getLsbD i then 1#8 <<< i else 0#8) 0#8 := by
    decide +kernel
  rw [sum b]
  refine List.foldlRecOn _ _ zero fun x hx i hi => xor x _ hx ?_
  cases b.getLsbD i
  · exact zero
  · exact bit i (List.mem_range.1 hi)

@[simp] theorem gfMul_zero_left (b : Byte) : gfMul 0#8 b = 0#8 := by
  have h := gfMul_xor_left 0#8 0#8 b
  rwa [BitVec.xor_self, BitVec.xor_self] at h

@[simp] theorem gfMul_zero_right (a : Byte) : gfMul a 0#8 = 0#8 := by
  have h := gfMul_xor_right a 0#8 0#8
  rwa [BitVec.xor_self, BitVec.xor_self] at h

/-- Multiplying by α commutes with every product: it does for single bits. -/
theorem gfMul_gfX (a b : Byte) : gfMul a (gfX b) = gfX (gfMul a b) := by
  have bits : ∀ i < 8, ∀ j < 8, gfMul (1#8 <<< i) (gfX (1#8 <<< j)) = gfX (gfMul (1#8 <<< i) (1#8 <<< j)) := by decide +kernel
  induction a using byte_induction with
  | zero => simp
  | xor a c ha hc => rw [gfMul_xor_left, gfMul_xor_left, gfX_xor, ha, hc]
  | bit i hi =>
    induction b using byte_induction with
    | zero => simp
    | xor b c hb hc => rw [gfX_xor, gfMul_xor_right, gfMul_xor_right, gfX_xor, hb, hc]
    | bit j hj => exact bits i hi j hj

@[simp] theorem gfMul_one (a : Byte) : gfMul a 1#8 = a := by
  have h : ∀ a : Byte, gfMul a 1#8 = a := by decide +kernel
  exact h a

theorem gfMul_gfX_iterate (a b : Byte) (n : Nat) : gfMul a (gfX^[n] b) = gfX^[n] (gfMul a b) := by
  induction n with
  | zero => rfl
  | succ n ih => rw [Function.iterate_succ_apply', Function.iterate_succ_apply', gfMul_gfX, ih]

theorem gfPow_eq (n : Nat) : gfPow n = gfX^[n] 1#8 := by
  induction n with
  | zero => rfl
  | succ n ih => rw [Function.iterate_succ_apply', ← ih, gfPow]

/-- A product with α^n is `n` products with α. -/
theorem gfMul_gfPow (a : Byte) (n : Nat) : gfMul a (gfPow n) = gfX^[n] a := by
  rw [gfPow_eq, gfMul_gfX_iterate, gfMul_one]

@[simp] theorem gfX_iterate_zero (n : Nat) : gfX^[n] 0#8 = 0#8 := Function.iterate_fixed gfX_zero n

theorem gfX_iterate_xor (a b : Byte) (n : Nat) : gfX^[n] (a ^^^ b) = gfX^[n] a ^^^ gfX^[n] b := by
  induction n with
  | zero => rfl
  | succ n ih => rw [Function.iterate_succ_apply', Function.iterate_succ_apply', Function.iterate_succ_apply', ih, gfX_xor]

theorem gfMul_gfInv {a : Byte} (h : a ≠ 0#8) : gfMul (gfInv a) a = 1#8 := by
  have all : ∀ a : Byte, a ≠ 0#8 → gfMul (gfInv a) a = 1#8 := by decide +kernel
  exact all a h

/-- The powers of α that locate the symbols of a codeword differ, and so do their products with one error value. -/
theorem gfX_iterate_inj {e : Byte} {m n : Nat} (he : e ≠ 0#8) (hm : m < 72) (hn : n < 72) (h : gfX^[m] e = gfX^[n] e) : m = n := by
  have apart : ∀ m < 72, ∀ n < 72, gfPow m = gfPow n → m = n := by decide +kernel
  have power : ∀ k, gfMul (gfInv e) (gfX^[k] e) = gfPow k := fun k => by rw [gfMul_gfX_iterate, gfMul_gfInv he, gfPow_eq]
  exact apart m hm n hn (by rw [← power, ← power, h])

end Sys2Proof.Machine

namespace Sys2Proof.Machine

/-! ### Syndromes -/

/-- The value at α^i of the polynomial of the symbols `w` after a part of value `acc`: `rsSyn` is that of a whole word. -/
def horner (i : Nat) (acc : Byte) (w : List Byte) : Byte := w.foldl (fun acc b => gfX^[i] acc ^^^ b) acc

theorem rsSyn_eq_horner (w : List Byte) (i : Nat) : rsSyn w i = horner i 0#8 w := by
  unfold rsSyn horner
  simp only [gfMul_gfPow]

@[simp] theorem horner_nil (i : Nat) (acc : Byte) : horner i acc [] = acc := rfl

theorem horner_cons (i : Nat) (acc b : Byte) (w : List Byte) : horner i acc (b :: w) = horner i (gfX^[i] acc ^^^ b) w := rfl

theorem horner_append (i : Nat) (acc : Byte) (v w : List Byte) : horner i acc (v ++ w) = horner i (horner i acc v) w :=
  List.foldl_append

/-- The values of two words of one length add up to that of their sum. -/
theorem horner_zipWith (i : Nat) (a b : Byte) {v w : List Byte} (h : v.length = w.length) :
    horner i (a ^^^ b) (List.zipWith (· ^^^ ·) v w) = horner i a v ^^^ horner i b w := by
  induction v generalizing a b w with
  | nil => cases w with
    | nil => rfl
    | cons y w => cases h
  | cons x v ih => cases w with
    | nil => cases h
    | cons y w =>
      have e : gfX^[i] (a ^^^ b) ^^^ (x ^^^ y) = (gfX^[i] a ^^^ x) ^^^ (gfX^[i] b ^^^ y) := by
        rw [gfX_iterate_xor]
        ac_rfl
      rw [List.zipWith_cons_cons, horner_cons, horner_cons, horner_cons, e]
      exact ih _ _ (Nat.succ.inj h)

/-- A value added before a word counts with the power of its place. -/
theorem horner_xor (i : Nat) (a e : Byte) (w : List Byte) : horner i (a ^^^ e) w = horner i a w ^^^ gfX^[i * w.length] e := by
  induction w generalizing a e with
  | nil => rfl
  | cons x w ih =>
    have h : gfX^[i] (a ^^^ e) ^^^ x = (gfX^[i] a ^^^ x) ^^^ gfX^[i] e := by
      rw [gfX_iterate_xor]
      ac_rfl
    rw [horner_cons, horner_cons, h, ih, ← Function.iterate_add_apply, List.length_cons, Nat.mul_succ]

theorem horner_map_gfMul (i : Nat) (f a : Byte) (w : List Byte) : horner i (gfMul f a) (w.map (gfMul f)) = gfMul f (horner i a w) := by
  induction w generalizing a with
  | nil => rfl
  | cons x w ih => rw [List.map_cons, horner_cons, horner_cons, ← gfMul_gfX_iterate, ← gfMul_xor_right, ih]

/-! ### What is encoded has no syndrome -/

/-- At each root α^i of the generator, what follows its leading term has the value of that term. -/
theorem rsGen_root {c i : Nat} (hc : c = 6 ∨ c = 8) (hi : i < c) : horner i 0#8 (rsGen c) = gfX^[i * c] 1#8 := by
  have h6 : ∀ i < 6, horner i 0#8 (rsGen 6) = gfX^[i * 6] 1#8 := by decide +kernel
  have h8 : ∀ i < 8, horner i 0#8 (rsGen 8) = gfX^[i * 8] 1#8 := by decide +kernel
  obtain rfl | rfl := hc
  · exact h6 i hi
  · exact h8 i hi

theorem rsGen_length {c : Nat} (hc : c = 6 ∨ c = 8) : (rsGen c).length = c := by
  obtain rfl | rfl := hc <;> decide +kernel

/-- One step of the division: the remainder `st` after the byte `b`. -/
def rsStep (c : Nat) (st : List Byte) (b : Byte) : List Byte :=
  List.zipWith (· ^^^ ·) (st.drop 1 ++ [0#8]) ((rsGen c).map (gfMul (b ^^^ st.headD 0#8)))

theorem rsCheck_eq (c : Nat) (d : List Byte) : rsCheck c d = d.foldl (rsStep c) (List.replicate c 0#8) := rfl

section Encode
variable {c i : Nat}

theorem rsStep_length {st : List Byte} {b : Byte} (hc : c = 6 ∨ c = 8) (h : st.length = c) : (rsStep c st b).length = c := by
  simp only [rsStep, List.length_zipWith, List.length_append, List.length_drop, List.length_map, rsGen_length hc, h,
    List.length_singleton]
  omega

theorem rsCheck_length (hc : c = 6 ∨ c = 8) (d : List Byte) : (rsCheck c d).length = c :=
  foldl_keeps (fun st : List Byte => st.length = c) _ (fun _ _ => rsStep_length hc) d _ List.length_replicate

/-- Where the bytes so far, followed by their remainder, have the value zero, so they have with one byte more. -/
theorem horner_rsStep {st : List Byte} {acc b : Byte} (hc : c = 6 ∨ c = 8) (hi : i < c) (h : st.length = c)
    (hz : horner i acc st = 0#8) : horner i (gfX^[i] acc ^^^ b) (rsStep c st b) = 0#8 := by
  cases st with
  | nil =>
    rw [← h] at hi
    cases hi
  | cons x r =>
    have hl : (r ++ [0#8]).length = ((rsGen c).map (gfMul (b ^^^ x))).length := by
      rw [List.length_append, List.length_map, rsGen_length hc, ← h]
      rfl
    have hg : horner i 0#8 ((rsGen c).map (gfMul (b ^^^ x))) = gfX^[i * c] (b ^^^ x) := by
      have hm := horner_map_gfMul i (b ^^^ x) 0#8 (rsGen c)
      rwa [gfMul_zero_right, rsGen_root hc hi, gfMul_gfX_iterate, gfMul_one] at hm
    have hr : horner i (gfX^[i] acc ^^^ b) r = gfX^[i * r.length] (b ^^^ x) := by
      have e : gfX^[i] acc ^^^ b = (gfX^[i] acc ^^^ x) ^^^ (b ^^^ x) := by
        rw [BitVec.xor_comm b x, BitVec.xor_assoc, ← BitVec.xor_assoc x, BitVec.xor_self, BitVec.zero_xor]
      rw [e, horner_xor, ← horner_cons, hz, BitVec.zero_xor]
    have hlen : i + i * r.length = i * c := by
      rw [← h, List.length_cons]
      ring
    calc horner i (gfX^[i] acc ^^^ b) (rsStep c (x :: r) b)
      _ = horner i (gfX^[i] acc ^^^ b ^^^ 0#8) (List.zipWith (· ^^^ ·) (r ++ [0#8]) ((rsGen c).map (gfMul (b ^^^ x)))) := by
        rw [BitVec.xor_zero]
        rfl
      _ = gfX^[i] (gfX^[i * r.length] (b ^^^ x)) ^^^ gfX^[i * c] (b ^^^ x) := by
        rw [horner_zipWith i _ _ hl, hg, horner_append, hr, horner_cons, horner_nil, BitVec.xor_zero]
      _ = 0#8 := by rw [← Function.iterate_add_apply, hlen, BitVec.xor_self]

/-- A word with its check bytes has no syndrome. -/
theorem rsSyn_rsEncode (hc : c = 6 ∨ c = 8) (hi : i < c) (d : List Byte) : rsSyn (rsEncode c d) i = 0#8 := by
  have go : ∀ (d st : List Byte) (acc : Byte), st.length = c → horner i acc st = 0#8 →
      horner i acc (d ++ d.foldl (rsStep c) st) = 0#8 := by
    intro d
    induction d with
    | nil => exact fun st acc _ hz => hz
    | cons b d ih => exact fun st acc h hz => ih _ _ (rsStep_length hc h) (horner_rsStep hc hi h hz)
  rw [rsSyn_eq_horner, rsEncode, rsCheck_eq]
  refine go d _ _ List.length_replicate ?_
  have zeros : ∀ n, horner i 0#8 (List.replicate n 0#8) = 0#8 := fun n => by
    induction n with
    | zero => rfl
    | succ n ih => rw [List.replicate_succ, horner_cons, gfX_iterate_zero, BitVec.xor_self, ih]
  exact zeros c

theorem rsEncode_length (hc : c = 6 ∨ c = 8) (d : List Byte) : (rsEncode c d).length = d.length + c := by
  rw [rsEncode, List.length_append, rsCheck_length hc]

/-- The first syndrome of the poison word is not zero. -/
theorem rsEncode_ne_poisonWord (hc : c = 6 ∨ c = 8) (d : List Byte) : rsEncode c d ≠ poisonWord c := by
  have hp : rsSyn (poisonWord c) 0 ≠ 0#8 := by
    obtain rfl | rfl := hc <;> decide +kernel
  intro h
  exact hp (h ▸ rsSyn_rsEncode hc (by omega) d)

/-- What was encoded decodes as it was (R231, R234). -/
theorem rsDecode_rsEncode {d : List Byte} (hc : c = 6 ∨ c = 8) (hd : d.length = 64) : rsDecode c (rsEncode c d) = .clean d := by
  have hs : ((List.range c).map (rsSyn (rsEncode c d))).all (· == 0#8) = true := by
    simp only [List.all_map, List.all_eq_true, List.mem_range, Function.comp_apply, beq_iff_eq]
    exact fun i hi => rsSyn_rsEncode hc hi d
  have ht : (rsEncode c d).take 64 = d := by rw [rsEncode, ← hd, List.take_left]
  simp [rsDecode, rsEncode_ne_poisonWord hc, hs, ht]

/-! ### An error in one symbol -/

theorem xorAt_eq_set {w : List Byte} {p : Nat} (e : Byte) (h : p < w.length) : xorAt w p e = w.set p (w[p] ^^^ e) := by
  refine List.ext_getElem (by simp [xorAt]) fun n _ _ => ?_
  simp only [xorAt, List.getElem_map, List.getElem_zipIdx, List.getElem_set, Nat.zero_add]
  by_cases hn : n = p
  · subst hn
    simp
  · simp [hn, Ne.symm hn]

theorem xorAt_length (w : List Byte) (p : Nat) (e : Byte) : (xorAt w p e).length = w.length := by simp [xorAt]

/-- The same error twice is none. -/
theorem xorAt_xorAt {w : List Byte} {p : Nat} (e : Byte) (h : p < w.length) : xorAt (xorAt w p e) p e = w := by
  rw [xorAt_eq_set e ((xorAt_length w p e).symm ▸ h)]
  simp [xorAt_eq_set e h]

theorem rsSyn_xorAt {w : List Byte} {p : Nat} (e : Byte) (i : Nat) (h : p < w.length) :
    rsSyn (xorAt w p e) i = rsSyn w i ^^^ gfX^[i * (w.length - 1 - p)] e := by
  have hw : w = w.take p ++ w[p] :: w.drop (p + 1) := by simp
  have hl : (w.drop (p + 1)).length = w.length - 1 - p := by
    rw [List.length_drop]
    omega
  rw [rsSyn_eq_horner, rsSyn_eq_horner, xorAt_eq_set e h, List.set_eq_take_append_cons_drop, if_pos h, horner_append, horner_cons,
    ← BitVec.xor_assoc, horner_xor, hl, ← horner_cons, ← horner_append, ← hw]

/-- The syndromes of one error fit its place and value. -/
theorem rsFits_powers (e : Byte) (m k n : Nat) :
    rsFits ((List.range' k n).map (fun i => gfX^[i * m] e)) (gfPow m) (gfX^[k * m] e) 1#8 0#8 = true := by
  induction n generalizing k with
  | zero => rfl
  | succ n ih =>
    rw [List.range'_succ, List.map_cons, rsFits, gfMul_gfPow, gfMul_zero_left, BitVec.xor_zero, beq_self_eq_true, Bool.true_and,
      ← Function.iterate_add_apply, Nat.add_comm m, ← Nat.succ_mul]
    exact ih (k + 1)

/-- Only one place fits the syndromes of an error. -/
theorem rsFits_place {e : Byte} {m q : Nat} {r : List Byte} (he : e ≠ 0#8) (hm : m < 72) (hq : q < 72)
    (h : rsFits (e :: gfX^[m] e :: r) (gfPow q) e 1#8 0#8 = true) : q = m := by
  simp only [rsFits, gfMul_gfPow, Bool.and_eq_true, beq_iff_eq, gfMul_zero_left, BitVec.xor_zero] at h
  exact gfX_iterate_inj he hq hm h.2.1

/-- The syndromes of an error of value `e` at the place of α^m. -/
def errorSyns (c : Nat) (e : Byte) (m : Nat) : List Byte := (List.range c).map (fun i => gfX^[i * m] e)

theorem errorSyns_eq (hc : c = 6 ∨ c = 8) (e : Byte) (m : Nat) : ∃ r, errorSyns c e m = e :: gfX^[m] e :: r := by
  obtain rfl | rfl := hc <;> exact ⟨_, by simp [errorSyns, List.range_succ_eq_map]; rfl⟩

/-- The decoder finds the place and value of an error in one symbol. -/
theorem rsOne_errorSyns {e : Byte} {n p : Nat} (hc : c = 6 ∨ c = 8) (he : e ≠ 0#8) (hp : p < n) (hn : n ≤ 72) :
    rsOne n (errorSyns c e (n - 1 - p)) = some (p, e) := by
  obtain ⟨r, hr⟩ := errorSyns_eq hc e (n - 1 - p)
  have fits : rsFits (errorSyns c e (n - 1 - p)) (gfPow (n - 1 - p)) e 1#8 0#8 = true := by
    have h := rsFits_powers e (n - 1 - p) 0 c
    rwa [← List.range_eq_range', Nat.zero_mul] at h
  have found : (List.range n).find? (fun q => rsFits (errorSyns c e (n - 1 - p)) (gfPow (n - 1 - q)) e 1#8 0#8) = some p := by
    refine List.find?_range_eq_some.2 ⟨fits, List.mem_range.2 hp, fun q hq => ?_⟩
    rw [Bool.not_eq_true', Bool.eq_false_iff]
    intro hf
    rw [hr] at hf
    have := rsFits_place he (by omega) (by omega) hf
    omega
  have head : (errorSyns c e (n - 1 - p)).headD 0#8 = e := by rw [hr]; rfl
  simp only [rsOne, head, if_neg he, found, Option.map_some]

/-- No error in one symbol explains the syndromes of the poison word. -/
theorem rsOne_poisonWord (hc : c = 6 ∨ c = 8) : rsOne (64 + c) ((List.range c).map (rsSyn (poisonWord c))) = none := by
  obtain rfl | rfl := hc <;> decide +kernel

/-- An error in one symbol of a codeword is corrected, with its place and value (R231, R234). -/
theorem rsDecode_xorAt_rsEncode {d : List Byte} {p : Nat} {e : Byte} (hc : c = 6 ∨ c = 8) (hd : d.length = 64) (hp : p < 64 + c)
    (he : e ≠ 0#8) : rsDecode c (xorAt (rsEncode c d) p e) = .corrected d [(p, e)] := by
  have hl : (rsEncode c d).length = 64 + c := by rw [rsEncode_length hc, hd]
  have hp' : p < (rsEncode c d).length := hl ▸ hp
  have syns : (List.range c).map (rsSyn (xorAt (rsEncode c d) p e)) = errorSyns c e (64 + c - 1 - p) := by
    refine List.map_congr_left fun i hi => ?_
    rw [rsSyn_xorAt e i hp', rsSyn_rsEncode hc (List.mem_range.1 hi), hl, BitVec.zero_xor]
  have one : rsOne (64 + c) (errorSyns c e (64 + c - 1 - p)) = some (p, e) := rsOne_errorSyns hc he hp (by omega)
  have alive : xorAt (rsEncode c d) p e ≠ poisonWord c := by
    intro h
    rw [← syns, h, rsOne_poisonWord hc] at one
    cases one
  have some' : (errorSyns c e (64 + c - 1 - p)).all (· == 0#8) = false := by
    obtain ⟨r, hr⟩ := errorSyns_eq hc e (64 + c - 1 - p)
    rw [hr]
    simp [he]
  have mended : (xorAt (xorAt (rsEncode c d) p e) p e).take 64 = d := by
    rw [xorAt_xorAt e hp', rsEncode, ← hd, List.take_left]
  simp only [rsDecode, if_neg alive, syns, some', Bool.false_eq_true, if_false, xorAt_length, hl, one, mended]

end Encode

end Sys2Proof.Machine

namespace Sys2Proof.Machine

/-! ## Words at their homes (R31, R161, R162, R176, R234, R274) -/

/-! ### A word in its place of memory -/

section Cells
variable {m : List Host.Cell} {k n x : Nat} {w : List Byte}

/-- A word stored is what stands in its place. -/
theorem storedAt_storeAt (h : w.length ≤ 128) : storedAt (storeAt m k w) k w.length = some w := by
  have below : (m.filter (fun c => decide (c.1 < k))).filter (fun c => decide (k ≤ c.1) && decide (c.1 < k + 128)) = [] := by
    simp only [List.filter_filter, List.filter_eq_nil_iff]
    intro c _
    simp only [Bool.and_eq_true, decide_eq_true_eq, not_and]
    omega
  have above : (m.filter (fun c => decide (k + 128 ≤ c.1))).filter (fun c => decide (k ≤ c.1) && decide (c.1 < k + 128)) = [] := by
    simp only [List.filter_filter, List.filter_eq_nil_iff]
    intro c _
    simp only [Bool.and_eq_true, decide_eq_true_eq, not_and]
    omega
  have inside : (wordCells k w).filter (fun c => decide (k ≤ c.1) && decide (c.1 < k + 128)) = wordCells k w := by
    refine List.filter_eq_self.2 fun c hc => ?_
    have hb := wordCells_bounds w k c hc
    simp only [Bool.and_eq_true, decide_eq_true_eq]
    omega
  simp [storedAt, cellsAt, storeAt, List.take_of_length_le h, below, above, inside]

/-- Among the cells at some places, the cell at `x` is there if `x` is such a place. -/
theorem find?_filter_place (m : List Host.Cell) (q : Nat → Bool) (x : Nat) : (m.filter (fun c => q c.1)).find? (fun c => c.1 == x) =
    if q x then m.find? (fun c => c.1 == x) else none := by
  induction m with
  | nil => simp
  | cons c m ih =>
    by_cases hx : c.1 = x
    · subst hx
      cases hq : q c.1 <;> simp [hq, ih]
    · cases hq : q c.1 <;> simp [hq, ih, hx]

/-- Storing a word changes nothing outside its place. -/
theorem storeAt_sameBut (m : List Host.Cell) (k : Nat) (w : List Byte) : SameBut k m (storeAt m k w) := by
  intro x hx
  have inside : (wordCells k (w.take 128)).find? (fun c => c.1 == x) = none := by
    refine List.find?_eq_none.2 fun c hc => ?_
    have hb := wordCells_bounds _ k c hc
    have hl : (w.take 128).length ≤ 128 := List.length_take_le ..
    simp only [beq_iff_eq]
    omega
  unfold storedByte storeAt
  rw [List.find?_append, List.find?_append, inside, Option.or_none, find?_filter_place m (fun y => decide (y < k)),
    find?_filter_place m (fun y => decide (k + 128 ≤ y))]
  rcases hx with hx | hx
  · have hn : ¬ k + 128 ≤ x := by omega
    simp [hx, hn]
  · have hn : ¬ x < k := by omega
    simp [hx, hn]

end Cells

@[simp] theorem leBytes_length (n v : Nat) : (leBytes n v).length = n := by
  induction n generalizing v with
  | zero => rfl
  | succ n ih => rw [leBytes, List.length_cons, ih]

end Sys2Proof.Machine

namespace Sys2Proof.Machine

/-! ### Words of a Vault slice or an operand store -/

section Sram
variable {s t : State} {a key o : Nat} {d : List Byte}

/-- The place of such a word is that of its home. -/
theorem homeOf_of_sramKey (h : sramKey s a = some key) :
    (∃ b site n, homeOf s a = .vault b site n ∧ key = vaultKey b site n) ∨ ∃ t n, homeOf s a = .opstore t n ∧ key = opstoreKey t n := by
  unfold sramKey at h
  split at h
  · cases h
    exact .inl ⟨_, _, _, ‹_›, rfl⟩
  · cases h
    exact .inr ⟨_, _, ‹_›, rfl⟩
  · cases h

/-- Such words lie below HBM. -/
theorem lt_of_sramKey (h : sramKey s a = some key) : a < 0x100000000000 := by
  by_contra hn
  have above : ∀ c < 0x100000000000, ¬ a < c := by omega
  have none' : sramKey s a = none := by
    unfold sramKey homeOf
    rw [if_neg (above _ (by decide)), if_neg (above _ (by decide)), if_neg (above _ (by decide)), if_neg hn]
    dsimp only
    split_ifs <;> rfl
  rw [none'] at h
  cases h

/-- Below HBM the home of an address depends on the layout of the part alone. -/
theorem homeOf_congr (h : t.lay = s.lay) (ha : a < 0x100000000000) : homeOf t a = homeOf s a := by
  unfold homeOf sharedBytes dieBytes localBytes tileSite tileCount slice
  rw [h, if_pos ha, if_pos ha]

theorem sramKey_congr (h : t.lay = s.lay) (hk : sramKey s a = some key) : sramKey t a = some key := by
  rw [← hk, sramKey, sramKey, homeOf_congr h (lt_of_sramKey hk)]

/-- Every byte of a word below HBM has the word's home. -/
theorem homeOf_byte (hb : a < 0x100000000000) (ha : a % 64 = 0) (ho : o < 64) : homeOf s (a + o) = homeOf s a := by
  have hb' : a + o < 0x100000000000 := by omega
  have size : ∀ e M, e % 64 = 0 → (e + o < M * 0x40000 ↔ e < M * 0x40000) := by omega
  unfold homeOf sharedBytes dieBytes localBytes
  rw [if_pos hb, if_pos hb']
  by_cases h1 : a < 0x001000000000
  · have h1' : a + o < 0x001000000000 := by omega
    have page : (a + o) / 4096 = a / 4096 := by omega
    have word : ∀ q, (q * 4096 + (a + o) % 4096) / 64 = (q * 4096 + a % 4096) / 64 := by omega
    simp only [if_pos h1, if_pos h1', size _ _ ha, page, word]
  have h1' : ¬ a + o < 0x001000000000 := by omega
  rw [if_neg h1, if_neg h1']
  by_cases h2 : a < 0x001800000000
  · have h2' : a + o < 0x001800000000 := by omega
    have die : (a + o - 0x001000000000) / 0x100000000 = (a - 0x001000000000) / 0x100000000 := by omega
    have off : (a + o) % 0x100000000 = a % 0x100000000 + o := by omega
    have he : a % 0x100000000 % 64 = 0 := by omega
    have block : (a % 0x100000000 + o) / 256 = a % 0x100000000 / 256 := by omega
    have stripe : ∀ p, (a % 0x100000000 + o) / (256 * p) = a % 0x100000000 / (256 * p) := fun p => by
      rw [← Nat.div_div_eq_div_mul, ← Nat.div_div_eq_div_mul, block]
    have word : ∀ x q, (x * 0x40000 + (q * 256 + (a % 0x100000000 + o) % 256)) / 64 = (x * 0x40000 + (q * 256 + a % 0x100000000 % 256)) / 64 := by
      omega
    simp only [if_pos h2, if_pos h2', die, off, size _ _ he, stripe, block, word]
  have h2' : ¬ a + o < 0x001800000000 := by omega
  rw [if_neg h2, if_neg h2']
  by_cases h3 : a < 0x002000000000
  · have h3' : a + o < 0x002000000000 := by omega
    have tile' : (a + o - 0x001800000000) / 0x400000 = (a - 0x001800000000) / 0x400000 := by omega
    have off : (a + o - 0x001800000000) % 0x400000 = (a - 0x001800000000) % 0x400000 + o := by omega
    have he : (a - 0x001800000000) % 0x400000 % 64 = 0 := by omega
    have word : ∀ x, (x * 0x40000 + ((a - 0x001800000000) % 0x400000 + o)) / 64 = (x * 0x40000 + (a - 0x001800000000) % 0x400000) / 64 := by
      omega
    simp only [if_pos h3, if_pos h3', tile', off, size _ _ he, word]
  have h3' : ¬ a + o < 0x002000000000 := by omega
  have tile' : (a + o - 0x002000000000) / 0x100000 = (a - 0x002000000000) / 0x100000 := by omega
  have word : (a + o - 0x002000000000) % 0x100000 / 64 = (a - 0x002000000000) % 0x100000 / 64 := by omega
  simp only [if_neg h3, if_neg h3', tile', word]

end Sram
end Sys2Proof.Machine

namespace Sys2Proof.Machine

section Home
variable {s t u : State} {a key o : Nat} {d w : List Byte} {how : How}

/-! ### Reading such a word -/

/-- What decodes as clean is the data part of the word. -/
theorem eq_take_of_rsDecode_clean {c : Nat} (h : rsDecode c w = .clean d) : d = w.take 64 := by
  simp only [rsDecode] at h
  split_ifs at h
  · exact (Decoded.clean.inj h).symm
  · split at h
    · cases h
    · split at h <;> cases h

theorem length_of_storedAt {m : List Host.Cell} {n : Nat} (h : storedAt m key n = some w) : w.length = n := by
  simp only [storedAt] at h
  split at h
  · rename_i hl
    exact Option.some.inj h ▸ hl
  · cases h

theorem SramWord.length (h : SramWord s a key d) : d.length = 64 := by
  obtain ⟨-, -, w, hw, hd⟩ := h
  rw [eq_take_of_rsDecode_clean hd, List.length_take, length_of_storedAt hw]
  rfl

/-- An access admitted before is not noted for its regulator again. -/
theorem touch_free (h : how.free = true) (x : Touch) : touch s how x = s := by
  unfold touch
  cases regSource how.rq <;> simp [h]

theorem touchRead_free (h : how.free = true) : touchRead s how a = s := touch_free h _
theorem touchWrite_free (h : how.free = true) : touchWrite s how a = s := touch_free h _
theorem touchModify_free (h : how.free = true) (reduction : Bool) : touchModify s how a reduction = s := touch_free h _

theorem settle_known (h : indetAt s a = false) : settle s a = s := by
  rw [settle, h, if_neg Bool.false_ne_true]

theorem readVault_clean {rq : Requester} {b loc : Nat} {tracked : Bool} (hw : storedAt s.mem key 70 = some w)
    (hd : rsDecode 6 w = .clean d) : readVault s rq a key b loc tracked [] = (.data d, s) := by
  simp [readVault, readCode, hw, hd]

/-- A read of a word that is stored without an error answers its data and changes nothing (R161). -/
theorem SramWord.read (h : SramWord s a key d) (hf : how.free = true) : readWord s how a [] = (.data d, s) := by
  obtain ⟨hk, hh, w, hw, hd⟩ := h
  unfold readWord
  rw [touchRead_free hf, settle_known hk]
  dsimp only
  rcases homeOf_of_sramKey hh with ⟨b, site, n, e, rfl⟩ | ⟨t, n, e, rfl⟩ <;> rw [e] <;> exact readVault_clean hw hd

/-! ### Writing such a word -/

/-- Ranges without a word do not reach the word. -/
theorem carve_any (l : List (Nat × Nat)) (a : Nat) : (carve l a).any (fun r => decide (r.1 ≤ a + 63) && decide (a ≤ r.2)) = false := by
  rw [carve, List.any_flatMap, List.any_eq_false]
  intro r _
  split
  · rename_i h
    simp only [Bool.or_eq_true, decide_eq_true_eq] at h
    simp
    omega
  · split_ifs <;> simp <;> omega

/-- The word at `a`, whose place is `key`, holds the data `d` in `t`; no byte outside the place differs from `s`, and nothing
else of what the statements speak of. -/
structure WordStored (s t : State) (a key : Nat) (d : List Byte) : Prop where
  word : SramWord t a key d
  others : SameBut key s.mem t.mem
  cons : t.cons = s.cons
  main : t.main = s.main
  touched : t.touched = s.touched
  stalled : t.stalled = s.stalled

theorem writeCode_stores (hk : sramKey s a = some key) (hf : how.free = true) (w : List Byte) : ∃ indet repeats recent,
    writeCode s how a w = { s with indet := indet, repeats := repeats, recent := recent, mem := storeAt s.mem key w } ∧
      indet.any (fun r => decide (r.1 ≤ a + 63) && decide (a ≤ r.2)) = false := by
  have known : ∃ indet, (if indetAt s a then { s with indet := carve s.indet a } else s) = { s with indet := indet } ∧
      indet.any (fun r => decide (r.1 ≤ a + 63) && decide (a ≤ r.2)) = false := by
    split
    · exact ⟨_, rfl, carve_any _ _⟩
    · exact ⟨s.indet, rfl, by simpa [indetAt] using ‹¬ indetAt s a = true›⟩
  obtain ⟨indet, hi, hn⟩ := known
  have hk' := homeOf_of_sramKey (sramKey_congr (s := s) (t := noReads { s with indet := indet } a) rfl hk)
  unfold writeCode
  rw [touchWrite_free hf]
  dsimp only
  rw [hi]
  rcases hk' with ⟨b, site, n, e, rfl⟩ | ⟨t, n, e, rfl⟩ <;> rw [e] <;> exact ⟨_, _, _, rfl, hn⟩

/-- A word written whole at its home is stored, and no other (R161). -/
theorem writeWord_stores (hk : sramKey s a = some key) (hf : how.free = true) (hd : d.length = 64) :
    WordStored s (writeWord s how a d) a key d := by
  obtain ⟨_, _, _, e, hn⟩ := writeCode_stores hk hf (rsEncode 6 d)
  have hl : (rsEncode 6 d).length = 70 := by rw [rsEncode_length (.inl rfl), hd]
  have stored := storedAt_storeAt (m := s.mem) (k := key) (w := rsEncode 6 d) (by omega)
  rw [hl] at stored
  rw [writeWord, e]
  exact ⟨⟨hn, sramKey_congr rfl hk, _, stored, rsDecode_rsEncode (.inl rfl) hd⟩, storeAt_sameBut _ _ _, rfl, rfl, rfl, rfl⟩

/-- Events counted or noted change no word. -/
theorem SramWord.noted {ks : List Nat} (h : SramWord s a key d) (n : Noted ks s t) : SramWord t a key d := by
  obtain ⟨⟨_, _, _, _, _, _, _, _, _, _, rfl⟩, -, -⟩ := n
  exact ⟨h.known, sramKey_congr (s := s) rfl h.home, h.stored⟩

theorem WordStored.noted {ks : List Nat} (h : WordStored s t a key d) (n : Noted ks t u) : WordStored s u a key d :=
  ⟨h.word.noted n, n.mem ▸ h.others, n.cons.trans h.cons, n.main.trans h.main, n.touched.trans h.touched, n.stalled.trans h.stalled⟩

theorem answerHome_noted (s : State) (c : HAcc) (poison ok : Bool) (d : List Byte) : Noted [] s (answerHome s c poison ok d) :=
  ⟨⟨_, _, _, _, _, _, _, _, _, _, rfl⟩, List.suffix_cons _ _, fun _ _ => rfl⟩

theorem overlay_length {x : List Byte} (h : w.length = 64) (hx : o + x.length ≤ 64) : (overlay w o x).length = 64 := by
  simp only [overlay, List.length_append, List.length_take, List.length_drop]
  omega

/-- An access that changes such a word answers what it held and stores what it makes of it. -/
theorem SramWord.modified (h : SramWord s a key d) (hf : how.free = true) (reduction : Bool) {f : List Byte → List Byte}
    (hl : (f d).length = 64) : ∃ t, modifyWord s how a reduction f = (.data d, t) ∧ WordStored s t a key (f d) := by
  have kept : (if reduction then { how with hint := .stream } else how).free = true := by
    split <;> exact hf
  unfold modifyWord
  generalize (if reduction then { how with hint := .stream } else how) = how' at kept
  refine ⟨writeWord s how'.writeHalf a (f d), ?_, writeWord_stores h.home rfl hl⟩
  dsimp only
  rw [touchModify_free kept, h.read rfl]

/-- A write of part of a word lays its bytes over what the word held (R162). -/
theorem SramWord.overlaid {x : List Byte} (h : SramWord s a key d) (hf : how.free = true) (ha : a % 64 = 0) (hx : 0 < x.length)
    (hx' : x.length < 64) (ho : o + x.length ≤ 64) :
    ∃ t, writeBytes s how (a + o) x = (.data d, t) ∧ WordStored s t a key (overlay d o x) := by
  have hw : (a + o) / 64 * 64 = a := by omega
  have hm : (a + o) % 64 = o := by omega
  have part : ¬ (decide (x.length = 64) && decide ((a + o) % 64 = 0)) = true := by
    simp only [Bool.and_eq_true, decide_eq_true_eq]
    omega
  unfold writeBytes
  dsimp only
  rw [if_neg part, hw, hm]
  exact h.modified hf false (overlay_length h.length ho)

end Home
end Sys2Proof.Machine

namespace Sys2Proof.Machine

section HomeCommands
variable {s t u : State} {a key o : Nat} {d : List Byte} {c : HAcc}

/-! ### Accesses arriving at such a word -/

/-- The one entry that the counting of merged reads writes (R165). -/
def mergeKeys : List Nat := [entKey 0x6020 2]

theorem countMerged_noted (s : State) (c : HAcc) (held : List HeldReq) : Noted mergeKeys s (countMerged s c held) := by
  unfold countMerged
  split
  · exact bump_noted _ _ _ _ (by decide)
  · exact Noted.refl _ s

/-- No earlier read of the word, nothing to merge with. -/
theorem countMerged_fresh (h : ∀ r ∈ s.recent, r.1 ≠ c.a) : countMerged s c [] = s := by
  have none' : s.recent.any (fun r => r.1 == c.a && decide (s.time ≤ r.2.1 + rd s 0x6020 1) && mayMerge r.2.2 c.rq) = false := by
    rw [List.any_eq_false]
    intro r hr
    simp [h r hr]
  simp [countMerged, heldRead, none']

/-- What is done whole and stalls nowhere is done. -/
theorem wholeOr_reached {h : HeldReq} {f : State → State} (ht : (f s).touched = []) (hs : (f s).stalled = none) :
    wholeOr s true h f = f s := by
  have same : { f s with touched := [] } = f s := by rw [← ht]
  unfold wholeOr
  dsimp only
  rw [if_pos (by simp)]
  split
  · rename_i e
    cases hs.symm.trans e
  · exact same

/-- The state at which an access to such a word is performed: a read is counted if it is merged. -/
def arrived (s : State) (c : HAcc) : State := if c.isRead then countMerged s c [] else s

theorem arrived_noted (s : State) (c : HAcc) : Noted mergeKeys s (arrived s c) := by
  unfold arrived
  split
  · exact countMerged_noted s c []
  · exact Noted.refl _ s

theorem arrived_rest (s : State) (c : HAcc) : ∃ ent, arrived s c = { s with ent := ent } := by
  unfold arrived countMerged
  split
  · split <;> exact ⟨_, rfl⟩
  · exact ⟨_, rfl⟩

/-- A word's homes are not held behind lines. -/
theorem homeServe_sram (hk : sramKey s a = some key) (hh : homeOf s c.a = homeOf s a) :
    homeServe s c = wholeOr s true (.acc c) (fun s => performAcc s false c) := by
  unfold homeServe
  rw [hh]
  rcases homeOf_of_sramKey hk with ⟨b, site, n, e, -⟩ | ⟨t, n, e, -⟩ <;> rw [e] <;> rfl

/-- An access to a byte of such a word is performed as it arrives. -/
theorem homeAccess_sram (hf : c.formed = true) (hs : homesServe s = true) (hk : sramKey s a = some key) (ha : a % 64 = 0) (ho : o < 64)
    (hc : c.a = a + o) (hp : performAcc (arrived s c) false c = u) (ht : u.touched = []) (hl : u.stalled = none) :
    homeAccess s c = u := by
  subst hp
  have there : ∀ s, sramKey s a = some key → homeOf s c.a = homeOf s a := fun s h => by
    rw [hc, homeOf_byte (lt_of_sramKey h) ha ho]
  have hk' : sramKey (arrived s c) a = some key := by
    obtain ⟨_, e⟩ := arrived_rest s c
    rw [e]
    exact sramKey_congr (s := s) rfl hk
  have serve : homeServe (arrived s c) c = performAcc (arrived s c) false c := by
    rw [homeServe_sram hk' (there _ hk'), wholeOr_reached ht hl]
  unfold homeAccess
  rw [if_neg (by simp [hf, hs]), there s hk]
  rcases homeOf_of_sramKey hk with ⟨b, site, n, e, -⟩ | ⟨t, n, e, -⟩ <;> rw [e] <;> exact serve

/-! ### Reads -/

/-- The visible state of the part speaks of none of what a read of a word changes. -/
theorem devState_read {ent : SMap Nat} {recent : List (Nat × Nat × Requester)}
    (h : ∀ k, k ∉ mergeKeys → SMap.find? ent k = SMap.find? s.ent k) :
    devState (answerHome { s with ent := ent, recent := recent } c false true d) = devState s := by
  have same : ∀ i k, entKey i k ∉ mergeKeys →
      rd (answerHome { s with ent := ent, recent := recent } c false true d) i k = rd s i k := fun i k hk => by
    unfold rd SMap.get
    rw [answerHome_ent, h _ hk]
    rfl
  unfold devState condBits scrubsRun
  rw [same 0x8000 3 (by decide), same 0x2000 4 (by decide), same 0x7810 1 (by decide)]
  rfl

theorem received_sent {rq : Requester} (h : d.length = 64) : received s rq a (rsEncode 6 d) [] = (.data d, s) := by
  simp [received, applyUpset, rsDecode_rsEncode (.inl rfl) h]

theorem received_corrected {rq : Requester} {p : Nat} {e : Byte} (h : d.length = 64) (hp : p < 70) (he : e ≠ 0#8) :
    received s rq a (rsEncode 6 d) [(p, e)] = (.data d, bump s 0x7800 3) := by
  simp [received, applyUpset, rsDecode_xorAt_rsEncode (.inl rfl) h hp he]

section Reads
variable {rq : Requester} {hint : Hint} {transit : Upset}

/-- A read of the word at `a`, with the errors the word takes on its way to the one who asks. -/
def readAcc (rq : Requester) (a : Nat) (hint : Hint) (transit : Upset) : HAcc :=
  { rq := rq, a := a, hint := hint, op := .read [] transit }

/-- A read answers the word's data as it is received. -/
theorem performAcc_read (h : SramWord s a key d)
    (hr : received (noteRead s (readAcc rq a hint transit)) rq a (rsEncode 6 d) transit = (.data d, u)) :
    performAcc s false (readAcc rq a hint transit) = answerHome u (readAcc rq a hint transit) false true d := by
  unfold performAcc readAcc
  dsimp only
  rw [h.read rfl]
  unfold endRead
  dsimp only
  unfold readAcc at hr
  rw [hr]

/-- A read command at such a word, up to the change of the visible state. -/
theorem execHomeRead_answers (hi : s.Inv) (hs : homesServe s = true) (ha : a % 64 = 0) (h : SramWord s a key d)
    (hr : received (noteRead (arrived s (readAcc rq a hint transit)) (readAcc rq a hint transit)) rq a (rsEncode 6 d) transit = (.data d, u))
    (ht : u.touched = s.touched) (hl : u.stalled = s.stalled) :
    exec (.homeRead rq a hint ⟨[], transit, false⟩) s =
      .next (noteState s (answerHome u (readAcc rq a hint transit) false true d)) := by
  have ht' : (answerHome u (readAcc rq a hint transit) false true d).touched = [] := ht.trans hi.charged
  have hl' : (answerHome u (readAcc rq a hint transit) false true d).stalled = none := hl.trans hi.inReach
  have formed : (readAcc rq a hint transit).formed = true := by simp [HAcc.formed, readAcc, ha]
  have served := homeAccess_sram (o := 0) formed hs h.home ha (by decide) rfl
    (performAcc_read (h.noted (arrived_noted s _)) hr) ht' hl'
  rw [← ends_noted s _ ht' hl', ← served]
  rfl

/-- What was noted as read changes nothing the statements speak of but the reads that may be merged later. -/
theorem noteRead_arrived_rest (s : State) (c : HAcc) : ∃ ent recent, noteRead (arrived s c) c = { s with ent := ent, recent := recent } ∧
    ∀ k, k ∉ mergeKeys → SMap.find? ent k = SMap.find? s.ent k := by
  have n := arrived_noted s c
  obtain ⟨ent, e⟩ := arrived_rest s c
  rw [e] at n ⊢
  exact ⟨_, _, rfl, n.entries⟩

theorem noteState_same (h : devState t = devState s) : noteState s t = t := by
  simp [noteState, h]

/-- A read without an error answers the word and changes no word, tile, job or CONS value; it is counted only where it is
merged with an earlier one. -/
theorem execHomeRead_clean (hi : s.Inv) (hs : homesServe s = true) (ha : a % 64 = 0) (h : SramWord s a key d) :
    ∃ t, exec (.homeRead rq a hint ⟨[], [], false⟩) s = .next t ∧ t.out = .home rq a false true d :: s.out ∧ t.mem = s.mem ∧
      t.tiles = s.tiles ∧ t.jobs = s.jobs ∧ t.cons = s.cons ∧ t.main = s.main ∧ ((∀ r ∈ s.recent, r.1 ≠ a) → t.ent = s.ent) := by
  obtain ⟨ent, recent, e, he⟩ := noteRead_arrived_rest s (readAcc rq a hint [])
  have fresh : (∀ r ∈ s.recent, r.1 ≠ a) → ent = s.ent := fun hr => by
    have h' := congrArg State.ent e
    rw [arrived, countMerged_fresh hr, ite_self] at h'
    exact h'.symm
  have served := execHomeRead_answers (rq := rq) (hint := hint) hi hs ha h (received_sent h.length) (by rw [e]) (by rw [e])
  rw [e, noteState_same (devState_read he)] at served
  exact ⟨_, served, rfl, rfl, rfl, rfl, rfl, rfl, fresh⟩

theorem rd_bump_congr {i k : Nat} (hc : (findRow i k).map (·.acc) ≠ some .cons) (h : rd t i k = rd s i k) :
    rd (bump t i k) i k = rd (bump s i k) i k := by
  have row : ∀ r, findRow i k = some r → r.acc ≠ .cons := fun r hr ha => hc (by simp [hr, ha])
  rw [bump, bumpBy, rd_setEnt _ _ _ _ row, bump, bumpBy, rd_setEnt _ _ _ _ row, h]

/-- A word corrected on its way to the one who reads it is counted (R31, R234). -/
theorem execHomeRead_corrected (hi : s.Inv) (hs : homesServe s = true) (ha : a % 64 = 0) (h : SramWord s a key d) {p : Nat} {e : Byte}
    (hp : p < 70) (he : e ≠ 0#8) : ∃ t, exec (.homeRead rq a hint ⟨[], [(p, e)], false⟩) s = .next t ∧
      Out.home rq a false true d ∈ t.out ∧ rd t 0x7800 3 = rd (bump s 0x7800 3) 0x7800 3 ∧ t.mem = s.mem := by
  obtain ⟨ent, recent, hn, hk⟩ := noteRead_arrived_rest s (readAcc rq a hint [(p, e)])
  have served := execHomeRead_answers (rq := rq) (hint := hint) hi hs ha h (received_corrected h.length hp he)
    (by rw [hn]; rfl) (by rw [hn]; rfl)
  rw [hn] at served
  have noted := noteState_noted s (answerHome (bump { s with ent := ent, recent := recent } 0x7800 3) (readAcc rq a hint [(p, e)]) false true d)
  have before : rd { s with ent := ent, recent := recent } 0x7800 3 = rd s 0x7800 3 := by
    unfold rd SMap.get
    rw [hk _ (by decide)]
  exact ⟨_, served, noted.sent.subset (List.mem_cons_self ..),
    (noted.rd List.not_mem_nil).trans (rd_bump_congr (by decide) before), noted.mem⟩

/-- An internal error of the home fails the read, a class-B fault (R176, R274). -/
theorem execHomeRead_internal (hi : s.Inv) (hs : homesServe s = true) (ha : a % 64 = 0) (h : SramWord s a key d) (hm : s.main = .ready) :
    ∃ t, exec (.homeRead rq a hint ⟨[], [], true⟩) s = .next t ∧ Out.home rq a true false [] ∈ t.out ∧ t.main = .discarding ∧
      t.discardCause = 0x42 ∧ t.mem = s.mem := by
  have deep : s.power ≠ .deep := by simpa [homesServe] using hs
  have data : (homeOf s a).isData = true := by
    rcases homeOf_of_sramKey h.home with ⟨_, _, _, e, -⟩ | ⟨_, _, e, -⟩ <;> rw [e] <;> rfl
  have begun := classB_begins (s := answerHome (failedReq s) (readAcc rq a hint []) true false []) (cause := 0x42) hm deep
  have sent := (classB_onward (K := ⟨True, True⟩) (cause := 0x42)
    (Onward.refl (answerHome (failedReq s) (readAcc rq a hint []) true false []))).sent
  have fails : homeFails s (readAcc rq a hint []) = classB (answerHome (failedReq s) (readAcc rq a hint []) true false []) 0x42 := by
    unfold homeFails
    exact if_pos (by simp [HAcc.formed, readAcc, ha, hs, data])
  have noted := noteState_noted s (homeFails s (readAcc rq a hint []))
  have ended := ends_noted s (homeFails s (readAcc rq a hint [])) (by rw [fails]; exact begun.touched.trans hi.charged)
    (by rw [fails]; exact begun.stalled.trans hi.inReach)
  refine ⟨_, ended, noted.sent.subset ?_, noted.main.trans ?_, noted.discardCause.trans ?_, noted.mem.trans ?_⟩ <;> rw [fails]
  · exact sent.subset (List.mem_cons_self ..)
  · exact begun.main
  · exact begun.cause
  · exact classB_mem _ _

end Reads

/-! ### Writes -/

section Writes
variable {rq : Requester} {hint : Hint}

/-- A write whose performing stores a word and answers it as done, up to the change of the visible state. -/
theorem homeAccess_stores (hi : s.Inv) (hf : c.formed = true) (hr : c.isRead = false) (hs : homesServe s = true)
    (hk : sramKey s a = some key) (ha : a % 64 = 0) (ho : o < 64) (hc : c.a = a + o)
    (hp : performAcc s false c = answerHome u c false true []) (hu : WordStored s u a key d) :
    ∃ t, ends s (homeAccess s c) = .next t ∧ SramWord t a key d ∧ SameBut key s.mem t.mem ∧ Out.home c.rq c.a false true [] ∈ t.out ∧
      t.cons = s.cons ∧ t.main = s.main := by
  have unread : arrived s c = s := by simp [arrived, hr]
  have answered := hu.noted (answerHome_noted u c false true [])
  have ht := answered.touched.trans hi.charged
  have hl := answered.stalled.trans hi.inReach
  have served := homeAccess_sram hf hs hk ha ho hc ((congrArg (performAcc · false c) unread).trans hp) ht hl
  have noted := noteState_noted s (answerHome u c false true [])
  have stored := answered.noted noted
  refine ⟨_, ?_, stored.word, stored.others, noted.sent.subset (List.mem_cons_self ..), stored.cons, stored.main⟩
  rw [served, ends_noted s _ ht hl]

/-- How a home performs an access that it has not counted. -/
def atHome (c : HAcc) : How := { rq := c.rq, hint := c.hint, prio := 0, narrow := false, half := false, free := true }

/-- A write of a whole word, and of part of one. -/
def writeAcc (rq : Requester) (a : Nat) (hint : Hint) (d : List Byte) : HAcc := { rq := rq, a := a, hint := hint, op := .write d [] }
def subAcc (rq : Requester) (a : Nat) (hint : Hint) (x : List Byte) : HAcc := { rq := rq, a := a, hint := hint, op := .sub x }

theorem performAcc_write (hd : d.length = 64) : performAcc s false (writeAcc rq a hint d) =
    answerHome (writeWord s (atHome (writeAcc rq a hint d)) a d) (writeAcc rq a hint d) false true [] := by
  unfold performAcc endWrite writeAcc
  dsimp only
  rw [received_sent hd]
  rfl

theorem performAcc_sub {x : List Byte} (h : writeBytes s (atHome (subAcc rq a hint x)) a x = (.data d, u)) :
    performAcc s false (subAcc rq a hint x) = answerHome u (subAcc rq a hint x) false true [] := by
  unfold atHome subAcc at h
  unfold performAcc subAcc
  dsimp only at h ⊢
  rw [h]
  rfl

/-- A whole word written is stored as it is (R161). -/
theorem execHomeWrite_stores (hi : s.Inv) (hs : homesServe s = true) (ha : a % 64 = 0) (data : BitVec 512) (hk : sramKey s a = some key) :
    ∃ t, exec (.homeWrite rq a hint ⟨data, []⟩) s = .next t ∧ SramWord t a key (leBytes 64 data.toNat) ∧ SameBut key s.mem t.mem ∧
      Out.home rq a false true [] ∈ t.out ∧ t.cons = s.cons ∧ t.main = s.main := by
  have hl := leBytes_length 64 data.toNat
  have formed : (writeAcc rq a hint (leBytes 64 data.toNat)).formed = true := by simp [HAcc.formed, writeAcc, ha]
  exact homeAccess_stores (o := 0) hi formed rfl hs hk ha (by decide) rfl (performAcc_write hl) (writeWord_stores hk rfl hl)

/-- Part of a word written is laid over what the word held (R162). -/
theorem execHomeSubwordWrite_stores (hi : s.Inv) (hs : homesServe s = true) (ha : a % 64 = 0) (h : SramWord s a key d) {x : List Byte}
    (hx : 0 < x.length) (hx' : x.length < 64) (ho : o + x.length ≤ 64) :
    ∃ t, exec (.homeSubwordWrite rq (a + o) hint x) s = .next t ∧ SramWord t a key (overlay d o x) ∧ SameBut key s.mem t.mem ∧
      Out.home rq (a + o) false true [] ∈ t.out ∧ t.cons = s.cons ∧ t.main = s.main := by
  obtain ⟨u, hu, stored⟩ := h.overlaid (how := atHome (subAcc rq (a + o) hint x)) rfl ha hx hx' ho
  have formed : (subAcc rq (a + o) hint x).formed = true := by
    have hm : (a + o) % 64 = o := by omega
    have hne : x ≠ [] := List.ne_nil_of_length_pos hx
    simp only [HAcc.formed, subAcc, hm, Bool.and_eq_true, Bool.not_eq_true', List.isEmpty_eq_false_iff, decide_eq_true_eq]
    exact ⟨hne, by omega⟩
  exact homeAccess_stores hi formed rfl hs h.home ha (by omega) rfl (performAcc_sub hu) stored

end Writes

end HomeCommands

/-- Settles O23: reads answer what is stored, writes store their bytes in the word's place and nowhere else. -/
theorem homesReadAndWriteWords : Obligations.HomesReadAndWriteWords := by
  intro s rq a key hint hi hs ha
  refine ⟨fun d h => ⟨execHomeRead_clean hi hs ha h, fun p e hp he => execHomeRead_corrected hi hs ha h hp he,
    execHomeRead_internal hi hs ha h⟩, fun data hk => execHomeWrite_stores hi hs ha data hk,
    fun d x o h hx hx' ho => execHomeSubwordWrite_stores hi hs ha h hx hx' ho⟩
end Sys2Proof.Machine

namespace Sys2Proof.Machine

/-! ## Exact sums of integers (R59, R61) -/

/-- An integer contribution adds its multiple of 2^36 to the value and touches no flag. -/
theorem Exact.addNum_ofInt (a : Exact) (v : Int) :
    a.addNum (Num.ofInt v) = { a with value := a.value + BitVec.ofInt 96 (v * 2 ^ 36) } := by
  have scaled : ∀ n : Nat, BitVec.ofNat 96 (n * 2 ^ 36) = BitVec.ofInt 96 ((n : Int) * 2 ^ 36) := fun n => by
    rw [← BitVec.ofInt_natCast]
    push_cast
    rfl
  have whole : (0 : Int) + 36 ≥ 0 ∧ ((0 : Int) + 36).toNat = 36 := by decide
  simp only [Num.ofInt, Exact.addNum]
  rw [if_pos whole.1, whole.2, scaled]
  rcases lt_or_ge v 0 with h | h
  · rw [if_pos (decide_eq_true h), BitVec.sub_eq_add_neg, ← BitVec.ofInt_neg, Int.ofNat_natAbs_of_nonpos h.le,
      neg_mul, neg_neg]
  · rw [if_neg (by simpa using h), Int.natAbs_of_nonneg h]

/-- The exact sum of integers: their integer sum, with 36 fraction bits, modulo 2^96. -/
theorem Exact.foldl_addNum_ofInt (l : List Int) (a : Exact) :
    l.foldl (fun (a : Exact) x => a.addNum (Num.ofInt x)) a =
      { a with value := a.value + BitVec.ofInt 96 (l.sum * 2 ^ 36) } := by
  induction l generalizing a with
  | nil => simp
  | cons v l ih =>
    rw [List.foldl_cons, ih, Exact.addNum_ofInt, List.sum_cons, add_mul, BitVec.ofInt_add, BitVec.add_assoc]

/-- Settles O10: the sum is that of the integers, so their order does not count. -/
theorem integerColumnsAreExact : Obligations.IntegerColumnsAreExact := by
  intro xs ys perm sum
  have value : ∀ l, sum l = { Exact.zero with value := BitVec.ofInt 96 (l.sum * 2 ^ 36) } := fun l => by
    rw [show sum l = _ from Exact.foldl_addNum_ofInt l Exact.zero, show Exact.zero.value = 0#96 from rfl, BitVec.zero_add]
  refine ⟨by rw [value], by rw [value], by rw [value, value, perm.sum_eq], fun lo hi => ?_⟩
  rw [value]
  exact BitVec.toInt_ofInt_eq_self (by decide) (by norm_num; omega) (by norm_num; omega)

end Sys2Proof.Machine

namespace Sys2Proof.Machine

/-! ## What a command reads of the Vault and the operand stores (R57, R161, R162) -/

/-- Reads see the same in `t` as in `s`: what is stored, what of it is indeterminate, and the layout that gives words their
places. -/
structure Sees (s t : State) : Prop where
  mem : t.mem = s.mem
  indet : t.indet = s.indet
  lay : t.lay = s.lay

/-- `t` is `s` but for what was noted for the regulators. -/
def Touched (s t : State) : Prop := ∃ l, t = { s with touched := l }

section Sees
variable {s t u : State}

theorem Sees.refl (s : State) : Sees s s := ⟨rfl, rfl, rfl⟩

theorem Sees.trans (h : Sees s t) (g : Sees t u) : Sees s u :=
  ⟨g.mem.trans h.mem, g.indet.trans h.indet, g.lay.trans h.lay⟩

theorem Touched.refl (s : State) : Touched s s := ⟨_, rfl⟩

theorem Touched.trans (h : Touched s t) (g : Touched t u) : Touched s u := by
  obtain ⟨_, rfl⟩ := h
  obtain ⟨_, rfl⟩ := g
  exact ⟨_, rfl⟩

theorem Touched.sees (h : Touched s t) : Sees s t := by
  obtain ⟨_, rfl⟩ := h
  exact ⟨rfl, rfl, rfl⟩

theorem Touched.tile (h : Touched s t) (n : Nat) : tile t n = tile s n := by
  obtain ⟨_, rfl⟩ := h
  rfl

theorem touch_touched (s : State) (how : How) (x : Touch) : Touched s (touch s how x) := by
  unfold touch
  split
  · exact .refl s
  · split
    · exact .refl s
    · exact ⟨_, rfl⟩

/-- The place of a word depends on the layout alone. -/
theorem sramKey_of_lay (h : t.lay = s.lay) (a : Nat) : sramKey t a = sramKey s a := by
  cases hs : sramKey s a with
  | some k => exact sramKey_congr h hs
  | none =>
    cases ht : sramKey t a with
    | none => rfl
    | some k =>
      rw [sramKey_congr h.symm ht] at hs
      cases hs

theorem Sees.sramKey (h : Sees s t) (a : Nat) : sramKey t a = sramKey s a := sramKey_of_lay h.lay a

theorem Sees.peekWord (h : Sees s t) (a : Nat) : peekWord t a = peekWord s a := by
  rw [Machine.peekWord, Machine.peekWord, indetAt, indetAt, h.indet, h.sramKey, h.mem]

/-- The regions that a job may use depend on the layout alone. -/
theorem Sees.allowed (h : Sees s t) (j : Job) (wr : Bool) (hint : Hint) (lo hi : Nat) :
    allowed t j wr hint lo hi = allowed s j wr hint lo hi := by
  unfold Machine.allowed regions localWins localBytes
  rw [h.lay]

theorem Sees.elemOk (h : Sees s t) (j : Job) (wr : Bool) (hint : Hint) (ba w : Nat) :
    elemOk t j wr hint ba w = elemOk s j wr hint ba w := by
  simp only [Machine.elemOk, h.allowed]

/-- A word that is read without an error is one of the Vault or of an operand store. -/
theorem sramWord_of_peekWord {a : Nat} {d : List Byte} (h : peekWord s a = some d) : ∃ key, SramWord s a key d := by
  unfold peekWord at h
  split at h
  · cases h
  · rename_i known
    split at h
    · cases h
    · rename_i key home
      split at h
      · rename_i x hx
        obtain ⟨w, hw, hd⟩ := Option.map_eq_some_iff.1 hx
        cases h
        exact ⟨key, by simpa using known, home, w, hw, hd⟩
      · cases h

theorem SramWord.peekWord {a key : Nat} {d : List Byte} (h : SramWord s a key d) : peekWord s a = some d := by
  obtain ⟨known, home, w, hw, hd⟩ := h
  simp [Machine.peekWord, known, home, hw, hd]

theorem SramWord.seen {a key : Nat} {d : List Byte} (h : SramWord s a key d) (hs : Sees s t) : SramWord t a key d :=
  ⟨by rw [indetAt, hs.indet]; exact h.known, (hs.sramKey a).trans h.home, by rw [hs.mem]; exact h.stored⟩

theorem length_of_peekWord {a : Nat} {d : List Byte} (h : peekWord s a = some d) : d.length = 64 :=
  (sramWord_of_peekWord h).choose_spec.length

end Sees

/-! ### Words and bytes -/

section Reads
variable {o s : State} {how : How} {a n : Nat} {d : List Byte} {b : RBuf}

/-- A known word that is read answers its data; of the state, it is only noted for the regulator. -/
theorem readWord_data (h : peekWord s a = some d) : readWord s how a [] = (.data d, touchRead s how a) := by
  have noted : Touched s (touchRead s how a) := touch_touched s how _
  obtain ⟨key, word⟩ := sramWord_of_peekWord ((noted.sees.peekWord a).trans h)
  refine Eq.trans ?_ (word.read (how := { how with free := true }) rfl)
  unfold readWord
  rw [touchRead_free (how := { how with free := true }) rfl, settle_known word.known]
  dsimp only
  rcases homeOf_of_sramKey word.home with ⟨_, _, _, e, -⟩ | ⟨_, _, e, -⟩ <;> rw [e]

theorem readWord_known (hs : Sees o s) (h : peekWord o a = some d) :
    ∃ u, readWord s how a [] = (.data d, u) ∧ Touched s u :=
  ⟨_, readWord_data ((hs.peekWord a).trans h), touch_touched s how _⟩

/-- What a command has read last is a known word. -/
def BufKnown (s : State) (b : RBuf) : Prop := ∀ x r k, b = some (x, r, k) → k = none ∧ ∃ d, r = .data d ∧ peekWord s x = some d

theorem bufKnown_none (s : State) : BufKnown s none := fun _ _ _ h => nomatch h

/-- No line is dropped by an access to such a word. -/
theorem dropped_known (hs : Sees o s) (h : peekWord o a = some d) : dropped s how a = none := by
  obtain ⟨key, word⟩ := sramWord_of_peekWord (hs.peekWord a ▸ h)
  unfold dropped
  rcases homeOf_of_sramKey word.home with ⟨_, _, _, e, -⟩ | ⟨_, _, e, -⟩ <;> rw [e] <;> exact ite_self _

theorem readBuf_known (hs : Sees o s) (hb : BufKnown o b) (h : peekWord o a = some d) :
    ∃ b' u, readBuf how b s a = (.data d, b', u) ∧ Touched s u ∧ BufKnown o b' := by
  obtain ⟨u, hu, ht⟩ := readWord_known (how := how) hs h
  have known : BufKnown o (some (a, .data d, none)) := fun x r k e => by
    cases e
    exact ⟨rfl, d, rfl, h⟩
  unfold readBuf
  rw [hu, dropped_known hs h]
  dsimp only
  match b, hb with
  | none, _ => exact ⟨_, _, rfl, ht, known⟩
  | some (x, r, k), hb =>
    obtain ⟨rfl, d', rfl, hx⟩ := hb x r k rfl
    dsimp only
    split
    · rename_i e
      subst e
      obtain rfl := Option.some.inj (hx.symm.trans h)
      exact ⟨_, _, rfl, .refl s, hb⟩
    · exact ⟨_, _, rfl, ht, known⟩

theorem peekBytes_add (s : State) (a k n : Nat) : peekBytes s a (k + n) = peekBytes s a k ++ peekBytes s (a + k) n := by
  simp only [peekBytes, List.range_add, List.map_append, List.map_map, Function.comp_def, Nat.add_assoc]

/-- Byte addresses wrap modulo 2^48. -/
theorem peekBytes_mod (s : State) (a n : Nat) : peekBytes s (a % 2 ^ 48) n = peekBytes s a n := by
  have wrap : ∀ i, (a % 2 ^ 48 + i) % 2 ^ 48 = (a + i) % 2 ^ 48 := fun i => Nat.mod_add_mod ..
  have place : ∀ i, (a % 2 ^ 48 + i) % 64 = (a + i) % 64 := fun i => by omega
  simp only [peekBytes, wrap, place]

@[simp] theorem peekBytes_length (s : State) (a n : Nat) : (peekBytes s a n).length = n := by simp [peekBytes]

/-- The bytes of a range within one word are a part of the word. -/
theorem peekBytes_word (h : peekWord s (a % 2 ^ 48 / 64 * 64) = some d) (hn : a % 64 + n ≤ 64) :
    peekBytes s a n = (d.drop (a % 64)).take n := by
  have hl := length_of_peekWord h
  refine List.ext_getElem (by rw [peekBytes_length, List.length_take, List.length_drop]; omega) fun i hi _ => ?_
  rw [peekBytes_length] at hi
  have word : (a + i) % 2 ^ 48 / 64 * 64 = a % 2 ^ 48 / 64 * 64 := by omega
  have place : (a + i) % 64 = a % 64 + i := by omega
  have inside : a % 64 + i < d.length := by omega
  simp only [peekBytes, List.getElem_map, List.getElem_range, word, h, place, Option.getD_some, List.getElem_take,
    List.getElem_drop, List.getD_eq_getElem?_getD, List.getElem?_eq_getElem inside]

/-- The bytes of a clean range are read word by word. -/
theorem readBytesB_known (fuel : Nat) (hs : Sees o s) (hb : BufKnown o b) (h : Clean o a n) (hf : n = 0 ∨ a % 64 + n ≤ 64 * fuel) :
    ∃ b' u, readBytesB how fuel b s a n = (.val 0, peekBytes o a n, b', u) ∧ Touched s u ∧ BufKnown o b' := by
  induction fuel generalizing s b a n with
  | zero =>
    obtain rfl : n = 0 := by omega
    exact ⟨b, s, rfl, .refl s, hb⟩
  | succ fuel ih =>
    by_cases hn : n = 0
    · subst hn
      exact ⟨b, s, rfl, .refl s, hb⟩
    have first := h 0 (by omega)
    rw [Nat.add_zero] at first
    obtain ⟨d, hd⟩ := Option.isSome_iff_exists.1 first
    obtain ⟨b', u, hu, ht, hb'⟩ := readBuf_known (how := how) hs hb hd
    have place : a % 2 ^ 48 % 64 = a % 64 := by omega
    obtain ⟨k, hk⟩ : ∃ k, k = min n (64 - a % 64) := ⟨_, rfl⟩
    have rest : Clean o (a % 2 ^ 48 + k) (n - k) := fun i hi => by
      have g := h (k + i) (by omega)
      have wrap : (a % 2 ^ 48 + k + i) % 2 ^ 48 = (a + (k + i)) % 2 ^ 48 := by omega
      rwa [wrap]
    obtain ⟨b'', u', hu', ht', hb''⟩ := ih (hs.trans ht.sees) hb' rest (by omega)
    refine ⟨b'', u', ?_, ht.trans ht', hb''⟩
    unfold readBytesB
    rw [if_neg hn]
    dsimp only
    rw [hu, place, ← hk]
    dsimp only
    rw [hu']
    have split : peekBytes o a n = (d.drop (a % 64)).take k ++ peekBytes o (a % 2 ^ 48 + k) (n - k) := by
      rw [← peekBytes_word hd (by omega), ← peekBytes_mod o a k, ← peekBytes_add, peekBytes_mod]
      congr 1
      omega
    rw [split]

theorem readBytes_known {fuel : Nat} (hs : Sees o s) (h : Clean o a n) (hf : n = 0 ∨ a % 64 + n ≤ 64 * fuel) :
    ∃ u, readBytes how fuel s a n = (.val 0, peekBytes o a n, u) ∧ Touched s u := by
  obtain ⟨b', u, hu, ht, -⟩ := readBytesB_known (how := how) fuel hs (bufKnown_none o) h hf
  exact ⟨u, by rw [readBytes, hu], ht⟩

/-! ### Elements and rows -/

/-- An element that a job may read is read with its bits. -/
theorem readElemB_known {jb : Job} {ba w : Nat} (hs : Sees o s) (hb : BufKnown o b) (h : Readable o jb how.hint ba w) :
    ∃ b' u, readElemB s jb how b ba w = (.val (peekBits o ba w), b', u) ∧ Touched s u ∧ BufKnown o b' := by
  obtain ⟨ok, clean⟩ := h
  obtain ⟨b', u, hu, ht, hb'⟩ := readBytesB_known (how := how) ((ba % 8 + w + 7) / 8 + 1) hs hb clean (by omega)
  refine ⟨b', u, ?_, ht, hb'⟩
  unfold readElemB
  rw [hs.elemOk, ok]
  dsimp only
  rw [hu]
  rfl

theorem readElem_known {jb : Job} {ba w : Nat} (hs : Sees o s) (h : Readable o jb how.hint ba w) :
    ∃ u, readElem s jb how ba w = (.val (peekBits o ba w), u) ∧ Touched s u := by
  obtain ⟨b', u, hu, ht, -⟩ := readElemB_known (how := how) hs (bufKnown_none o) h
  exact ⟨u, by rw [readElem, hu], ht⟩

/-- A readable row of a generator is read element by element; a padded position is none (R89). -/
theorem readRow_known {t m : Nat} {jb : Job} {g : Gen} (hs : Sees o s) (hh : how.hint = .normal) (h : RowReadable o t jb g m) :
    ∃ u, readRow s jb how g (g.a0 o t) m g.rows = (.val 0, peekRow o t g m, u) ∧ Touched s u := by
  have go : ∀ (k : Nat) (b : RBuf) (acc : List (Option Nat)) (s : State), k ≤ g.rows → Sees o s → BufKnown o b →
      ∃ u, readRowB s jb how g (g.a0 o t) m k b acc = (.val 0, acc.reverse ++ (peekRow o t g m).drop (g.rows - k), u) ∧
        Touched s u := by
    intro k
    induction k with
    | zero =>
      intro b acc s _ _ _
      refine ⟨s, ?_, .refl s⟩
      rw [readRowB, Nat.sub_zero, List.drop_of_length_le (by simp [peekRow]), List.append_nil]
    | succ k ih =>
      intro b acc s hk hs hb
      have hr : g.rows - (k + 1) < (peekRow o t g m).length := by
        simp only [peekRow, List.length_map, List.length_range]
        omega
      have next : g.rows - (k + 1) + 1 = g.rows - k := by omega
      rw [List.drop_eq_getElem_cons hr, next]
      have item : (peekRow o t g m)[g.rows - (k + 1)] =
          if g.padded (g.index (g.rows - (k + 1)) m) then none
          else some (peekBits o (g.bitAddr (g.a0 o t) (g.index (g.rows - (k + 1)) m)) g.width) := by
        simp only [peekRow, List.getElem_map, List.getElem_range]
      rw [item]
      unfold readRowB
      dsimp only
      cases hp : g.padded (g.index (g.rows - (k + 1)) m)
      case true =>
        obtain ⟨u, hu, ht⟩ := ih b (none :: acc) s (by omega) hs hb
        exact ⟨u, by simpa using hu, ht⟩
      case false =>
        obtain ⟨b', v, hv, ht, hb'⟩ := readElemB_known (how := how) hs hb (hh ▸ h _ (by omega) hp)
        obtain ⟨u, hu, ht'⟩ := ih b' (some (peekBits o (g.bitAddr (g.a0 o t) (g.index (g.rows - (k + 1)) m)) g.width) :: acc) v
          (by omega) (hs.trans ht.sees) hb'
        refine ⟨u, ?_, ht.trans ht'⟩
        rw [hv]
        simpa using hu
  obtain ⟨u, hu, ht⟩ := go g.rows none [] s le_rfl hs (bufKnown_none o)
  exact ⟨u, by simpa [readRow] using hu, ht⟩

end Reads

end Sys2Proof.Machine

namespace Sys2Proof.Machine

/-! ## What a command puts together and writes (R57, R89, R162, R254) -/

/-- What is put together grows: no word of it goes, and no poison comes in. -/
structure Grows (p q : List PendWord) : Prop where
  addrs : ∀ x ∈ p, ∃ y ∈ q, y.addr = x.addr
  unpoisoned : (∀ x ∈ p, x.poison = false) → ∀ x ∈ q, x.poison = false

section Grows
variable {p q r : List PendWord}

theorem Grows.refl (p : List PendWord) : Grows p p := ⟨fun x hx => ⟨x, hx, rfl⟩, id⟩

theorem Grows.trans (h : Grows p q) (g : Grows q r) : Grows p r := by
  refine ⟨fun x hx => ?_, fun hp => g.unpoisoned (h.unpoisoned hp)⟩
  obtain ⟨y, hy, e⟩ := h.addrs x hx
  obtain ⟨z, hz, e'⟩ := g.addrs y hy
  exact ⟨z, hz, e'.trans e⟩

theorem pendSet_grows (a o w v : Nat) (p : List PendWord) : Grows p (pendSet a o w v false p) := by
  induction p with
  | nil => exact .refl _
  | cons x p ih =>
    unfold pendSet
    split
    · refine ⟨List.forall_mem_cons.2 ⟨⟨_, List.mem_cons_self, rfl⟩, fun y hy => ⟨y, List.mem_cons_of_mem _ hy, rfl⟩⟩, fun hp => ?_⟩
      obtain ⟨hx, hr⟩ := List.forall_mem_cons.1 hp
      exact List.forall_mem_cons.2 ⟨by rw [hx, Bool.or_false], hr⟩
    · refine ⟨List.forall_mem_cons.2 ⟨⟨x, List.mem_cons_self, rfl⟩, fun y hy => ?_⟩, fun hp => ?_⟩
      · obtain ⟨z, hz, e⟩ := ih.addrs y hy
        exact ⟨z, List.mem_cons_of_mem _ hz, e⟩
      · obtain ⟨hx, hr⟩ := List.forall_mem_cons.1 hp
        exact List.forall_mem_cons.2 ⟨hx, ih.unpoisoned hr⟩

theorem pendPart_grows (a o w v : Nat) (p : List PendWord) : Grows p (pendPart p a o w v false) := by
  unfold pendPart
  split
  · exact pendSet_grows ..
  · exact ⟨fun x hx => ⟨x, List.mem_cons_of_mem _ hx, rfl⟩, fun hp => List.forall_mem_cons.2 ⟨rfl, hp⟩⟩

theorem pendElem_grows (ba w v : Nat) (p : List PendWord) : Grows p (pendElem p ba w v false) := by
  unfold pendElem
  dsimp only
  split
  · exact pendPart_grows ..
  · exact (pendPart_grows ..).trans (pendPart_grows ..)

theorem stageElem_grows {s : State} {jb : Job} {how : How} {ba w v : Nat} (h : stageElem s jb how p ba w v false = some q) :
    Grows p q := by
  unfold stageElem at h
  split at h
  · cases h
    exact pendElem_grows ..
  · cases h

theorem stageRow_grows {s : State} {jb : Job} {how : How} {g : Gen} {a0 m k : Nat} {l : List Nat}
    (h : stageRow s jb how g a0 m k l p = some q) : Grows p q := by
  induction l generalizing k p with
  | nil =>
    cases h
    exact .refl _
  | cons v l ih =>
    unfold stageRow at h
    split at h
    · cases h
      exact .refl _
    · dsimp only at h
      split at h
      · exact ih h
      · split at h
        · exact (stageElem_grows ‹_›).trans (ih h)
        · cases h

theorem stageList_grows {s : State} {t w : Nat} {jb : Job} {l : List (Nat × Nat)} (h : stageList s t w jb l p = some q) : Grows p q := by
  induction l generalizing p with
  | nil =>
    cases h
    exact .refl _
  | cons x l ih =>
    unfold stageList at h
    split at h
    · exact (stageElem_grows ‹_›).trans (ih h)
    · cases h

/-- What grows from nothing holds no poison. -/
theorem Grows.fresh (h : Grows [] p) : ∀ x ∈ p, x.poison = false := h.unpoisoned (fun _ hx => nomatch hx)

end Grows

/-! ### What may be put together is the same where reads see the same -/

section Stage
variable {s t : State} {jb : Job} {how : How}

theorem Sees.stageElem (h : Sees s t) (p : List PendWord) (ba w v : Nat) (poison : Bool) :
    stageElem t jb how p ba w v poison = stageElem s jb how p ba w v poison := by
  rw [Machine.stageElem, Machine.stageElem, h.elemOk]

theorem Sees.stageRow (h : Sees s t) (g : Gen) (a0 m k : Nat) (l : List Nat) (p : List PendWord) :
    stageRow t jb how g a0 m k l p = stageRow s jb how g a0 m k l p := by
  induction l generalizing k p with
  | nil => rfl
  | cons v l ih => simp only [Machine.stageRow, h.stageElem, ih]

theorem Sees.stageList (h : Sees s t) (n w : Nat) (l : List (Nat × Nat)) (p : List PendWord) :
    stageList t n w jb l p = stageList s n w jb l p := by
  induction l generalizing p with
  | nil => rfl
  | cons x l ih => simp only [Machine.stageList, h.stageElem, ih]

end Stage

/-! ### Words in their places -/

section Places
variable {s t u : State} {a k key : Nat}

/-- Places are multiples of 128. -/
theorem sramKey_aligned (h : sramKey s a = some key) : key % 128 = 0 := by
  rcases homeOf_of_sramKey h with ⟨_, _, _, -, rfl⟩ | ⟨_, _, -, rfl⟩ <;> exact Nat.mul_mod_left ..

/-- What stands in a place is not changed by a store into another. -/
theorem storedAt_storeAt_other {m : List Host.Cell} {n : Nat} {w : List Byte} (h : k % 128 = 0) (h' : key % 128 = 0) (hne : k ≠ key) :
    storedAt (storeAt m key w) k n = storedAt m k n := by
  have apart : k + 128 ≤ key ∨ key + 128 ≤ k := by omega
  have inside : (wordCells key (w.take 128)).filter (fun c => decide (k ≤ c.1) && decide (c.1 < k + 128)) = [] := by
    refine List.filter_eq_nil_iff.2 fun c hc => ?_
    have bounds := wordCells_bounds _ key c hc
    have short : (w.take 128).length ≤ 128 := List.length_take_le ..
    simp only [Bool.and_eq_true, decide_eq_true_eq, not_and]
    omega
  have cells : cellsAt (storeAt m key w) k = cellsAt m k := by
    unfold cellsAt storeAt
    rw [List.filter_append, List.filter_append, inside, List.append_nil, List.filter_filter, List.filter_filter]
    rcases apart with h | h
    · have none' : m.filter (fun c => decide (k ≤ c.1) && decide (c.1 < k + 128) && decide (key + 128 ≤ c.1)) = [] := by
        refine List.filter_eq_nil_iff.2 fun c _ => ?_
        simp only [Bool.and_eq_true, decide_eq_true_eq]
        omega
      rw [none', List.append_nil]
      refine List.filter_congr fun c _ => ?_
      simp only [Bool.and_eq_left_iff_imp, Bool.and_eq_true, decide_eq_true_eq]
      omega
    · have none' : m.filter (fun c => decide (k ≤ c.1) && decide (c.1 < k + 128) && decide (c.1 < key)) = [] := by
        refine List.filter_eq_nil_iff.2 fun c _ => ?_
        simp only [Bool.and_eq_true, decide_eq_true_eq]
        omega
      rw [none', List.nil_append]
      refine List.filter_congr fun c _ => ?_
      simp only [Bool.and_eq_left_iff_imp, Bool.and_eq_true, decide_eq_true_eq]
      omega
  rw [storedAt, storedAt, cells]

/-- `u` is `s` with words written: memory, and what is noted of a write, may differ. -/
def WordsWritten (s u : State) : Prop := ∃ mem repeats recent touched,
  u = { s with mem := mem, repeats := repeats, recent := recent, touched := touched }

theorem WordsWritten.refl (s : State) : WordsWritten s s := ⟨_, _, _, _, rfl⟩

theorem WordsWritten.trans (h : WordsWritten s t) (g : WordsWritten t u) : WordsWritten s u := by
  obtain ⟨_, _, _, _, rfl⟩ := h
  obtain ⟨_, _, _, _, rfl⟩ := g
  exact ⟨_, _, _, _, rfl⟩

theorem WordsWritten.indet (h : WordsWritten s u) : u.indet = s.indet := by
  obtain ⟨_, _, _, _, rfl⟩ := h
  rfl

theorem WordsWritten.lay (h : WordsWritten s u) : u.lay = s.lay := by
  obtain ⟨_, _, _, _, rfl⟩ := h
  rfl

theorem WordsWritten.tile (h : WordsWritten s u) (n : Nat) : tile u n = tile s n := by
  obtain ⟨_, _, _, _, rfl⟩ := h
  rfl

/-- The word whose place is `key` is written with the data `d`. -/
structure Overwrites (s u : State) (key : Nat) (d : List Byte) : Prop where
  written : WordsWritten s u
  mem : u.mem = storeAt s.mem key (rsEncode 6 d)

section Overwrites
variable {d x : List Byte} {b : Nat}

theorem Overwrites.sees (h : Overwrites s u key d) {t v : State} (hs : Sees s t) (g : Overwrites t v key d) : Sees u v :=
  ⟨by rw [h.mem, g.mem, hs.mem], by rw [h.written.indet, g.written.indet, hs.indet], by rw [h.written.lay, g.written.lay, hs.lay]⟩

/-- A known word in that place then holds the data. -/
theorem Overwrites.peekWord_same (h : Overwrites s u key d) (hd : d.length = 64) (hb : sramKey s b = some key)
    (known : indetAt s b = false) : peekWord u b = some d := by
  have len : (rsEncode 6 d).length = 70 := by rw [rsEncode_length (.inl rfl), hd]
  have stored := storedAt_storeAt (m := s.mem) (k := key) (w := rsEncode 6 d) (by omega)
  rw [len, ← h.mem] at stored
  exact SramWord.peekWord ⟨by rw [indetAt, h.written.indet]; exact known, by rw [sramKey_of_lay h.written.lay, hb], _, stored,
    rsDecode_rsEncode (.inl rfl) hd⟩

/-- A known word in another place holds what it held. -/
theorem Overwrites.peekWord_other (h : Overwrites s u key d) (ha : key % 128 = 0) (hb : sramKey s b ≠ some key) :
    peekWord u b = peekWord s b := by
  rw [peekWord, peekWord, indetAt, indetAt, h.written.indet, sramKey_of_lay h.written.lay, h.mem]
  cases hk : sramKey s b with
  | none => rfl
  | some k =>
    have stored := storedAt_storeAt_other (m := s.mem) (n := 70) (w := rsEncode 6 d) (sramKey_aligned hk) ha
      (fun e => hb (by rw [hk, e]))
    dsimp only
    rw [stored]

theorem Overwrites.isSome_peekWord (h : Overwrites s u key d) (hd : d.length = 64) (ha : key % 128 = 0)
    (hb : (peekWord s b).isSome = true) : (peekWord u b).isSome = true := by
  by_cases hk : sramKey s b = some key
  · obtain ⟨x, hx⟩ := Option.isSome_iff_exists.1 hb
    obtain ⟨_, word⟩ := sramWord_of_peekWord hx
    rw [h.peekWord_same hd hk word.known]
    rfl
  · rwa [h.peekWord_other ha hk]

end Overwrites

theorem touched_written (h : Touched s t) : WordsWritten s t := by
  obtain ⟨_, rfl⟩ := h
  exact ⟨_, _, _, _, rfl⟩

/-- A known word written whole. -/
theorem writeWord_known {how : How} {d x : List Byte} (h : SramWord s a key d) : Overwrites s (writeWord s how a x) key x := by
  have noted : Touched s (touchWrite s how a) := touch_touched s how _
  have word := h.seen noted.sees
  have home := homeOf_of_sramKey ((sramKey_of_lay (s := touchWrite s how a) (t := noReads (touchWrite s how a) a) rfl a).trans word.home)
  rw [writeWord, writeCode, word.known]
  obtain ⟨_, e'⟩ := noted
  rw [e'] at home ⊢
  rcases home with ⟨_, _, _, e, rfl⟩ | ⟨_, _, e, rfl⟩ <;> simp only [if_neg Bool.false_ne_true, e] <;>
    exact ⟨⟨_, _, _, _, rfl⟩, rfl⟩

/-- The data of a word with what was put together for it. -/
def PendWord.onto (x : PendWord) (d : List Byte) : List Byte := leBytes 64 ((leNat d &&& (fullMask - x.m)) ||| x.v)

@[simp] theorem PendWord.onto_length (x : PendWord) (d : List Byte) : (x.onto d).length = 64 := leBytes_length ..

/-- A known word for which bits were put together is written with them, whole or in part. -/
theorem flushWord_known {how : How} {x : PendWord} {d : List Byte} (h : SramWord s x.addr key d) (hp : x.poison = false) :
    ∃ y u, flushWord s how x = (.data y, u) ∧ Overwrites s u key (x.onto d) := by
  unfold flushWord
  rw [hp, if_neg Bool.false_ne_true]
  split
  · rename_i full
    have whole : x.onto d = leBytes 64 x.v := by rw [PendWord.onto, full, Nat.sub_self, Nat.and_zero, Nat.zero_or]
    exact ⟨_, _, rfl, whole ▸ writeWord_known h⟩
  · have noted : Touched s (touchModify s how x.addr false) := touch_touched s how _
    have word := h.seen noted.sees
    have wrote := writeWord_known (how := how.writeHalf) (x := x.onto d) word
    refine ⟨d, _, ?_, ⟨(touched_written noted).trans wrote.written, by rw [wrote.mem, noted.sees.mem]⟩⟩
    unfold modifyWord
    dsimp only
    rw [if_neg Bool.false_ne_true, word.read rfl]
    rfl

/-- Known words are written one after the other, the same wherever reads see the same. -/
theorem flushWords_known {how how' : How} (p : List PendWord) (hs : Sees s t) (hl : ∀ x ∈ p, (peekWord s x.addr).isSome = true)
    (hp : ∀ x ∈ p, x.poison = false) : ∃ u v, flushWords how p false s = (.val 0, u) ∧ flushWords how' p false t = (.val 0, v) ∧
      WordsWritten s u ∧ WordsWritten t v ∧ Sees u v := by
  induction p generalizing s t with
  | nil => exact ⟨s, t, rfl, rfl, .refl s, .refl t, hs⟩
  | cons x p ih =>
    obtain ⟨hx, hr⟩ := List.forall_mem_cons.1 hl
    obtain ⟨px, pr⟩ := List.forall_mem_cons.1 hp
    obtain ⟨d, hd⟩ := Option.isSome_iff_exists.1 hx
    obtain ⟨key, word⟩ := sramWord_of_peekWord hd
    obtain ⟨key', word'⟩ := sramWord_of_peekWord ((hs.peekWord _).trans hd)
    obtain rfl : key = key' := Option.some.inj (word.home.symm.trans ((hs.sramKey _).symm.trans word'.home))
    obtain ⟨_, u, hu, wrote⟩ := flushWord_known (how := how) word px
    obtain ⟨_, v, hv, wrote'⟩ := flushWord_known (how := how') word' px
    have still : ∀ y ∈ p, (peekWord u y.addr).isSome = true := fun y hy =>
      wrote.isSome_peekWord (x.onto_length d) (sramKey_aligned word.home) (hr y hy)
    obtain ⟨u', v', hu', hv', hw, hw', hs'⟩ := ih (wrote.sees hs wrote') still pr
    exact ⟨u', v', by rw [flushWords, hu]; exact hu', by rw [flushWords, hv]; exact hv', wrote.written.trans hw,
      wrote'.written.trans hw', hs'⟩

/-- What a command has put together from known words is written, as `landed` has it. -/
theorem flush_known {how : How} {p : List PendWord} {n : Nat} (hs : Sees s t) (hl : Lands s p) (hp : ∀ x ∈ p, x.poison = false) :
    ∃ u, flush t how p = (.val 0, u) ∧ WordsWritten t u ∧ u.mem = landed s n p := by
  obtain ⟨v, u, hv, hu, -, hw, same⟩ := flushWords_known (how := plain (.tile n)) (how' := how) p.reverse hs
    (fun x hx => hl x (List.mem_reverse.1 hx)) (fun x hx => hp x (List.mem_reverse.1 hx))
  exact ⟨u, hu, hw, by rw [landed, flush, hv]; exact same.mem⟩

end Places

end Sys2Proof.Machine

namespace Sys2Proof.Machine

/-! ## A word that its engine takes and works off (R83 to R85, R220) -/

section Queues
variable {v : Tile} {e x : Engine} {q : List QCmd}

@[simp] theorem qOf_withQ (v : Tile) (e : Engine) (q : List QCmd) : qOf (withQ v e q) e = q := by cases e <;> rfl

theorem qOf_withQ_other (v : Tile) (q : List QCmd) (h : x ≠ e) : qOf (withQ v e q) x = qOf v x := by
  cases x <;> cases e <;> simp_all [withQ, qOf]

/-- An engine is at no command where each has its work done or is a signal. -/
theorem currentOf_eq_none : currentOf v e = none ↔ ∀ c ∈ qOf v e, c.done = false → isSig c = true := by
  simp [currentOf]

end Queues

/-! ### What issuing leaves -/

section Issue
variable {s u : State} {t w : Nat} {e : Engine}

theorem openReclaim_rest (s : State) (h : Nat) (l : List Loan) :
    ∃ reclaims ent, openReclaim s h l = { s with reclaims := reclaims, ent := ent } := by
  unfold openReclaim
  split
  · exact ⟨_, _, rfl⟩
  · dsimp only
    split
    · exact ⟨_, _, rfl⟩
    · exact ⟨_, _, rfl⟩

/-- A tile that stops being quiet changes nothing but its quiet time and what its half reclaims. -/
theorem unquiet_rest (s : State) (t : Nat) :
    ∃ quiet reclaims ent, unquiet s t = { s with quiet := quiet, reclaims := reclaims, ent := ent } := by
  unfold unquiet checkLender
  dsimp only
  split
  · exact ⟨_, _, _, rfl⟩
  · obtain ⟨_, _, h⟩ := openReclaim_rest { s with quiet := SMap.erase s.quiet t } (tileHalf { s with quiet := SMap.erase s.quiet t } t)
      (lentBy { s with quiet := SMap.erase s.quiet t } (tileHalf { s with quiet := SMap.erase s.quiet t } t))
    exact ⟨_, _, _, h⟩

/-- `u` is `s` with the command `c` behind the queue of an engine of tile `t`, and its word gone from decode. -/
structure Submitted (s u : State) (t : Nat) (e : Engine) (c : QCmd) : Prop where
  rest : ∃ tiles quiet reclaims ent, u = { s with tiles := tiles, quiet := quiet, reclaims := reclaims, ent := ent }
  here : tile u t = { withQ (tile s t) e (qOf (tile s t) e ++ [c]) with word := (tile s t).word + 1, buf := (tile s t).buf.drop 1 }
  others : ∀ x, x ≠ t → tile u x = tile s x

theorem headWord_running {o : Option Nat} (h : headWord s t = some o) : (tile s t).running = true := by
  unfold headWord at h
  dsimp only at h
  split at h
  · rename_i hc
    simp only [Bool.and_eq_true] at hc
    exact hc.1.1.2
  · cases h

theorem submit_submitted {reads writes : List (Nat × Nat)} (hj : (tile s t).job.isSome = true) (hr : (tile s t).running = true)
    (hc : canIssue s t e reads writes = true) : Submitted s (submit s t e w reads writes) t e (newEntry s t w reads writes) := by
  obtain ⟨j, hj⟩ := Option.isSome_iff_exists.1 hj
  obtain ⟨v, hv⟩ : ∃ v, v = withQ (tile s t) e (qOf (tile s t) e ++ [newEntry s t w reads writes]) := ⟨_, rfl⟩
  obtain ⟨_, _, _, hu⟩ := unquiet_rest (setTile s t v) t
  have queued : tile (unquiet (setTile s t v) t) t = v := by
    rw [hu]
    exact tile_setTile ..
  have going : v.running = true := by
    rw [hv]
    cases e <;> exact hr
  have next : submit s t e w reads writes =
      setTile (unquiet (setTile s t v) t) t { v with word := v.word + 1, buf := v.buf.drop 1 } := by
    unfold submit enqueue
    rw [if_pos hc, hj]
    dsimp only
    rw [← hv, nextWord, queued]
    exact if_neg (by simp [going])
  rw [next]
  refine ⟨⟨_, _, _, _, by rw [hu]; rfl⟩, ?_, fun x hx => ?_⟩
  · rw [tile_setTile, hv]
    cases e <;> rfl
  · rw [tile_setTile_other _ _ _ _ hx, hu]
    exact tile_setTile_other _ _ _ _ hx

theorem Submitted.sees {c : QCmd} (h : Submitted s u t e c) : Sees s u := by
  obtain ⟨_, _, _, _, rfl⟩ := h.rest
  exact ⟨rfl, rfl, rfl⟩

/-- A checked word at decode is given to its meaning. -/
theorem AtDecode.issue {mine : Nat → Bool} {run : State → Nat → State} (h : AtDecode s t w) (hm : mine w = true) :
    issue s t mine run = run s w := by
  have last : ((tile s t).word + 1 = (tile s t).words && wOpcode w != 0x3F) = false := by
    rw [Bool.and_eq_false_imp]
    intro hl
    simp [h.notLast (by simpa using hl)]
  unfold Machine.issue
  rw [h.head]
  dsimp only
  rw [hm, h.checked]
  dsimp only
  rw [last]
  rfl

end Issue

/-! ### What the work of a command leaves -/

/-- What the work of a command at tile `t` leaves: the other tiles, the queues of this one and what it does not concern, the jobs
and the CONS values. -/
structure WorkKeeps (s u : State) (t : Nat) : Prop where
  others : ∀ x, x ≠ t → tile u x = tile s x
  queues : ∀ e, qOf (tile u t) e = qOf (tile s t) e
  word : (tile u t).word = (tile s t).word
  flags : (tile u t).flags = (tile s t).flags
  gens : (tile u t).gens = (tile s t).gens
  block : (tile u t).block = (tile s t).block
  jobs : u.jobs = s.jobs
  cons : u.cons = s.cons

section Keeps
variable {s u v : State} {t : Nat}

theorem WorkKeeps.trans (h : WorkKeeps s u t) (g : WorkKeeps u v t) : WorkKeeps s v t :=
  ⟨fun x hx => (g.others x hx).trans (h.others x hx), fun e => (g.queues e).trans (h.queues e), g.word.trans h.word,
    g.flags.trans h.flags, g.gens.trans h.gens, g.block.trans h.block, g.jobs.trans h.jobs, g.cons.trans h.cons⟩

theorem WordsWritten.keeps (h : WordsWritten s u) (t : Nat) : WorkKeeps s u t := by
  obtain ⟨_, _, _, _, rfl⟩ := h
  exact ⟨fun _ _ => rfl, fun _ => rfl, rfl, rfl, rfl, rfl, rfl, rfl⟩

theorem Touched.keeps (h : Touched s u) (t : Nat) : WorkKeeps s u t := (touched_written h).keeps t

/-- A tile set to what differs neither in its queues nor in what work leaves. -/
theorem setTile_keeps {x : Tile} (hq : ∀ e, qOf x e = qOf (tile s t) e) (hw : x.word = (tile s t).word)
    (hf : x.flags = (tile s t).flags) (hg : x.gens = (tile s t).gens) (hb : x.block = (tile s t).block) :
    WorkKeeps s (setTile s t x) t :=
  ⟨fun _ hx => tile_setTile_other _ _ _ _ hx, fun e => by rw [tile_setTile, hq], by rw [tile_setTile, hw], by rw [tile_setTile, hf],
    by rw [tile_setTile, hg], by rw [tile_setTile, hb], rfl, rfl⟩

end Keeps

/-! ### Regulators that admit at once -/

section Admit
variable {s u : State} {m e : Nat} {l : List PartTarget}

theorem admitParts_rest (s : State) (m : Nat) (forced : Bool) (l : List PartTarget) :
    ∃ ent regU, (admitParts s m forced l).1 = { s with ent := ent, regU := regU } := by
  induction l generalizing s with
  | nil => exact ⟨_, _, rfl⟩
  | cons p l ih =>
    unfold admitParts
    split
    · obtain ⟨_, _, h⟩ := ih (admitPart s m p forced)
      exact ⟨_, _, h⟩
    · exact ⟨_, _, rfl⟩

/-- Work that the regulator admits at once is done, but for what it is charged. -/
theorem Admits.admitWork (h : Admits s u e) : ∃ ent regU paid v,
    admitWork s u u e = (some { u with touched := [], ent := ent, regU := regU, paid := paid }, v) := by
  obtain ⟨reached, admitted⟩ := h
  have near : u.stalled.isSome = false := by rw [reached]; rfl
  unfold Machine.admitWork
  rw [near]
  simp only [Bool.false_eq_true, if_false]
  by_cases hp : (requestParts u e).parts = []
  · rw [hp]
    exact ⟨_, _, _, _, rfl⟩
  · obtain ⟨free, all⟩ := admitted.resolve_left hp
    obtain ⟨_, _, h⟩ := admitParts_rest u (requestParts u e).m false (unpaid s (requestParts u e))
    have parts : (requestParts u e).parts.isEmpty = false := by simpa using hp
    rw [parts, free]
    simp only [Bool.false_eq_true, if_false]
    rw [Prod.ext (x := admitParts ..) (y := (_, [])) rfl all]
    exact ⟨_, _, _, _, by rw [h]⟩

end Admit

/-! ### The engines run -/

section Engine
variable {s u : State} {t j : Nat} {e : Engine} {jb : Job} {c : QCmd}

/-- A command that an engine is at and whose work is done at once: what is done is charged, and its entry is done. -/
theorem engineStep_done (hj : jobOf s t = some (j, jb)) (hc : currentOf (tile s t) e = some c) (hm : s.main = .ready)
    (hx : c.xfer = none) (hs : c.stuck = false) (hw : engineWork e t c s jb = (.done, u)) (ha : Admits s u (engNo e)) :
    ∃ ent regU paid, engineStep s t e =
      (true, vecSince (putEntry { u with touched := [], ent := ent, regU := regU, paid := paid } t e { c with done := true }) t e none) := by
  obtain ⟨ent, regU, paid, v, h⟩ := ha.admitWork
  refine ⟨ent, regU, paid, ?_⟩
  unfold engineStep
  rw [hj, hc]
  dsimp only
  have near : u.stalled.isSome = false := by rw [ha.1]; rfl
  rw [if_neg (by simp [hm, hx, hs]), hw]
  dsimp only
  rw [near, if_neg (by decide), h]
  rfl

/-- A command of the array that waits where it did moves nothing. -/
theorem engineStep_waits (hj : jobOf s t = some (j, jb)) (hc : currentOf (tile s t) .array = some c) (hm : s.main = .ready)
    (hx : c.xfer = none) (hs : c.stuck = false) (hr : c.reps = 0) (hw : engineWork .array t c s jb = (.waits 0, s))
    (ha : Admits s s (engNo .array)) : engineStep s t .array = (false, s) := by
  obtain ⟨ent, regU, paid, v, h⟩ := ha.admitWork
  unfold engineStep
  rw [hj, hc]
  dsimp only
  have near : s.stalled.isSome = false := by rw [ha.1]; rfl
  rw [if_neg (by simp [hm, hx, hs]), hw]
  dsimp only
  rw [near, if_neg (by decide), h]
  simp [engineEnd, hr]

/-- Engines that are at nothing do not move. -/
theorem enginesRun_idle (k : Nat) (h : ∀ e, currentOf (tile s t) e = none) : enginesRun k s t = s := by
  cases k <;> simp [enginesRun, engineStep_idle _ _ _ (h _)]

/-- Where one engine alone is at a command, the engines run as it does. -/
theorem enginesGo_step (h : ∀ x, x ≠ e → currentOf (tile s t) x = none) (h' : ∀ x, x ≠ e → currentOf (tile (engineStep s t e).2 t) x = none)
    (hg : (engineStep s t e).1 = true → currentOf (tile (engineStep s t e).2 t) e = none) : enginesGo s t = (engineStep s t e).2 := by
  have rounds : engineRounds = (2 ^ 20 - 1) + 1 := by norm_num [engineRounds]
  have round : ∀ k, enginesRun (k + 1) s t =
      if (engineStep s t e).1 then enginesRun k (engineStep s t e).2 t else (engineStep s t e).2 := fun k => by
    cases e <;>
      simp [enginesRun, engineStep_idle _ _ _ (h .array _), engineStep_idle _ _ _ (h .selector _), engineStep_idle _ _ _ (h .vector _),
        engineStep_idle _ _ _ (h' .selector _), engineStep_idle _ _ _ (h' .vector _), engineStep_idle _ _ _ (h' .move _)]
  rw [enginesGo, rounds, round]
  split
  · rename_i hs
    refine enginesRun_idle _ fun x => ?_
    by_cases hx : x = e
    · exact hx ▸ hg hs
    · exact h' x hx
  · rfl

/-- The queues of a tile with one of its entries done. -/
def doneQ (q : List QCmd) (c : QCmd) : List QCmd := q.map (fun x => if x.idx = c.idx then { c with done := true } else x)

/-- No entry of a queue holds its engine once the only one that did is done. -/
theorem doneQ_rests {q : List QCmd} (h : ∀ x ∈ q, x.done = false → isSig x = true) :
    ∀ x ∈ doneQ (q ++ [c]) c, x.done = false → isSig x = true := by
  intro x hx hd
  obtain ⟨y, hy, rfl⟩ := List.mem_map.1 hx
  split at hd
  · cases hd
  · rename_i hne
    rw [if_neg hne]
    rcases List.mem_append.1 hy with hy | hy
    · exact h y hy hd
    · exact absurd (congrArg QCmd.idx (List.mem_singleton.1 hy)) hne

/-- The tile of an engine that has done the work of a command. -/
def doneTile (v : Tile) (e : Engine) (c : QCmd) : Tile :=
  { withQ v e (doneQ (qOf v e) c) with vecAt := if e = .vector then none else v.vecAt }

theorem qOf_doneTile (v : Tile) (c : QCmd) : qOf (doneTile v e c) e = doneQ (qOf v e) c := by cases e <;> rfl

theorem qOf_doneTile_other {x : Engine} (v : Tile) (c : QCmd) (h : x ≠ e) : qOf (doneTile v e c) x = qOf v x := by
  rw [← qOf_withQ_other v (doneQ (qOf v e) c) h]
  cases x <;> rfl

theorem currentOf_doneTile_other {x : Engine} (v : Tile) (c : QCmd) (h : x ≠ e) :
    currentOf (doneTile v e c) x = currentOf v x := by
  rw [currentOf, currentOf, qOf_doneTile_other v c h]

/-- The state with an entry marked done: only the engine's tile is another. -/
theorem vecSince_putEntry (u : State) (t : Nat) (e : Engine) (c : QCmd) :
    ∃ z tiles, vecSince (putEntry u t e { c with done := true }) t e none = z ∧ z = { u with tiles := tiles } ∧
      tile z t = doneTile (tile u t) e c ∧ ∀ x, x ≠ t → tile z x = tile u x := by
  have put : putEntry u t e { c with done := true } = setTile u t (withQ (tile u t) e (doneQ (qOf (tile u t) e) c)) := rfl
  refine ⟨_, ?tiles, rfl, ?eq, ?here, ?others⟩
  case tiles => exact (vecSince (putEntry u t e { c with done := true }) t e none).tiles
  all_goals rw [vecSince, put]; split
  case eq.isTrue | eq.isFalse => rfl
  case here.isTrue h =>
    subst h
    rw [tile_setTile, tile_setTile]
    rfl
  case here.isFalse h =>
    rw [tile_setTile, doneTile, if_neg h]
    cases e <;> rfl
  case others.isTrue => exact fun x hx => (tile_setTile_other _ _ _ _ hx).trans (tile_setTile_other _ _ _ _ hx)
  case others.isFalse => exact fun x hx => tile_setTile_other _ _ _ _ hx

end Engine

/-! ### A word with the work of its command -/

section Issued
variable {s v : State} {t w j : Nat} {e : Engine} {jb : Job} {reads writes : List (Nat × Nat)} {c : QCmd}

theorem tile_noteState (s u : State) (x : Nat) : tile (noteState s u) x = tile u x := by
  unfold tile
  rw [noteState_tiles]

theorem qOf_submitted {u : State} (h : Submitted s u t e c) : qOf (tile u t) e = qOf (tile s t) e ++ [c] := by
  rw [h.here]
  cases e <;> rfl

theorem qOf_submitted_other {u : State} {x : Engine} (h : Submitted s u t e c) (hx : x ≠ e) : qOf (tile u t) x = qOf (tile s t) x := by
  rw [h.here, ← qOf_withQ_other (tile s t) (qOf (tile s t) e ++ [c]) hx]
  cases x <;> rfl

theorem jobOf_submitted {u : State} (h : Submitted s u t e c) : jobOf u t = jobOf s t := by
  have same : (tile u t).job = (tile s t).job := by
    rw [h.here]
    cases e <;> rfl
  obtain ⟨_, _, _, _, rfl⟩ := h.rest
  unfold jobOf
  rw [same]

theorem EngineReady.submitted (h : EngineReady s t w e j jb reads writes) :
    Submitted s (submit s t e w reads writes) t e (newEntry s t w reads writes) := by
  have job := (jobOf_some h.job).1
  exact submit_submitted (by rw [job]; rfl) (headWord_running h.atDecode.head) h.room

/-- The engine that takes a command is at it, and the others at nothing. -/
theorem EngineReady.current (h : EngineReady s t w e j jb reads writes) (hs : wOpcode w ≠ 0x20) :
    currentOf (tile (submit s t e w reads writes) t) e = some (newEntry s t w reads writes) ∧
      ∀ x, x ≠ e → currentOf (tile (submit s t e w reads writes) t) x = none := by
  have sub := h.submitted
  have before : (qOf (tile s t) e).find? (fun c => !c.done && !isSig c) = none := h.idle e
  have notSig : isSig (newEntry s t w reads writes) = false := beq_eq_false_iff_ne.2 hs
  refine ⟨?_, fun x hx => ?_⟩
  · rw [currentOf, qOf_submitted sub, List.find?_append, before, Option.none_or]
    exact List.find?_cons_of_pos (by rw [notSig]; rfl)
  · rw [currentOf, qOf_submitted_other sub hx]
    exact h.idle x

theorem EngineReady.main (h : EngineReady s t w e j jb reads writes) : (submit s t e w reads writes).main = .ready := by
  obtain ⟨_, _, _, _, hu⟩ := h.submitted.rest
  have ready := headWord_ready h.atDecode.head
  rw [hu]
  exact ready

/-- A word whose command's work is done at once leaves decode with its entry done behind the queue of its engine. -/
theorem EngineReady.worked (h : EngineReady s t w e j jb reads writes) (hs : wOpcode w ≠ 0x20)
    (hw : engineWork e t (newEntry s t w reads writes) (submit s t e w reads writes) jb = (.done, v))
    (hk : WorkKeeps (submit s t e w reads writes) v t) :
    ∃ r, ends s (enginesGo (submit s t e w reads writes) t) = .next r ∧ Worked s r t e ∧ r.mem = v.mem ∧
      tile r t = doneTile (tile v t) e (newEntry s t w reads writes) := by
  have sub := h.submitted
  have adm := h.admitted
  have ready := h.main
  have job := (jobOf_submitted sub).trans h.job
  obtain ⟨current, resting⟩ := h.current hs
  have jobs : (submit s t e w reads writes).jobs = s.jobs ∧ (submit s t e w reads writes).cons = s.cons := by
    obtain ⟨_, _, _, _, hu⟩ := sub.rest
    rw [hu]
    exact ⟨rfl, rfl⟩
  have queue := qOf_submitted sub
  have queues := fun x hx => qOf_submitted_other (x := x) sub hx
  have here := sub.here
  have others := sub.others
  have idle := fun x => currentOf_eq_none.1 (h.idle x)
  have fresh : (newEntry s t w reads writes).xfer = none ∧ (newEntry s t w reads writes).stuck = false := ⟨rfl, rfl⟩
  rw [hw] at adm
  generalize newEntry s t w reads writes = c at *
  generalize submit s t e w reads writes = u at *
  obtain ⟨noXfer, notStuck⟩ := fresh
  obtain ⟨ent, regU, paid, step⟩ := engineStep_done job current ready noXfer notStuck hw adm
  obtain ⟨z, tiles, put, hz, done, rest⟩ := vecSince_putEntry { v with touched := [], ent := ent, regU := regU, paid := paid } t e c
  rw [put] at step
  have kept : z.touched = [] ∧ z.stalled = none ∧ z.mem = v.mem ∧ z.jobs = v.jobs ∧ z.cons = v.cons := by
    rw [hz]
    exact ⟨rfl, adm.1, rfl, rfl, rfl⟩
  obtain ⟨charged, near, mem, zJobs, zCons⟩ := kept
  have queued : qOf (tile v t) e = qOf (tile s t) e ++ [c] := (hk.queues e).trans queue
  have rests : ∀ x, currentOf (doneTile (tile v t) e c) x = none := fun x => by
    by_cases hx : x = e
    · subst hx
      rw [currentOf_eq_none, qOf_doneTile, queued]
      exact doneQ_rests (idle x)
    · rw [currentOf_doneTile_other _ _ hx, currentOf_eq_none, hk.queues, queues x hx]
      exact idle x
  have ran := enginesGo_step (s := u) (t := t) (e := e)
    resting
    (fun x _ => by rw [step]; exact done.symm ▸ rests x) (fun _ => by rw [step]; exact done.symm ▸ rests e)
  have final : tile (noteState s z) t = doneTile (tile v t) e c := (tile_noteState ..).trans done
  have word : (tile v t).word = (tile s t).word + 1 := hk.word.trans (by rw [here])
  have flags : (tile v t).flags = (tile s t).flags := hk.flags.trans (by rw [here]; cases e <;> rfl)
  have gens : (tile v t).gens = (tile s t).gens := hk.gens.trans (by rw [here]; cases e <;> rfl)
  have block : (tile v t).block = (tile s t).block := hk.block.trans (by rw [here]; cases e <;> rfl)
  have same : (doneTile (tile v t) e c).word = (tile v t).word ∧ (doneTile (tile v t) e c).flags = (tile v t).flags ∧
      (doneTile (tile v t) e c).gens = (tile v t).gens ∧ (doneTile (tile v t) e c).block = (tile v t).block := by
    cases e <;> exact ⟨rfl, rfl, rfl, rfl⟩
  obtain ⟨sameWord, sameFlags, sameGens, sameBlock⟩ := same
  rw [ran, step, ends_noted s z charged near]
  refine ⟨_, rfl, ?_, (noteState_mem ..).trans mem, final⟩
  exact
    { left := by rw [final, sameWord, word]
      queued := by rw [final, qOf_doneTile, queued, doneQ, List.length_map, List.length_append]; rfl
      done := fun x => final.symm ▸ rests x
      queues := fun x hx => by rw [final, qOf_doneTile_other _ _ hx, hk.queues, queues x hx]
      tiles := fun x hx => (tile_noteState ..).trans ((rest x hx).trans ((hk.others x hx).trans (others x hx)))
      flags := by rw [final, sameFlags, flags]
      gens := by rw [final, sameGens, gens]
      block := by rw [final, sameBlock, block]
      jobs := (noteState_jobs ..).trans (zJobs.trans (hk.jobs.trans jobs.1))
      cons := (noteState_cons ..).trans (zCons.trans (hk.cons.trans jobs.2)) }

/-- An array command that must wait is behind its queue, and the rest of the state as its issue leaves it. -/
theorem EngineReady.waited (h : EngineReady s t w .array j jb reads writes) (hs : wOpcode w ≠ 0x20)
    (hw : engineWork .array t (newEntry s t w reads writes) (submit s t .array w reads writes) jb =
      (.waits 0, submit s t .array w reads writes)) :
    ends s (enginesGo (submit s t .array w reads writes) t) = .next (noteState s (submit s t .array w reads writes)) := by
  have adm := h.admitted
  rw [hw] at adm
  obtain ⟨current, resting⟩ := h.current hs
  have step := engineStep_waits ((jobOf_submitted h.submitted).trans h.job) current h.main rfl rfl rfl hw adm
  have stay := enginesGo_step resting (fun x hx => by rw [step]; exact resting x hx) (fun moved => by rw [step] at moved; cases moved)
  have charged : (submit s t .array w reads writes).touched = [] := by
    obtain ⟨_, _, _, _, hu⟩ := h.submitted.rest
    rw [hu]
    exact h.atDecode.inv.charged
  rw [stay, step, ends_noted _ _ charged adm.1]

end Issued

end Sys2Proof.Machine

namespace Sys2Proof.Machine

/-! ## Stationary loads (R49, R94) -/

section Load
variable {o s u : State} {t w j : Nat} {e : Engine} {jb : Job} {c : QCmd}

/-- A word at decode whose operation this is goes to its engine. -/
theorem EngineReady.toEngine {mine : Nat → Bool} {reads writes : State → Nat → List (Nat × Nat)}
    (h : EngineReady s t w e j jb (reads s w) (writes s w)) (hm : mine w = true) :
    toEngine s t mine e reads writes = enginesGo (submit s t e w (reads s w) (writes s w)) t :=
  h.atDecode.issue hm

/-- Rows of clean memory are read as they stand. -/
theorem readRows_known {off pitch len n : Nat} (hs : Sees o s)
    (h : ∀ k, k < n → Clean o (0x002000000000 + t * 0x100000 + off + k * pitch) len) :
    ∃ u, readRows s t off pitch len n =
        (.val 0, (List.range n).map (fun k => peekBytes o (0x002000000000 + t * 0x100000 + off + k * pitch) len), u) ∧ Touched s u := by
  induction n with
  | zero => exact ⟨s, rfl, .refl s⟩
  | succ n ih =>
    obtain ⟨u, rows, hu⟩ := ih fun k hk => h k (by omega)
    obtain ⟨v, last, hv⟩ := readBytes_known (how := plain (.tile t)) (fuel := len / 64 + 2) (hs.trans hu.sees) (h n (by omega))
      (by omega)
    refine ⟨v, ?_, hu.trans hv⟩
    unfold readRows
    rw [rows]
    dsimp only
    rw [last, List.range_succ, List.map_append]
    rfl

/-- An LDS waits where a pass on its bank stands before it in the queue (R49). -/
theorem ldsWaits_iff {v : Tile} : ldsWaits v c = true ↔
    ∃ p ∈ v.qArray.takeWhile (fun p => p.idx != c.idx), (isPass p && bit1 p.word 119 == bit1 c.word 119) = true := by
  rw [ldsWaits, List.any_eq_true]

/-- Before the first entry with its index, a queue with an entry behind it holds what it held. -/
theorem mem_takeWhile_append {q : List QCmd} {p : QCmd} (h : p ∈ (q ++ [c]).takeWhile (fun p => p.idx != c.idx)) : p ∈ q := by
  have other := List.mem_takeWhile_imp h
  rcases List.mem_append.1 ((List.takeWhile_prefix _).subset h) with hq | hc
  · exact hq
  · rw [List.mem_singleton.1 hc] at other
    simp at other

/-- Where each entry before it has another index, all of them stand before the entry itself. -/
theorem takeWhile_append_self {q : List QCmd} (h : ∀ p ∈ q, p.idx ≠ c.idx) :
    (q ++ [c]).takeWhile (fun p => p.idx != c.idx) = q := by
  rw [List.takeWhile_append_of_pos (by simpa using h)]
  simp

/-- The bank that an LDS loads, as memory stands. -/
def ldsBank (s : State) (t w : Nat) : Bank :=
  let o := 0x002000000000 + t * 0x100000
  let lw := bits w 111 110
  let n := bits w 109 104 + 1
  { loaded := true, lw := lw, rows := n, scl := bit1 w 118
    cells := (List.range n).map (fun k => peekBytes s (o + bits w 103 84 + k * bits w 83 64) (ldsRowBytes lw))
    scales := if bit1 w 118 then (List.range (ldsScaleBlocks lw n)).map (fun k => peekBytes s (o + bits w 63 44 + k * 64) 64) else [] }

/-- An LDS that need not wait, over clean memory, fills its bank. -/
theorem ldsWork_done (hs : Sees o s) (hw : ldsWaits (tile s t) c = false)
    (rows : ∀ k, k < bits c.word 109 104 + 1 →
      Clean o (0x002000000000 + t * 0x100000 + bits c.word 103 84 + k * bits c.word 83 64) (ldsRowBytes (bits c.word 111 110)))
    (scales : bit1 c.word 118 = true → ∀ k, k < ldsScaleBlocks (bits c.word 111 110) (bits c.word 109 104 + 1) →
      Clean o (0x002000000000 + t * 0x100000 + bits c.word 63 44 + k * 64) 64) :
    ∃ u, ldsWork t c s jb = (.done, setTile u t { tile u t with
        banks := (tile u t).banks.set (if bit1 c.word 119 then 1 else 0) (ldsBank o t c.word) }) ∧ Touched s u := by
  obtain ⟨u, read, hu⟩ := readRows_known hs rows
  unfold ldsWork
  dsimp only
  rw [hw, read, if_neg Bool.false_ne_true]
  dsimp only
  by_cases hc : bit1 c.word 118 = true
  · obtain ⟨v, readScales, hv⟩ := readRows_known (hs.trans hu.sees) (scales hc)
    rw [if_pos hc, readScales]
    exact ⟨v, by rw [ldsBank, if_pos hc, hc], hu.trans hv⟩
  · rw [if_neg hc]
    exact ⟨u, by rw [ldsBank, if_neg hc], hu⟩

end Load

/-- Settles O11: the bank is filled from rows read as they stand; behind an undrained pass the work waits and nothing moves. -/
theorem loadsFillABank : Obligations.LoadsFillABank := by
  intro s t w j jb h hop
  have sub := h.submitted
  have issued := h.toEngine (mine := opIs 0x01) (reads := fun s w => ldsReads s t w) (writes := noRange) (beq_iff_eq.2 hop)
  have array : ∀ u, engineWork .array t (newEntry s t w (ldsReads s t w) []) u jb = ldsWork t (newEntry s t w (ldsReads s t w) []) u jb :=
    fun u => if_pos hop
  have runs : exec (.lds t) s = ends s (enginesGo (submit s t .array w (ldsReads s t w) []) t) := congrArg (ends s) issued
  have queue : (tile (submit s t .array w (ldsReads s t w) []) t).qArray = _ := qOf_submitted sub
  refine ⟨fun none rows scales => ?_, fun some other => ?_⟩
  · have free : ldsWaits (tile (submit s t .array w (ldsReads s t w) []) t) (newEntry s t w (ldsReads s t w) []) = false := by
      rw [Bool.eq_false_iff]
      intro hw
      obtain ⟨p, hp, waits⟩ := ldsWaits_iff.1 hw
      rw [queue] at hp
      rw [List.any_eq_false] at none
      exact none p (mem_takeWhile_append hp) waits
    obtain ⟨u, work, hu⟩ := ldsWork_done (jb := jb) sub.sees free rows scales
    obtain ⟨r, next, worked, mem, here⟩ := h.worked (by omega) ((array _).trans work)
      ((hu.keeps t).trans (setTile_keeps (fun e => by cases e <;> rfl) rfl rfl rfl rfl))
    rw [tile_setTile, hu.tile, sub.here] at here
    exact ⟨r, runs.trans next, worked, mem.trans (hu.sees.1.trans sub.sees.1), by rw [here]; rfl, by rw [here]; rfl, by rw [here]; rfl,
      by rw [here]; rfl, by rw [here]; rfl⟩
  · have stays : ldsWork t (newEntry s t w (ldsReads s t w) []) (submit s t .array w (ldsReads s t w) []) jb =
        (.waits 0, submit s t .array w (ldsReads s t w) []) := by
      refine if_pos (ldsWaits_iff.2 ?_)
      rw [queue, takeWhile_append_self other]
      exact List.any_eq_true.1 some
    have here : tile (noteState s (submit s t .array w (ldsReads s t w) [])) t = _ := (tile_noteState ..).trans sub.here
    refine ⟨_, runs.trans (h.waited (by omega) ((array _).trans stays)), by rw [here]; rfl, ?_, by rw [here],
      (noteState_mem ..).trans sub.sees.mem⟩
    have current := (h.current (by omega)).1
    rw [sub.here] at current
    rw [here, current]
    rfl

end Sys2Proof.Machine

namespace Sys2Proof.Machine

/-! ## The selector (R74 to R77, R100) -/

/-! ### A candidate offered to a column -/

section Offer
variable {x : Selection} {c y : F32 × Nat} {l : List (F32 × Nat)}

theorem insertCand_length (x : Selection) (c : F32 × Nat) (l : List (F32 × Nat)) : (insertCand x c l).length = l.length + 1 := by
  induction l with
  | nil => rfl
  | cons a l ih =>
    unfold insertCand
    split
    · rfl
    · rw [List.length_cons, ih, List.length_cons]

theorem mem_insertCand : y ∈ insertCand x c l ↔ y = c ∨ y ∈ l := by
  induction l with
  | nil => simp [insertCand]
  | cons a l ih =>
    unfold insertCand
    split
    · exact List.mem_cons
    · rw [List.mem_cons, ih, List.mem_cons]
      tauto

theorem offer_column {j : Nat} (h : j < x.cands.length) :
    (offer x j c).cands.getD j [] = (insertCand x c (x.cands.getD j [])).take x.k := by
  simp [offer, h]

theorem offer_beyond {j : Nat} (h : ¬ j < x.cands.length) : (offer x j c).cands = x.cands :=
  List.set_eq_of_length_le (not_lt.1 h)

theorem offer_other {i j : Nat} (h : i ≠ j) : (offer x j c).cands.getD i [] = x.cands.getD i [] := by
  rw [List.getD_eq_getElem?_getD, List.getD_eq_getElem?_getD, offer, List.getElem?_set_ne h.symm]

/-- A column keeps at most k candidates, of the one offered and those it had. -/
theorem offer_column_bounds (x : Selection) (j : Nat) (c : F32 × Nat) :
    ((offer x j c).cands.getD j []).length ≤ max x.k ((x.cands.getD j []).length) ∧
      (∀ y ∈ (offer x j c).cands.getD j [], y = c ∨ y ∈ x.cands.getD j []) := by
  by_cases h : j < x.cands.length
  · rw [offer_column h, List.length_take]
    exact ⟨(Nat.min_le_left ..).trans (Nat.le_max_left ..), fun y hy => mem_insertCand.1 (List.mem_of_mem_take hy)⟩
  · rw [offer_beyond h]
    exact ⟨Nat.le_max_right .., fun y => .inr⟩

/-- A column with room takes every candidate. -/
theorem offer_room {j : Nat} (h : j < x.cands.length) (hr : (x.cands.getD j []).length < x.k) :
    c ∈ (offer x j c).cands.getD j [] := by
  rw [offer_column h, List.take_of_length_le (by rw [insertCand_length]; exact hr)]
  exact mem_insertCand.2 (.inl rfl)

end Offer

/-! ### Work on the selection of a tile -/

/-- `u` is `s` but for what was noted for the regulators, and the selection of tile `t`, changed by `f`. -/
structure SelSet (s u : State) (t : Nat) (f : Selection → Selection) : Prop where
  sees : Sees s u
  keeps : WorkKeeps s u t
  here : tile u t = { tile s t with sel := (tile s t).sel.map f }

section Select
variable {o s u v : State} {t : Nat} {f g : Selection → Selection} {jb : Job}

theorem SelSet.refl (s : State) (t : Nat) : SelSet s s t id :=
  ⟨.refl s, (Touched.refl s).keeps t, by rw [Option.map_id, id]⟩

theorem SelSet.trans (h : SelSet s u t f) (h' : SelSet u v t g) : SelSet s v t (fun x => g (f x)) :=
  ⟨h.sees.trans h'.sees, h.keeps.trans h'.keeps, by rw [h'.here, h.here, Option.map_map]; rfl⟩

theorem Touched.selSet (h : Touched s u) (t : Nat) : SelSet s u t id :=
  ⟨h.sees, h.keeps t, by rw [h.tile, Option.map_id, id]⟩

theorem selSet_setTile (s : State) (t : Nat) (f : Selection → Selection) :
    SelSet s (setTile s t { tile s t with sel := (tile s t).sel.map f }) t f :=
  ⟨⟨rfl, rfl, rfl⟩, setTile_keeps (fun e => by cases e <;> rfl) rfl rfl rfl rfl, tile_setTile ..⟩

theorem leNat_lt (l : List Byte) : leNat l < 256 ^ l.length := by
  induction l with
  | nil => exact Nat.one_pos
  | cons b l ih =>
    rw [leNat, List.length_cons, pow_succ]
    have := b.isLt
    omega

/-- The bits at whole bytes are the number that the bytes give. -/
theorem peekBits_bytes (s : State) (a n : Nat) : peekBits s (a % 2 ^ 48 * 8) (8 * n) = leNat (peekBytes s a n) := by
  have whole : a % 2 ^ 48 * 8 / 8 = a % 2 ^ 48 ∧ a % 2 ^ 48 * 8 % 8 = 0 ∧ (0 + 8 * n + 7) / 8 = n := by omega
  obtain ⟨start, offset, length⟩ := whole
  have bound := leNat_lt (peekBytes s a n)
  rw [peekBytes_length] at bound
  rw [peekBits, start, offset, length, peekBytes_mod, pow_zero, Nat.div_one, pow_mul]
  exact Nat.mod_eq_of_lt bound

/-- An entry of a stored list at address `a` offered to a column. -/
def offerStored (s : State) (a col : Nat) (y : Selection) (i : Nat) : Selection :=
  offer y col (BitVec.ofNat 32 (leNat (peekBytes s (a + i * 8) 8)), leNat (peekBytes s (a + i * 8) 8) / 2 ^ 32)

/-- The entries of a readable list are offered in order. -/
theorem loadEntries_known {a col n i : Nat} (hs : Sees o s)
    (h : ∀ k, i ≤ k → k < i + n → Readable o jb .normal ((a + k * 8) % 2 ^ 48 * 8) 64) :
    ∃ u, loadEntries t a col jb n i s = (.val 0, u) ∧ SelSet s u t (fun y => (List.range' i n).foldl (offerStored o a col) y) := by
  induction n generalizing s i with
  | zero => exact ⟨s, rfl, .refl s t⟩
  | succ n ih =>
    obtain ⟨u, read, hu⟩ := readElem_known (how := plain (.tile t)) hs (h i (by omega) (by omega))
    have offered := (hu.selSet t).trans (selSet_setTile u t fun y => offerStored o a col y i)
    obtain ⟨v, rest, hv⟩ := ih (i := i + 1) (hs.trans offered.sees) (fun k hi hk => h k (by omega) (by omega))
    refine ⟨v, ?_, offered.trans hv⟩
    rw [loadEntries, read, peekBits_bytes o _ 8]
    exact rest

/-- Column `c` of the stored lists. -/
def loadColumn (s : State) (base k : Nat) (y : Selection) (c : Nat) : Selection :=
  (List.range (leNat (peekBytes s (base + 64 * k * 8 + 4 * c) 4))).foldl (offerStored s (base + c * k * 8) c) y

theorem loadColumns_known {base k n : Nat} (hs : Sees o s) (h : ∀ c, c < n → Readable o jb .normal ((base + 64 * k * 8 + 4 * c) % 2 ^ 48 * 8) 32 ∧
      leNat (peekBytes o (base + 64 * k * 8 + 4 * c) 4) ≤ k ∧
      ∀ i, i < leNat (peekBytes o (base + 64 * k * 8 + 4 * c) 4) → Readable o jb .normal ((base + c * k * 8 + i * 8) % 2 ^ 48 * 8) 64) :
    ∃ u, loadColumns t base k jb n s = (.done, u) ∧ SelSet s u t (fun y => (List.range n).foldl (loadColumn o base k) y) := by
  induction n with
  | zero => exact ⟨s, rfl, .refl s t⟩
  | succ n ih =>
    obtain ⟨u, columns, hu⟩ := ih fun c hc => h c (by omega)
    obtain ⟨readable, few, entries⟩ := h n (by omega)
    obtain ⟨v, read, hv⟩ := readElem_known (how := plain (.tile t)) (hs.trans hu.sees) readable
    have counted := hu.trans (hv.selSet t)
    obtain ⟨x, last, hx⟩ := loadEntries_known (t := t) (a := base + n * k * 8) (col := n) (i := 0)
      (n := leNat (peekBytes o (base + 64 * k * 8 + 4 * n) 4)) (hs.trans counted.sees)
      (fun k _ hk => entries k (by omega))
    refine ⟨x, ?_, ?_⟩
    · rw [loadColumns, columns]
      dsimp only
      rw [read, peekBits_bytes o _ 4]
      dsimp only
      rw [if_neg (by omega), last]
      rfl
    · have all := counted.trans hx
      simp only [List.range_succ, List.foldl_append, List.foldl_cons, List.foldl_nil]
      rw [← List.range_eq_range'] at all
      exact all

end Select

/-! ### The commands -/

section Commands
variable {s u : State} {t w j : Nat} {jb : Job} {reads writes : State → Nat → List (Nat × Nat)} {x : Selection}

/-- A TOPK word whose work is done at once. -/
theorem topk_worked {sub : Nat} {v : State} (h : EngineReady s t w .selector j jb (reads s w) (writes s w)) (hop : wOpcode w = 0x06)
    (hsub : bits w 111 108 = sub)
    (hw : topkWork t (newEntry s t w (reads s w) (writes s w)) (submit s t .selector w (reads s w) (writes s w)) jb = (.done, v))
    (hk : WorkKeeps (submit s t .selector w (reads s w) (writes s w)) v t) :
    ∃ r, ends s (topkExec sub s t reads writes) = .next r ∧ Worked s r t .selector ∧ r.mem = v.mem ∧ (tile r t).sel = (tile v t).sel := by
  obtain ⟨r, next, worked, mem, here⟩ := h.worked (by omega) hw hk
  have issued := h.toEngine (mine := fun w => wOpcode w == 0x06 && bits w 111 108 == sub) (by simp [hop, hsub])
  exact ⟨r, by rw [topkExec, issued, next], worked, mem, by rw [here]; rfl⟩

/-- A TOPK word that only sets the selection. -/
theorem topk_sets {sub : Nat} {sel : Option Selection} (h : EngineReady s t w .selector j jb [] []) (hop : wOpcode w = 0x06)
    (hsub : bits w 111 108 = sub)
    (hw : topkWork t (newEntry s t w [] []) (submit s t .selector w [] []) jb =
      (.done, setTile (submit s t .selector w [] []) t { tile (submit s t .selector w [] []) t with sel := sel })) :
    ∃ r, ends s (topkExec sub s t noRange noRange) = .next r ∧ Worked s r t .selector ∧ r.mem = s.mem ∧ (tile r t).sel = sel := by
  obtain ⟨r, next, worked, mem, here⟩ := topk_worked (reads := noRange) (writes := noRange) h hop hsub hw
    (setTile_keeps (fun e => by cases e <;> rfl) rfl rfl rfl rfl)
  exact ⟨r, next, worked, mem.trans h.submitted.sees.mem, by rw [here, tile_setTile]⟩

theorem sel_submitted {c : QCmd} {e : Engine} (h : Submitted s u t e c) : (tile u t).sel = (tile s t).sel := by
  rw [h.here]
  cases e <;> rfl

theorem withBsel_submitted {c : QCmd} {e : Engine} (h : Submitted s u t e c) (bsel base : Nat) :
    withBsel u t bsel base = withBsel s t bsel base := by
  have same : (tile u t).argBase = (tile s t).argBase := by
    rw [h.here]
    cases e <;> rfl
  unfold withBsel
  rw [same]

theorem emitWaits_submitted {c : QCmd} (h : Submitted s u t .selector c) : emitWaits (tile u t) c = emitWaits (tile s t) c := by
  rw [h.here]
  rfl

theorem topkWork_open {c : QCmd} (h : bits c.word 111 108 = 0) : topkWork t c s jb = topkOpenWork t c s jb := by
  rw [topkWork, h]
  rfl

theorem topkWork_load {c : QCmd} (h : bits c.word 111 108 = 1) : topkWork t c s jb = topkLoadWork t c s jb := by
  rw [topkWork, h]
  rfl

theorem topkWork_emit {c : QCmd} (h : bits c.word 111 108 = 2) : topkWork t c s jb = topkEmitWork t c s jb := by
  rw [topkWork, h]
  rfl

theorem topkWork_close {c : QCmd} (h : bits c.word 111 108 = 3) : topkWork t c s jb = topkCloseWork t s jb := by
  rw [topkWork, h]
  rfl

theorem topkOpenWork_done {c : QCmd} (h : (tile s t).sel = none) : topkOpenWork t c s jb =
    (.done, setTile s t { tile s t with sel := some {
      k := tkK c.word, maximum := bit1 c.word 98, fp := bit1 c.word 97, base := bits c.word 95 64, cands := List.replicate 64 [] } }) :=
  if_neg (by rw [h]; exact Bool.false_ne_true)

theorem topkCloseWork_done (h : (tile s t).sel.isSome = true) :
    topkCloseWork t s jb = (.done, setTile s t { tile s t with sel := none }) :=
  if_neg (by simpa using Option.isSome_iff_ne_none.1 h)

theorem topkLoadWork_done {c : QCmd} (hb : tkBase s t c.word % 8 = 0) (hx : (tile s t).sel = some x)
    (hl : loadColumns t (tkBase s t c.word) (tkK c.word) jb 64 s = (.done, u)) : topkLoadWork t c s jb = (.done, u) := by
  rw [topkLoadWork, if_neg (not_not.2 hb), if_neg (by rw [hx]; exact Bool.false_ne_true), hl]

theorem topkEmitWork_done {c : QCmd} {p : List PendWord} (hw : emitWaits (tile s t) c = false) (hb : tkBase s t c.word % 8 = 0)
    (hx : (tile s t).sel = some x) (hk : tkK c.word = x.k)
    (hp : (stageList s t 64 jb (emitEntries x (tkBase s t c.word)) []).bind
      (stageList s t 32 jb (emitCounts x (tkBase s t c.word))) = some p)
    (hf : flush s (plain (.tile t)) p = (.val 0, u)) :
    topkEmitWork t c s jb = (.done, if bit1 c.word 119 then u else setTile u t { tile u t with sel := none }) := by
  rw [topkEmitWork, hw, if_neg Bool.false_ne_true, if_neg (not_not.2 hb), hx]
  dsimp only
  rw [if_neg (not_not.2 hk), topkEmitGo]
  dsimp only
  rw [hp]
  dsimp only
  rw [hf]

end Commands

/-- Settles O13: the four subcommands by what each does to the selection of the tile, and the offer by its column. -/
theorem selectorKeepsCandidates : Obligations.SelectorKeepsCandidates := by
  refine ⟨fun s t w j jb hop h => ⟨fun hsub none => ?_, fun hsub some => ?_⟩, fun s t w j jb x hop hsub h hx => ?_,
    fun s t w j jb x p hop hsub h hx hk ready => ?_, fun x j c =>
      ⟨(offer_column_bounds x j c).1, (offer_column_bounds x j c).2, fun i hi => offer_other hi, offer_room⟩⟩
  · exact topk_sets h hop hsub ((topkWork_open hsub).trans (topkOpenWork_done ((sel_submitted h.submitted).trans none)))
  · exact topk_sets h hop hsub ((topkWork_close hsub).trans (topkCloseWork_done ((sel_submitted h.submitted) ▸ some)))
  · intro base k count aligned readable
    have sub := h.submitted
    have sel := (sel_submitted sub).trans hx
    have same : tkBase (submit s t .selector w (topkSpan s t w) []) t w = base := withBsel_submitted sub ..
    obtain ⟨v, columns, hv⟩ := loadColumns_known (t := t) sub.sees readable
    have work := (topkWork_load hsub).trans (topkLoadWork_done (c := newEntry s t w (topkSpan s t w) []) (same ▸ aligned) sel
      (same.symm ▸ columns))
    obtain ⟨r, next, worked, mem, final⟩ := topk_worked (reads := fun s w => topkSpan s t w) (writes := noRange) h hop hsub work hv.keeps
    refine ⟨r, next, worked, mem.trans (hv.sees.mem.trans sub.sees.mem), ?_⟩
    rw [final, hv.here, sel]
    rfl
  · intro base aligned staged lands
    have sub := h.submitted
    have sel := (sel_submitted sub).trans hx
    have same : tkBase (submit s t .selector w [] (topkSpan s t w)) t w = base := withBsel_submitted sub ..
    have staged' : (stageList (submit s t .selector w [] (topkSpan s t w)) t 64 jb (emitEntries x base) []).bind
        (stageList (submit s t .selector w [] (topkSpan s t w)) t 32 jb (emitCounts x base)) = some p := by
      rw [sub.sees.stageList, show stageList (submit s t .selector w [] (topkSpan s t w)) t 32 jb (emitCounts x base) = _ from
        funext fun _ => sub.sees.stageList ..]
      exact staged
    obtain ⟨q, hq, hp⟩ := Option.bind_eq_some_iff.1 staged
    obtain ⟨v, flushed, hv, mem⟩ := flush_known (how := plain (.tile t)) (n := t) sub.sees lands
      ((stageList_grows hq).trans (stageList_grows hp)).fresh
    have work := (topkWork_emit hsub).trans (topkEmitWork_done (c := newEntry s t w [] (topkSpan s t w))
      ((emitWaits_submitted sub).trans ready) (same ▸ aligned) sel hk (same.symm ▸ staged') flushed)
    obtain ⟨r, next, worked, rmem, final⟩ := topk_worked (reads := noRange) (writes := fun s w => topkSpan s t w) h hop hsub work (by
      split
      · exact hv.keeps t
      · exact (hv.keeps t).trans (setTile_keeps (fun e => by cases e <;> rfl) rfl rfl rfl rfl))
    rw [show (newEntry s t w [] (topkSpan s t w)).word = w from rfl] at rmem final
    refine ⟨r, next, worked, rmem.trans ?_, final.trans ?_⟩ <;> split
    · exact mem
    · exact mem
    · rw [hv.tile]
      exact sel
    · rw [tile_setTile]

end Sys2Proof.Machine

namespace Sys2Proof.Machine

/-! ## Copies of elements (R57, R103, R104) -/

/-! ### Words written bit by bit, each in its own place -/

section Places
variable {o s u v : State} {t w j : Nat} {jb : Job} {how : How} {p : List PendWord}

/-- The words of a list are written each with what was put together for it; other words, and all bytes elsewhere, stay. -/
structure Flushed (s u : State) (p : List PendWord) : Prop where
  lay : u.lay = s.lay
  words : ∀ x ∈ p, peekWord u x.addr = (peekWord s x.addr).map x.onto
  others : ∀ a, (∀ x ∈ p, sramKey s x.addr ≠ sramKey s a) → peekWord u a = peekWord s a
  bytes : ∀ y, (∀ x ∈ p, ∀ k, sramKey s x.addr = some k → y < k ∨ k + 128 ≤ y) → storedByte u.mem y = storedByte s.mem y

theorem flushWords_flushed (hl : Lands s p) (hp : ∀ x ∈ p, x.poison = false) (hk : (p.map (fun x => sramKey s x.addr)).Nodup) :
    ∃ u, flushWords how p false s = (.val 0, u) ∧ Flushed s u p := by
  induction p generalizing s with
  | nil => exact ⟨s, rfl, rfl, (fun _ h => nomatch h), fun _ _ => rfl, fun _ _ => rfl⟩
  | cons x p ih =>
    obtain ⟨hx, hr⟩ := List.forall_mem_cons.1 hl
    obtain ⟨px, pr⟩ := List.forall_mem_cons.1 hp
    obtain ⟨own, distinct⟩ := List.nodup_cons.1 hk
    obtain ⟨d, hd⟩ := Option.isSome_iff_exists.1 hx
    obtain ⟨key, word⟩ := sramWord_of_peekWord hd
    obtain ⟨_, u, hu, wrote⟩ := flushWord_known (how := how) word px
    have keys : ∀ a, sramKey u a = sramKey s a := sramKey_of_lay wrote.written.lay
    have apart : ∀ y ∈ p, sramKey s y.addr ≠ some key := fun y hy e => own (List.mem_map.2 ⟨y, hy, e.trans word.home.symm⟩)
    have aligned := sramKey_aligned word.home
    have still : ∀ y ∈ p, peekWord u y.addr = peekWord s y.addr := fun y hy => wrote.peekWord_other aligned (apart y hy)
    obtain ⟨v, hv, rest⟩ := ih (fun y hy => by rw [still y hy]; exact hr y hy) pr (by simpa only [keys] using distinct)
    refine ⟨v, by rw [flushWords, hu]; exact hv, rest.lay.trans wrote.written.lay, List.forall_mem_cons.2 ⟨?_, fun y hy => ?_⟩,
      fun a ha => ?_, fun y hy => ?_⟩
    · rw [rest.others x.addr fun y hy => by rw [keys, keys, word.home]; exact apart y hy, hd]
      exact wrote.peekWord_same (x.onto_length d) word.home word.known
    · rw [rest.words y hy, still y hy]
    · obtain ⟨first, later⟩ := List.forall_mem_cons.1 ha
      rw [rest.others a fun y hy => by rw [keys, keys]; exact later y hy]
      exact wrote.peekWord_other aligned fun e => first (word.home.trans e.symm)
    · obtain ⟨first, later⟩ := List.forall_mem_cons.1 hy
      rw [rest.bytes y fun z hz k hk => later z hz k (by rw [← keys]; exact hk), wrote.mem]
      exact storeAt_sameBut _ _ _ y (first key word.home)

/-! ### Copies -/

/-- What a copied element puts into its destination. -/
def copyValue (s : State) (w : Nat) (e : CopyEl) : Nat :=
  match e.1 with
  | none => 0
  | some a => peekBits s a w

theorem copied_eq (s : State) (w : Nat) (els : List CopyEl) :
    copied s w els = els.foldl (fun p e => pendElem p e.2 w (copyValue s w e) false) [] := List.foldl_map ..

/-- The read of a copied element: a padded source is none. -/
def readSource (s : State) (jb : Job) (how : How) (b : RBuf) (width : Nat) (e : CopyEl) : EAcc × RBuf × State :=
  match e.1 with
  | none => (.val 0, b, s)
  | some a => readElemB s jb how b a width

theorem readSource_known {e : CopyEl} {b : RBuf} {width : Nat} (hs : Sees o s) (hb : BufKnown o b)
    (h : ∀ a, e.1 = some a → Readable o jb how.hint a width) :
    ∃ b' u, readSource s jb how b width e = (.val (copyValue o width e), b', u) ∧ Touched s u ∧ BufKnown o b' := by
  unfold readSource copyValue
  split
  · exact ⟨b, s, rfl, .refl s, hb⟩
  · exact readElemB_known hs hb (h _ ‹_›)

/-- An element that meets no other takes the value that its source has. -/
theorem copyEls_cons {fixed : Bool} {clash : CopyEl → Bool} {e : CopyEl} {els : List CopyEl} {b b' : RBuf} {width x : Nat} {q : List PendWord}
    (read : readSource s jb how b width e = (.val x, b', u)) (alone : clash e = false)
    (staged : stageElem u jb how p e.2 width x false = some q) :
    copyEls jb how width fixed clash (e :: els) b p false s = copyEls jb how width fixed clash els b' q false u := by
  obtain ⟨_ | a, d⟩ := e
  · cases read
    simp [copyEls, alone, staged]
  · change readElemB s jb how b a width = _ at read
    simp [copyEls, read, alone, staged]

/-- Readable elements that meet no other are copied as they stand, and what they make up is written. -/
theorem copyEls_known {fixed : Bool} {clash : CopyEl → Bool} {els : List CopyEl} {b : RBuf} {width : Nat} (hs : Sees o s) (hb : BufKnown o b)
    (sources : ∀ e ∈ els, ∀ a, e.1 = some a → Readable o jb how.hint a width)
    (targets : ∀ e ∈ els, elemOk o jb true how.hint e.2 width = true) (apart : ∀ e ∈ els, clash e = false)
    (hp : ∀ x ∈ p, x.poison = false)
    (hl : Lands o (els.foldl (fun p e => pendElem p e.2 width (copyValue o width e) false) p)) :
    ∃ u, copyEls jb how width fixed clash els b p false s = (.done, u) ∧ WordsWritten s u ∧
      u.mem = landed o t (els.foldl (fun p e => pendElem p e.2 width (copyValue o width e) false) p) := by
  induction els generalizing b p s with
  | nil =>
    obtain ⟨u, flushed, written, mem⟩ := flush_known (how := how) (n := t) hs hl hp
    rw [List.foldl_nil] at flushed mem
    exact ⟨u, by rw [copyEls, flushed]; rfl, written, mem⟩
  | cons e els ih =>
    obtain ⟨source, sources⟩ := List.forall_mem_cons.1 sources
    obtain ⟨target, targets⟩ := List.forall_mem_cons.1 targets
    obtain ⟨alone, apart⟩ := List.forall_mem_cons.1 apart
    obtain ⟨b', u, read, hu, hb'⟩ := readSource_known hs hb source
    have see := hs.trans hu.sees
    have staged : stageElem u jb how p e.2 width (copyValue o width e) false =
        some (pendElem p e.2 width (copyValue o width e) false) := by
      rw [see.stageElem, stageElem, if_pos target]
    obtain ⟨v, rest, written, mem⟩ := ih see hb' sources targets apart ((pendElem_grows ..).unpoisoned hp) hl
    exact ⟨v, (copyEls_cons read alone staged).trans rest, (touched_written hu).trans written, mem⟩

/-- Copyable elements: the work of the command that copies them. -/
theorem Copyable.work {fixed : Bool} {els : List CopyEl} {width : Nat} (h : Copyable o jb how.hint width els) (hs : Sees o s)
    (hl : Lands o (copied o width els)) :
    ∃ u, copyEls jb how width fixed (clashOf width els) els none [] false s = (.done, u) ∧ WordsWritten s u ∧
      u.mem = landed o t (copied o width els) := by
  obtain ⟨sources, targets, apart⟩ := h
  rw [copied_eq] at hl ⊢
  exact copyEls_known hs (bufKnown_none o) sources targets apart (fun _ h => nomatch h) hl

end Places

theorem moverWork_move {s : State} {t : Nat} {jb : Job} {c : QCmd} (h : wOpcode c.word = 0x10) (hp : bits c.word 119 116 = 0) :
    moverWork t c s jb = copyEls jb (moveHow t c.word) (cgen c (wSgen c.word)).width false
      (clashOf (cgen c (wSgen c.word)).width (moveEls (cgen c (wSgen c.word)) (cgen c (wDgen c.word))
        ((cgen c (wSgen c.word)).a0 s t) ((cgen c (wDgen c.word)).a0 s t)))
      (moveEls (cgen c (wSgen c.word)) (cgen c (wDgen c.word)) ((cgen c (wSgen c.word)).a0 s t) ((cgen c (wDgen c.word)).a0 s t))
      none [] false s := by
  rw [moverWork, h]
  exact if_pos hp

theorem moverWork_movex {s : State} {t : Nat} {jb : Job} {c : QCmd} (h : wOpcode c.word = 0x11) :
    moverWork t c s jb = copyEls jb (moveHow t c.word) (cgen c (wSgen c.word)).width true
      (clashOf (cgen c (wSgen c.word)).width (movexEls (cgen c (wSgen c.word)) (cgen c (wDgen c.word))
        ((cgen c (wSgen c.word)).a0 s t) ((cgen c (wDgen c.word)).a0 s t)))
      (movexEls (cgen c (wSgen c.word)) (cgen c (wDgen c.word)) ((cgen c (wSgen c.word)).a0 s t) ((cgen c (wDgen c.word)).a0 s t))
      none [] false s := by
  rw [moverWork, h]
  rfl

/-- A MOVE or MOVEX whose work is done at once. -/
theorem move_worked {s v : State} {t w j n : Nat} {jb : Job} (h : EngineReady s t w .move j jb (moveReads s t w) (moveWrites s t w))
    (hop : wOpcode w = n) (hn : n ≠ 0x20)
    (hw : moverWork t (newEntry s t w (moveReads s t w) (moveWrites s t w)) (submit s t .move w (moveReads s t w) (moveWrites s t w)) jb =
      (.done, v))
    (hv : WordsWritten (submit s t .move w (moveReads s t w) (moveWrites s t w)) v) :
    ∃ r, ends s (toEngine s t (opIs n) .move (fun s w => moveReads s t w) (fun s w => moveWrites s t w)) = .next r ∧
      Worked s r t .move ∧ r.mem = v.mem ∧ (tile r t).regs = (tile s t).regs ∧ (tile r t).slots = (tile s t).slots := by
  obtain ⟨r, next, worked, mem, here⟩ := h.worked (hop ▸ hn) hw (hv.keeps t)
  have issued := h.toEngine (mine := opIs n) (reads := fun s w => moveReads s t w) (writes := fun s w => moveWrites s t w)
    (beq_iff_eq.2 hop)
  rw [hv.tile, h.submitted.here] at here
  exact ⟨r, by rw [issued, next], worked, mem, by rw [here]; rfl, by rw [here]; rfl⟩

/-- Settles O15: elements are read as they stand, put together, and written each word in its own place. -/
theorem movesCopyElements : Obligations.MovesCopyElements := by
  refine ⟨fun s t w j jb h => ?_, fun s how p hl hp hk => ?_⟩
  · intro sg dg hint els xels
    have sub := h.submitted
    have base : ∀ g : Gen, g.a0 (submit s t .move w (moveReads s t w) (moveWrites s t w)) t = g.a0 s t := fun g => withBsel_submitted sub ..
    refine ⟨fun hop here copy lands => ?_, fun hop copy lands => ?_⟩
    · obtain ⟨v, work, hv, mem⟩ := Copyable.work (how := moveHow t w) (fixed := false) (t := t) copy sub.sees lands
      have moved := moverWork_move (s := submit s t .move w (moveReads s t w) (moveWrites s t w)) (t := t) (jb := jb)
        (c := newEntry s t w (moveReads s t w) (moveWrites s t w)) hop here
      rw [base, base] at moved
      obtain ⟨r, next, worked, rmem, regs, slots⟩ := move_worked h hop (by decide) (moved.trans work) hv
      exact ⟨r, next, worked, rmem.trans mem, regs, slots⟩
    · obtain ⟨v, work, hv, mem⟩ := Copyable.work (how := moveHow t w) (fixed := true) (t := t) copy sub.sees lands
      have moved := moverWork_movex (s := submit s t .move w (moveReads s t w) (moveWrites s t w)) (t := t) (jb := jb)
        (c := newEntry s t w (moveReads s t w) (moveWrites s t w)) hop
      rw [base, base] at moved
      obtain ⟨r, next, worked, rmem, regs, slots⟩ := move_worked h hop (by decide) (moved.trans work) hv
      exact ⟨r, next, worked, rmem.trans mem, regs, slots⟩
  · have back := flushWords_flushed (s := s) (how := how) (p := p.reverse) (fun x hx => hl x (List.mem_reverse.1 hx))
      (fun x hx => (hp x (List.mem_reverse.1 hx)).2) (by rw [List.map_reverse]; exact List.nodup_reverse.2 hk)
    obtain ⟨u, flushed, -, words, -, bytes⟩ := back
    exact ⟨u, flushed, fun x hx => words x (List.mem_reverse.2 hx), fun y hy => bytes y fun x hx => hy x (List.mem_reverse.1 hx)⟩

end Sys2Proof.Machine

namespace Sys2Proof.Machine

/-! ## The vector unit (R78, R102) -/

/-! ### What decode has checked -/

section Checked
variable {s : State} {t w : Nat}

theorem firstCause_eq_none {l : List (Bool × Nat)} (h : firstCause l = none) : ∀ x ∈ l, x.1 = false := by
  induction l with
  | nil => exact fun _ hx => nomatch hx
  | cons x l ih =>
    obtain ⟨b, c⟩ := x
    cases b with
    | true => cases h
    | false => exact List.forall_mem_cons.2 ⟨rfl, ih h⟩

theorem AtDecode.checkVec (h : AtDecode s t w) (hop : wOpcode w = 0x07) : checkVec s t w = none := by
  have checked := h.checked
  unfold checkWord at checked
  split at checked
  · cases checked
  · split at checked
    · cases checked
    · rw [hop] at checked
      exact checked

/-- A checked VEC names the vector queue as a source at most once. -/
theorem pops_once (h : checkVec s t w = none) : ((vSources w).filter (· == 32)).length ≤ 1 := by
  have second := firstCause_eq_none h _ (List.mem_cons_of_mem _ List.mem_cons_self)
  simp only [Bool.or_eq_false_iff, decide_eq_false_iff_not] at second
  omega

/-- The destination of a checked VEC other than MXQ is a register where it is not memory. -/
theorem vD_lt (h : checkVec s t w = none) (hv : vVop w ≠ 14) (hd : vD w ≠ 34) : vD w < 32 := by
  have first := firstCause_eq_none h _ List.mem_cons_self
  have second := firstCause_eq_none h _ (List.mem_cons_of_mem _ List.mem_cons_self)
  have field : vD w < 64 := Nat.mod_lt _ (by norm_num)
  simp only [Bool.or_eq_false_iff, Bool.and_eq_false_iff, decide_eq_false_iff_not, beq_eq_false_iff_ne, Bool.not_eq_false',
    beq_iff_eq] at first second
  omega

end Checked

/-! ### Operands -/

/-- A tile with the oldest row of its vector queue popped, or not. -/
def popped (v : Tile) (b : Bool) : Tile := { v with vq := if b then v.vq.drop 1 else v.vq }

/-- `u` is `s` with operands of a VEC read: the vector queue of tile `t` popped, or not. -/
structure OperandsRead (s u : State) (t : Nat) (b : Bool) : Prop where
  sees : Sees s u
  keeps : WorkKeeps s u t
  here : tile u t = popped (tile s t) b

section Operands
variable {o s u : State} {t w j : Nat} {jb : Job} {c : QCmd} {b : Bool}

theorem OperandsRead.refl (s : State) (t : Nat) : OperandsRead s s t false := ⟨.refl s, (Touched.refl s).keeps t, rfl⟩

/-- Reading operands moves no base. -/
theorem OperandsRead.a0 (h : OperandsRead s u t b) (sub : Submitted o s t .vector c) (g : Gen) : g.a0 u t = g.a0 o t := by
  have arg : (tile u t).argBase = (tile o t).argBase := by
    rw [h.here, sub.here]
    rfl
  unfold Gen.a0 withBsel
  rw [arg]

theorem vArity_cases (n : Nat) : vArity n = 1 ∨ vArity n = 2 ∨ vArity n = 3 := by
  unfold vArity
  split <;> simp

/-- An operand is what `vecOperand` says of the state before the word, and the queue is popped where it is its oldest row. -/
theorem vecSource_known {inc spec : Nat} (sub : Submitted o s t .vector c) (hg : c.gens = (tile o t).gens) (h : OperandsRead s u t b)
    (once : spec = 32 → b = false) (row : spec = 34 → RowReadable o t jb (gen (tile o t) (vGen c.word)) 0) :
    ∃ v, vecSource u jb t c spec inc 0 = (.val 0, vecOperand o t c.word spec, v) ∧ OperandsRead s v t (b || spec == 32) := by
  have here : tile u t = popped (tile s t) b := h.here
  have same : (tile s t).regs = (tile o t).regs ∧ (tile s t).vq = (tile o t).vq := by
    rw [sub.here]
    exact ⟨rfl, rfl⟩
  obtain ⟨regs, vq⟩ := same
  have kept : spec ≠ 32 → OperandsRead s u t (b || spec == 32) := fun hne => by
    rw [beq_eq_false_iff_ne.2 hne, Bool.or_false]
    exact h
  unfold vecSource vecOperand
  dsimp only
  by_cases register : spec < 32
  · rw [if_pos register, if_pos register, ite_self, Nat.add_zero, show vreg (tile u t) spec = vreg (tile o t) spec by
      rw [vreg, vreg, here, ← regs]; rfl]
    exact ⟨u, rfl, kept (by omega)⟩
  rw [if_neg register, if_neg register]
  by_cases queue : spec = 32
  · have first : b = false := once queue
    subst first
    rw [if_pos queue, if_pos queue, here, ← vq]
    refine ⟨_, rfl, h.sees.trans ⟨rfl, rfl, rfl⟩, h.keeps.trans ?_, ?_⟩
    · exact setTile_keeps (fun e => by rw [here]; cases e <;> rfl) (by rw [here]) (by rw [here]) (by rw [here]) (by rw [here])
    · rw [tile_setTile, queue]
      rfl
  rw [if_neg queue, if_neg queue]
  by_cases imm : spec = 33
  · rw [if_pos imm, if_pos imm]
    exact ⟨u, rfl, kept queue⟩
  rw [if_neg imm, if_neg imm]
  by_cases mem : spec = 34
  · have gens : cgen c (vGen c.word) = gen (tile o t) (vGen c.word) := by rw [cgen, hg]; rfl
    obtain ⟨v, read, hv⟩ := readRow_known (how := plain (.tile t)) (sub.sees.trans h.sees) rfl (row mem)
    rw [if_pos mem, if_pos mem, gens, h.a0 sub, read]
    have all := kept queue
    exact ⟨v, rfl, all.sees.trans hv.sees, all.keeps.trans (hv.keeps t), (hv.tile t).trans all.here⟩
  rw [if_neg mem, if_neg mem]
  exact ⟨u, rfl, kept queue⟩

/-- The operands of an operation, each from the state before the word. -/
theorem vecRep_known {p : List PendWord} (sub : Submitted o s t .vector c) (hg : c.gens = (tile o t).gens)
    (once : ((vSources c.word).filter (· == 32)).length ≤ 1)
    (row : (vSources c.word).contains 34 = true → RowReadable o t jb (gen (tile o t) (vGen c.word)) 0) :
    ∃ u, OperandsRead s u t ((vSources c.word).contains 32) ∧
      ∀ q v, vecStore u jb t c 0 (vecResult o t c.word) p = (some q, v) → vecRep s jb t c 0 p = (.val 0, q, v) := by
  obtain ⟨u, readA, ha⟩ := vecSource_known (inc := 118) (spec := vA c.word) sub hg (.refl s t) (fun _ => rfl)
    (fun h => row (by rcases vArity_cases (vVop c.word) with n | n | n <;> simp [vSources, n, h]))
  have pops : ∀ l : List Nat, l.contains 32 = l.any (· == 32) := fun l => by
    rw [Bool.eq_iff_iff]
    simp
  unfold vecRep vecResult
  dsimp only
  rw [readA]
  dsimp only
  rcases vArity_cases (vVop c.word) with n | n | n
  · refine ⟨u, by rw [pops, vSources, n]; simpa using ha, fun q v store => ?_⟩
    simp [n] at store
    simp [n, store]
  · obtain ⟨v, readB, hb⟩ := vecSource_known (inc := 117) (spec := vB c.word) sub hg ha
      (fun h => by
        rw [vSources, n] at once
        cases first : vA c.word == 32 with
        | false => rfl
        | true => simp [h, first] at once)
      (fun h => row (by simp [vSources, n, h]))
    refine ⟨v, by rw [pops, vSources, n]; simpa using hb, fun q z store => ?_⟩
    simp [n] at store
    simp [n, readB, store]
  · rw [vSources, n] at once
    obtain ⟨v, readB, hb⟩ := vecSource_known (inc := 117) (spec := vB c.word) sub hg ha
      (fun h => by
        cases first : vA c.word == 32 with
        | false => rfl
        | true => simp [h, first] at once)
      (fun h => row (by simp [vSources, n, h]))
    obtain ⟨z, readC, hc⟩ := vecSource_known (inc := 116) (spec := vC c.word) sub hg hb
      (fun h => by
        cases first : vA c.word == 32 with
        | false =>
          cases second : vB c.word == 32 with
          | false => rfl
          | true => simp [h, first, second] at once
        | true => simp [h, first] at once)
      (fun h => row (by simp [vSources, n, h]))
    refine ⟨z, by rw [pops, vSources, n]; simpa [Bool.or_assoc] using hc, fun q z' store => ?_⟩
    simp [n] at store
    simp [n, readB, readC, store]

/-! ### Results -/

/-- A tile with the result of a VEC in its register, where that is its destination. -/
def stored (v : Tile) (w : Nat) (res : List F32) : Tile :=
  if vVop w = 14 ∨ vD w = 34 then v else { v with regs := SMap.set v.regs (vD w % 32) res (List.replicate 64 0#32) }

/-- A result goes to the words that `vecWords` says of the state before the word, or to a register. -/
theorem vecStore_known {p : List PendWord} (sub : Submitted o s t .vector c) (hg : c.gens = (tile o t).gens) (h : OperandsRead s u t b)
    (hw : vecWords o t c.word jb = some p) :
    ∃ v, vecStore u jb t c 0 (vecResult o t c.word) [] = (some p, v) ∧ Sees u v ∧ WorkKeeps u v t ∧
      tile v t = stored (tile u t) c.word (vecResult o t c.word) := by
  have gens : ∀ n, cgen c n = gen (tile o t) n := fun n => by rw [cgen, hg]; rfl
  have staged := fun g m k l p => ((sub.sees.trans h.sees).stageRow (jb := jb) (how := plain (.tile t)) g (g.a0 o t) m k l p)
  unfold vecWords at hw
  unfold vecStore stored
  dsimp only at hw ⊢
  by_cases mxq : vVop c.word = 14
  · rw [if_pos mxq] at hw ⊢
    obtain ⟨q, elements, scales⟩ := Option.bind_eq_some_iff.1 hw
    rw [if_pos (.inl mxq), gens, gens, h.a0 sub, h.a0 sub, staged, elements]
    dsimp only
    rw [staged, scales]
    exact ⟨u, rfl, .refl u, (Touched.refl u).keeps t, rfl⟩
  rw [if_neg mxq] at hw ⊢
  by_cases mem : vD c.word = 34
  · rw [if_pos mem] at hw ⊢
    rw [if_pos (.inr mem), gens, h.a0 sub, staged, hw]
    exact ⟨u, rfl, .refl u, (Touched.refl u).keeps t, rfl⟩
  rw [if_neg mem] at hw ⊢
  have register : ¬ (vVop c.word = 14 ∨ vD c.word = 34) := by omega
  rw [if_neg register, ite_self, Nat.add_zero]
  cases hw
  exact ⟨_, rfl, ⟨rfl, rfl, rfl⟩, setTile_keeps (fun e => by cases e <;> rfl) rfl rfl rfl rfl, tile_setTile ..⟩

theorem vecWords_unpoisoned {p : List PendWord} (h : vecWords s t w jb = some p) : ∀ x ∈ p, x.poison = false := by
  unfold vecWords at h
  dsimp only at h
  split at h
  · obtain ⟨q, elements, scales⟩ := Option.bind_eq_some_iff.1 h
    exact ((stageRow_grows elements).trans (stageRow_grows scales)).fresh
  · split at h
    · exact (stageRow_grows h).fresh
    · cases h
      exact fun _ hx => nomatch hx

/-- A VEC of one repetition: its operands read, its result stored, what it put together written. -/
theorem vecWork_known {p : List PendWord} (sub : Submitted o s t .vector c) (hg : c.gens = (tile o t).gens) (hr : c.reps = 0)
    (hn : vReps c.word = 1) (once : ((vSources c.word).filter (· == 32)).length ≤ 1)
    (queue : (vSources c.word).contains 32 = true → (tile o t).vq ≠ [])
    (row : (vSources c.word).contains 34 = true → RowReadable o t jb (gen (tile o t) (vGen c.word)) 0)
    (hw : vecWords o t c.word jb = some p) (hl : Lands o p) :
    ∃ v, vecWork t c s jb = (.done, v) ∧ WorkKeeps s v t ∧ v.mem = landed o t p ∧
      tile v t = stored (popped (tile s t) ((vSources c.word).contains 32)) c.word (vecResult o t c.word) := by
  obtain ⟨u, read, rep⟩ := vecRep_known (p := []) sub hg once row
  obtain ⟨v, store, sees, keeps, here⟩ := vecStore_known sub hg read hw
  obtain ⟨z, flushed, written, mem⟩ := flush_known (how := plain (.tile t)) (n := t) ((sub.sees.trans read.sees).trans sees) hl
    (vecWords_unpoisoned hw)
  have full : ((vSources c.word).contains 32 && (tile s t).vq.isEmpty) = false := by
    have vq : (tile s t).vq = (tile o t).vq := by
      rw [sub.here]
      rfl
    rw [Bool.and_eq_false_imp, vq]
    exact fun hc => by simpa using queue hc
  have nothing : (if (vSources c.word).contains 34 then flushFor s t (plain (.tile t)) (cgen c (vGen c.word)) 0 []
      else (.val 0, [], s)) = (.val 0, [], s) := by
    split
    · rw [flushFor, if_neg (by simp [rowMeets])]
    · rfl
  have repeated := rep _ _ store
  refine ⟨z, ?_, (read.keeps.trans keeps).trans (written.keeps t), mem, by rw [written.tile, here, read.here]⟩
  rw [vecWork, hn, hr, vecReps, full, if_neg Bool.false_ne_true, nothing]
  dsimp only
  rw [repeated]
  dsimp only
  rw [vecReps, vecFlush, flushed]

end Operands

/-- Each vector operation is a VEC with its code. -/
theorem exec_vec {o : (Nat → Instr) × Nat} (h : o ∈ vectorOps ∨ o = (.vecMxq, 14)) (s : State) (t : Nat) :
    exec (o.1 t) s = ends s (vecExec o.2 s t) := by
  rcases h with h | rfl
  · simp only [vectorOps, List.mem_cons, List.not_mem_nil, or_false] at h
    rcases h with rfl | rfl | rfl | rfl | rfl | rfl | rfl | rfl | rfl | rfl | rfl | rfl | rfl | rfl <;> rfl
  · rfl

section Registers
variable {v : Tile} {w i : Nat} {res : List F32}

theorem vreg_stored_same (hv : vVop w ≠ 14) (hd : vD w < 32) : vreg (stored v w res) (vD w) = res := by
  rw [stored, if_neg (by omega)]
  exact SMap.get_set_same ..

theorem vreg_stored_other (hd : vVop w ≠ 14 → vD w ≠ 34 → vD w < 32) (hi : i < 32) (h : vD w < 32 ∧ vVop w ≠ 14 → i ≠ vD w) :
    vreg (stored v w res) i = vreg v i := by
  unfold stored
  split
  · rfl
  · exact SMap.get_set_other _ _ _ _ _ _ (by omega)

/-- A result changes nothing of a tile but its registers. -/
theorem stored_rest (v : Tile) (w : Nat) (res : List F32) : ∃ regs, stored v w res = { v with regs := regs } := by
  unfold stored
  split <;> exact ⟨_, rfl⟩

end Registers

/-- Settles O14: operands, result and destination of one repetition, by the operation. -/
theorem vectorOperationsRun : Obligations.VectorOperationsRun := by
  intro o s t w j jb p ho h hop hv hn queue row hw hl
  have sub := h.submitted
  have checked := h.atDecode.checkVec hop
  obtain ⟨v, work, keeps, mem, here⟩ := vecWork_known sub rfl rfl hn (pops_once checked) queue row hw hl
  obtain ⟨r, next, worked, rmem, final⟩ := h.worked (by omega) work keeps
  have issued := h.toEngine (mine := fun w => wOpcode w == 0x07 && vVop w == o.2) (reads := fun s w => vecReads s t w)
    (writes := fun s w => vecWrites s t w) (by simp [hop, hv])
  have start : tile (submit s t .vector w (vecReads s t w) (vecWrites s t w)) t = _ := sub.here
  rw [here] at final
  obtain ⟨regs, rest⟩ := stored_rest (popped (tile (submit s t .vector w (vecReads s t w) (vecWrites s t w)) t) ((vSources w).contains 32))
    w (vecResult s t w)
  refine ⟨r, by rw [exec_vec ho, vecExec, issued, next], worked, rmem.trans mem, fun hd hv => ?_, fun i hi hne => ?_, ?_, ?_, ?_, ?_, ?_⟩
  · rw [final]
    exact vreg_stored_same hv hd
  · rw [final]
    refine (vreg_stored_other (vD_lt checked) hi hne).trans ?_
    rw [start]
    rfl
  all_goals
    rw [final]
    dsimp only [newEntry]
    rw [rest, start]
    rfl

end Sys2Proof.Machine

namespace Sys2Proof.Machine

/-! ## Fetches, and commands that leave their queue (R53, R80, R84, R178, R235, R274) -/

section Fetch
variable {s u : State} {t j : Nat} {jb : Job} {d : List Byte}

/-- A read for no regulator of a known word changes nothing. -/
theorem readWord_unsourced {how : How} {a : Nat} (hr : regSource how.rq = none) (h : peekWord s a = some d) :
    readWord s how a [] = (.data d, s) := by
  rw [readWord_data h, touchRead, touch, hr]

/-- The tile with the next 64 bytes of its program behind its buffer. -/
def refilled (v : Tile) (d : List Byte) : Tile :=
  { v with fetched := v.fetched + min 4 (v.words - v.fetched)
           buf := v.buf ++ (List.range (min 4 (v.words - v.fetched))).map (fun i => some (leNat ((d.drop (16 * i)).take 16))) }

theorem fetchGo_refills (hm : s.main = .ready) (hp : s.power = .run) (hr : (tile s t).running = true) (hj : jobOf s t = some (j, jb))
    (hn : (tile s t).words ≠ 0) (hf : (tile s t).fetched < (tile s t).words) (hb : (tile s t).buf.length ≤ 252)
    (hd : peekWord s ((tile s t).progAddr + 16 * (tile s t).fetched) = some d) :
    fetchGo s t = setTile s t (refilled (tile s t) d) := by
  have read := readWord_unsourced (how := plain (.fetch t)) rfl hd
  unfold fetchGo
  rw [if_pos (by simp [hm, hp, hr]), hj]
  dsimp only
  rw [if_neg hn]
  unfold fetchMore
  dsimp only
  rw [if_pos (by simp [hr, hf, hb]), read]
  rfl

/-- What touches nothing and meets no line out of reach is done whole. -/
theorem whole_free (e : Nat) {f : State → State} (ht : (f s).touched = []) (hs : (f s).stalled = none) : whole s e f = f s := by
  have near : (f s).stalled.isSome = false := by rw [hs]; rfl
  have parts : requestParts (f s) e = { m := 0xFFFF, eng := 0, parts := [] } := by
    rw [requestParts, touchParts, ht]
    rfl
  unfold whole admitWork
  dsimp only
  rw [near, if_neg Bool.false_ne_true, if_neg Bool.false_ne_true, parts]
  dsimp only [List.isEmpty_nil]
  rw [if_pos rfl]
  dsimp only
  rw [← ht]

end Fetch

/-! ### An entry that leaves its queue -/

section Drop
variable {s : State} {t pos : Nat} {e : Engine} {c : QCmd}

theorem noteArmed_rest (s : State) (t : Nat) : ∃ quiet, noteArmed s t = { s with quiet := quiet } := by
  unfold noteArmed
  split <;> exact ⟨_, rfl⟩

theorem pump_nil (k : Nat) (s : State) : pump k s [] = s := by cases k <;> rfl

theorem moveTile_free (h : (tile s t).block = none) : moveTile s t = (false, [], s) := by
  unfold moveTile
  dsimp only
  rw [h]

/-- A tile that nothing blocks does not move on when it is woken. -/
theorem wake_free (h : (tile s t).block = none) : ∃ quiet, wake s t = { s with quiet := quiet } := by
  obtain ⟨quiet, armed⟩ := noteArmed_rest s t
  have pumped : pump (pumpFuel s) s [t] = { s with quiet := quiet } := by
    obtain ⟨k, hk⟩ : ∃ k, pumpFuel s = k + 1 := Nat.exists_eq_succ_of_ne_zero (by unfold pumpFuel; omega)
    rw [hk, pump, moveTile_free h]
    exact (pump_nil ..).trans armed
  obtain ⟨quiet', again⟩ := noteArmed_rest { s with quiet := quiet } t
  exact ⟨quiet', by rw [wake, pumped, again]⟩

theorem sigRun_free {k : Nat} (h : ∀ c ∈ qOf (tile s t) e, isSig c = false) : sigRun k s t e = s := by
  cases k with
  | zero => rfl
  | succ k =>
    unfold sigRun
    split
    · rename_i c r hq
      rw [h c (by rw [hq]; exact List.mem_cons_self)]
      rfl
    · rfl

/-- `u` is `s` with the entry at a place of an engine's queue gone. -/
structure Dropped (s u : State) (t : Nat) (e : Engine) (pos : Nat) : Prop where
  here : tile u t = withQ (tile s t) e ((qOf (tile s t) e).eraseIdx pos)
  mem : u.mem = s.mem
  jobs : u.jobs = s.jobs
  touched : u.touched = s.touched
  stalled : u.stalled = s.stalled

/-- A tile that no wait blocks, whose engines are at nothing and whose queues hold no signal: an entry leaves, and no more. -/
theorem dropEntry_rests (pos : Nat) (hb : (tile s t).block = none) (hc : ∀ x, currentOf (tile s t) x = none)
    (hs : ∀ x, ∀ c ∈ qOf (tile s t) x, isSig c = false) : Dropped s (dropEntry s t e pos) t e pos := by
  obtain ⟨u, hu⟩ : ∃ u, u = setTile s t (withQ (tile s t) e ((qOf (tile s t) e).eraseIdx pos)) := ⟨_, rfl⟩
  have here : tile u t = withQ (tile s t) e ((qOf (tile s t) e).eraseIdx pos) := by rw [hu, tile_setTile]
  have kept : ∀ x, ∀ c ∈ qOf (tile u t) x, c ∈ qOf (tile s t) x := fun x c hx => by
    by_cases h : x = e
    · subst h
      rw [here, qOf_withQ] at hx
      exact (List.eraseIdx_sublist ..).subset hx
    · rwa [here, qOf_withQ_other _ _ h] at hx
  have free : (tile u t).block = none := by
    rw [here, ← hb]
    cases e <;> rfl
  have idle : enginesGo u t = u := enginesGo_idle u t fun x =>
    currentOf_eq_none.2 fun c hx => currentOf_eq_none.1 (hc x) c (kept x c hx)
  have silent : sigRun 9 u t e = u := sigRun_free fun c hx => hs e c (kept e c hx)
  obtain ⟨quiet, woken⟩ := wake_free free
  have dropped : dropEntry s t e pos = { u with quiet := quiet } := by
    unfold dropEntry
    dsimp only
    rw [← hu, silent, idle, woken]
  rw [dropped]
  refine ⟨here, ?_, ?_, ?_, ?_⟩ <;> rw [hu] <;> rfl

end Drop

/-! ### Errors -/

section Errors
variable {s : State} {cause i k : Nat}

/-- Of the entries, a discard that begins writes only its count and what its event counts. -/
theorem rd_classB (hk : entKey i k ∉ entKey 0x3030 5 :: logKeys) : rd (classB s cause) i k = rd s i k := by
  unfold classB
  split
  · obtain ⟨_, _, _, _, _, _, h⟩ := discardBegun_rest s cause
    rw [(startDiscard_noted s cause).rd hk, h]
    rfl
  · rfl

theorem classB_tiles (s : State) (cause : Nat) : (classB s cause).tiles = s.tiles := by
  unfold classB
  split
  · obtain ⟨_, _, _, _, _, _, h⟩ := discardBegun_rest s cause
    rw [(startDiscard_noted s cause).tiles, h]
  · rfl

/-- The state in which a lost word has been counted and logged. -/
def lossNoted (s : State) (t n a : Nat) : State :=
  let u := bump (if n = 0 then s else bumpBy s 0x7800 3 n) 0x6050 1
  logEvent (bump u 0x7800 6) 0x7801 (leBytes 8 a ++ leBytes 2 (masterOf u (.tile t)))

theorem lossNoted_noted (s : State) (t n a : Nat) :
    Noted ([entKey 0x7800 3, entKey 0x6050 1, entKey 0x7800 6] ++ logKeys) s (lossNoted s t n a) := by
  have fixed : Noted ([entKey 0x7800 3, entKey 0x6050 1, entKey 0x7800 6] ++ logKeys) s
      (if n = 0 then s else bumpBy s 0x7800 3 n) := by
    split
    · exact .refl _ s
    · exact setEnt_noted _ s 0x7800 3 _ (by decide)
  unfold lossNoted
  dsimp only
  refine ((fixed.bump ?_).bump ?_).log ?_ <;> decide

theorem rd_lossNoted (s : State) (t n a : Nat) : rd (lossNoted s t n a) 0x6050 1 = rd (bump s 0x6050 1) 0x6050 1 := by
  have before : rd (if n = 0 then s else bumpBy s 0x7800 3 n) 0x6050 1 = rd s 0x6050 1 := by
    split
    · rfl
    · exact (setEnt_noted [entKey 0x7800 3] s 0x7800 3 _ (by decide)).rd (by decide)
  have after : Noted (entKey 0x7800 6 :: logKeys) (bump (if n = 0 then s else bumpBy s 0x7800 3 n) 0x6050 1) (lossNoted s t n a) := by
    unfold lossNoted
    dsimp only
    refine ((Noted.refl _ _).bump ?_).log ?_ <;> decide
  rw [after.rd (by decide)]
  exact rd_bump_congr (by decide) before

end Errors

/-- Settles O21: a fetch of a known word; an entry that leaves a tile at rest; the errors that begin a discard. -/
theorem fetchesAndCompletions : Obligations.FetchesAndCompletions := by
  refine ⟨fun s t j jb d hi hm hp hr hj hn hf hb hd => ?_, fun s t hi hm hb hc hs => ⟨fun e pos c hq hd hpass => ?_,
    fun e pos hp hq => ⟨?_, fun internal n a => ?_⟩, fun pos c hf hq hd => ?_⟩⟩
  · have fetched := fetchGo_refills hm hp hr hj hn hf hb hd
    have charged : (fetchGo s t).touched = [] ∧ (fetchGo s t).stalled = none := by
      rw [fetched]
      exact ⟨hi.charged, hi.inReach⟩
    change ends s (whole s 0 fun s => fetchGo s t) = _
    rw [whole_free 0 (f := fun s => fetchGo s t) charged.1 charged.2, ends_noted s _ charged.1 charged.2, fetched]
    rfl
  · have dropped := dropEntry_rests (e := e) pos hb hc hs
    have runs : exec (.engineCommandComplete t e ⟨pos, false, ⟨0, none⟩⟩) s = ends s (dropEntry s t e pos) := by
      change ends s (if ((qOf (tile s t) e)[pos]?).isNone then s else completeEntry s t e pos) = _
      rw [hq, if_neg (by simp), completeEntry, hq]
      dsimp only
      rw [if_pos (by simp [hd, hpass, hm])]
    rw [ends_noted s _ (dropped.touched.trans hi.charged) (dropped.stalled.trans hi.inReach)] at runs
    refine ⟨_, runs, ?_, fun x hx => ?_, (noteState_mem ..).trans dropped.mem, (noteState_jobs ..).trans dropped.jobs⟩
    · rw [tile_noteState, dropped.here, qOf_withQ]
    · rw [tile_noteState, dropped.here, qOf_withQ_other _ _ hx]
  · have begins := classB_begins (cause := 0x42) hm hp
    have runs : exec (.engineCommandComplete t e ⟨pos, true, ⟨0, none⟩⟩) s = ends s (classB s 0x42) :=
      congrArg (ends s) (if_neg (by simpa using hq))
    rw [ends_noted s _ (begins.touched.trans hi.charged) (begins.stalled.trans hi.inReach)] at runs
    have final := begins.noted (noteState_noted s _)
    exact ⟨_, runs, final.main, final.cause, (noteState_mem ..).trans (classB_mem ..)⟩
  · have loss := lossNoted_noted s t n a
    have begins := classB_begins (s := lossNoted s t n a) (cause := 0x40) (loss.main.trans hm) (by rw [loss.power]; exact hp)
    have runs : exec (.engineCommandComplete t e ⟨pos, internal, ⟨n, some a⟩⟩) s = ends s (classB (lossNoted s t n a) 0x40) :=
      congrArg (ends s) (if_neg (by simpa using hq))
    rw [ends_noted s _ (begins.touched.trans (loss.touched.trans hi.charged)) (begins.stalled.trans (loss.stalled.trans hi.inReach))]
      at runs
    have note := noteState_noted s (classB (lossNoted s t n a) 0x40)
    have final := begins.noted note
    refine ⟨_, runs, final.main, final.cause, ?_, ?_, ?_⟩
    · rw [note.rd List.not_mem_nil, rd_classB (by decide), rd_lossNoted]
    · exact note.tiles.trans ((classB_tiles ..).trans loss.tiles)
    · exact note.mem.trans ((classB_mem ..).trans loss.mem)
  · obtain ⟨more, hmore⟩ : ∃ more, more = decide (((tile s t).qArray.filter isPass).length > 1) := ⟨_, rfl⟩
    obtain ⟨u, hu⟩ : ∃ u, u = setTile s t { tile s t with rampActive := more } := ⟨_, rfl⟩
    have here : tile u t = { tile s t with rampActive := more } := by rw [hu, tile_setTile]
    have queues : ∀ x, qOf (tile u t) x = qOf (tile s t) x := fun x => by rw [here]; cases x <;> rfl
    have dropped := dropEntry_rests (e := .array) (s := u) (t := t) pos (by rw [here]; exact hb)
      (fun x => by rw [currentOf, queues]; exact hc x) (fun x c => by rw [queues]; exact hs x c)
    have runs : exec (.arrayPassDrain t) s = ends s (dropEntry u t .array pos) := by
      change ends s (drainPass s t) = _
      unfold drainPass
      dsimp only
      rw [hf]
      dsimp only
      rw [if_pos (by simp [hm, List.getD_eq_getElem?_getD, hq, hd]), ← hmore, ← hu]
    have same : u.mem = s.mem ∧ u.jobs = s.jobs ∧ u.touched = s.touched ∧ u.stalled = s.stalled := by
      rw [hu]
      exact ⟨rfl, rfl, rfl, rfl⟩
    obtain ⟨mem, jobs, touched, stalled⟩ := same
    rw [ends_noted s _ (dropped.touched.trans (touched.trans hi.charged)) (dropped.stalled.trans (stalled.trans hi.inReach))] at runs
    refine ⟨_, runs, ?_, ?_, (noteState_mem ..).trans (dropped.mem.trans mem), (noteState_jobs ..).trans (dropped.jobs.trans jobs)⟩
    · rw [tile_noteState, dropped.here, here]
      rfl
    · rw [tile_noteState, dropped.here, here]
      change more = true ↔ _
      rw [hmore, decide_eq_true_eq]

end Sys2Proof.Machine

namespace Sys2Proof.Machine

/-! ## Jobs and their completion entries (R51, R87, R265, R266, R269 to R273) -/

/-! ### Tiles taken and given back -/

section Tiles
variable {s u : State} {j n : Nat} {jb : Job}

/-- Steps that each change their own tile, to what a second such step leaves. -/
theorem tile_foldl_own {f : Tile → Tile} {step : State → Nat → State} (own : ∀ u x, tile (step u x) x = f (tile u x))
    (other : ∀ u x y, y ≠ x → tile (step u x) y = tile u y) (again : ∀ v, f (f v) = f v) (l : List Nat) (s : State) (n : Nat) :
    tile (l.foldl step s) n = if n ∈ l then f (tile s n) else tile s n := by
  induction l generalizing s with
  | nil => rfl
  | cons x l ih =>
    rw [List.foldl_cons, ih]
    by_cases hx : n = x
    · subst hx
      rw [own, again, ite_self, if_pos List.mem_cons_self]
    · rw [other _ _ _ hx]
      simp [hx]

/-- A tile given back: nothing of its program is left but the length of its ramp. -/
def freedTile (v : Tile) : Tile := { Tile.reset with rampLen := v.rampLen }

/-- A tile at its job's start. -/
def startedTile (j : Nat) (v : Tile) : Tile := { Tile.reset with job := some j, running := true, rampLen := v.rampLen }

theorem tile_freeTiles_eq (s : State) (jb : Job) (n : Nat) :
    tile (freeTiles s jb) n = if n ∈ jobTiles jb then freedTile (tile s n) else tile s n :=
  tile_foldl_own (f := freedTile) (step := fun s t => setTile s t (freedTile (tile s t))) (fun _ _ => tile_setTile ..)
    (fun _ _ _ h => tile_setTile_other _ _ _ _ h) (fun _ => rfl) (jobTiles jb) s n

theorem tile_endJob (h : SMap.find? s.jobs j = some jb) (n : Nat) :
    tile (endJob s j) n = if n ∈ jobTiles jb then freedTile (tile s n) else tile s n := by
  have left : tile (abandonJob s j) n = tile s n := by
    obtain ⟨_, _, _, _, _, _, hs⟩ := stopJob_rest s j
    rw [abandonJob, hs]
    rfl
  unfold endJob
  rw [h, ← left]
  exact tile_freeTiles_eq ..

/-- One tile taken at a job's start. -/
def startTile (j : Nat) (s : State) (t : Nat) : State := unquiet (setTile s t (startedTile j (tile s t))) t

theorem startTile_rest (j : Nat) (s : State) (t : Nat) :
    ∃ tiles quiet reclaims ent, startTile j s t = { s with tiles := tiles, quiet := quiet, reclaims := reclaims, ent := ent } := by
  obtain ⟨_, _, _, h⟩ := unquiet_rest (setTile s t (startedTile j (tile s t))) t
  exact ⟨_, _, _, _, h⟩

theorem tile_startTile (j : Nat) (s : State) (t n : Nat) :
    tile (startTile j s t) n = tile (setTile s t (startedTile j (tile s t))) n := by
  obtain ⟨_, _, _, h⟩ := unquiet_rest (setTile s t (startedTile j (tile s t))) t
  rw [startTile, h]
  rfl

theorem foldl_startTile_rest (j : Nat) (l : List Nat) (s : State) :
    ∃ tiles quiet reclaims ent, l.foldl (startTile j) s = { s with tiles := tiles, quiet := quiet, reclaims := reclaims, ent := ent } := by
  refine foldl_keeps (fun u => ∃ tiles quiet reclaims ent, u = { s with tiles := tiles, quiet := quiet, reclaims := reclaims, ent := ent })
    _ (fun u t hu => ?_) l s ⟨_, _, _, _, rfl⟩
  obtain ⟨_, _, _, _, hu⟩ := hu
  obtain ⟨_, _, _, _, h⟩ := startTile_rest j u t
  exact ⟨_, _, _, _, by rw [h, hu]⟩

theorem tile_foldl_startTile (j : Nat) (l : List Nat) (s : State) (n : Nat) :
    tile (l.foldl (startTile j) s) n = if n ∈ l then startedTile j (tile s n) else tile s n :=
  tile_foldl_own (f := startedTile j) (fun u x => by rw [tile_startTile, tile_setTile])
    (fun u x y h => by rw [tile_startTile, tile_setTile_other _ _ _ _ h]) (fun _ => rfl) l s n

end Tiles

/-! ### A queue and its vector -/

/-- What writing an entry leaves of the rest, once it is sent: the queue's counts, memory, jobs and entries. -/
structure QueueGoes (s u : State) (n : Nat) : Prop where
  comps : u.comps = s.comps
  mem : u.mem = s.mem
  jobs : u.jobs = s.jobs
  touched : u.touched = s.touched
  stalled : u.stalled = s.stalled
  sent : s.out <:+ u.out
  cqTail : (queue u n).cqTail = (queue s n).cqTail
  sqHead : (queue u n).sqHead = (queue s n).sqHead

section Queue
variable {s u v : State} {n : Nat} {ks : List Nat}

theorem Noted.queue (h : Noted ks s u) (n : Nat) : queue u n = queue s n := by
  rw [Machine.queue, Machine.queue, h.queues]

theorem Noted.robin (h : Noted ks s u) : u.robin = s.robin := by
  obtain ⟨⟨_, _, _, _, _, _, _, _, _, _, rfl⟩, -, -⟩ := h
  rfl

theorem Noted.indet (h : Noted ks s u) : u.indet = s.indet := by
  obtain ⟨⟨_, _, _, _, _, _, _, _, _, _, rfl⟩, -, -⟩ := h
  rfl

theorem QueueGoes.trans (h : QueueGoes s u n) (g : QueueGoes u v n) : QueueGoes s v n :=
  ⟨g.comps.trans h.comps, g.mem.trans h.mem, g.jobs.trans h.jobs, g.touched.trans h.touched, g.stalled.trans h.stalled,
    h.sent.trans g.sent, g.cqTail.trans h.cqTail, g.sqHead.trans h.sqHead⟩

theorem Noted.queueGoes (h : Noted ks s u) (n : Nat) : QueueGoes s u n :=
  ⟨h.comps, h.mem, h.jobs, h.touched, h.stalled, h.sent, by rw [h.queue], by rw [h.queue]⟩

/-- A queue set without a change of its counts. -/
theorem setQueue_goes {q : Queue} (ht : q.cqTail = (queue s n).cqTail) (hh : q.sqHead = (queue s n).sqHead) :
    QueueGoes s (setQueue s n q) n :=
  ⟨rfl, rfl, rfl, rfl, rfl, List.suffix_rfl, by rw [queue_setQueue, ht], by rw [queue_setQueue, hh]⟩

theorem queueVector_goes (s : State) (n : Nat) : QueueGoes s (queueVector s n) n := by
  unfold queueVector
  dsimp only
  split
  · exact (Noted.refl [] s).queueGoes n
  · split
    · exact setQueue_goes rfl rfl
    · have set : QueueGoes s (setQueue s n { queue s n with holdoff := if rd s 0x3010 1 = 0 then none else some s.time }) n :=
        setQueue_goes rfl rfl
      exact set.trans ((sendVector_noted [] _ _).queueGoes n)

theorem settleQueue_goes (s : State) (n : Nat) : QueueGoes s (settleQueue s n) n := by
  unfold settleQueue
  dsimp only
  split
  · exact setQueue_goes rfl rfl
  · exact (Noted.refl [] s).queueGoes n

theorem linkSends_of_hostReaches (h : hostReaches s = true) : linkSends s = true := by
  unfold hostReaches at h
  unfold linkSends
  simp only [Bool.and_eq_true] at h ⊢
  tauto

theorem mem_hostSend {m : Out} (h : linkSends s = true) : m ∈ (hostSend s m).out := by
  rw [hostSend, if_pos h]
  exact List.mem_cons_self

/-- An unmasked vector leaves where the host link carries requests. -/
theorem mem_sendVector {x : Nat} (h : linkSends s = true) (hx : bit1 (msixEntry s x) 96 = false) : Out.msix x ∈ (sendVector s x).out := by
  rw [sendVector, hx, if_neg Bool.false_ne_true]
  exact mem_hostSend h

end Queue

/-! ### The commands -/

section Commands
variable {s : State}

theorem jobAdmit_runs (hi : s.Inv) {o : Nat × Nat × Job × Nat} (hr : jobsRun s = true) (ho : toAdmit s = some o) :
    ∃ t, exec .jobAdmit s = .next t ∧ SMap.find? t.jobs o.2.1 = some { o.2.2.1 with running := true } ∧
      (∀ n, tile t n = if n ∈ jobTiles o.2.2.1 then startedTile o.2.1 (tile s n) else tile s n) ∧
      (queue t o.1).offered = (queue s o.1).offered.drop 1 ∧ t.robin = (o.1 + 1) % 64 ∧ t.mem = s.mem := by
  obtain ⟨u, hu⟩ : ∃ u, u = setQueue { s with jobs := SMap.put s.jobs o.2.1 { o.2.2.1 with running := true }, robin := (o.1 + 1) % 64 } o.1
      { queue s o.1 with offered := (queue s o.1).offered.drop 1 } := ⟨_, rfl⟩
  obtain ⟨v, hv⟩ : ∃ v, v = (jobTiles o.2.2.1).foldl (startTile o.2.1) u := ⟨_, rfl⟩
  have admitted : admitJob s o = v := by rw [hv, hu]; rfl
  have runs : exec .jobAdmit s = ends s v := by
    rw [← admitted]
    change ends s (if jobsRun s then match toAdmit s with
      | some o => admitJob s o
      | none => s else s) = _
    rw [if_pos hr, ho]
  obtain ⟨tiles, quiet, reclaims, ent, rest⟩ := foldl_startTile_rest o.2.1 (jobTiles o.2.2.1) u
  rw [← hv] at rest
  have charged : v.touched = [] ∧ v.stalled = none := by
    rw [rest, hu]
    exact ⟨hi.charged, hi.inReach⟩
  rw [ends_noted s v charged.1 charged.2] at runs
  have note := noteState_noted s v
  refine ⟨_, runs, ?_, fun n => ?_, ?_, ?_, ?_⟩
  · rw [note.jobs, rest, hu]
    exact SMap.find?_put_same ..
  · rw [tile_noteState, hv, tile_foldl_startTile, hu]
    rfl
  · rw [note.queue, rest, hu]
    exact congrArg Queue.offered (queue_setQueue ..)
  · rw [note.robin, rest, hu]
    rfl
  · rw [note.mem, rest, hu]
    rfl

/-- The entry of a job that completes. -/
def completeComp (jb : Job) : Comp :=
  { q := jb.q, slot := jb.slot, jobId := jId jb.desc, status := 0, cause := 0, ltile := 0xFFFF, word := 0 }

theorem jobComplete_runs (hi : s.Inv) {j : Nat} {jb : Job} (hm : s.main = .ready) (hj : SMap.find? s.jobs j = some jb)
    (hd : jobDone s j jb = true) :
    ∃ t, exec (.jobComplete j) s = .next t ∧ SMap.find? t.jobs j = none ∧
      (∀ n, tile t n = if n ∈ jobTiles jb then freedTile (tile s n) else tile s n) ∧
      t.comps = s.comps ++ [completeComp jb] ∧ t.mem = s.mem ∧ t.indet = s.indet := by
  have runs : exec (.jobComplete j) s = ends s (postComp (endJob s j) (completeComp jb)) := by
    change ends s (match SMap.find? s.jobs j with
      | some jb => if s.main = .ready && jobDone s j jb then postComp (endJob s j) (completeComp jb) else s
      | none => s) = _
    rw [hj]
    dsimp only
    rw [if_pos (by simp [hm, hd])]
  obtain ⟨_, _, _, _, _, _, _, _, rest⟩ := endJob_rest hj
  have charged : (postComp (endJob s j) (completeComp jb)).touched = [] ∧ (postComp (endJob s j) (completeComp jb)).stalled = none := by
    rw [rest]
    exact ⟨hi.charged, hi.inReach⟩
  rw [ends_noted s _ charged.1 charged.2] at runs
  have note := noteState_noted s (postComp (endJob s j) (completeComp jb))
  refine ⟨_, runs, ?_, fun n => (tile_noteState ..).trans (tile_endJob hj n), ?_, ?_, ?_⟩
  · rw [note.jobs, rest]
    exact SMap.find?_erase_same ..
  · rw [note.comps, rest]
    rfl
  · rw [note.mem, rest]
    rfl
  · rw [note.indet, rest]
    rfl

/-- A queue whose entry `c` is written, before its tail moves. -/
def writing (s : State) (n : Nat) (c : Comp) : Queue :=
  passDone 257 { queue s n with doneSlots := (queue s n).doneSlots ++ [c.slot] }

/-- The entry of `c` as it goes to the host. -/
def entryWrite (s : State) (n : Nat) (c : Comp) : Out :=
  .hostWrite ((writing s n c).cqBase + 16 * ((writing s n c).cqTail % 256)) false none (leBytes 16 (sealWord (compWord s (writing s n c) c)))

/-- Which of the counts of completions an entry raises (0x3030). -/
def compCount (c : Comp) : Nat :=
  match c.status with
  | 0 => 1
  | 1 => 2
  | 2 => 3
  | _ => 4

/-- The state in which an entry has been handed to the host link. -/
def entrySent (s : State) (n : Nat) (c : Comp) : State :=
  hostSend (bump (setQueue s n { writing s n c with cqTail := ((writing s n c).cqTail + 1) % 512 }) 0x3030 (compCount c)) (entryWrite s n c)

theorem writeComp_goes (s : State) (n : Nat) (c : Comp) : QueueGoes (entrySent s n c) (writeComp s n c) n :=
  (queueVector_goes (entrySent s n c) n).trans (settleQueue_goes ..)

theorem entrySent_noted (s : State) (n : Nat) (c : Comp) :
    Noted [entKey 0x3030 (compCount c)] (setQueue s n { writing s n c with cqTail := ((writing s n c).cqTail + 1) % 512 }) (entrySent s n c) :=
  ((Noted.refl _ _).bump List.mem_cons_self).trans (hostSend_noted ..)

theorem completionEntryWrite_runs (hi : s.Inv) {q : Nat} {c : Comp} {rest : List Comp} (hw : mayWriteComp s q = true)
    (hc : takeFirst (fun (c : Comp) => c.q == q) s.comps = (some c, rest)) :
    ∃ t, exec (.completionEntryWrite q) s = .next t ∧ t.comps = rest ∧ (queue t q).cqTail = ((writing s q c).cqTail + 1) % 512 ∧
      (queue t q).sqHead = (writing s q c).sqHead ∧ t.mem = s.mem ∧ t.jobs = s.jobs ∧ (hostReaches s = true → entryWrite s q c ∈ t.out) := by
  obtain ⟨u, hu⟩ : ∃ u, u = { s with comps := rest } := ⟨_, rfl⟩
  have runs : exec (.completionEntryWrite q) s = ends s (writeComp u q c) := by
    change ends s (if mayWriteComp s q then match takeFirst (fun (c : Comp) => c.q == q) s.comps with
      | (some c, rest) => writeComp { s with comps := rest } q c
      | (none, _) => s else s) = _
    rw [if_pos hw, hc, hu]
  have same : writing u q c = writing s q c ∧ entryWrite u q c = entryWrite s q c := by
    rw [hu]
    exact ⟨rfl, rfl⟩
  obtain ⟨sameQueue, sameWrite⟩ := same
  have sent := entrySent_noted u q c
  have goes := writeComp_goes u q c
  have charged : (writeComp u q c).touched = [] ∧ (writeComp u q c).stalled = none := by
    rw [goes.touched, goes.stalled, sent.touched, sent.stalled, hu]
    exact ⟨hi.charged, hi.inReach⟩
  rw [ends_noted s _ charged.1 charged.2] at runs
  have note := noteState_noted s (writeComp u q c)
  have all := goes.trans (note.queueGoes q)
  refine ⟨_, runs, ?_, ?_, ?_, ?_, ?_, fun hh => ?_⟩
  · rw [all.comps, sent.comps, hu]
    rfl
  · rw [all.cqTail, sent.queue, queue_setQueue, sameQueue]
  · rw [all.sqHead, sent.queue, queue_setQueue, sameQueue]
  · rw [all.mem, sent.mem, hu]
    rfl
  · rw [all.jobs, sent.jobs, hu]
    rfl
  · refine all.sent.subset (sameWrite ▸ mem_hostSend ?_)
    rw [hu]
    exact linkSends_of_hostReaches hh

/-- A queue whose holdoff ends at a time: it holds off again where a vector was due. -/
def heldQueue (s : State) (q time : Nat) : Queue :=
  if (queue s q).vectorDue then { queue s q with vectorDue := false, holdoff := some time } else { queue s q with holdoff := none }

/-- The state in which the holdoff that began at `at'` has ended. -/
def holdoffEnded (s : State) (q at' : Nat) : State :=
  let u := advance s (at' + rd s 0x3010 1 * 1000)
  if (queue s q).vectorDue then
    sendVector (setQueue u q { queue s q with vectorDue := false, holdoff := some u.time }) (bits (queue s q).ctrl 54 48)
  else setQueue u q { queue s q with holdoff := none }

theorem holdoffEnded_noted (s : State) (q at' : Nat) : Noted [] (setQueue (advance s (at' + rd s 0x3010 1 * 1000)) q
    (heldQueue s q (max s.time (at' + rd s 0x3010 1 * 1000)))) (holdoffEnded s q at') := by
  unfold holdoffEnded heldQueue
  split
  · exact sendVector_noted ..
  · exact .refl ..

theorem msixHoldoffEnd_runs (hi : s.Inv) {q at' : Nat} (hq : (queue s q).holdoff = some at') :
    ∃ t, exec (.msixHoldoffEnd q) s = .next t ∧ t.time = max s.time (at' + rd s 0x3010 1 * 1000) ∧ (queue t q).vectorDue = false ∧
      (queue t q).holdoff = (if (queue s q).vectorDue then some t.time else none) ∧
      ((queue s q).vectorDue = true → hostReaches s = true → bit1 (msixEntry s (bits (queue s q).ctrl 54 48)) 96 = false →
        Out.msix (bits (queue s q).ctrl 54 48) ∈ t.out) := by
  obtain ⟨u, hu⟩ : ∃ u, u = holdoffEnded s q at' := ⟨_, rfl⟩
  have runs : exec (.msixHoldoffEnd q) s = ends s u := by
    change ends s (match (queue s q).holdoff with
      | none => s
      | some t => holdoffEnded s q t) = _
    rw [hq, hu]
  have ended := holdoffEnded_noted s q at'
  rw [← hu] at ended
  rw [ends_noted s u (ended.touched.trans hi.charged) (ended.stalled.trans hi.inReach)] at runs
  have note := noteState_noted s u
  have time : (noteState s u).time = max s.time (at' + rd s 0x3010 1 * 1000) := note.time.trans ended.time
  have final : queue (noteState s u) q = heldQueue s q (max s.time (at' + rd s 0x3010 1 * 1000)) := by
    rw [note.queue, ended.queue, queue_setQueue]
  refine ⟨_, runs, time, ?_, ?_, fun hd hh hv => note.sent.subset ?_⟩
  · rw [final, heldQueue]
    split
    · rfl
    · exact Bool.eq_false_iff.2 ‹_›
  · rw [final, time, heldQueue]
    split <;> rfl
  · rw [hu, holdoffEnded, if_pos hd]
    exact mem_sendVector (s := setQueue ..) (linkSends_of_hostReaches hh) hv

end Commands

/-- Settles O38: admission, completion, the entry written, and the end of a holdoff, each from its command. -/
theorem jobsRunAndComplete : Obligations.JobsRunAndComplete := by
  intro s hi
  refine ⟨fun o hr ho => ?_, fun j jb hm hj hd => ?_, fun q c rest hw hc => completionEntryWrite_runs hi hw hc,
    fun q at' hq => msixHoldoffEnd_runs hi hq⟩
  · obtain ⟨t, next, job, tiles, offered, robin, mem⟩ := jobAdmit_runs hi hr ho
    exact ⟨t, next, job, fun x hx => (tiles x).trans (if_pos hx), fun x hx => (tiles x).trans (if_neg hx), offered, robin, mem⟩
  · obtain ⟨t, next, gone, tiles, comps, mem, indet⟩ := jobComplete_runs hi hm hj hd
    exact ⟨t, next, gone, fun x hx => (tiles x).trans (if_pos hx), fun x hx => (tiles x).trans (if_neg hx), comps, mem, indet⟩

end Sys2Proof.Machine

namespace Sys2Proof.Machine

/-! ## Passes (R44 to R47, R60, R66 to R68, R95 to R102, Table 2.3) -/

/-! ### What decode and execution have checked -/

section Checked
variable {s u : State} {t w : Nat} {c c' : QCmd}

theorem AtDecode.checkPass (h : AtDecode s t w) (hop : 2 ≤ wOpcode w ∧ wOpcode w ≤ 5) : checkPass s t w = none := by
  have checked := h.checked
  unfold checkWord at checked
  split at checked
  · cases checked
  · split at checked
    · cases checked
    · obtain hop | hop | hop | hop : wOpcode w = 2 ∨ wOpcode w = 3 ∨ wOpcode w = 4 ∨ wOpcode w = 5 := by omega
      all_goals
        rw [hop] at checked
        exact checked

/-- A checked pass converts where it has a destination. -/
theorem pCvt_eq (h : checkPass s t w = none) : pCvt w = (pDest w != 0) := by
  have second := firstCause_eq_none h _ (List.mem_cons_of_mem _ List.mem_cons_self)
  simp only [Bool.or_eq_false_iff] at second
  simpa using second.1.1.1.1.1.1.1.2

/-- The causes of a pass lie in its word, its generators and its tile's banks, slots and selection. -/
theorem passCause_congr (hw : c'.word = c.word) (hg : c'.gens = c.gens) (hb : (tile u t).banks = (tile s t).banks)
    (hs : (tile u t).slots = (tile s t).slots) (hx : (tile u t).sel = (tile s t).sel) : passCause u t c' = passCause s t c := by
  unfold passCause slot cgen
  simp only [hw, hg, hb, hs, hx]

end Checked

/-! ### The pass as the state before its word says it -/

section Described

/-- The slots a pass starts with: seeded, or as they stand. -/
def passStart (s : State) (t w : Nat) : SMap Slot :=
  if pSeed w then seeded w (peekRow s t (gen (tile s t) (bits w 69 67))) (gen (tile s t) (wSgen w)).beats (tile s t).slots
  else (tile s t).slots

/-- The scales of a streamed row. -/
def passScales (s : State) (t w m : Nat) : List Nat :=
  if pMx w then (peekRow s t (gen (tile s t) (bits w 69 67)) m).map (·.getD 0) else []

/-- The slots and the converted rows after `m` streamed rows. -/
def runAt (s : State) (t w m : Nat) : SMap Slot × List (List Nat) :=
  passRun w (pActive w (gen (tile s t) (wSgen w)).rows) (decide ((gen (tile s t) (wSgen w)).beats ≤ 256))
    ((tile s t).banks.getD (bits w 119 119) Bank.empty) (peekRow s t (gen (tile s t) (wSgen w))) (passScales s t w) (passStart s t w) m

/-- A converted row as the vector queue takes it. -/
def queueRow (w : Nat) (l : List Nat) : List F32 :=
  (List.range 64).map (fun i => match l[i]? with
    | some x => f32Enc (decodeOfmt (pOfmt w) x)
    | none => 0#32)

/-- The vector queue after `m` streamed rows. -/
def queueAt (s : State) (t w m : Nat) : List (List F32) :=
  if bit1 (pDest w) 0 then (tile s t).vq ++ (runAt s t w m).2.map (queueRow w) else (tile s t).vq

/-- The selection after `m` streamed rows. -/
def selAt (s : State) (t w m : Nat) : Option Selection :=
  if bit1 (pDest w) 1 then (tile s t).sel.map (fun x => offered x (runAt s t w m).2) else (tile s t).sel

/-- What is put together for memory after `m` streamed rows. -/
def stagedAt (s : State) (t w : Nat) (jb : Job) (m : Nat) : Option (List PendWord) :=
  if bit1 (pDest w) 2 then stagedRows s t jb (gen (tile s t) (bits w 76 74)) (runAt s t w m).2 else some []

/-- The sums of streamed row `m`. -/
def sumAt (s : State) (t w m : Nat) : RowSum :=
  rowSum w ((tile s t).banks.getD (bits w 119 119) Bank.empty) (peekRow s t (gen (tile s t) (wSgen w)) m) (passScales s t w m)

/-- The converted row `m`. -/
def rowAt (s : State) (t w m : Nat) : List Nat × Nat :=
  convertRow w (if decide ((gen (tile s t) (wSgen w)).beats ≤ 256)
    then SMap.get (runAt s t w (m + 1)).1 (bits w 97 90 + m) Slot.reset
    else updateSlot w (pActive w (gen (tile s t) (wSgen w)).rows) (pAcc w) Slot.reset (sumAt s t w m))

variable (s : State) (t w m : Nat) (jb : Job)

theorem runAt_rows_succ : (runAt s t w (m + 1)).2 = (runAt s t w m).2 ++ [(rowAt s t w m).1] := rfl

theorem runAt_length : (runAt s t w m).2.length = m := by
  induction m with
  | zero => rfl
  | succ m ih => rw [runAt_rows_succ, List.length_append, ih]; rfl

theorem offer_base (x : Selection) (j : Nat) (c : F32 × Nat) : (offer x j c).base = x.base := rfl

/-- A row of results offered, its index `i`. -/
def offerRow (i : Nat) (l : List Nat) (x : Selection) : Selection :=
  l.zipIdx.foldl (fun z c => offer z c.2 (BitVec.ofNat 32 c.1, i)) x

theorem offerRow_base (i : Nat) (l : List Nat) (x : Selection) : (offerRow i l x).base = x.base :=
  foldl_keeps (fun y => y.base = x.base) (fun z c => offer z c.2 (BitVec.ofNat 32 c.1, i))
    (fun z c h => (offer_base z c.2 _).trans h) l.zipIdx x rfl

theorem offered_base (x : Selection) (rows : List (List Nat)) : (offered x rows).base = x.base :=
  foldl_keeps (fun y => y.base = x.base) _ (fun _ _ h => (offerRow_base ..).trans h) rows.zipIdx x rfl

theorem offered_append (x : Selection) (rows : List (List Nat)) (l : List Nat) :
    offered x (rows ++ [l]) = offerRow (x.base + rows.length) l (offered x rows) := by
  unfold offered
  rw [List.zipIdx_append, List.foldl_append, Nat.zero_add]
  rfl

theorem selAt_succ : selAt s t w (m + 1) =
    if bit1 (pDest w) 1 then (selAt s t w m).map (fun x => offerRow (x.base + m) (rowAt s t w m).1 x) else selAt s t w m := by
  unfold selAt
  split
  · rw [Option.map_map, runAt_rows_succ]
    congr 1
    funext x
    rw [offered_append, runAt_length, Function.comp, offered_base]
  · rfl

theorem queueAt_succ : queueAt s t w (m + 1) =
    if bit1 (pDest w) 0 then queueAt s t w m ++ [queueRow w (rowAt s t w m).1] else queueAt s t w m := by
  unfold queueAt
  split
  · rw [runAt_rows_succ, List.map_append, ← List.append_assoc]
    rfl
  · rfl

theorem stagedAt_succ : stagedAt s t w jb (m + 1) = (stagedAt s t w jb m).bind (fun p =>
    if bit1 (pDest w) 2 then stageRow s jb (plain (.tile t)) (gen (tile s t) (bits w 76 74)) ((gen (tile s t) (bits w 76 74)).a0 s t) m 0
      (rowAt s t w m).1 p else some p) := by
  unfold stagedAt
  split
  · rw [runAt_rows_succ, stagedRows, List.zipIdx_append, List.foldl_append, Nat.zero_add, runAt_length]
    rfl
  · rfl

variable {s t w m jb}

/-- What stands at the end was put together row after row. -/
theorem stagedAt_le {n : Nat} {p : List PendWord} (hm : m ≤ n) (h : stagedAt s t w jb n = some p) :
    ∃ q, stagedAt s t w jb m = some q ∧ Grows q p := by
  induction n generalizing p with
  | zero => exact ⟨p, by rw [Nat.le_zero.1 hm]; exact h, .refl p⟩
  | succ n ih =>
    rcases Nat.lt_or_eq_of_le hm with hlt | rfl
    · rw [stagedAt_succ] at h
      obtain ⟨q, hq, hp⟩ := Option.bind_eq_some_iff.1 h
      obtain ⟨r, hr, g⟩ := ih (by omega) hq
      refine ⟨r, hr, g.trans ?_⟩
      split at hp
      · exact stageRow_grows hp
      · cases hp
        exact .refl _
    · exact ⟨p, h, .refl p⟩

end Described

/-! ### A pass under way -/

/-- `u` is `s` with a pass of tile `t` under way: its ramp in progress, its slots, its selection and its vector queue as given. -/
structure PassAt (s u : State) (t : Nat) (slots : SMap Slot) (sel : Option Selection) (vq : List (List F32)) : Prop where
  sees : Sees s u
  keeps : WorkKeeps s u t
  here : ∃ rampLen cvtSat, tile u t =
    { tile s t with rampActive := true, rampLen := rampLen, slots := slots, sel := sel, vq := vq, cvtSat := cvtSat }

section PassAt
variable {o s u v : State} {t : Nat} {slots slots' : SMap Slot} {sel sel' : Option Selection} {vq vq' : List (List F32)}

theorem PassAt.touched (h : PassAt s u t slots sel vq) (g : Touched u v) : PassAt s v t slots sel vq := by
  obtain ⟨rampLen, cvtSat, here⟩ := h.here
  exact ⟨h.sees.trans g.sees, h.keeps.trans (g.keeps t), rampLen, cvtSat, (g.tile t).trans here⟩

/-- The next state of a pass: its tile set, with what a pass changes changed. -/
theorem PassAt.set {x : Tile} (h : PassAt s u t slots sel vq)
    (hx : ∃ cvtSat, x = { tile u t with slots := slots', sel := sel', vq := vq', cvtSat := cvtSat }) :
    PassAt s (setTile u t x) t slots' sel' vq' := by
  obtain ⟨rampLen, cvtSat, here⟩ := h.here
  obtain ⟨cvtSat', rfl⟩ := hx
  refine ⟨h.sees.trans ⟨rfl, rfl, rfl⟩, h.keeps.trans (setTile_keeps (fun e => by cases e <;> rfl) rfl rfl rfl rfl), rampLen, cvtSat', ?_⟩
  rw [tile_setTile, here]

theorem PassAt.parts (h : PassAt s u t slots sel vq) :
    (tile u t).slots = slots ∧ (tile u t).sel = sel ∧ (tile u t).vq = vq ∧ (tile u t).banks = (tile s t).banks := by
  obtain ⟨_, _, here⟩ := h.here
  rw [here]
  exact ⟨rfl, rfl, rfl, rfl⟩

theorem PassAt.setSlots (h : PassAt s u t slots sel vq) (slots' : SMap Slot) (cvtSat : SMap Nat) :
    PassAt s (setTile u t { tile u t with slots := slots', cvtSat := cvtSat }) t slots' sel vq := by
  obtain ⟨rfl, rfl, rfl, -⟩ := h.parts
  exact h.set ⟨cvtSat, rfl⟩

theorem PassAt.argBase (h : PassAt s u t slots sel vq) : (tile u t).argBase = (tile s t).argBase := by
  obtain ⟨_, _, here⟩ := h.here
  rw [here]

theorem PassAt.a0 {c : QCmd} {e : Engine} (h : PassAt s u t slots sel vq) (sub : Submitted o s t e c) (g : Gen) :
    g.a0 u t = g.a0 o t := by
  rw [← show g.a0 s t = g.a0 o t from withBsel_submitted sub ..]
  unfold Gen.a0 withBsel
  rw [h.argBase]

end PassAt

section Rows
variable {o s u : State} {t j : Nat} {jb : Job} {c : QCmd} {slots : SMap Slot} {sel : Option Selection} {vq : List (List F32)}

/-- A pass begins with its ramp in progress. -/
theorem passAt_ramp (s : State) (t : Nat) (rampLen : Nat) :
    PassAt s (setTile s t { tile s t with rampActive := true, rampLen := rampLen }) t (tile s t).slots (tile s t).sel (tile s t).vq :=
  ⟨⟨rfl, rfl, rfl⟩, setTile_keeps (fun e => by cases e <;> rfl) rfl rfl rfl rfl, rampLen, (tile s t).cvtSat, tile_setTile ..⟩

/-- Rows of wide partials are read as they stand into the slots that they seed. -/
theorem seedRows_known {w k m : Nat} {g : Gen} (sub : Submitted o s t .array c) (h : PassAt s u t slots sel vq)
    (rows : ∀ i, m ≤ i → i < m + k → RowReadable o t jb g i) :
    ∃ v, seedRows jb t w g k m u = (.val 0, v) ∧ PassAt s v t
      ((List.range' m k).foldl (fun x i => SMap.put x (bits w 97 90 + i) (seedSlot (peekRow o t g i))) slots) sel vq := by
  induction k generalizing u m slots with
  | zero => exact ⟨u, rfl, h⟩
  | succ k ih =>
    obtain ⟨u', read, hu⟩ := readRow_known (how := plain (.tile t)) (sub.sees.trans h.sees) rfl (rows m (by omega) (by omega))
    have at' := h.touched hu
    obtain ⟨rfl, rfl, rfl, -⟩ := at'.parts
    obtain ⟨v, rest, hv⟩ := ih (m := m + 1) (at'.set (slots' := SMap.put (tile u' t).slots (bits w 97 90 + m) (seedSlot (peekRow o t g m)))
      ⟨_, rfl⟩) (fun i hi hk => rows i (by omega) (by omega))
    refine ⟨v, ?_, hv⟩
    rw [seedRows, h.a0 sub, read]
    exact rest

/-- A row of a generator that lies apart from what is put together meets none of it. -/
theorem flushFor_apart {g : Gen} {m : Nat} {p q : List PendWord} (h : Apart (g.span u t) q) (hg : Grows p q) :
    flushFor u t (plain (.tile t)) g m p = (.val 0, p, u) := by
  have none : (p.any fun x => decide ((g.span u t).1 ≤ x.addr + 63) && decide (x.addr ≤ (g.span u t).2)) = false := by
    rw [List.any_eq_false]
    intro x hx
    obtain ⟨y, hy, e⟩ := hg.addrs x hx
    have := h y hy
    simp only [Bool.and_eq_true, decide_eq_true_eq]
    omega
  have meets : rowMeets u t g m p = false := Bool.and_eq_false_iff.2 (.inl none)
  rw [flushFor, meets, if_neg Bool.false_ne_true]

theorem PassAt.span (h : PassAt s u t slots sel vq) (sub : Submitted o s t .array c) (g : Gen) : g.span u t = g.span o t := by
  unfold Gen.span
  rw [h.a0 sub]

/-- A tile whose selection and vector queue have taken a converted row, as DEST says. -/
def delivered (w m : Nat) (res : List Nat) (v : Tile) : Tile :=
  { v with sel := if bit1 (pDest w) 1 then v.sel.map (fun x => offerRow (x.base + m) res x) else v.sel
           vq := if bit1 (pDest w) 0 then v.vq ++ [queueRow w res] else v.vq }

theorem deliver_some {w m : Nat} {og : Gen} {res : List Nat} {p q : List PendWord}
    (staged : (if bit1 (pDest w) 2 then stageRow u jb (plain (.tile t)) og (og.a0 u t) m 0 res p else some p) = some q) :
    deliver u jb t w m og res p = (some q, setTile u t (delivered w m res (tile u t))) := by
  unfold deliver delivered
  dsimp only
  rw [staged]
  refine congrArg (fun v => (some q, setTile u t v)) ?_
  generalize tile u t = v
  exact match v with
  | { sel := none, .. } => by split <;> split <;> rfl
  | { sel := some x, .. } => by split <;> split <;> rfl

/-- A converted row goes to the words it makes, the selection and the vector queue, as DEST says. -/
theorem deliver_known {w m : Nat} {og : Gen} {res : List Nat} {p q : List PendWord} (sub : Submitted o s t .array c)
    (h : PassAt s u t slots sel vq)
    (staged : (if bit1 (pDest w) 2 then stageRow o jb (plain (.tile t)) og (og.a0 o t) m 0 res p else some p) = some q) :
    ∃ v, deliver u jb t w m og res p = (some q, v) ∧ PassAt s v t slots
      (if bit1 (pDest w) 1 then sel.map (fun x => offerRow (x.base + m) res x) else sel)
      (if bit1 (pDest w) 0 then vq ++ [queueRow w res] else vq) := by
  rw [← (sub.sees.trans h.sees).stageRow, ← h.a0 sub] at staged
  obtain ⟨rfl, rfl, rfl, -⟩ := h.parts
  exact ⟨_, deliver_some staged, h.set ⟨_, rfl⟩⟩

/-- The scales of a row, where the pass has any. -/
theorem readScales_known {w m : Nat} (hs : Sees o u)
    (h : pMx w = true → RowReadable o t jb (gen (tile o t) (bits w 69 67)) m) :
    ∃ arow v, (if pMx w then readRow u jb (plain (.tile t)) (gen (tile o t) (bits w 69 67)) ((gen (tile o t) (bits w 69 67)).a0 o t) m
        (gen (tile o t) (bits w 69 67)).rows else (.val 0, [], u)) = (.val 0, arow, v) ∧ Touched u v ∧
      arow.map (fun x => x.getD 0) = passScales o t w m := by
  unfold passScales
  by_cases mx : pMx w = true
  · obtain ⟨v, read, hv⟩ := readRow_known (how := plain (.tile t)) hs rfl (h mx)
    rw [if_pos mx, if_pos mx]
    exact ⟨_, v, read, hv, rfl⟩
  · rw [if_neg mx, if_neg mx]
    exact ⟨[], u, rfl, .refl u, rfl⟩

/-- A streamed row takes a pass one row further. -/
theorem passRow_known {m : Nat} {p q : List PendWord} (sub : Submitted o s t .array c) (hg : c.gens = (tile o t).gens)
    (hc : pCvt c.word = (pDest c.word != 0))
    (h : PassAt s u t (runAt o t c.word m).1 (selAt o t c.word m) (queueAt o t c.word m))
    (row : RowReadable o t jb (gen (tile o t) (wSgen c.word)) m)
    (scales : pMx c.word = true → RowReadable o t jb (gen (tile o t) (bits c.word 69 67)) m)
    (staged : (if bit1 (pDest c.word) 2 then stageRow o jb (plain (.tile t)) (gen (tile o t) (bits c.word 76 74))
      ((gen (tile o t) (bits c.word 76 74)).a0 o t) m 0 (rowAt o t c.word m).1 p else some p) = some q) :
    ∃ v, passRow jb t m c p u = (.val 0, q, v) ∧
      PassAt s v t (runAt o t c.word (m + 1)).1 (selAt o t c.word (m + 1)) (queueAt o t c.word (m + 1)) := by
  have gens : ∀ n, cgen c n = gen (tile o t) n := fun n => by rw [cgen, hg]; rfl
  have banks : (tile s t).banks = (tile o t).banks := by
    rw [sub.here]
    rfl
  obtain ⟨u', read, hu⟩ := readRow_known (how := plain (.tile t)) (sub.sees.trans h.sees) rfl row
  have at' := h.touched hu
  obtain ⟨arow, v, readScales, hv, scaled⟩ := readScales_known (sub.sees.trans at'.sees) scales
  have at'' := at'.touched hv
  obtain ⟨slotsEq, selEq, vqEq, bankEq⟩ := at''.parts
  unfold passRow
  dsimp only
  rw [gens, gens, gens, h.a0 sub, read]
  dsimp only
  rw [at'.a0 sub, readScales]
  dsimp only
  have sums : rowSum c.word ((tile v t).banks.getD (bits c.word 119 119) Bank.empty) (peekRow o t (gen (tile o t) (wSgen c.word)) m)
      (arow.map (fun x => x.getD 0)) = sumAt o t c.word m := by
    rw [scaled, bankEq, banks]
    rfl
  have slotsNext : (if decide ((gen (tile o t) (wSgen c.word)).beats ≤ 256) = true
      then putRowSlots c.word m (pActive c.word (gen (tile o t) (wSgen c.word)).rows) (sumAt o t c.word m) (tile v t).slots
      else (tile v t).slots) = (runAt o t c.word (m + 1)).1 := by
    rw [slotsEq]
    rfl
  rw [sums, slotsNext]
  by_cases converts : pCvt c.word = true
  · rw [if_pos converts]
    have kept := at''.setSlots (runAt o t c.word (m + 1)).1
      (SMap.set (tile v t).cvtSat c.idx (SMap.get (tile v t).cvtSat c.idx 0 + (rowAt o t c.word m).2) 0)
    obtain ⟨z, delivers, hz⟩ := deliver_known sub kept staged
    rw [← selAt_succ, ← queueAt_succ] at hz
    exact ⟨z, congrArg (fun r : Option (List PendWord) × State => match r with
      | (some p, s) => (EAcc.val 0, p, s)
      | (none, s) => (.outside, p, s)) delivers, hz⟩
  · rw [if_neg converts]
    have kept := at''.setSlots (runAt o t c.word (m + 1)).1 (tile v t).cvtSat
    have nowhere : pDest c.word = 0 := by simpa [hc] using converts
    rw [nowhere, if_neg (by decide)] at staged
    cases staged
    rw [selAt_succ, queueAt_succ, nowhere]
    exact ⟨_, rfl, kept⟩

theorem selAt_zero (s : State) (t w : Nat) : selAt s t w 0 = (tile s t).sel := by
  unfold selAt
  split
  · exact Option.map_id' ..
  · rfl

theorem queueAt_zero (s : State) (t w : Nat) : queueAt s t w 0 = (tile s t).vq := by
  unfold queueAt
  split
  · exact List.append_nil _
  · rfl

theorem stagedAt_zero (s : State) (t w : Nat) (jb : Job) : stagedAt s t w jb 0 = some [] := by
  unfold stagedAt
  split <;> rfl

theorem queueAt_length {w : Nat} (m : Nat) (h : bit1 (pDest w) 0 = true) : (queueAt o t w m).length = (tile o t).vq.length + m := by
  rw [queueAt, if_pos h, List.length_append, List.length_map, runAt_length]

/-- What a pass needs of the state before its word: readable rows and scales, room in the vector queue, and destinations that lie
apart from what it reads. -/
structure PassFits (o : State) (t w : Nat) (jb : Job) (n : Nat) (p : List PendWord) : Prop where
  rows : ∀ m, m < n → RowReadable o t jb (gen (tile o t) (wSgen w)) m
  scales : pMx w = true → ∀ m, m < n → RowReadable o t jb (gen (tile o t) (bits w 69 67)) m
  room : bit1 (pDest w) 0 = true → (tile o t).vq.length + n ≤ 32
  staged : stagedAt o t w jb n = some p
  apart : Apart ((gen (tile o t) (wSgen w)).span o t) p
  apartScales : pMx w = true → Apart ((gen (tile o t) (bits w 69 67)).span o t) p

/-- The streamed rows up to `m` take a pass to where `runAt` says. -/
theorem passRows_upTo {n m : Nat} {p : List PendWord} (sub : Submitted o s t .array c) (hg : c.gens = (tile o t).gens)
    (hc : pCvt c.word = (pDest c.word != 0)) (fits : PassFits o t c.word jb n p)
    (h : PassAt s u t (passStart o t c.word) (tile o t).sel (tile o t).vq) (hm : m ≤ n) :
    ∃ q v, passRows jb t c n 0 [] u = passRows jb t c (n - m) m q v ∧ stagedAt o t c.word jb m = some q ∧
      PassAt s v t (runAt o t c.word m).1 (selAt o t c.word m) (queueAt o t c.word m) := by
  have gens : ∀ n, cgen c n = gen (tile o t) n := fun n => by rw [cgen, hg]; rfl
  induction m with
  | zero => exact ⟨[], u, rfl, stagedAt_zero .., by rw [selAt_zero, queueAt_zero]; exact h⟩
  | succ m ih =>
    obtain ⟨q, v, before, staged, hv⟩ := ih (by omega)
    obtain ⟨q', staged', toEnd⟩ := stagedAt_le hm fits.staged
    have step := staged'
    rw [stagedAt_succ, staged] at step
    have grows : Grows q p := by
      obtain ⟨r, hr, g⟩ := stagedAt_le (by omega : m ≤ n) fits.staged
      cases staged.symm.trans hr
      exact g
    obtain ⟨z, row, hz⟩ := passRow_known sub hg hc hv (fits.rows m (by omega)) (fun mx => fits.scales mx m (by omega)) step
    have room : queueFull (tile v t) c.word = false := by
      rw [queueFull, Bool.and_eq_false_imp]
      intro dest
      have held := queueAt_length (o := o) (t := t) m dest
      have fit := fits.room dest
      rw [hv.parts.2.2.1, decide_eq_false_iff_not]
      omega
    have streamFree : flushFor v t (plain (.tile t)) (cgen c (wSgen c.word)) m q = (.val 0, q, v) :=
      flushFor_apart (by rw [gens, hv.span sub]; exact fits.apart) grows
    have scalesFree : (if pMx c.word then flushFor v t (plain (.tile t)) (cgen c (bits c.word 69 67)) m q else (.val 0, q, v)) =
        (.val 0, q, v) := by
      split
      · rename_i mx
        exact flushFor_apart (by rw [gens, hv.span sub]; exact fits.apartScales mx) grows
      · rfl
    refine ⟨q', z, ?_, staged', hz⟩
    rw [before, show n - m = (n - (m + 1)) + 1 by omega, passRows, room, if_neg Bool.false_ne_true, streamFree]
    dsimp only
    rw [scalesFree]
    dsimp only
    rw [row]

theorem stagedAt_unpoisoned {s : State} {w n : Nat} {p : List PendWord} (h : stagedAt s t w jb n = some p) :
    ∀ x ∈ p, x.poison = false := by
  obtain ⟨q, hq, grows⟩ := stagedAt_le (Nat.zero_le n) h
  rw [stagedAt_zero] at hq
  cases hq
  exact grows.fresh

/-- The rows of a pass, then the selection's base: as the state before its word says. -/
theorem passGo_known {p : List PendWord} (sub : Submitted o s t .array c) (hg : c.gens = (tile o t).gens)
    (hc : pCvt c.word = (pDest c.word != 0)) {n : Nat} (hn : n = (gen (tile o t) (wSgen c.word)).beats)
    (fits : PassFits o t c.word jb n p) (lands : Lands o p)
    (h : PassAt s u t (passStart o t c.word) (tile o t).sel (tile o t).vq) :
    ∃ v, passGo t c 0 u jb = (.done, v) ∧ WorkKeeps s v t ∧ v.mem = landed o t p ∧ ∃ rampLen cvtSat, tile v t =
      { tile s t with rampActive := true, rampLen := rampLen, slots := (runAt o t c.word n).1, vq := queueAt o t c.word n,
                      sel := if bit1 (pDest c.word) 1 then (tile o t).sel.map (fun x =>
                        { offered x (runAt o t c.word n).2 with base := x.base + n }) else (tile o t).sel, cvtSat := cvtSat } := by
  obtain ⟨q, v, rows, staged, hv⟩ := passRows_upTo sub hg hc fits h le_rfl
  cases staged.symm.trans fits.staged
  obtain ⟨z, flushed, written, mem⟩ := flush_known (how := plain (.tile t)) (n := t) (sub.sees.trans hv.sees) lands
    (stagedAt_unpoisoned fits.staged)
  have beats : (cgen c (wSgen c.word)).beats = n := by rw [cgen, hg, hn]; rfl
  have done : passRows jb t c ((cgen c (wSgen c.word)).beats - 0) 0 [] u = (.val 0, .done, z) := by
    rw [beats, Nat.sub_zero, rows, Nat.sub_self, passRows, passFlush, flushed]
  obtain ⟨rampLen, cvtSat, here⟩ := hv.here
  have keeps := hv.keeps.trans (written.keeps t)
  unfold passGo
  dsimp only
  rw [done]
  dsimp only
  rw [beats]
  have sameTile : tile z t = _ := (written.tile t).trans here
  by_cases select : bit1 (pDest c.word) 1 = true
  · rw [if_pos select]
    refine ⟨_, rfl, keeps.trans (setTile_keeps (fun e => by cases e <;> rfl) rfl rfl rfl rfl), mem, rampLen, cvtSat, ?_⟩
    have moved : (selAt o t c.word n).map (fun x => { x with base := x.base + n }) =
        (tile o t).sel.map (fun x => { offered x (runAt o t c.word n).2 with base := x.base + n }) := by
      rw [selAt, if_pos select, Option.map_map]
      congr 1
      funext x
      rw [Function.comp, offered_base]
    rw [tile_setTile, sameTile, if_pos select, ← moved]
  · rw [if_neg select]
    refine ⟨z, rfl, keeps, mem, rampLen, cvtSat, ?_⟩
    rw [sameTile, if_neg select, selAt, if_neg select]

/-- A pass none of whose causes stands: seeded where it says so, its rows run. -/
theorem passWork_known {p : List PendWord} (sub : Submitted o s t .array c) (hg : c.gens = (tile o t).gens) (hr : c.reps = 0)
    (hc : pCvt c.word = (pDest c.word != 0)) (cause : passCause s t c = none) {n : Nat}
    (hn : n = (gen (tile o t) (wSgen c.word)).beats) (fits : PassFits o t c.word jb n p) (lands : Lands o p)
    (seeds : pSeed c.word = true → ∀ m, m < n → RowReadable o t jb (gen (tile o t) (bits c.word 69 67)) m) :
    ∃ v, passWork t c s jb = (.done, v) ∧ WorkKeeps s v t ∧ v.mem = landed o t p ∧ ∃ rampLen cvtSat, tile v t =
      { tile s t with rampActive := true, rampLen := rampLen, slots := (runAt o t c.word n).1, vq := queueAt o t c.word n,
                      sel := if bit1 (pDest c.word) 1 then (tile o t).sel.map (fun x =>
                        { offered x (runAt o t c.word n).2 with base := x.base + n }) else (tile o t).sel, cvtSat := cvtSat } := by
  have gens : ∀ n, cgen c n = gen (tile o t) n := fun n => by rw [cgen, hg]; rfl
  have same : (tile s t).slots = (tile o t).slots ∧ (tile s t).sel = (tile o t).sel ∧ (tile s t).vq = (tile o t).vq := by
    rw [sub.here]
    exact ⟨rfl, rfl, rfl⟩
  obtain ⟨slotsEq, selEq, vqEq⟩ := same
  have ramp := passAt_ramp s t (if (tile s t).rampActive then (tile s t).rampLen else rd s 0x4010 1)
  rw [slotsEq, selEq, vqEq] at ramp
  unfold passWork
  rw [if_neg (not_not.2 hr), cause]
  dsimp only
  by_cases seed : pSeed c.word = true
  · obtain ⟨u, seedsRead, hu⟩ := seedRows_known (w := c.word) (m := 0) (k := n) sub ramp (fun i _ hi => seeds seed i (by omega))
    rw [if_pos seed, gens, gens, ← hn, seedsRead]
    refine passGo_known sub hg hc hn fits lands ?_
    rw [passStart, if_pos seed, seeded, ← hn, List.range_eq_range']
    exact hu
  · rw [if_neg seed]
    refine passGo_known sub hg hc hn fits lands ?_
    rw [passStart, if_neg seed]
    exact ramp

end Rows

/-- Each pass goes to the array by its opcode. -/
theorem exec_pass {o : (Nat → Instr) × Nat} (h : o ∈ passWords) (s : State) (t : Nat) :
    exec (o.1 t) s = ends s (passExec o.2 s t) ∧ 2 ≤ o.2 ∧ o.2 ≤ 5 := by
  simp only [passWords, List.mem_cons, List.not_mem_nil, or_false] at h
  rcases h with rfl | rfl | rfl | rfl <;> exact ⟨rfl, by decide, by decide⟩

/-- Settles O12: row by row the pass does what `passRun` says, and its rows go where DEST says. -/
theorem passesRunTheirRows : Obligations.PassesRunTheirRows := by
  intro o s t w j jb p ho h hop cause v sg og ag n start scales run rows aux room staged lands apart apartScales
  obtain ⟨runs, low, high⟩ := exec_pass ho s t
  have sub := h.submitted
  have checked := h.atDecode.checkPass (by omega)
  have fits : PassFits s t w jb n p := ⟨rows, fun mx => aux (.inl mx), room, staged, apart, apartScales⟩
  have fields : (tile (submit s t .array w (passReads s t w) (passWrites s t w)) t).banks = (tile s t).banks ∧
      (tile (submit s t .array w (passReads s t w) (passWrites s t w)) t).slots = (tile s t).slots ∧
      (tile (submit s t .array w (passReads s t w) (passWrites s t w)) t).sel = (tile s t).sel ∧
      (tile (submit s t .array w (passReads s t w) (passWrites s t w)) t).regs = (tile s t).regs := by
    rw [sub.here]
    exact ⟨rfl, rfl, rfl, rfl⟩
  obtain ⟨banks, slots, sel, regs⟩ := fields
  have free : passCause (submit s t .array w (passReads s t w) (passWrites s t w)) t
      (newEntry s t w (passReads s t w) (passWrites s t w)) = none :=
    (passCause_congr (s := s) (c := newEntry s t w [] []) rfl rfl banks slots sel).trans cause
  obtain ⟨u, work, keeps, mem, _, _, here⟩ := passWork_known (n := n) sub rfl rfl (pCvt_eq checked) free rfl fits lands
    (fun seed => aux (.inr seed))
  have array : engineWork .array t (newEntry s t w (passReads s t w) (passWrites s t w))
      (submit s t .array w (passReads s t w) (passWrites s t w)) jb = (.done, u) :=
    (if_neg (show wOpcode w ≠ 1 by omega)).trans work
  obtain ⟨r, next, worked, rmem, final⟩ := h.worked (by omega) array keeps
  have issued := h.toEngine (mine := opIs o.2) (reads := fun s w => passReads s t w) (writes := fun s w => passWrites s t w)
    (beq_iff_eq.2 hop)
  rw [here] at final
  refine ⟨r, by rw [runs, passExec, issued, next], worked, ?_, rmem.trans mem, ?_, ?_, ?_, ?_, ?_⟩ <;> rw [final]
  · rfl
  · rfl
  · rfl
  · exact banks
  · exact regs
  · rfl

end Sys2Proof.Machine

namespace Sys2Proof

/-! ## Sparse tables -/

theorem SMap.put_put {α : Type} (m : SMap α) (k : Nat) (v x : α) : SMap.put (SMap.put m k v) k x = SMap.put m k x := by
  induction m with
  | nil => simp [SMap.put]
  | cons p r ih =>
    obtain ⟨j, y⟩ := p
    by_cases hlt : k < j
    · simp [SMap.put, hlt]
    · by_cases heq : k = j
      · simp [SMap.put, heq]
      · simp [SMap.put, hlt, heq, ih]

theorem SMap.mem_of_find? {α : Type} {m : SMap α} {k : Nat} {v : α} (h : SMap.find? m k = some v) : (k, v) ∈ m := by
  induction m with
  | nil => cases h
  | cons p r ih =>
    obtain ⟨i, w⟩ := p
    unfold SMap.find? at h
    split at h
    · rename_i e
      cases h
      rw [e]
      exact List.mem_cons_self
    · exact List.mem_cons_of_mem _ (ih h)

end Sys2Proof

namespace Sys2Proof.Machine

/-! ## Generators (R87, Table 3.6) -/

section Agen
variable {s : State} {t w : Nat}

/-- A tile that runs is no free tile. -/
theorem ne_reset_of_running {v : Tile} (h : v.running = true) : v ≠ Tile.reset := by
  rintro rfl
  cases h

/-- Of two running tiles put one after the other, the second counts. -/
theorem setTile_setTile {v x : Tile} (hv : v.running = true) (hx : x.running = true) :
    setTile (setTile s t v) t x = setTile s t x := by
  simp only [setTile, SMap.set, if_neg (ne_reset_of_running hv), if_neg (ne_reset_of_running hx), SMap.put_put]

/-- The tile with its word gone from decode. -/
def pastWord (v : Tile) : Tile := { v with word := v.word + 1, buf := v.buf.drop 1 }

theorem nextWord_running (h : (tile s t).running = true) : nextWord s t = setTile s t (pastWord (tile s t)) := by
  simp [nextWord, h, pastWord]

/-- The tile with the part of a generator set that an AGEN word names. -/
def agenTile (v : Tile) (w : Nat) : Tile :=
  { v with gens := v.gens.set (bits w 111 109) (agenSet (gen v (bits w 111 109)) w) }

/-- An AGEN word at decode sets the generator that it names, and its tile goes on to the next word. -/
theorem agenExec_sets {lo hi : Nat} (h : AtDecode s t w) (hop : wOpcode w = 0x30) (hlo : lo ≤ bits w 108 106)
    (hhi : bits w 108 106 ≤ hi) :
    ends s (agenExec lo hi s t) = .next (noteState s (setTile s t (pastWord (agenTile (tile s t) w)))) := by
  have runs := headWord_running h.head
  have issued : agenExec lo hi s t = agenRun t s w := h.issue (by simp [hop, hlo, hhi])
  have sets : agenRun t s w = setTile s t (pastWord (agenTile (tile s t) w)) := by
    rw [agenRun, nextWord_running (by rw [tile_setTile]; exact runs), tile_setTile]
    exact setTile_setTile runs runs
  rw [issued, sets]
  exact ends_noted s _ h.inv.charged h.inv.inReach

theorem agenSet_loop {g : Gen} (h : 2 ≤ bits w 108 106) : agenSet g w =
    { g with loops := g.loops.set (bits w 108 106 - 2) (GLoop.mk (bits w 105 90)
        (signedOf 32 (bits w 89 58)) (signedOf 8 (bits w 57 50)) (signedOf 8 (bits w 49 42))) } := by
  unfold agenSet
  split
  · omega
  · omega
  · rfl

end Agen

/-- Settles O17: the word is given to its generator, part by part. -/
theorem generatorWordsSetOnePart : Obligations.GeneratorWordsSetOnePart := by
  intro s t w j h hop _
  refine ⟨fun part => ?base, fun part => ?bounds, fun low high => ?loop⟩
  case base =>
    have set := agenExec_sets h hop part.ge part.le
    rw [agenTile, agenSet, part] at set
    exact set
  case bounds =>
    have set := agenExec_sets h hop part.ge part.le
    rw [agenTile, agenSet, part] at set
    exact set
  case loop =>
    have set := agenExec_sets h hop low high
    rw [agenTile, agenSet_loop low] at set
    exact set

end Sys2Proof.Machine

namespace Sys2Proof.Machine

/-! ## Signals (R107, R114, R115, R118) -/

section Signal
variable {s u : State} {t f n j : Nat} {jb : Job} {b : BitVec 16}

/-- A signal command of a flag and a count that there are raises its signal. -/
theorem exec_flagSignal (hf : f < 48) (hb : b ≠ 0#16) : exec (.flagSignal t f b) s = ends s (signal s t f b.toNat) :=
  congrArg (ends s) (if_pos (by simp [hf, hb]))

/-- A tile in the set of a running job takes a signal that its flag has room for. -/
theorem addFlag_adds (hj : jobOf s t = some (j, jb)) (hr : jb.running = true) (hm : s.main = .ready)
    (hn : flagCount s t f + n ≤ 65535) : addFlag s t f n = setFlag s t f (flagCount s t f + n) := by
  unfold addFlag
  rw [hj]
  simp [hr, hm, hn]

/-- A signal that its flag has no room for fills the flag, is counted, and faults the job (R115). -/
theorem addFlag_overflows (hj : jobOf s t = some (j, jb)) (hr : jb.running = true) (hm : s.main = .ready)
    (hn : 65535 < flagCount s t f + n) :
    addFlag s t f n = jobFault (bump (setFlag s t f 65535) 0x5040 2) j 0x2C t (tile s t).word := by
  unfold addFlag
  rw [hj]
  simp [hr, hm, hn]

/-- A signal to a tile of no running job is dropped and counted (R118). -/
theorem addFlag_drops (h : ∀ j jb, jobOf s t = some (j, jb) → jb.running = false) : addFlag s t f n = bump s 0x5040 1 := by
  unfold addFlag
  split
  · rfl
  · simp [h _ _ ‹_›]

/-- A tile that nothing blocks moves no further when it is pumped, at most it counts its quiet time. -/
theorem pump_free {k : Nat} (h : (tile s t).block = none) : pump (k + 1) s [t] = noteArmed s t := by
  rw [pump, moveTile_free h]
  exact pump_nil ..

theorem pumpFuel_eq (s : State) : ∃ k, pumpFuel s = k + 1600 := ⟨400 * s.tiles.length, by unfold pumpFuel; omega⟩

/-- A signal to a tile that nothing blocks has no effect beyond its flag. -/
theorem signal_free (h : (tile (addFlag s t f n) t).block = none) : signal s t f n = noteArmed (addFlag s t f n) t := by
  obtain ⟨k, hk⟩ := pumpFuel_eq s
  rw [signal, hk]
  exact pump_free h

/-- A tile of a running job whose sequencer is not blocked is not armed (R137). -/
theorem noteArmed_running (hj : jobOf s t = some (j, jb)) (hr : jb.running = true) (hm : s.main = .ready)
    (hb : (tile s t).block = none) : noteArmed s t = s := by
  have busy : canBeQuiet s t = false := by simp [canBeQuiet, hj, hr, hm, hb]
  simp [noteArmed, busy]

/-- The tile with a flag set. -/
def flagTile (v : Tile) (f n : Nat) : Tile := { v with flags := SMap.set v.flags f n 0 }

theorem setFlag_eq (s : State) (t f n : Nat) : setFlag s t f n = setTile s t (flagTile (tile s t) f n) := rfl

@[simp] theorem tile_setFlag (s : State) (t f n : Nat) : tile (setFlag s t f n) t = flagTile (tile s t) f n := tile_setTile ..

theorem tile_setFlag_other {x : Nat} (s : State) (f n : Nat) (h : x ≠ t) : tile (setFlag s t f n) x = tile s x :=
  tile_setTile_other _ _ _ _ h

/-- The job of a tile depends on the tile's number of it and on the jobs alone. -/
theorem jobOf_congr {x : Nat} (ht : (tile u x).job = (tile s x).job) (hj : u.jobs = s.jobs) : jobOf u x = jobOf s x := by
  rw [jobOf, jobOf, ht, hj]

theorem jobOf_setFlag (s : State) (t f n x : Nat) : jobOf (setFlag s t f n) x = jobOf s x := by
  refine jobOf_congr ?_ rfl
  by_cases h : x = t
  · rw [h, tile_setFlag]
    rfl
  · rw [tile_setFlag_other _ _ _ h]

/-- A signal to a tile of a running job that nothing blocks only adds to its flag (R114). -/
theorem Signalled.signal (h : Signalled s t j jb) (hn : flagCount s t f + n ≤ 65535) :
    Machine.signal s t f n = setFlag s t f (flagCount s t f + n) := by
  have free : (tile (setFlag s t f (flagCount s t f + n)) t).block = none := by
    rw [tile_setFlag]
    exact h.open'
  have added := addFlag_adds h.held h.running h.ready hn
  rw [signal_free (by rw [added]; exact free), added]
  exact noteArmed_running ((jobOf_setFlag ..).trans h.held) h.running h.ready free

end Signal

/-! ### An overflow -/

section Overflow
variable {s u : State} {t f n j cause ltile word : Nat} {jb : Job} {c : Comp} {b : BitVec 16}

/-- The entries in which a fault is recorded (R112). -/
def recordKeys : List Nat := [entKey 0x4030 1, entKey 0x4030 2, entKey 0x4030 3]

theorem recordFault_noted (s : State) (cause ltile word : Nat) : Noted recordKeys s (recordFault s cause ltile word) := by
  unfold recordFault
  refine ((Noted.refl _ s).set ?_ |>.set ?_).set ?_ <;> decide

/-- A fault of a running job with a cause of decode: it is recorded, and held until it settles. -/
theorem jobFault_recorded (hj : SMap.find? s.jobs j = some jb) (hm : s.main = .ready) (hr : jb.running = true) (hc : cause < 0x31) :
    ∃ u, Noted recordKeys s u ∧
      jobFault s j cause ltile word = settleFault (heldFault u j jb (faultEntry jb cause ltile word)) j := by
  have recorded : Noted recordKeys s (if cause < 0x32 && ltile != 0xFFFF then recordFault s cause ltile word else s) := by
    split
    · exact recordFault_noted ..
    · exact .refl _ s
  refine ⟨_, recorded, ?_⟩
  have h31 : cause ≠ 0x31 := by omega
  have h32 : cause ≠ 0x32 := by omega
  have hlt : cause < 0x32 := by omega
  unfold jobFault
  rw [hj]
  dsimp only
  rw [if_pos (by simp [hm, hr]), if_neg h32, if_neg h31, if_pos hlt, if_pos hlt]
  rfl

/-- The entries stand while a fault is held and settles. -/
theorem rd_settleFault (hm : s.main = .ready) (i k : Nat) : rd (settleFault (heldFault s j jb c) j) i k = rd s i k := by
  obtain ⟨_, _, _, _, _, _, _, _, _, held⟩ := heldFault_rest s j jb c
  rw [settleFault_heldFault hm]
  split
  · rw [held]
    rfl
  · obtain ⟨_, _, freed⟩ := freeTiles_rest (heldFault s j jb c) jb
    rw [freed, held]
    rfl

/-- No wait blocks a tile after a fault that none blocked before. -/
theorem block_settleFault (hm : s.main = .ready) (hb : (tile s t).block = none) :
    (tile (settleFault (heldFault s j jb c) j) t).block = none := by
  obtain ⟨_, _, _, _, _, _, stopped⟩ := stopJob_rest s j
  have open' : (tile (heldFault s j jb c) t).block = none :=
    tile_foldl_setTile (P := fun v => v.block = none) (fun _ _ => rfl) (jobTiles jb) (stopJob s j) t (.inr (by rw [stopped]; exact hb))
  rw [settleFault_heldFault hm]
  split
  · exact open'
  · exact tile_foldl_setTile (P := fun v => v.block = none) (fun _ _ => rfl) (jobTiles jb) (heldFault s j jb c) t (.inr open')

/-- The flags stand while a fault is held (R115). -/
theorem flags_settleFault (hm : s.main = .ready) (ho : owesAccess (stopJob s j) j = true) (x : Nat) :
    (tile (settleFault (heldFault s j jb c) j) x).flags = (tile s x).flags := by
  obtain ⟨_, _, _, _, _, _, stopped⟩ := stopJob_rest s j
  rw [settleFault_heldFault hm, if_pos ho]
  exact (flags_stopTiles (stopJob s j) j jb x).trans (by rw [stopped]; rfl)

/-- The accesses that a job owes stand in fields that noting leaves. -/
theorem Noted.owes {ks : List Nat} (h : Noted ks s u) (j : Nat) : owesAccess (stopJob u j) j = owesAccess (stopJob s j) j := by
  obtain ⟨⟨_, _, _, _, _, _, _, _, _, _, rfl⟩, -, -⟩ := h
  rfl

theorem noteArmed_touched (s : State) (t : Nat) : (noteArmed s t).touched = s.touched := by
  obtain ⟨_, h⟩ := noteArmed_rest s t
  rw [h]

theorem noteArmed_stalled (s : State) (t : Nat) : (noteArmed s t).stalled = s.stalled := by
  obtain ⟨_, h⟩ := noteArmed_rest s t
  rw [h]

theorem tile_noteArmed (s : State) (t x : Nat) : tile (noteArmed s t) x = tile s x := by
  obtain ⟨_, h⟩ := noteArmed_rest s t
  rw [h]
  rfl

theorem rd_noteArmed (s : State) (t i k : Nat) : rd (noteArmed s t) i k = rd s i k := by
  obtain ⟨_, h⟩ := noteArmed_rest s t
  rw [h]
  rfl

theorem FaultEnds.armed (h : FaultEnds s u j jb c) (t : Nat) : FaultEnds s (noteArmed u t) j jb c := by
  obtain ⟨_, e⟩ := noteArmed_rest u t
  rw [e]
  exact ⟨h.mem, h.cons, h.touched, h.stalled, h.freed, h.gone, h.held, h.owing⟩

theorem flagCount_congr {x : Nat} (h : (tile u x).flags = (tile s x).flags) (g : Nat) : flagCount u x g = flagCount s x g := by
  rw [flagCount, flagCount, h]

/-- A signal that overflows its flag fills it, is counted, and faults the job that holds the tile (R115). -/
theorem Signalled.overflows (h : Signalled s t j jb) (hf : f < 48) (hb : b ≠ 0#16) (hn : 65535 < flagCount s t f + b.toNat) :
    ∃ v r, exec (.flagSignal t f b) s = .next r ∧ Noted recordKeys (bump (setFlag s t f 65535) 0x5040 2) v ∧
      FaultEnds v r j jb (faultEntry jb 0x2C t (tile s t).word) ∧ (∀ i k, rd r i k = rd v i k) ∧
      (owesAccess (stopJob v j) j = true → ∀ x, (tile r x).flags = (tile v x).flags) := by
  have job : SMap.find? (bump (setFlag s t f 65535) 0x5040 2).jobs j = some jb := (jobOf_some h.held).2
  have open' : (tile (bump (setFlag s t f 65535) 0x5040 2) t).block = none := by
    change (tile (setFlag s t f 65535) t).block = none
    rw [tile_setFlag]
    exact h.open'
  obtain ⟨v, recorded, faulted⟩ := jobFault_recorded (cause := 0x2C) (ltile := t) (word := (tile s t).word) job h.ready h.running
    (by decide)
  have main : v.main = .ready := recorded.main.trans h.ready
  have raised := (addFlag_overflows h.held h.running h.ready hn).trans faulted
  generalize faultEntry jb 0x2C t (tile s t).word = c at raised ⊢
  have fault := settleFault_ends (s := v) (j := j) (jb := jb) (c := c) main
  have free := block_settleFault (j := j) (jb := jb) (c := c) main (by rw [tile, recorded.tiles]; exact open')
  have read := rd_settleFault (j := j) (jb := jb) (c := c) main
  have flags := flags_settleFault (j := j) (jb := jb) (c := c) main
  generalize settleFault (heldFault v j jb c) j = u at raised fault free read flags
  have runs := (exec_flagSignal (s := s) (t := t) hf hb).trans (congrArg (ends s) (signal_free (by rw [raised]; exact free)))
  rw [raised, ends_noted s _ ((noteArmed_touched ..).trans (fault.touched.trans (recorded.touched.trans h.inv.charged)))
    ((noteArmed_stalled ..).trans (fault.stalled.trans (recorded.stalled.trans h.inv.inReach)))] at runs
  refine ⟨v, _, runs, recorded, (fault.armed t).noted (noteState_noted s _), fun i k => ?_, fun ho x => ?_⟩
  · exact ((noteState_noted s _).rd List.not_mem_nil).trans ((rd_noteArmed ..).trans (read i k))
  · rw [tile_noteState, tile_noteArmed]
    exact flags ho x

end Overflow

/-! ### SIG -/

/-- A SIG word with ENG 0 to its own tile raises its signal as it issues (R107). -/
theorem sig_issues {s : State} {t w j : Nat} {jb : Job} (h : AtDecode s t w) (hop : wOpcode w = 0x20) (he : bits w 111 109 = 0)
    (own : bit1 w 70 = true) (near : bit1 w 69 = false) (hs : Signalled s t j jb)
    (hn : flagCount s t (sFlag w) + sN w ≤ 65535) :
    issue s t (opIs 0x20) (sigExec t) =
      setTile s t (pastWord (flagTile (tile s t) (sFlag w) (flagCount s t (sFlag w) + sN w))) := by
  have runs := headWord_running h.head
  have raised : raiseSig s t w (tile s t).word = setFlag s t (sFlag w) (flagCount s t (sFlag w) + sN w) := by
    unfold raiseSig
    rw [(jobOf_some hs.held).1]
    dsimp only
    rw [near, if_neg Bool.false_ne_true, own, if_pos rfl]
    exact hs.signal hn
  rw [h.issue (mine := opIs 0x20) (beq_iff_eq.2 hop), sigExec, if_pos he]
  dsimp only
  rw [raised, nextWord_running (by rw [tile_setFlag]; exact runs), tile_setFlag, setFlag_eq]
  exact setTile_setTile runs runs

/-- Settles O18: a signal with room only adds, one without fills the flag and faults, a stray is dropped; SIG signals its own tile. -/
theorem signalsAddToFlags : Obligations.SignalsAddToFlags := by
  refine ⟨fun s t f n hf hn => ⟨fun j jb h room => ?adds, fun j jb h full => ?overflows, fun hi gone free => ?stray⟩,
    fun s t w j jb h hop he own near hs room => ?sig⟩
  case adds =>
    rw [exec_flagSignal hf hn, h.signal room]
    exact ends_noted s _ h.inv.charged h.inv.inReach
  case overflows =>
    obtain ⟨v, r, runs, recorded, fault, read, flags⟩ := h.overflows hf hn full
    have owes : owesAccess (stopJob v j) j = owesAccess (stopJob s j) j := recorded.owes j
    have comps : v.comps = s.comps := recorded.comps
    have kept : ∀ g, flagCount v t g = flagCount (setFlag s t f 65535) t g :=
      flagCount_congr (u := v) (by rw [tile, recorded.tiles]; rfl)
    rw [← owes, ← comps]
    refine ⟨r, runs, ?_, fault.mem.trans recorded.mem, fault.gone, fun ho => ⟨?_, fun g hg => ?_, fault.owing ho⟩⟩
    · rw [read, recorded.rd (by decide)]
      exact rd_bump_congr (by decide) rfl
    · rw [flagCount_congr (flags ho t), kept, flagCount_setFlag]
    · rw [flagCount_congr (flags ho t), kept, flagCount_setFlag_other _ _ _ _ _ _ (.inr hg)]
  case stray =>
    have dropped : addFlag s t f n.toNat = bump s 0x5040 1 := addFlag_drops gone
    rw [exec_flagSignal hf hn, signal_free (by rw [dropped]; exact free), dropped]
    exact ends_noted s _ ((noteArmed_touched ..).trans hi.charged) ((noteArmed_stalled ..).trans hi.inReach)
  case sig =>
    have runs : exec (.sig t) s = _ :=
      (congrArg (ends s) (sig_issues h hop he own near hs room)).trans (ends_noted s _ h.inv.charged h.inv.inReach)
    refine ⟨_, runs, ?_, fun g hg => ?_, ?_, fun x hx => ?_, noteState_mem .., noteState_jobs ..⟩
    · rw [flagCount, tile_noteState, tile_setTile]
      exact SMap.get_set_same ..
    · rw [flagCount, tile_noteState, tile_setTile]
      exact SMap.get_set_other _ _ _ _ _ _ hg
    · rw [tile_noteState, tile_setTile]
      rfl
    · rw [tile_noteState, tile_setTile_other _ _ _ _ hx]

end Sys2Proof.Machine

namespace Sys2Proof.Machine

/-! ## Barriers (R108, R130) -/

/-! ### What moving a barrier on changes -/

/-- A count of every flag with that of one flag set. -/
def countSet (c : Nat → Nat → Nat) (t f n : Nat) : Nat → Nat → Nat := fun x g => if x = t ∧ g = f then n else c x g

/-- `u` is `s` with flags signalled and with tile `t`'s barrier moved on: the block and the descriptor at that tile, and what every
flag counts. Of the rest only the quiet times, the units reclaimed and the entry that counts reclaims may differ. -/
structure Moves (s u : State) (t : Nat) (block : Option Block) (bar : Option BarDesc) (count : Nat → Nat → Nat) : Prop where
  rest : ∃ tiles quiet reclaims ent, u = { s with tiles := tiles, quiet := quiet, reclaims := reclaims, ent := ent }
  here : ∃ flags, tile u t = { tile s t with block := block, bar := bar, flags := flags }
  others : ∀ x, x ≠ t → ∃ flags, tile u x = { tile s x with flags := flags }
  counts : ∀ x f, flagCount u x f = count x f

section Moves
variable {s u v : State} {t x f n : Nat} {b d : Option Block} {e e' : Option BarDesc} {c c' : Nat → Nat → Nat}

theorem Moves.refl (s : State) (t : Nat) : Moves s s t (tile s t).block (tile s t).bar (flagCount s) :=
  ⟨⟨_, _, _, _, rfl⟩, ⟨_, rfl⟩, fun _ _ => ⟨_, rfl⟩, fun _ _ => rfl⟩

theorem Moves.trans (h : Moves s u t b e c) (g : Moves u v t d e' c') : Moves s v t d e' c' := by
  obtain ⟨_, _, _, _, hu⟩ := h.rest
  obtain ⟨_, _, _, _, hv⟩ := g.rest
  obtain ⟨_, here⟩ := h.here
  obtain ⟨_, here'⟩ := g.here
  refine ⟨⟨_, _, _, _, by rw [hv, hu]⟩, ⟨_, by rw [here', here]⟩, fun x hx => ?_, g.counts⟩
  obtain ⟨_, other⟩ := h.others x hx
  obtain ⟨_, other'⟩ := g.others x hx
  exact ⟨_, by rw [other', other]⟩

/-- A step that leaves every count. -/
theorem Moves.next (h : Moves s u t b e c) (g : Moves u v t d e' (flagCount u)) : Moves s v t d e' c :=
  ⟨(h.trans g).rest, (h.trans g).here, (h.trans g).others, fun x f => (g.counts x f).trans (h.counts x f)⟩

/-- A step that moves no barrier and signals nothing. -/
theorem Moves.still (h : Moves s u t b e c) (g : Moves u v t (tile u t).block (tile u t).bar (flagCount u)) : Moves s v t b e c := by
  obtain ⟨_, here⟩ := h.here
  rw [here] at g
  exact h.next g

theorem Moves.mem (h : Moves s u t b e c) : u.mem = s.mem := by
  obtain ⟨_, _, _, _, hu⟩ := h.rest
  rw [hu]

theorem Moves.jobs (h : Moves s u t b e c) : u.jobs = s.jobs := by
  obtain ⟨_, _, _, _, hu⟩ := h.rest
  rw [hu]

theorem Moves.main (h : Moves s u t b e c) : u.main = s.main := by
  obtain ⟨_, _, _, _, hu⟩ := h.rest
  rw [hu]

theorem Moves.touched (h : Moves s u t b e c) : u.touched = s.touched := by
  obtain ⟨_, _, _, _, hu⟩ := h.rest
  rw [hu]

theorem Moves.stalled (h : Moves s u t b e c) : u.stalled = s.stalled := by
  obtain ⟨_, _, _, _, hu⟩ := h.rest
  rw [hu]

theorem Moves.block (h : Moves s u t b e c) : (tile u t).block = b := by
  obtain ⟨_, here⟩ := h.here
  rw [here]

theorem Moves.bar (h : Moves s u t b e c) : (tile u t).bar = e := by
  obtain ⟨_, here⟩ := h.here
  rw [here]

theorem Moves.word (h : Moves s u t b e c) : (tile u t).word = (tile s t).word := by
  obtain ⟨_, here⟩ := h.here
  rw [here]

theorem Moves.otherBlock (h : Moves s u t b e c) (hx : x ≠ t) : (tile u x).block = (tile s x).block := by
  obtain ⟨_, other⟩ := h.others x hx
  rw [other]

theorem Moves.jobOf (h : Moves s u t b e c) (x : Nat) : jobOf u x = jobOf s x := by
  refine jobOf_congr ?_ h.jobs
  by_cases hx : x = t
  · subst hx
    obtain ⟨_, here⟩ := h.here
    rw [here]
  · obtain ⟨_, other⟩ := h.others x hx
    rw [other]

theorem flagCount_setFlag_eq (s : State) (t f n x g : Nat) :
    flagCount (setFlag s t f n) x g = countSet (flagCount s) t f n x g := by
  unfold countSet
  split
  · rename_i h
    rw [h.1, h.2, flagCount_setFlag]
  · exact flagCount_setFlag_other _ _ _ _ _ _ (by omega)

/-- A flag set at any tile. -/
theorem setFlag_moves (s : State) (t x f n : Nat) :
    Moves s (setFlag s x f n) t (tile s t).block (tile s t).bar (countSet (flagCount s) x f n) := by
  have changed : ∀ y, ∃ flags, tile (setFlag s x f n) y = { tile s y with flags := flags } := fun y => by
    by_cases h : y = x
    · exact ⟨_, by rw [h, tile_setFlag]; rfl⟩
    · exact ⟨_, by rw [tile_setFlag_other _ _ _ h]⟩
  exact ⟨⟨_, _, _, _, rfl⟩, changed t, fun y _ => changed y, fun _ _ => flagCount_setFlag_eq ..⟩

/-- A tile whose block changes. -/
theorem setBlock_moves (s : State) (t : Nat) (b : Option Block) (d : Option BarDesc) :
    Moves s (setTile s t { tile s t with block := b, bar := d }) t b d (flagCount s) := by
  refine ⟨⟨_, _, _, _, rfl⟩, ⟨_, tile_setTile ..⟩, fun x hx => ⟨_, tile_setTile_other _ _ _ _ hx⟩, fun x f => ?_⟩
  refine flagCount_congr ?_ f
  by_cases hx : x = t
  · rw [hx, tile_setTile]
  · rw [tile_setTile_other _ _ _ _ hx]

theorem Moves.congr (h : Moves s u t b e c) (eq : ∀ x f, c x f = c' x f) : Moves s u t b e c' :=
  ⟨h.rest, h.here, h.others, fun x f => (h.counts x f).trans (eq x f)⟩

/-- Where only quiet times, reclaims and their count differ. -/
theorem Moves.aside (h : Moves s u t b e c) (quiet : SMap (Nat × Bool)) (reclaims : List Reclaim) (ent : SMap Nat) :
    Moves s { u with quiet := quiet, reclaims := reclaims, ent := ent } t b e c := by
  obtain ⟨_, _, _, _, hu⟩ := h.rest
  exact ⟨⟨_, _, _, _, by rw [hu]⟩, h.here, h.others, h.counts⟩

theorem Moves.unquiet (h : Moves s u t b e c) (x : Nat) : Moves s (unquiet u x) t b e c := by
  obtain ⟨_, _, _, hu⟩ := unquiet_rest u x
  rw [hu]
  exact h.aside ..

theorem Moves.noteArmed (h : Moves s u t b e c) (x : Nat) : Moves s (noteArmed u x) t b e c := by
  obtain ⟨_, hu⟩ := noteArmed_rest u x
  rw [hu]
  exact h.aside ..

end Moves

/-! ### Tiles pumped -/

section Pump
variable {s u v : State} {t k : Nat} {ts r : List Nat}

theorem pump_moves (h : moveTile s t = (true, ts, u)) : pump (k + 1) s (t :: r) = pump k u (t :: (r ++ ts)) := by
  simp [pump, h]

theorem pump_stays (h : (moveTile s t).1 = false) : pump (k + 1) s (t :: r) = pump k (noteArmed s t) r := by
  simp [pump, h]

/-- Tiles that nothing blocks do not move on when they are pumped. -/
theorem pump_unblocked (h : ∀ x ∈ ts, (tile s x).block = none) (t : Nat) :
    Moves s (pump k s ts) t (tile s t).block (tile s t).bar (flagCount s) := by
  induction k generalizing s ts with
  | zero => exact .refl s t
  | succ k ih =>
    cases ts with
    | nil => exact .refl s t
    | cons x r =>
      obtain ⟨free, rest⟩ := List.forall_mem_cons.1 h
      rw [pump_stays (by rw [moveTile_free free])]
      exact ((Moves.refl s t).noteArmed x).still (ih (s := noteArmed s x) (ts := r) fun y hy => by rw [tile_noteArmed]; exact rest y hy)

end Pump

/-! ### Children released -/

/-- The flags that the release of a barrier signals. -/
def BarDesc.kidFlags (b : BarDesc) : List (Nat × Nat) := b.children.map (fun c => (c.1, c.2.1))

/-- What every flag counts once each of some flags has one more. -/
def countUp (c : Nat → Nat → Nat) (l : List (Nat × Nat)) : Nat → Nat → Nat := fun x f => c x f + if (x, f) ∈ l then 1 else 0

section Kids
variable {s : State} {t j idx : Nat} {jb : Job} {b : BarDesc}

/-- A child of a running job here has its flag raised, and the children after it are released. -/
theorem releaseKids_cons {c : Nat × Nat × Bool × Nat} {l : List (Nat × Nat × Bool × Nat)} {ts : List Nat}
    (hj : jobOf s c.1 = some (j, jb)) (hr : jb.running = true) (hm : s.main = .ready) (near : c.2.2.1 = false)
    (room : flagCount s c.1 c.2.1 < 65535) :
    releaseKids t j idx (c :: l) ts s =
      releaseKids t j idx l (ts ++ [c.1]) (setFlag s c.1 c.2.1 (flagCount s c.1 c.2.1 + 1)) := by
  have runs : s.jobs.any (fun x => x.1 == j && x.2.running) = true :=
    List.any_eq_true.2 ⟨_, SMap.mem_of_find? (jobOf_some hj).2, by simp [hr]⟩
  rw [← addFlag_adds hj hr hm (by omega)]
  obtain ⟨x, f, rem, fa⟩ := c
  obtain rfl : rem = false := near
  simp [releaseKids, runs]

/-- Children of a running job here, each with a flag of its own: each flag has one more. -/
theorem releaseKids_here {l : List (Nat × Nat × Bool × Nat)} {ts : List Nat} (hr : jb.running = true) (hm : s.main = .ready)
    (here : ∀ c ∈ l, c.2.2.1 = false ∧ jobOf s c.1 = some (j, jb) ∧ flagCount s c.1 c.2.1 < 65535)
    (apart : (l.map (fun c => (c.1, c.2.1))).Nodup) :
    ∃ u, releaseKids t j idx l ts s = (ts ++ l.map (·.1), u) ∧
      Moves s u t (tile s t).block (tile s t).bar (countUp (flagCount s) (l.map (fun c => (c.1, c.2.1)))) := by
  induction l generalizing s ts with
  | nil => exact ⟨s, by simp [releaseKids], (Moves.refl s t).congr fun _ _ => by simp [countUp]⟩
  | cons c l ih =>
    obtain ⟨⟨near, job, room⟩, rest⟩ := List.forall_mem_cons.1 here
    obtain ⟨own, apart⟩ := List.nodup_cons.1 apart
    obtain ⟨v, hv⟩ : ∃ v, v = setFlag s c.1 c.2.1 (flagCount s c.1 c.2.1 + 1) := ⟨_, rfl⟩
    have set : Moves s v t _ _ _ := hv ▸ setFlag_moves s t c.1 c.2.1 (flagCount s c.1 c.2.1 + 1)
    have other : ∀ x f, (x, f) ≠ (c.1, c.2.1) → flagCount v x f = flagCount s x f := fun x f h => by
      rw [set.counts, countSet, if_neg (by simpa using h)]
    have still : ∀ d ∈ l, d.2.2.1 = false ∧ jobOf v d.1 = some (j, jb) ∧ flagCount v d.1 d.2.1 < 65535 := fun d hd => by
      obtain ⟨dnear, djob, droom⟩ := rest d hd
      have apart' : (d.1, d.2.1) ≠ (c.1, c.2.1) := fun e => own (List.mem_map.2 ⟨d, hd, e⟩)
      exact ⟨dnear, (set.jobOf _).trans djob, by rw [other _ _ apart']; exact droom⟩
    obtain ⟨u, released, moves⟩ := ih (ts := ts ++ [c.1]) (set.main.trans hm) still apart
    rw [set.block, set.bar] at moves
    refine ⟨u, by rw [releaseKids_cons job hr hm near room, ← hv, released]; simp, (set.trans moves).congr fun x f => ?_⟩
    by_cases e : (x, f) = (c.1, c.2.1)
    · obtain ⟨rfl, rfl⟩ := Prod.mk.inj e
      simp [countUp, set.counts, countSet, own]
    · have tail : (x, f) ∈ (c :: l).map (fun c => (c.1, c.2.1)) ↔ (x, f) ∈ l.map (fun c => (c.1, c.2.1)) := by
        rw [List.map_cons, List.mem_cons, or_iff_right e]
      simp only [countUp, other x f e, tail]

end Kids

/-! ### A barrier released -/

section Barrier
variable {s : State} {t j k : Nat} {jb : Job} {b : BarDesc}

/-- What every flag counts once a barrier has taken its release. -/
def releaseTaken (s : State) (t : Nat) (b : BarDesc) : Nat → Nat → Nat :=
  if b.root then flagCount s else countSet (flagCount s) t b.rflag (flagCount s t b.rflag - 1)

theorem unblock_moves (s : State) (t : Nat) : Moves s (unblock s t) t none none (flagCount s) := (setBlock_moves s t none none).unquiet t

/-- A barrier that is done releases its children, and its tile goes on (R130). -/
theorem barDone_moves (hj : jobOf s t = some (j, jb)) (hr : jb.running = true) (hm : s.main = .ready) (kids : KidsHere s t j jb b) :
    ∃ u, barDone s t b = (b.children.map (·.1), u) ∧ Moves s u t none none (countUp (releaseTaken s t b) b.kidFlags) := by
  obtain ⟨v, hv⟩ : ∃ v, v = if b.root then s else setFlag s t b.rflag (flagCount s t b.rflag - 1) := ⟨_, rfl⟩
  have taken : Moves s v t (tile s t).block (tile s t).bar (releaseTaken s t b) := by
    rw [hv, releaseTaken]
    split
    · exact Moves.refl s t
    · exact setFlag_moves ..
  have free := taken.trans (unblock_moves v t)
  have counts : ∀ x f, flagCount (unblock v t) x f = releaseTaken s t b x f := fun x f =>
    (free.counts x f).trans (taken.counts x f)
  have there : ∀ c ∈ b.children, c.2.2.1 = false ∧ jobOf (unblock v t) c.1 = some (j, jb) ∧ flagCount (unblock v t) c.1 c.2.1 < 65535 := by
    intro c hc
    obtain ⟨near, other, job, -, room⟩ := kids.here c hc
    have same : releaseTaken s t b c.1 c.2.1 = flagCount s c.1 c.2.1 := by
      unfold releaseTaken
      split
      · rfl
      · exact if_neg (fun h => other h.1)
    exact ⟨near, (free.jobOf _).trans job, by rw [counts, same]; exact room⟩
  obtain ⟨u, released, moves⟩ := releaseKids_here (t := t) (idx := (tile s t).blockIdx) (ts := []) hr (free.main.trans hm) there kids.apart
  rw [free.block, free.bar] at moves
  refine ⟨u, ?_, (free.trans moves).congr fun x f => by rw [countUp, countUp, counts]; rfl⟩
  unfold barDone
  dsimp only
  rw [(jobOf_some hj).1, ← hv]
  exact released

/-- The children of a barrier stand as they did while only their barrier's tile and other flags changed. -/
theorem KidsHere.moves {u : State} {d : Option Block} {e : Option BarDesc} {c : Nat → Nat → Nat} (h : KidsHere s t j jb b)
    (g : Moves s u t d e c) (hc : ∀ x f, x ≠ t → c x f = flagCount s x f) : KidsHere u t j jb b := by
  refine ⟨h.apart, fun kid hk => ?_⟩
  obtain ⟨near, other, job, free, room⟩ := h.here kid hk
  exact ⟨near, other, (g.jobOf _).trans job, (g.otherBlock other).trans free, by rw [g.counts, hc _ _ other]; exact room⟩

/-- A barrier whose release is there is done. -/
theorem moveTile_releases (hb : (tile s t).block = some .barRelease) (hd : (tile s t).bar = some b)
    (ready : b.root = true ∨ 1 ≤ flagCount s t b.rflag) : moveTile s t = (true, (barDone s t b).1, (barDone s t b).2) := by
  unfold moveTile
  dsimp only
  rw [hb, hd]
  exact if_pos (by simpa using ready)

/-- One whose release has not come stays (R130). -/
theorem moveTile_holds (hb : (tile s t).block = some .barRelease) (hd : (tile s t).bar = some b) (leaf : b.root = false)
    (none' : flagCount s t b.rflag = 0) : (moveTile s t).1 = false := by
  unfold moveTile
  dsimp only
  rw [hb, hd]
  simp [leaf, none']

/-- A barrier with all its arrivals reports. -/
theorem moveTile_reports (hb : (tile s t).block = some .barGather) (hd : (tile s t).bar = some b)
    (all : b.acount ≤ flagCount s t b.aflag) : moveTile s t = (true, (barReport s t b).1, (barReport s t b).2) := by
  unfold moveTile
  dsimp only
  rw [hb, hd]
  exact if_pos all

/-- One with arrivals missing stays. -/
theorem moveTile_gathers (hb : (tile s t).block = some .barGather) (hd : (tile s t).bar = some b)
    (missing : flagCount s t b.aflag < b.acount) : (moveTile s t).1 = false := by
  unfold moveTile
  dsimp only
  rw [hb, hd]
  exact congrArg Prod.fst (if_neg (by omega))

/-- One whose tile's engines are busy has not begun its gather. -/
theorem moveTile_busy (hb : (tile s t).block = some .barComplete) (hd : (tile s t).bar = some b)
    (busy : enginesIdle (tile s t) = false) : (moveTile s t).1 = false := by
  unfold moveTile
  dsimp only
  rw [hb, hd]
  simp [busy]

theorem moveTile_arrives (hb : (tile s t).block = some .barComplete) (hd : (tile s t).bar = some b)
    (idle : enginesIdle (tile s t) = true) : moveTile s t = (true, [], barArrive s t b) := by
  unfold moveTile
  dsimp only
  rw [hb, hd]
  exact if_pos idle

/-- A released barrier is done: its tile goes on, and each of its children has one more in its flag. -/
theorem pump_releases (hb : (tile s t).block = some .barRelease) (hd : (tile s t).bar = some b)
    (ready : b.root = true ∨ 1 ≤ flagCount s t b.rflag) (hj : jobOf s t = some (j, jb)) (hr : jb.running = true) (hm : s.main = .ready)
    (kids : KidsHere s t j jb b) : Moves s (pump (k + 1) s [t]) t none none (countUp (releaseTaken s t b) b.kidFlags) := by
  obtain ⟨u, done, moves⟩ := barDone_moves hj hr hm kids
  have moved := moveTile_releases hb hd ready
  rw [done] at moved
  have free : ∀ x ∈ t :: ([] ++ b.children.map (·.1)), (tile u x).block = none := by
    rw [List.nil_append]
    refine List.forall_mem_cons.2 ⟨moves.block, fun x hx => ?_⟩
    obtain ⟨c, hc, rfl⟩ := List.mem_map.1 hx
    obtain ⟨-, other, -, free, -⟩ := kids.here c hc
    exact (moves.otherBlock other).trans free
  rw [pump_moves moved]
  exact moves.still (pump_unblocked free t)

/-- What every flag counts once a barrier has taken its arrivals. -/
def gatherTaken (s : State) (t : Nat) (b : BarDesc) : Nat → Nat → Nat :=
  countSet (flagCount s) t b.aflag (flagCount s t b.aflag - b.acount)

/-- The state with the arrivals of a barrier taken, its tile waiting for the release. -/
def gatherEnded (s : State) (t : Nat) (b : BarDesc) : State :=
  let u := setFlag s t b.aflag (flagCount s t b.aflag - b.acount)
  unquiet (setTile u t { tile u t with block := some .barRelease }) t

theorem gatherEnded_moves (s : State) (t : Nat) (b : BarDesc) :
    Moves s (gatherEnded s t b) t (some .barRelease) (tile s t).bar (gatherTaken s t b) := by
  have taken := setFlag_moves s t t b.aflag (flagCount s t b.aflag - b.acount)
  have waits := setBlock_moves (setFlag s t b.aflag (flagCount s t b.aflag - b.acount)) t (some .barRelease)
    (tile (setFlag s t b.aflag (flagCount s t b.aflag - b.acount)) t).bar
  exact taken.bar ▸ (taken.next waits).unquiet t

theorem barReport_root (h : b.root = true) : barReport s t b = ([], gatherEnded s t b) := if_pos h

theorem barReport_leaf (h : b.root = false) (near : b.prem = false) :
    barReport s t b = ([b.pltile], addFlag (gatherEnded s t b) b.pltile b.pflag 1) := by
  unfold barReport
  dsimp only
  rw [h, near]
  rfl

/-- A root with all its arrivals takes them and is done (R130). -/
theorem pump_root (hb : (tile s t).block = some .barGather) (hd : (tile s t).bar = some b) (all : b.acount ≤ flagCount s t b.aflag)
    (root : b.root = true) (hj : jobOf s t = some (j, jb)) (hr : jb.running = true) (hm : s.main = .ready) (kids : KidsHere s t j jb b) :
    Moves s (pump (k + 2) s [t]) t none none (countUp (gatherTaken s t b) b.kidFlags) := by
  have moved := moveTile_reports hb hd all
  rw [barReport_root root] at moved
  have moves := gatherEnded_moves s t b
  have other : ∀ x f, x ≠ t → gatherTaken s t b x f = flagCount s x f := fun x f hx => if_neg (fun h => hx h.1)
  have done := pump_releases (k := k) moves.block (moves.bar.trans hd) (.inl root) ((moves.jobOf t).trans hj) hr (moves.main.trans hm)
    (kids.moves moves other)
  rw [pump_moves moved]
  refine (moves.trans done).congr fun x f => ?_
  rw [countUp, releaseTaken, if_pos root, moves.counts]
  rfl

/-- A barrier with all its arrivals takes them, reports to its parent, and waits for its release (R130). -/
theorem pump_reports (hb : (tile s t).block = some .barGather) (hd : (tile s t).bar = some b) (all : b.acount ≤ flagCount s t b.aflag)
    (leaf : b.root = false) (near : b.prem = false) (other : b.pltile ≠ t) (apart : b.aflag ≠ b.rflag) (none' : flagCount s t b.rflag = 0)
    (hp : jobOf s b.pltile = some (j, jb)) (hr : jb.running = true) (hm : s.main = .ready) (free : (tile s b.pltile).block = none)
    (room : flagCount s b.pltile b.pflag < 65535) :
    Moves s (pump (k + 2) s [t]) t (some .barRelease) (some b)
      (countSet (gatherTaken s t b) b.pltile b.pflag (flagCount s b.pltile b.pflag + 1)) := by
  have moves := gatherEnded_moves s t b
  have parent : flagCount (gatherEnded s t b) b.pltile b.pflag = flagCount s b.pltile b.pflag :=
    (moves.counts ..).trans (if_neg (fun h => other h.1))
  have raised : addFlag (gatherEnded s t b) b.pltile b.pflag 1 =
      setFlag (gatherEnded s t b) b.pltile b.pflag (flagCount s b.pltile b.pflag + 1) := by
    rw [addFlag_adds ((moves.jobOf _).trans hp) hr (moves.main.trans hm) (by omega), parent]
  have moved := moveTile_reports hb hd all
  rw [barReport_leaf leaf near, raised] at moved
  have reported := moves.trans (setFlag_moves (gatherEnded s t b) t b.pltile b.pflag (flagCount s b.pltile b.pflag + 1))
  rw [moves.block, moves.bar, hd] at reported
  have held : flagCount (setFlag (gatherEnded s t b) b.pltile b.pflag (flagCount s b.pltile b.pflag + 1)) t b.rflag = 0 := by
    rw [reported.counts, countSet, if_neg (fun h => other h.1.symm), moves.counts, gatherTaken, countSet,
      if_neg (fun h => apart h.2.symm), none']
  have ends' : ∀ x ∈ [b.pltile],
      (tile (noteArmed (setFlag (gatherEnded s t b) b.pltile b.pflag (flagCount s b.pltile b.pflag + 1)) t) x).block = none :=
    fun x hx => by rw [List.mem_singleton.1 hx, tile_noteArmed, reported.otherBlock other, free]
  rw [pump_moves moved, pump_stays (moveTile_holds reported.block reported.bar leaf held)]
  refine ((reported.noteArmed t).still (pump_unblocked ends' t)).congr fun x f => ?_
  rw [countSet, countSet, moves.counts]

end Barrier

end Sys2Proof.Machine

namespace Sys2Proof.Machine

/-! ### Signals to a barrier's flags -/

section BarrierSignal
variable {s r : State} {t f j : Nat} {jb : Job} {b : BarDesc} {m : BitVec 16} {c : Nat → Nat → Nat}

/-- A barrier of tile `t` as a state shows it: the tile's block and descriptor, and what every flag counts. -/
structure BarrierAt (r : State) (t : Nat) (block : Option Block) (bar : Option BarDesc) (count : Nat → Nat → Nat) : Prop where
  block : (tile r t).block = block
  bar : (tile r t).bar = bar
  counts : ∀ x f, flagCount r x f = count x f

theorem Moves.noted {u : State} {d : Option Block} {e : Option BarDesc} (h : Moves s u t d e c) :
    BarrierAt (noteState r u) t d e c :=
  ⟨by rw [tile_noteState, h.block], by rw [tile_noteState, h.bar],
    fun x f => (flagCount_congr (by rw [tile_noteState]) f).trans (h.counts x f)⟩

/-- A signal command by what its signal moves. -/
theorem flagSignal_moves {d : Option Block} {e : Option BarDesc} (hi : s.Inv) (hf : f < 48) (hm : m ≠ 0#16)
    (h : Moves s (signal s t f m.toNat) t d e c) :
    ∃ r, exec (.flagSignal t f m) s = .next r ∧ BarrierAt r t d e c ∧ r.mem = s.mem ∧ r.jobs = s.jobs :=
  ⟨_, (exec_flagSignal hf hm).trans (ends_noted s _ (h.touched.trans hi.charged) (h.stalled.trans hi.inReach)), h.noted,
    (noteState_mem ..).trans h.mem, (noteState_jobs ..).trans h.jobs⟩

/-- No child of a barrier is its own tile. -/
theorem KidsHere.not_own (h : KidsHere s t j jb b) (f : Nat) : (t, f) ∉ b.kidFlags := fun hm => by
  obtain ⟨kid, hk, e⟩ := List.mem_map.1 hm
  exact (h.here kid hk).2.1 (congrArg Prod.fst e)

theorem countUp_own (h : KidsHere s t j jb b) (c : Nat → Nat → Nat) (f : Nat) : countUp c b.kidFlags t f = c t f := by
  rw [countUp, if_neg (h.not_own f), Nat.add_zero]

/-- The children of a barrier are released where each has one more than other tiles' flags counted before. -/
theorem released_of_counts (h : ∀ x f, flagCount r x f = countUp c b.kidFlags x f) (other : ∀ x f, x ≠ t → c x f = flagCount s x f) :
    Released s r t b := fun x f hx => by
  rw [h, countUp, other x f hx]
  rfl

theorem countSet_same (c : Nat → Nat → Nat) (t f n : Nat) : countSet c t f n t f = n := if_pos ⟨rfl, rfl⟩

theorem countSet_flag {g : Nat} (c : Nat → Nat → Nat) (t n : Nat) (h : g ≠ f) : countSet c t f n t g = c t g :=
  if_neg (fun e => h e.2)

theorem countSet_tile {x : Nat} (c : Nat → Nat → Nat) (f n g : Nat) (h : x ≠ t) : countSet c t f n x g = c x g :=
  if_neg (fun e => h e.1)

/-- A root that is done has taken its arrivals and released its children. -/
theorem BarrierAt.taken {d : Option Block} {e : Option BarDesc} {n : Nat} (kids : KidsHere s t j jb b)
    (h : BarrierAt r t d e (countUp (countSet (flagCount s) t b.aflag n) b.kidFlags)) :
    flagCount r t b.aflag = n ∧ (∀ f, f ≠ b.aflag → flagCount r t f = flagCount s t f) ∧ Released s r t b :=
  ⟨(h.counts ..).trans ((countUp_own kids ..).trans (countSet_same ..)),
    fun _ hf => (h.counts ..).trans ((countUp_own kids ..).trans (countSet_flag _ _ _ hf)),
    released_of_counts h.counts fun _ _ hx => countSet_tile _ _ _ _ hx⟩

/-- A barrier that has reported has taken its arrivals, and its parent's flag has the report. -/
theorem BarrierAt.reported {d : Option Block} {e : Option BarDesc} {n m : Nat} (other : b.pltile ≠ t)
    (h : BarrierAt r t d e (countSet (countSet (flagCount s) t b.aflag n) b.pltile b.pflag m)) :
    flagCount r t b.aflag = n ∧ (∀ f, f ≠ b.aflag → flagCount r t f = flagCount s t f) ∧ flagCount r b.pltile b.pflag = m :=
  ⟨(h.counts ..).trans ((countSet_tile _ _ _ _ other.symm).trans (countSet_same ..)),
    fun _ hf => (h.counts ..).trans ((countSet_tile _ _ _ _ other.symm).trans (countSet_flag _ _ _ hf)),
    (h.counts ..).trans (countSet_same ..)⟩

/-- A signal with room, to a tile of a running job, sets its flag and pumps the tile. -/
theorem signal_pumps (hj : jobOf s t = some (j, jb)) (hr : jb.running = true) (hm : s.main = .ready) {n : Nat}
    (hn : flagCount s t f + n ≤ 65535) : ∃ k, signal s t f n = pump (k + 2) (setFlag s t f (flagCount s t f + n)) [t] := by
  obtain ⟨k, fuel⟩ := pumpFuel_eq s
  exact ⟨k + 1598, by rw [signal, addFlag_adds hj hr hm hn, fuel]⟩

/-- The release of a barrier arrives: it is done, and its release flag reads as before (R130). -/
theorem signal_releases (hj : jobOf s t = some (j, jb)) (hr : jb.running = true) (hm : s.main = .ready)
    (hb : (tile s t).block = some .barRelease) (hd : (tile s t).bar = some b) (leaf : b.root = false) (kids : KidsHere s t j jb b)
    (hz : flagCount s t b.rflag = 0) : Moves s (signal s t b.rflag 1) t none none (countUp (flagCount s) b.kidFlags) := by
  obtain ⟨k, pumped⟩ := signal_pumps (f := b.rflag) (n := 1) hj hr hm (by omega)
  rw [hz, Nat.zero_add] at pumped
  have set := setFlag_moves s t t b.rflag 1
  have one : flagCount (setFlag s t b.rflag 1) t b.rflag = 1 := flagCount_setFlag ..
  have done := pump_releases (k := k + 1) (set.block.trans hb) (set.bar.trans hd) (.inr one.ge) ((set.jobOf t).trans hj) hr
    (set.main.trans hm) (kids.moves set fun x f hx => countSet_tile _ _ _ _ hx)
  rw [pumped]
  refine (set.trans done).congr fun x f => ?_
  rw [countUp, countUp, releaseTaken, if_neg (by simp [leaf]), one, countSet]
  split
  · rename_i h
    rw [h.1, h.2, hz]
  · rename_i h
    rw [flagCount_setFlag_eq, countSet, if_neg h]

end BarrierSignal

/-! ### Arrivals -/

section Arrivals
variable {s u : State} {t f j n k : Nat} {jb : Job} {b : BarDesc}

/-- With arrivals missing the barrier stays in its gather. -/
theorem Moves.gathers (h : Moves s u t (some .barGather) (some b) (countSet (flagCount s) t b.aflag n)) (missing : n < b.acount) :
    pump (k + 1) u [t] = Machine.noteArmed u t := by
  rw [pump_stays (moveTile_gathers h.block h.bar (by rw [h.counts, countSet_same]; exact missing))]
  exact pump_nil ..

/-- The arrivals that a barrier takes once it has them all. -/
theorem Moves.gatherTaken (h : Moves s u t (some .barGather) (some b) (countSet (flagCount s) t b.aflag n)) (x f : Nat) :
    gatherTaken u t b x f = countSet (flagCount s) t b.aflag (n - b.acount) x f := by
  rw [Machine.gatherTaken, h.counts, countSet_same, countSet, countSet, h.counts, countSet]
  split <;> rfl

/-- With all its arrivals a root is done. -/
theorem Moves.root (h : Moves s u t (some .barGather) (some b) (countSet (flagCount s) t b.aflag n)) (all : b.acount ≤ n)
    (root : b.root = true) (hj : Machine.jobOf s t = some (j, jb)) (hr : jb.running = true) (hm : s.main = .ready)
    (kids : KidsHere s t j jb b) :
    Moves s (pump (k + 2) u [t]) t none none (countUp (countSet (flagCount s) t b.aflag (n - b.acount)) b.kidFlags) := by
  have done := pump_root (k := k) h.block h.bar (by rw [h.counts, countSet_same]; exact all) root ((h.jobOf t).trans hj) hr
    (h.main.trans hm) (kids.moves h fun x f hx => countSet_tile _ _ _ _ hx)
  exact (h.trans done).congr fun x f => by rw [countUp, countUp, h.gatherTaken]

/-- Any other reports to its parent, and waits for its release. -/
theorem Moves.reports (h : Moves s u t (some .barGather) (some b) (countSet (flagCount s) t b.aflag n)) (all : b.acount ≤ n)
    (leaf : b.root = false) (near : b.prem = false) (other : b.pltile ≠ t) (apart : b.aflag ≠ b.rflag) (hz : flagCount s t b.rflag = 0)
    (hp : Machine.jobOf s b.pltile = some (j, jb)) (hr : jb.running = true) (hm : s.main = .ready) (free : (tile s b.pltile).block = none)
    (room : flagCount s b.pltile b.pflag < 65535) :
    Moves s (pump (k + 2) u [t]) t (some .barRelease) (some b)
      (countSet (countSet (flagCount s) t b.aflag (n - b.acount)) b.pltile b.pflag (flagCount s b.pltile b.pflag + 1)) := by
  have parent : flagCount u b.pltile b.pflag = flagCount s b.pltile b.pflag := (h.counts ..).trans (countSet_tile _ _ _ _ other)
  have done := pump_reports (k := k) h.block h.bar (by rw [h.counts, countSet_same]; exact all) leaf near other apart
    ((h.counts ..).trans ((countSet_flag _ _ _ apart.symm).trans hz)) ((h.jobOf _).trans hp) hr (h.main.trans hm)
    ((h.otherBlock other).trans free) (by rw [parent]; exact room)
  refine (h.trans done).congr fun x f => ?_
  rw [countSet, parent, h.gatherTaken]
  rfl

/-- An arrival counted at a barrier in its gather. -/
theorem arrival_moves (hb : (tile s t).block = some .barGather) (hd : (tile s t).bar = some b) (n : Nat) :
    Moves s (setFlag s t b.aflag n) t (some .barGather) (some b) (countSet (flagCount s) t b.aflag n) :=
  hb ▸ hd ▸ setFlag_moves s t t b.aflag n

/-- A tile whose engines are idle adds its own arrival (R130). -/
theorem barArrive_moves (hd : (tile s t).bar = some b) (hj : jobOf s t = some (j, jb)) (hr : jb.running = true) (hm : s.main = .ready)
    (hn : flagCount s t b.aflag + 1 ≤ 65535) :
    Moves s (barArrive s t b) t (some .barGather) (some b) (countSet (flagCount s) t b.aflag (flagCount s t b.aflag + 1)) := by
  have begins := setBlock_moves s t (some .barGather) (tile s t).bar
  have added := addFlag_adds (f := b.aflag) (n := 1) ((begins.jobOf t).trans hj) hr (begins.main.trans hm)
    (by rw [begins.counts]; exact hn)
  rw [begins.counts] at added
  have arrives := begins.trans (arrival_moves begins.block (begins.bar.trans hd) (flagCount s t b.aflag + 1))
  rw [← added] at arrives
  exact arrives.congr fun x f => by rw [countSet, countSet, begins.counts]

end Arrivals

/-! ### BAR at decode -/

section Bar
variable {o s u : State} {t w j e : Nat} {jb : Job} {b : BarDesc}

/-- The work that a regulator admits at once is done whole. -/
theorem Admits.whole {f : State → State} (h : Admits s (f s) e) : ∃ ent regU paid,
    whole s e f = { f s with touched := [], ent := ent, regU := regU, paid := paid } := by
  obtain ⟨ent, regU, paid, v, admitted⟩ := h.admitWork
  have near : (f s).stalled.isSome = false := by
    rw [h.1]
    rfl
  refine ⟨ent, regU, paid, ?_⟩
  unfold Machine.whole
  dsimp only
  rw [near, if_neg Bool.false_ne_true, admitted]

/-- The child entries of a descriptor are read as they stand. -/
theorem readKids_known {a n : Nat} (hs : Sees o s) (h : ∀ i, i < min n 64 → Readable o jb .normal (8 * (a + 16 + 8 * i)) 64) :
    ∃ u, readKids s jb t a n = (.val 0, (List.range (min n 64)).map (fun i => peekBits o (8 * (a + 16 + 8 * i)) 64), u) ∧
      Touched s u := by
  unfold readKids
  generalize min n 64 = m at h
  induction m with
  | zero => exact ⟨s, rfl, .refl s⟩
  | succ m ih =>
    obtain ⟨u, read, hu⟩ := ih fun i hi => h i (by omega)
    obtain ⟨v, last, hv⟩ := readElem_known (how := plain (.tile t)) (hs.trans hu.sees) (h m (by omega))
    refine ⟨v, ?_, hu.trans hv⟩
    rw [List.range_succ, List.foldl_append, read, List.map_append]
    dsimp only [List.foldl_cons, List.foldl_nil]
    rw [last]
    rfl

/-- The tile blocked at a word. -/
def heldTile (v : Tile) (d : Block) (e : Option BarDesc) (time : Nat) : Tile :=
  { v with block := some d, blockIdx := v.word, blockAt := time, bar := e }

/-- `u` is `s` with accesses noted and with tile `t` past its word, blocked there. -/
structure Blocked (s u : State) (t : Nat) (d : Block) (e : Option BarDesc) : Prop where
  rest : ∃ tiles touched, u = { s with tiles := tiles, touched := touched }
  here : tile u t = pastWord (heldTile (tile s t) d e s.time)
  others : ∀ x, x ≠ t → tile u x = tile s x

/-- A running tile that is blocked goes past its word, and moves on where nothing holds it. -/
theorem blockOn_blocked {d : Block} {e : Option BarDesc} (hs : Touched s u) (hr : (tile s t).running = true) :
    ∃ v, blockOn u t d e = wake v t ∧ Blocked s v t d e := by
  obtain ⟨touched, rfl⟩ := hs
  obtain ⟨v, hv⟩ : ∃ v, v = setTile { s with touched := touched } t (heldTile (tile s t) d e s.time) := ⟨_, rfl⟩
  have here : tile v t = heldTile (tile s t) d e s.time := by rw [hv, tile_setTile]
  refine ⟨setTile v t (pastWord (heldTile (tile s t) d e s.time)), ?_, ⟨_, _, by rw [hv]; rfl⟩, tile_setTile .., fun y hy => ?_⟩
  · have next := nextWord_running (s := v) (t := t) (by rw [here]; exact hr)
    rw [here, hv] at next
    rw [hv]
    exact congrArg (wake · t) next
  · rw [tile_setTile_other _ _ _ _ hy, hv]
    exact tile_setTile_other _ _ _ _ hy

theorem Blocked.flagCount {d : Block} {e : Option BarDesc} (h : Blocked s u t d e) : flagCount u = flagCount s :=
  funext fun x => funext fun f => flagCount_congr (by
    by_cases hx : x = t
    · rw [hx, h.here]
      rfl
    · rw [h.others x hx]) f

theorem Blocked.jobOf {d : Block} {e : Option BarDesc} (h : Blocked s u t d e) (x : Nat) : jobOf u x = jobOf s x := by
  refine jobOf_congr ?_ ?_
  · by_cases hx : x = t
    · rw [hx, h.here]
      rfl
    · rw [h.others x hx]
  · obtain ⟨_, _, hu⟩ := h.rest
    rw [hu]

theorem Blocked.main {d : Block} {e : Option BarDesc} (h : Blocked s u t d e) : u.main = s.main := by
  obtain ⟨_, _, hu⟩ := h.rest
  rw [hu]

theorem Blocked.mem {d : Block} {e : Option BarDesc} (h : Blocked s u t d e) : u.mem = s.mem := by
  obtain ⟨_, _, hu⟩ := h.rest
  rw [hu]

theorem Blocked.jobs {d : Block} {e : Option BarDesc} (h : Blocked s u t d e) : u.jobs = s.jobs := by
  obtain ⟨_, _, hu⟩ := h.rest
  rw [hu]

theorem Blocked.kids {d : Block} {e : Option BarDesc} (h : Blocked s u t d e) (kids : KidsHere s t j jb b) : KidsHere u t j jb b := by
  refine ⟨kids.apart, fun kid hk => ?_⟩
  obtain ⟨near, other, job, free, room⟩ := kids.here kid hk
  exact ⟨near, other, (h.jobOf _).trans job, by rw [h.others _ other]; exact free, by rw [h.flagCount]; exact room⟩

/-- A BAR with a readable descriptor that is in order blocks its tile with the barrier. -/
theorem barRun_blocks {a d : Nat} {cs : List Nat} (ha : 0x002000000000 + t * 0x100000 + bits w 111 92 = a)
    (hd : peekBits s (8 * a) 128 = d)
    (hcs : (List.range (min (bits d 86 80) 64)).map (fun i => peekBits s (8 * (a + 16 + 8 * i)) 64) = cs)
    (hj : jobOf s t = some (j, jb)) (hr : (tile s t).running = true)
    (free : hazard (tile s t) (hazardParts s t (a, a + 16 + 8 * 64 - 1)) [] = false) (readable : Readable s jb .normal (8 * a) 128)
    (kids : ∀ i, i < min (bits d 86 80) 64 → Readable s jb .normal (8 * (a + 16 + 8 * i)) 64) (ok : barCause d cs = none) :
    ∃ u, barRun t s w = wake u t ∧ Blocked s u t .barComplete (some (barDesc d cs)) := by
  obtain ⟨v, read, hv⟩ := readElem_known (how := plain (.tile t)) (.refl s) readable
  obtain ⟨v', readKids, hv'⟩ := readKids_known (t := t) hv.sees kids
  obtain ⟨u, blocked, hu⟩ := blockOn_blocked (d := .barComplete) (e := some (barDesc d cs)) (hv.trans hv') hr
  refine ⟨u, ?_, hu⟩
  rw [hd] at read
  rw [hcs] at readKids
  unfold barRun
  rw [hj]
  dsimp only
  rw [ha, free, read, if_neg Bool.false_ne_true]
  dsimp only
  rw [readKids]
  dsimp only
  rw [ok]
  exact blocked

/-- A BAR word that its regulator admits at once, by what waking its blocked tile moves. -/
theorem bar_moves {d : Option Block} {e : Option BarDesc} {c : Nat → Nat → Nat} (h : AtDecode s t w) (hop : wOpcode w = 0x23)
    (adm : Admits s (issue s t (opIs 0x23) (barRun t)) 4) (run : barRun t s w = wake u t)
    (hu : Blocked s u t .barComplete (some b)) (hm : Moves u (wake u t) t d e c) :
    ∃ r, exec (.bar t) s = .next r ∧ (tile r t).word = (tile s t).word + 1 ∧ r.mem = s.mem ∧ r.jobs = s.jobs ∧ BarrierAt r t d e c := by
  obtain ⟨ent, regU, paid, done⟩ := Admits.whole (f := fun s => issue s t (opIs 0x23) (barRun t)) adm
  have near := adm.1
  have issued : issue s t (opIs 0x23) (barRun t) = wake u t := (h.issue (mine := opIs 0x23) (beq_iff_eq.2 hop)).trans run
  rw [issued] at done near
  have word : (tile (wake u t) t).word = (tile s t).word + 1 := hm.word.trans (by rw [hu.here]; rfl)
  refine ⟨_, (congrArg (ends s) done).trans (ends_noted s _ rfl near), ?_, ?_, ?_, ?_, ?_, fun x f => ?_⟩
  · rw [tile_noteState]
    exact word
  · exact (noteState_mem ..).trans (hm.mem.trans hu.mem)
  · exact (noteState_jobs ..).trans (hm.jobs.trans hu.jobs)
  · rw [tile_noteState]
    exact hm.block
  · rw [tile_noteState]
    exact hm.bar
  · rw [flagCount, tile_noteState]
    exact hm.counts x f

/-- With its engines busy the tile stays where BAR has blocked it. -/
theorem Blocked.busy (h : Blocked s u t .barComplete (some b)) (busy : enginesIdle (tile s t) = false) :
    Moves u (wake u t) t (some .barComplete) (some b) (Machine.flagCount s) := by
  obtain ⟨k, fuel⟩ := pumpFuel_eq u
  have block : (tile u t).block = some .barComplete := by rw [h.here]; rfl
  have bar : (tile u t).bar = some b := by rw [h.here]; rfl
  have same : enginesIdle (tile u t) = false := by rw [h.here]; exact busy
  have armed := ((Moves.refl u t).noteArmed t).noteArmed t
  rw [wake, fuel, pump_stays (moveTile_busy block bar same), pump_nil, ← h.flagCount]
  rwa [block, bar] at armed

/-- With its engines idle the tile adds its own arrival and gathers. -/
theorem Blocked.arrives (h : Blocked s u t .barComplete (some b)) (hj : Machine.jobOf s t = some (j, jb)) (hr : jb.running = true)
    (hm : s.main = .ready) (idle : enginesIdle (tile s t) = true) (room : Machine.flagCount s t b.aflag + 1 ≤ 65535) :
    ∃ k v, wake u t = noteArmed (pump (k + 2) v [t]) t ∧ Moves u v t (some .barGather) (some b)
      (countSet (Machine.flagCount u) t b.aflag (Machine.flagCount s t b.aflag + 1)) := by
  obtain ⟨k, fuel⟩ := pumpFuel_eq u
  have block : (tile u t).block = some .barComplete := by rw [h.here]; rfl
  have bar : (tile u t).bar = some b := by rw [h.here]; rfl
  have same : enginesIdle (tile u t) = true := by rw [h.here]; exact idle
  have moves := barArrive_moves bar ((h.jobOf t).trans hj) hr (h.main.trans hm) (by rw [h.flagCount]; exact room)
  rw [h.flagCount] at moves ⊢
  exact ⟨k + 1597, _, by rw [wake, fuel, pump_moves (moveTile_arrives block bar same)]; rfl, moves⟩

/-- The flags of a descriptor that is in order are two (R131). -/
theorem aflag_ne_rflag {d : Nat} {cs : List Nat} (h : barCause d cs = none) : (barDesc d cs).aflag ≠ (barDesc d cs).rflag := by
  have second := firstCause_eq_none h _ (List.mem_cons_of_mem _ List.mem_cons_self)
  simp only [Bool.or_eq_false_iff, beq_eq_false_iff_ne] at second
  exact second.2

end Bar

/-- Settles O20: a barrier blocked at its word arrives, gathers, reports, is released and releases, step by step. -/
theorem barriersGatherAndRelease : Obligations.BarriersGatherAndRelease := by
  refine ⟨fun s t w j jb h hop hj hr adm => ?bar, fun s t j jb b hi hj hr hm hb hd leaf kids hf hz => ?release,
    fun s t j m jb b hi hj hr hm hb hd hf hn => ?arrival⟩
  case bar =>
    intro a d kid cs b k free readable readKids ok goes
    have ready := headWord_ready h.head
    obtain ⟨u, run, hu⟩ := barRun_blocks (w := w) (a := a) (d := d) (cs := cs) rfl rfl rfl hj (headWord_running h.head) free readable readKids ok
    refine ⟨fun busy => ?_, fun idle room => ?_⟩
    · obtain ⟨r, runs, word, mem, jobs, at'⟩ := bar_moves h hop adm run hu (hu.busy busy)
      exact ⟨r, runs, word, mem, jobs, at'.block, at'.bar, at'.counts t⟩
    · obtain ⟨n, v, woken, gather⟩ := hu.arrives hj hr ready idle room
      have job := (hu.jobOf t).trans hj
      have main := hu.main.trans ready
      refine ⟨fun missing => ?_, fun all root kids => ?_, fun all leaf near other hz hp pfree proom => ?_⟩
      · have moves := woken ▸ ((gather.gathers (k := n + 1) missing) ▸ gather.noteArmed t).noteArmed t
        obtain ⟨r, runs, word, mem, jobs, at'⟩ := bar_moves h hop adm run hu moves
        rw [hu.flagCount] at at'
        exact ⟨r, runs, word, mem, jobs, at'.block, at'.bar, (at'.counts ..).trans (countSet_same ..),
          fun f hf => (at'.counts ..).trans (countSet_flag _ _ _ hf)⟩
      · have moves := woken ▸ (gather.root (k := n) all root job hr main (hu.kids kids)).noteArmed t
        obtain ⟨r, runs, word, mem, jobs, at'⟩ := bar_moves h hop adm run hu moves
        rw [hu.flagCount] at at'
        exact ⟨r, runs, word, mem, jobs, at'.block, at'.taken kids⟩
      · have moves := woken ▸ (gather.reports (k := n) all leaf near other (aflag_ne_rflag ok) (by rw [hu.flagCount]; exact hz)
          ((hu.jobOf _).trans hp) hr main (by rw [hu.others _ other]; exact pfree) (by rw [hu.flagCount]; exact proom)).noteArmed t
        obtain ⟨r, runs, word, mem, jobs, at'⟩ := bar_moves h hop adm run hu moves
        rw [hu.flagCount] at at'
        obtain ⟨own, -, parent⟩ := at'.reported other
        exact ⟨r, runs, word, mem, jobs, at'.block, at'.bar, own, parent⟩
  case release =>
    obtain ⟨r, runs, at', mem, jobs⟩ := flagSignal_moves (m := 1#16) hi hf (by decide)
      (signal_releases hj hr hm hb hd leaf kids hz)
    exact ⟨r, runs, at'.block, at'.bar, fun f => (at'.counts ..).trans (countUp_own kids ..),
      released_of_counts at'.counts fun _ _ _ => rfl, mem, jobs⟩
  case arrival =>
    intro k goes room
    obtain ⟨n, pumped⟩ := signal_pumps (f := b.aflag) (n := m.toNat) hj hr hm room
    have gather := arrival_moves hb hd k
    refine ⟨fun missing => ?_, fun all root kids => ?_, fun all leaf near other apart hz hp pfree proom => ?_⟩
    · rw [exec_flagSignal hf hn, pumped, gather.gathers missing]
      exact ends_noted s _ ((noteArmed_touched ..).trans hi.charged) ((noteArmed_stalled ..).trans hi.inReach)
    · obtain ⟨r, runs, at', mem, jobs⟩ := flagSignal_moves hi hf hn (pumped ▸ gather.root (k := n) all root hj hr hm kids)
      exact ⟨r, runs, mem, jobs, at'.block, at'.bar, at'.taken kids⟩
    · obtain ⟨r, runs, at', mem, jobs⟩ := flagSignal_moves hi hf hn
        (pumped ▸ gather.reports (k := n) all leaf near other apart hz hp hr hm pfree proom)
      exact ⟨r, runs, mem, jobs, at'.block, at'.bar, at'.reported other⟩

end Sys2Proof.Machine

namespace Sys2Proof.Machine

/-! ## Tables gathered and scattered (R105, R106) -/

/-! ### Elements that a generator walks -/

section Walk
variable {o s u : State} {t w j : Nat} {jb : Job} {how : How} {g : Gen}

/-- Element `n` of a generator from the base `a0`: zero where padded, what memory holds elsewhere (R89). -/
def elemAt (s : State) (g : Gen) (a0 n : Nat) : Nat :=
  if g.padded (g.flat n) then 0 else peekBits s (g.bitAddr a0 (g.flat n)) g.width

/-- Readable elements of a generator are taken as they stand. -/
theorem takeAll_known {a0 k n : Nat} {b : RBuf} {acc : List EAcc} (hs : Sees o s) (hb : BufKnown o b)
    (h : ∀ i, n ≤ i → i < n + k → g.padded (g.flat i) = false → Readable o jb how.hint (g.bitAddr a0 (g.flat i)) g.width) :
    ∃ u, takeAll jb how g a0 k n b acc s =
      (.val 0, acc.reverse ++ (List.range' n k).map (fun i => .val (elemAt o g a0 i)), u) ∧ Touched s u := by
  induction k generalizing n b acc s with
  | zero => exact ⟨s, by simp [takeAll], .refl s⟩
  | succ k ih =>
    have rest := fun (i : Nat) (lo : n + 1 ≤ i) (hi : i < n + 1 + k) => h i (by omega) (by omega)
    have next : (List.range' n (k + 1)).map (fun i => EAcc.val (elemAt o g a0 i)) =
        .val (elemAt o g a0 n) :: (List.range' (n + 1) k).map (fun i => .val (elemAt o g a0 i)) := rfl
    cases hp : g.padded (g.flat n)
    case true =>
      obtain ⟨u, taken, hu⟩ := ih (acc := .val 0 :: acc) hs hb rest
      have zero : elemAt o g a0 n = 0 := by rw [elemAt, hp]; rfl
      refine ⟨u, ?_, hu⟩
      rw [next, zero, takeAll]
      simpa [hp] using taken
    case false =>
      obtain ⟨b', v, read, hv, hb'⟩ := readElemB_known (how := how) hs hb (h n le_rfl (by omega) hp)
      obtain ⟨u, taken, hu⟩ := ih (acc := .val (peekBits o (g.bitAddr a0 (g.flat n)) g.width) :: acc) (hs.trans hv.sees) hb' rest
      have value : elemAt o g a0 n = peekBits o (g.bitAddr a0 (g.flat n)) g.width := by rw [elemAt, hp]; rfl
      refine ⟨u, ?_, hv.trans hu⟩
      rw [next, value, takeAll]
      simpa [hp, read] using taken

/-- The base of a generator depends on its tile's argument base alone. -/
theorem withBsel_congr (h : (tile u t).argBase = (tile s t).argBase) (bsel base : Nat) : withBsel u t bsel base = withBsel s t bsel base := by
  unfold withBsel
  rw [h]

theorem a0_congr (h : (tile u t).argBase = (tile s t).argBase) (g : Gen) : g.a0 u t = g.a0 s t := withBsel_congr h ..

theorem rowIndex_eq (s : State) (t w i : Nat) : rowIndex s t w i =
    if bit1 w 119 then i else elemAt s (gen (tile s t) (wSgen w)) ((gen (tile s t) (wSgen w)).a0 s t) i := rfl

/-- The indices of a GATHER or SCATTERADD are read as they stand. -/
theorem indices_known (hs : Sees o s) (base : ∀ g : Gen, g.a0 s t = g.a0 o t) (h : IndicesReadable o t w jb how.hint) :
    ∃ u, indices s jb how t w (gen (tile o t) (wSgen w)) =
      (.val 0, (List.range (gRows w (tile o t))).map (fun i => .val (rowIndex o t w i)), u) ∧ Touched s u := by
  unfold indices
  cases hc : bit1 w 119
  case true =>
    refine ⟨s, ?_, .refl s⟩
    simp [rowIndex_eq, hc, gRows]
  case false =>
    obtain ⟨u, taken, hu⟩ := takeAll_known (how := how) (acc := []) (n := 0) (k := gRows w (tile o t)) hs (bufKnown_none o)
      (fun i _ hi hp => h hc i (by rwa [Nat.zero_add] at hi) hp)
    refine ⟨u, ?_, hu⟩
    rw [base]
    simp only [rowIndex_eq, hc, Bool.false_eq_true, if_false, List.range_eq_range']
    exact taken

theorem product_pos (g : Gen) (p : Nat → Bool) : 0 < g.product p :=
  foldl_keeps (0 < ·) _ (fun _ _ h => Nat.mul_pos h (Nat.succ_pos _)) _ 1 one_pos

theorem gRows_pos (w : Nat) (v : Tile) : 0 < gRows w v := by
  rw [gRows, Gen.total]
  exact product_pos ..

/-- A checked GATHER or SCATTERADD has as many bits in its elements as in its rows. -/
theorem gather_bits {scatter : Bool} (h : checkGather s t w scatter = none) :
    (gen (tile s t) (wDgen w)).total * (gen (tile s t) (wDgen w)).width = gRows w (tile s t) * gLen w * 8 := by
  have second := firstCause_eq_none h _ (List.mem_cons_of_mem _ List.mem_cons_self)
  simp only [Bool.or_eq_false_iff, bne_eq_false_iff_eq] at second
  exact second.2

theorem AtDecode.checkGather (h : AtDecode s t w) (hop : wOpcode w = 0x12) : checkGather s t w false = none := by
  have checked := h.checked
  unfold checkWord at checked
  split at checked
  · cases checked
  · split at checked
    · cases checked
    · rw [hop] at checked
      exact checked

end Walk

/-! ### Rows gathered -/

section Gather
variable {o s : State} {t w : Nat} {jb : Job} {how : How}

/-- The words of a row that a GATHER reads. -/
def gatherRow (s : State) (t w i : Nat) : List (Option (List Byte)) :=
  (List.range (gLen w / 64)).map (fun k =>
    if rowIndex s t w i = 0xFFFFFFFF then some (List.replicate 64 0#8) else peekWord s (tableWord s t w i k))

theorem gathered_eq (s : State) (t w : Nat) : gathered s t w = (List.range (gRows w (tile s t))).flatMap (gatherRow s t w) := rfl

/-- Known words of a row that the job may read are read as they stand. -/
theorem rowWords_known {a k n : Nat} {acc : List (Option (List Byte))} {bad : Bool} (hs : Sees o s)
    (h : ∀ i, n ≤ i → i < n + k → allowed o jb false how.hint ((a + i * 64) % 2 ^ 48) ((a + i * 64) % 2 ^ 48 + 63) = true ∧
      (peekWord o ((a + i * 64) % 2 ^ 48)).isSome = true) :
    ∃ u, rowWords jb how a k n acc bad s = (.val 0, acc ++ (List.range' n k).map (fun i => peekWord o ((a + i * 64) % 2 ^ 48)), bad, u) ∧
      Touched s u := by
  induction k generalizing n acc s with
  | zero => exact ⟨s, by simp [rowWords], .refl s⟩
  | succ k ih =>
    obtain ⟨may, known⟩ := h n le_rfl (by omega)
    obtain ⟨d, hd⟩ := Option.isSome_iff_exists.1 known
    obtain ⟨v, read, hv⟩ := readWord_known (how := how) hs hd
    obtain ⟨u, words, hu⟩ := ih (n := n + 1) (acc := acc ++ [some d]) (hs.trans hv.sees) fun i lo hi => h i (by omega) (by omega)
    refine ⟨u, ?_, hv.trans hu⟩
    rw [List.range'_succ, List.map_cons, hd, rowWords]
    rw [hs.allowed, may, read]
    simpa using words

/-- The rows of a GATHER are read as they stand. -/
theorem gatherRows_known {l : List Nat} {acc : List (Option (List Byte))} {bad : Bool} (hs : Sees o s)
    (base : (tile s t).argBase = (tile o t).argBase)
    (h : ∀ i ∈ l, ∀ k, k < gLen w / 64 → rowIndex o t w i ≠ 0xFFFFFFFF →
      allowed o jb false how.hint (tableWord o t w i k) (tableWord o t w i k + 63) = true ∧
        (peekWord o (tableWord o t w i k)).isSome = true) :
    ∃ u, gatherRows t w jb how (l.map (fun i => .val (rowIndex o t w i))) bad acc s =
      (.val 0, acc ++ l.flatMap (gatherRow o t w), bad, u) ∧ Touched s u := by
  induction l generalizing acc s with
  | nil => exact ⟨s, by simp [gatherRows], .refl s⟩
  | cons i l ih =>
    obtain ⟨row, rest⟩ := List.forall_mem_cons.1 h
    rw [List.map_cons, List.flatMap_cons, gatherRows]
    by_cases hi : rowIndex o t w i = 0xFFFFFFFF
    · obtain ⟨u, rows, hu⟩ := ih (acc := acc ++ gatherRow o t w i) hs base rest
      have zeros : gatherRow o t w i = List.replicate (gLen w / 64) (some (List.replicate 64 0#8)) := by simp [gatherRow, hi]
      refine ⟨u, ?_, hu⟩
      rw [if_pos hi, ← zeros, rows, List.append_assoc]
    · have place : ∀ k, (gTable s t w + rowIndex o t w i * gStride w + k * 64) % 2 ^ 48 = tableWord o t w i k := fun k => by
        rw [tableWord, gTable, gTable, withBsel_congr base, Nat.mul_comm k]
      obtain ⟨v, words, hv⟩ := rowWords_known (how := how) (bad := bad) (acc := []) (n := 0) (k := gLen w / 64)
        (a := gTable s t w + rowIndex o t w i * gStride w) hs fun k _ hk => by
          rw [place]
          exact row k (by omega) hi
      obtain ⟨u, rows, hu⟩ := ih (acc := acc ++ gatherRow o t w i) (hs.trans hv.sees) (by rw [hv.tile, base]) rest
      have read : gatherRow o t w i =
          (List.range' 0 (gLen w / 64)).map (fun k => peekWord o ((gTable s t w + rowIndex o t w i * gStride w + k * 64) % 2 ^ 48)) := by
        simp only [gatherRow, place, if_neg hi, List.range_eq_range']
      refine ⟨u, ?_, hv.trans hu⟩
      rw [if_neg hi, words, List.nil_append, ← read, ← List.append_assoc]
      exact rows

theorem gatherRow_length (s : State) (t w i : Nat) : (gatherRow s t w i).length = gLen w / 64 := by simp [gatherRow]

theorem gathered_length (s : State) (t w : Nat) : (gathered s t w).length = gRows w (tile s t) * (gLen w / 64) := by
  simp [gathered_eq, List.length_flatMap, gatherRow_length]

/-- An element within words that are all data is put together from them. -/
theorem rowElem_some {ws : List (Option (List Byte))} {o w : Nat} (h : ∀ x ∈ ws, x.isSome = true) (hw : 0 < w) (hl : o + w ≤ 512 * ws.length) :
    ∃ v, rowElem ws o w = some v := by
  have data : (List.range (w / 8 + 2)).any (fun i => decide (o / 8 + i ≤ (o + w - 1) / 8) &&
      (ws.getD ((o / 8 + i) / 64) none).isNone) = false := by
    rw [List.any_eq_false]
    intro i _
    by_cases hi : o / 8 + i ≤ (o + w - 1) / 8
    · have inside : (o / 8 + i) / 64 < ws.length := by omega
      have some' := h _ (List.getElem_mem inside)
      simp [List.getD_eq_getElem?_getD, List.getElem?_eq_getElem inside, Option.isSome_iff_ne_none.1 some']
    · simp [hi]
  exact ⟨_, if_neg (by rw [data]; exact Bool.false_ne_true)⟩

/-- The destination elements from `n` on with their values, from gathered words. -/
def rowEls (ws : List (Option (List Byte))) (g : Gen) (a0 n k : Nat) : List (Nat × Nat) :=
  (List.range' n k).filterMap (fun i =>
    if g.padded (g.flat i) then none else some (g.bitAddr a0 (g.flat i), (rowElem ws (i * g.width) g.width).getD 0))

theorem gatherEls_eq (s : State) (t w : Nat) : gatherEls s t w =
    rowEls (gathered s t w) (gen (tile s t) (wDgen w)) ((gen (tile s t) (wDgen w)).a0 s t) 0 (gen (tile s t) (wDgen w)).total := by
  rw [rowEls, ← List.range_eq_range']
  rfl

/-- Elements of gathered data that the job may write are put together and written. -/
theorem putRow_flushes {ws : List (Option (List Byte))} {g : Gen} {a0 k n : Nat} {p : List PendWord} (hs : Sees o s)
    (data : ∀ i, n ≤ i → i < n + k → ∃ v, rowElem ws (i * g.width) g.width = some v)
    (targets : ∀ e ∈ rowEls ws g a0 n k, elemOk o jb true how.hint e.1 g.width = true) :
    putRow jb how g a0 ws k n (n * g.width) p s =
      flush s how ((rowEls ws g a0 n k).foldl (fun p x => pendElem p x.1 g.width x.2 false) p) := by
  induction k generalizing n p with
  | zero => simp [putRow, rowEls]
  | succ k ih =>
    have rest := fun (i : Nat) (lo : n + 1 ≤ i) (hi : i < n + 1 + k) => data i (by omega) (by omega)
    have offset : n * g.width + g.width = (n + 1) * g.width := by ring
    rw [putRow, offset]
    cases hp : g.padded (g.flat n)
    case true =>
      have els : rowEls ws g a0 n (k + 1) = rowEls ws g a0 (n + 1) k := by simp [rowEls, List.range'_succ, hp]
      rw [els] at targets ⊢
      exact ih rest targets
    case false =>
      obtain ⟨v, hv⟩ := data n le_rfl (by omega)
      have els : rowEls ws g a0 n (k + 1) = (g.bitAddr a0 (g.flat n), v) :: rowEls ws g a0 (n + 1) k := by
        simp [rowEls, List.range'_succ, hp, hv]
      rw [els] at targets ⊢
      obtain ⟨target, targets⟩ := List.forall_mem_cons.1 targets
      have staged : stageElem s jb how p (g.bitAddr a0 (g.flat n)) g.width v false =
          some (pendElem p (g.bitAddr a0 (g.flat n)) g.width v false) := by
        rw [hs.stageElem, stageElem, if_pos target]
      simpa [hv, staged] using ih (p := pendElem p (g.bitAddr a0 (g.flat n)) g.width v false) rest targets

theorem pended_fresh (w : Nat) (l : List (Nat × Nat)) : ∀ x ∈ pended w l, x.poison = false :=
  foldl_keeps (fun (p : List PendWord) => ∀ x ∈ p, x.poison = false) _ (fun _ _ h => (pendElem_grows ..).unpoisoned h) l [] (fun _ h => nomatch h)

end Gather

/-! ### The work of a GATHER -/

section GatherWork
variable {o s : State} {t w : Nat} {jb : Job} {c : QCmd}

/-- What a GATHER or SCATTERADD asks of the table: each word of a row that an index names passes `f`, and is known. -/
def TableReadable (s : State) (t w : Nat) (f : Nat → Bool) : Prop :=
  ∀ i k, i < gRows w (tile s t) → k < gLen w / 64 → rowIndex s t w i ≠ 0xFFFFFFFF →
    f (tableWord s t w i k) = true ∧ (peekWord s (tableWord s t w i k)).isSome = true

/-- The words that a GATHER reads from a readable table are all data. -/
theorem gathered_data {f : Nat → Bool} (h : TableReadable s t w f) : ∀ x ∈ gathered s t w, x.isSome = true := by
  intro x hx
  rw [gathered_eq] at hx
  obtain ⟨i, hi, hx⟩ := List.mem_flatMap.1 hx
  obtain ⟨k, hk, rfl⟩ := List.mem_map.1 hx
  split
  · rfl
  · exact (h i k (List.mem_range.1 hi) (List.mem_range.1 hk) ‹_›).2

/-- Its elements lie within those words. -/
theorem rowElem_gathered {f : Nat → Bool} (h : TableReadable s t w f) (hc : checkGather s t w false = none) {n : Nat}
    (hn : n < (gen (tile s t) (wDgen w)).total) :
    ∃ v, rowElem (gathered s t w) (n * (gen (tile s t) (wDgen w)).width) (gen (tile s t) (wDgen w)).width = some v := by
  have bits := gather_bits hc
  have rows := gRows_pos w (tile s t)
  have words : gLen w = 64 * (gLen w / 64) := by
    rw [gLen, Nat.mul_div_cancel _ (by norm_num), Nat.mul_comm]
  have len : 0 < gLen w := Nat.mul_pos (Nat.succ_pos _) (by norm_num)
  generalize (gen (tile s t) (wDgen w)).total = total at *
  generalize (gen (tile s t) (wDgen w)).width = width at *
  have all : 512 * (gathered s t w).length = total * width := by
    rw [gathered_length, bits]
    generalize gLen w / 64 = q at words
    rw [words]
    ring
  refine rowElem_some (gathered_data h) (Nat.pos_of_ne_zero fun hz => ?_) ?_
  · have : 0 < gRows w (tile s t) * gLen w * 8 := Nat.mul_pos (Nat.mul_pos rows len) (by norm_num)
    rw [hz, Nat.mul_zero] at bits
    omega
  · rw [all]
    calc n * width + width = (n + 1) * width := by ring
      _ ≤ total * width := Nat.mul_le_mul_right _ hn

/-- How a GATHER makes its accesses. -/
def gatherHow (t w : Nat) : How := { rq := .tile t, hint := hintOf (bits w 83 82), prio := bits w 85 84, narrow := false }

/-- Readable indices, a readable table and a writable destination: the work of a GATHER. -/
theorem gatherWork_known (hs : Sees o s) (ht : (tile s t).argBase = (tile o t).argBase) (hw : c.word = w) (hg : c.gens = (tile o t).gens)
    (hc : checkGather o t w false = none) (aligned : gTable o t w % 64 = 0) (indices : IndicesReadable o t w jb (hintOf (bits w 83 82)))
    (table : TableReadable o t w (fun a => allowed o jb false (hintOf (bits w 83 82)) a (a + 63)))
    (targets : ∀ e ∈ gatherEls o t w, elemOk o jb true (hintOf (bits w 83 82)) e.1 (gen (tile o t) (wDgen w)).width = true)
    (lands : Lands o (pended (gen (tile o t) (wDgen w)).width (gatherEls o t w))) :
    ∃ u, gatherWork t c s jb = (.done, u) ∧ WordsWritten s u ∧
      u.mem = landed o t (pended (gen (tile o t) (wDgen w)).width (gatherEls o t w)) := by
  have same : ∀ g, cgen c g = gen (tile o t) g := fun g => by rw [cgen, hg, gen]
  have base : ∀ {v : State}, Touched s v → (tile v t).argBase = (tile o t).argBase := fun hv => by rw [hv.tile, ht]
  obtain ⟨v, read, hv⟩ := indices_known (how := gatherHow t w) hs (a0_congr ht) indices
  obtain ⟨v', rows, hv'⟩ := gatherRows_known (how := { gatherHow t w with narrow := true }) (jb := jb) (w := w) (bad := false) (acc := [])
    (l := List.range (gRows w (tile o t))) (hs.trans hv.sees) (base hv) fun i hi k hk ne => table i k (List.mem_range.1 hi) hk ne
  have see := (hs.trans hv.sees).trans hv'.sees
  have put := putRow_flushes (how := gatherHow t w) (jb := jb) (n := 0) (p := []) see
    (fun i _ hi => rowElem_gathered table hc (by rwa [Nat.zero_add] at hi)) (gatherEls_eq o t w ▸ targets)
  obtain ⟨u, flushed, written, mem⟩ := flush_known (how := gatherHow t w) (n := t) see lands (pended_fresh _ _)
  refine ⟨u, ?_, (touched_written (hv.trans hv')).trans written, mem⟩
  rw [← gatherEls_eq, Nat.zero_mul] at put
  unfold gatherWork
  dsimp only
  rw [hw, if_neg (by rw [gTable, withBsel_congr ht]; exact not_not.2 aligned), same, same]
  simp only [gatherHow] at read rows put flushed
  rw [read]
  dsimp only
  rw [rows, List.nil_append, ← gathered_eq]
  dsimp only
  rw [a0_congr (base (hv.trans hv')), put.trans flushed]
  rfl

end GatherWork

/-! ### Rows scattered -/

section Scatter
variable {o s u : State} {t w rop : Nat} {jb : Job} {c : QCmd} {how : How} {l : List (Nat × List Byte)}

theorem zipElems_length {n : Nat} (h : n ∣ 64) (f : Nat → Nat → Nat) (x y : List Byte) : (zipElems n f x y).length = 64 := by
  simp [zipElems, List.length_flatMap, Nat.div_mul_cancel h]

/-- A word combined with a contribution is a word. -/
theorem reduceWord_length (rop : Nat) {x : List Byte} (y : List Byte) (h : x.length = 64) : (reduceWord rop x y).length = 64 := by
  unfold reduceWord
  split
  case h_10 => exact h
  all_goals exact zipElems_length (by decide) ..

/-- A known word changed at its home. -/
theorem modifyWord_known {a key : Nat} {d : List Byte} {reduction : Bool} {f : List Byte → List Byte} (h : SramWord s a key d) :
    ∃ u, modifyWord s how a reduction f = (.data d, u) ∧ Overwrites s u key (f d) := by
  have noted : ∀ how, Touched s (touchModify s how a reduction) := fun how => touch_touched s how _
  unfold modifyWord
  dsimp only
  generalize (if reduction = true then { how with hint := Hint.stream } else how) = how'
  have word := h.seen (noted how').sees
  have wrote := writeWord_known (how := how'.writeHalf) (x := f d) word
  rw [word.read rfl]
  exact ⟨_, rfl, (touched_written (noted how')).trans wrote.written, by rw [wrote.mem, (noted how').sees.mem]⟩

/-- A contribution combined into its word at its home. -/
def combine (t rop : Nat) (s : State) (x : Nat × List Byte) : State :=
  (modifyWord s (plain (.tile t)) x.1 true (fun y => reduceWord rop y x.2)).2

/-- Contributions to known words are combined; what was known stays known, and where reads saw the same they still do. -/
theorem combine_known {x : Nat × List Byte} (h : (peekWord s x.1).isSome = true) :
    (∃ d, modifyWord s (plain (.tile t)) x.1 true (fun y => reduceWord rop y x.2) = (.data d, combine t rop s x)) ∧
      WordsWritten s (combine t rop s x) ∧ (∀ a, (peekWord s a).isSome = true → (peekWord (combine t rop s x) a).isSome = true) ∧
      ∀ o, Sees o s → Sees (combine t rop o x) (combine t rop s x) := by
  obtain ⟨d, hd⟩ := Option.isSome_iff_exists.1 h
  obtain ⟨key, word⟩ := sramWord_of_peekWord hd
  have changed : ∀ {s : State}, SramWord s x.1 key d → ∃ u, modifyWord s (plain (.tile t)) x.1 true (fun y => reduceWord rop y x.2) =
      (.data d, u) ∧ combine t rop s x = u ∧ Overwrites s u key (reduceWord rop d x.2) := fun word => by
    obtain ⟨u, hu, wrote⟩ := modifyWord_known (how := plain (.tile t)) (reduction := true) (f := fun y => reduceWord rop y x.2) word
    exact ⟨u, hu, by rw [combine, hu], wrote⟩
  obtain ⟨u, hu, rfl, wrote⟩ := changed word
  refine ⟨⟨d, hu⟩, wrote.written, fun a ha => wrote.isSome_peekWord (reduceWord_length rop _ word.length) (sramKey_aligned word.home) ha,
    fun o ho => ?_⟩
  have back : Sees s o := ⟨ho.mem.symm, ho.indet.symm, ho.lay.symm⟩
  obtain ⟨v, -, rfl, wrote'⟩ := changed (word.seen back)
  exact wrote'.sees ho wrote

theorem foldl_combine_known (h : ∀ x ∈ l, (peekWord s x.1).isSome = true) :
    WordsWritten s (l.foldl (combine t rop) s) ∧
      (∀ a, (peekWord s a).isSome = true → (peekWord (l.foldl (combine t rop) s) a).isSome = true) ∧
      ∀ o, Sees o s → Sees (l.foldl (combine t rop) o) (l.foldl (combine t rop) s) := by
  induction l generalizing s with
  | nil => exact ⟨.refl s, fun _ h => h, fun _ h => h⟩
  | cons x l ih =>
    obtain ⟨first, rest⟩ := List.forall_mem_cons.1 h
    obtain ⟨-, written, known, sees⟩ := combine_known (t := t) (rop := rop) first
    obtain ⟨written', known', sees'⟩ := ih (s := combine t rop s x) fun y hy => known _ (rest y hy)
    exact ⟨written.trans written', fun a ha => known' a (known a ha), fun o ho => sees' _ (sees o ho)⟩

/-- A reduction that is not ordered combines at its home. -/
theorem reduceAt_known {cid : Nat} {x : Nat × List Byte} (hr : rop ≠ 5) (h : (peekWord s x.1).isSome = true) :
    reduceAt s (plain (.tile t)) rop cid x.1 x.2 = (.ok, combine t rop s x) := by
  obtain ⟨⟨d, changed⟩, -⟩ := combine_known (t := t) (rop := rop) h
  rw [reduceAt, if_neg hr, changed]
  rfl

/-- What a job may reach depends on the layout alone. -/
theorem allowed_of_lay (h : u.lay = s.lay) (wr : Bool) (hint : Hint) (lo hi : Nat) : allowed u jb wr hint lo hi = allowed s jb wr hint lo hi := by
  unfold allowed regions localWins localBytes
  rw [h]

/-- The contributions of the first words of a row with the value `v`, from the table's address `a` on. -/
def rowWordsFrom (a v k : Nat) : List (Nat × List Byte) :=
  (List.range k).map (fun i => ((a + i * 64) % 2 ^ 48, leBytes 64 (v / 2 ^ (512 * i))))

theorem rowWordsFrom_succ (a v k : Nat) :
    rowWordsFrom a v (k + 1) = rowWordsFrom a v k ++ [((a + k * 64) % 2 ^ 48, leBytes 64 (v / 2 ^ (512 * k)))] := by
  rw [rowWordsFrom, List.range_succ, List.map_append]
  rfl

/-- The words of a row are combined one after the other. -/
theorem scatterRow_known {a v k cid : Nat} (hr : rop ≠ 5)
    (h : ∀ x ∈ rowWordsFrom a v k, allowed s jb true .normal x.1 (x.1 + 63) = true ∧ (peekWord s x.1).isSome = true) :
    scatterRow jb (plain (.tile t)) rop cid a v k s = (.done, (rowWordsFrom a v k).foldl (combine t rop) s) := by
  induction k with
  | zero => rfl
  | succ k ih =>
    rw [rowWordsFrom_succ] at h ⊢
    have earlier := fun x hx => h x (List.mem_append_left _ hx)
    obtain ⟨may, known⟩ := h _ (List.mem_append_right _ List.mem_cons_self)
    obtain ⟨written, still, -⟩ := foldl_combine_known (t := t) (rop := rop) fun x hx => (earlier x hx).2
    have last := reduceAt_known (t := t) (cid := cid) hr (still _ known)
    rw [List.foldl_append, scatterRow, ih earlier]
    dsimp only at may last ⊢
    rw [allowed_of_lay written.lay, may, last]
    rfl

/-- The value of `len` bits from bit `p` of elements of `w` bits. -/
def bitsFrom (els : List Nat) (w p len : Nat) : Nat :=
  ((List.range (len / w + 2)).filter (fun i => decide ((p / w + i) * w < p + len))).foldl
    (fun v i => v + els.getD (p / w + i) 0 * 2 ^ (i * w)) 0 / 2 ^ (p % w) % 2 ^ len

theorem rowBits_vals (els : List Nat) (w p len : Nat) : rowBits (els.map .val) w p len = .val (bitsFrom els w p len) := by
  have item : ∀ n, (els.map EAcc.val).getD n (.val 0) = .val (els.getD n 0) := fun n => List.getD_map ..
  have sum : ∀ (l : List Nat) (v : Nat), l.foldl (fun r i =>
      match r, (els.map EAcc.val).getD (p / w + i) (.val 0) with
      | .val v, .val x => .val (v + x * 2 ^ (i * w))
      | .val _, e => e
      | r, _ => r) (EAcc.val v) = .val (l.foldl (fun v i => v + els.getD (p / w + i) 0 * 2 ^ (i * w)) v) := by
    intro l
    induction l with
    | nil => exact fun _ => rfl
    | cons i l ih =>
      intro v
      rw [List.foldl_cons, item]
      exact ih _
  have row : rowOf (els.map .val) w p len = _ := sum _ 0
  rw [rowBits, row]
  rfl

/-- The elements that a SCATTERADD reads. -/
def scatterEls (s : State) (t w : Nat) : List Nat :=
  (List.range (gen (tile s t) (wDgen w)).total).map (elemAt s (gen (tile s t) (wDgen w)) ((gen (tile s t) (wDgen w)).a0 s t))

/-- The contributions of a row: none where its index is all ones (R106). -/
def scatterRowOf (s : State) (t w i : Nat) : List (Nat × List Byte) :=
  if rowIndex s t w i = 0xFFFFFFFF then []
  else rowWordsFrom (gTable s t w + rowIndex s t w i * gStride w)
    (bitsFrom (scatterEls s t w) (gen (tile s t) (wDgen w)).width (i * gLen w * 8) (gLen w * 8)) (gLen w / 64)

theorem scattered_eq (s : State) (t w : Nat) : scattered s t w = (List.range (gRows w (tile s t))).flatMap (scatterRowOf s t w) := by
  unfold scattered
  refine List.flatMap_congr fun i _ => ?_
  have row : rowBits ((scatterEls s t w).map .val) (gen (tile s t) (wDgen w)).width (i * gLen w * 8) (gLen w * 8) = _ := rowBits_vals ..
  have place : ∀ k, tableWord s t w i k = (gTable s t w + rowIndex s t w i * gStride w + k * 64) % 2 ^ 48 := fun k => by
    rw [tableWord, Nat.mul_comm 64]
  unfold scatterEls elemAt at row
  rw [scatterRowOf, rowWordsFrom, row]
  simp only [place]
  rfl

/-- The rows of a SCATTERADD are combined into the table one after the other. -/
theorem scatterRows_known {n m : Nat} (hr : bits w 85 82 ≠ 5) (base : (tile s t).argBase = (tile o t).argBase)
    (h : ∀ i, n ≤ i → i < n + m → ∀ x ∈ scatterRowOf o t w i,
      allowed s jb true .normal x.1 (x.1 + 63) = true ∧ (peekWord s x.1).isSome = true) :
    scatterRows t w jb (gen (tile o t) (wDgen w)).width ((scatterEls o t w).map .val) (plain (.tile t))
      ((List.range' n m).map (fun i => .val (rowIndex o t w i))) n false s =
        (.done, ((List.range' n m).flatMap (scatterRowOf o t w)).foldl (combine t (bits w 85 82)) s) := by
  induction m generalizing n s with
  | zero => rfl
  | succ m ih =>
    have row := h n le_rfl (by omega)
    have rest := fun (i : Nat) (lo : n + 1 ≤ i) (hi : i < n + 1 + m) => h i (by omega) (by omega)
    rw [List.range'_succ, List.map_cons, List.flatMap_cons, List.foldl_append, scatterRows]
    by_cases hi : rowIndex o t w n = 0xFFFFFFFF
    · have none' : scatterRowOf o t w n = [] := if_pos hi
      rw [if_pos hi, none']
      exact ih base rest
    · have words : scatterRowOf o t w n = _ := if_neg hi
      have table : gTable s t w = gTable o t w := withBsel_congr base ..
      have combined := scatterRow_known (t := t) (cid := bits w 31 16) hr (s := s) (jb := jb) (k := gLen w / 64)
        (a := gTable o t w + rowIndex o t w n * gStride w)
        (v := bitsFrom (scatterEls o t w) (gen (tile o t) (wDgen w)).width (n * gLen w * 8) (gLen w * 8))
        (words ▸ row)
      rw [← words] at combined
      obtain ⟨written, known, -⟩ := foldl_combine_known (t := t) (rop := bits w 85 82) (l := scatterRowOf o t w n)
        fun x hx => (row x hx).2
      rw [if_neg hi, rowBits_vals]
      dsimp only
      rw [table, combined]
      exact ih (by rw [written.tile]; exact base) fun i lo hi x hx =>
        ⟨(allowed_of_lay written.lay ..).trans (rest i lo hi x hx).1, known _ (rest i lo hi x hx).2⟩

/-- Readable indices and elements, and a table that the job may change: the work of a SCATTERADD whose ROP is not ordered. -/
theorem scatterWork_known (hs : Sees o s) (ht : (tile s t).argBase = (tile o t).argBase) (hw : c.word = w) (hg : c.gens = (tile o t).gens)
    (aligned : gTable o t w % 64 = 0) (hr : bits w 85 82 ≠ 5) (indices : IndicesReadable o t w jb .normal)
    (sources : ∀ n, n < (gen (tile o t) (wDgen w)).total → (gen (tile o t) (wDgen w)).padded ((gen (tile o t) (wDgen w)).flat n) = false →
      Readable o jb .normal ((gen (tile o t) (wDgen w)).bitAddr ((gen (tile o t) (wDgen w)).a0 o t) ((gen (tile o t) (wDgen w)).flat n))
        (gen (tile o t) (wDgen w)).width)
    (table : TableReadable o t w (fun a => allowed o jb true .normal a (a + 63))) :
    ∃ u, scatterWork t c s jb = (.done, u) ∧ WordsWritten s u ∧
      u.mem = ((scattered o t w).foldl (combine t (bits w 85 82)) o).mem := by
  have same : ∀ g, cgen c g = gen (tile o t) g := fun g => by rw [cgen, hg, gen]
  have base : ∀ {v : State}, Touched s v → (tile v t).argBase = (tile o t).argBase := fun hv => by rw [hv.tile, ht]
  obtain ⟨v, read, hv⟩ := indices_known (how := plain (.tile t)) hs (a0_congr ht) indices
  obtain ⟨v', els, hv'⟩ := takeAll_known (how := plain (.tile t)) (acc := []) (n := 0) (k := (gen (tile o t) (wDgen w)).total)
    (hs.trans hv.sees) (bufKnown_none o) (fun i _ hi hp => sources i (by rwa [Nat.zero_add] at hi) hp)
  have see := (hs.trans hv.sees).trans hv'.sees
  have words : ∀ i, i < gRows w (tile o t) → ∀ x ∈ scatterRowOf o t w i,
      allowed o jb true .normal x.1 (x.1 + 63) = true ∧ (peekWord o x.1).isSome = true := fun i hi x hx => by
    unfold scatterRowOf at hx
    split at hx
    · cases hx
    · rename_i ne
      obtain ⟨k, hk, rfl⟩ := List.mem_map.1 hx
      have word := table i k hi (List.mem_range.1 hk) ne
      rwa [tableWord, Nat.mul_comm 64] at word
  have known : ∀ x ∈ scattered o t w, (peekWord v' x.1).isSome = true := fun x hx => by
    rw [scattered_eq] at hx
    obtain ⟨i, hi, hx⟩ := List.mem_flatMap.1 hx
    rw [see.peekWord]
    exact (words i (List.mem_range.1 hi) x hx).2
  obtain ⟨written, -, sees⟩ := foldl_combine_known (t := t) (rop := bits w 85 82) known
  have rows := scatterRows_known (n := 0) (m := gRows w (tile o t)) hr (base (hv.trans hv')) fun i _ hi x hx => by
    rw [see.allowed, see.peekWord]
    exact words i (by omega) x hx
  have taken : [].reverse ++ (List.range' 0 (gen (tile o t) (wDgen w)).total).map (fun i => EAcc.val (elemAt o
      (gen (tile o t) (wDgen w)) ((gen (tile o t) (wDgen w)).a0 o t) i)) = (scatterEls o t w).map .val := by
    rw [scatterEls, List.map_map, List.range_eq_range']
    rfl
  rw [taken] at els
  rw [← List.range_eq_range', ← scattered_eq] at rows
  refine ⟨_, ?_, (touched_written (hv.trans hv')).trans written, (sees o see).mem⟩
  unfold scatterWork
  dsimp only
  rw [hw, if_neg (by rw [gTable, withBsel_congr ht]; exact not_not.2 aligned), same, same, read]
  dsimp only
  rw [a0_congr (base hv), els]
  exact rows

end Scatter

/-! ### GATHER and SCATTERADD issued -/

/-- A word of the move engine whose work is done at once. -/
theorem mover_worked {s v : State} {t w j n : Nat} {jb : Job} {reads writes : State → Nat → List (Nat × Nat)}
    (h : EngineReady s t w .move j jb (reads s w) (writes s w)) (hop : wOpcode w = n) (hn : n ≠ 0x20)
    (hw : moverWork t (newEntry s t w (reads s w) (writes s w)) (submit s t .move w (reads s w) (writes s w)) jb = (.done, v))
    (hv : WordsWritten (submit s t .move w (reads s w) (writes s w)) v) :
    ∃ r, ends s (toEngine s t (opIs n) .move reads writes) = .next r ∧
      Worked s r t .move ∧ r.mem = v.mem ∧ (tile r t).regs = (tile s t).regs ∧ (tile r t).slots = (tile s t).slots := by
  obtain ⟨r, next, worked, mem, here⟩ := h.worked (hop ▸ hn) hw (hv.keeps t)
  have issued := h.toEngine (mine := opIs n) (reads := reads) (writes := writes) (beq_iff_eq.2 hop)
  rw [hv.tile, h.submitted.here] at here
  exact ⟨r, by rw [issued, next], worked, mem, by rw [here]; rfl, by rw [here]; rfl⟩

theorem moverWork_gather {s : State} {t : Nat} {jb : Job} {c : QCmd} (h : wOpcode c.word = 0x12) :
    moverWork t c s jb = gatherWork t c s jb := by
  rw [moverWork, h]
  rfl

theorem moverWork_scatter {s : State} {t : Nat} {jb : Job} {c : QCmd} (h : wOpcode c.word = 0x13) :
    moverWork t c s jb = scatterWork t c s jb := by
  rw [moverWork, h]
  rfl

/-- Settles O16: indices, table and elements are read as they stand; the destination is put together, or each row combined. -/
theorem tablesAreGatheredAndScattered : Obligations.TablesAreGatheredAndScattered := by
  intro s t w j jb aligned dg hint words p
  refine ⟨fun hop h indices table targets lands => ?gather, fun hop h indices sources table hr => ?scatter⟩
  case gather =>
    have sub := h.submitted
    have args : (tile (submit s t .move w (gatherReads s t w) (gatherWrites s t w)) t).argBase = (tile s t).argBase := by
      rw [sub.here]
      rfl
    obtain ⟨v, work, hv, mem⟩ := gatherWork_known (c := newEntry s t w (gatherReads s t w) (gatherWrites s t w)) sub.sees args rfl rfl
      (h.atDecode.checkGather hop) aligned indices (fun i k hi hk ne => table i k hi hk ne) targets lands
    obtain ⟨r, next, worked, rmem, regs, slots⟩ := mover_worked (reads := fun s w => gatherReads s t w)
      (writes := fun s w => gatherWrites s t w) h hop (by decide) ((moverWork_gather hop).trans work) hv
    exact ⟨r, next, worked, rmem.trans mem, regs, slots⟩
  case scatter =>
    have sub := h.submitted
    have args : (tile (submit s t .move w (scatterReads s t w) (gatherTable s t w)) t).argBase = (tile s t).argBase := by
      rw [sub.here]
      rfl
    obtain ⟨v, work, hv, mem⟩ := scatterWork_known (c := newEntry s t w (scatterReads s t w) (gatherTable s t w)) sub.sees args rfl rfl
      aligned hr indices sources (fun i k hi hk ne => table i k hi hk ne)
    obtain ⟨r, next, worked, rmem, regs, slots⟩ := mover_worked (reads := fun s w => scatterReads s t w)
      (writes := fun s w => gatherTable s t w) h hop (by decide) ((moverWork_scatter hop).trans work) hv
    exact ⟨r, next, worked, rmem.trans mem, regs, slots⟩

end Sys2Proof.Machine

namespace Sys2Proof.Machine

/-! ## WAIT, WAITP, FENCE and END (R109, R110, R116) -/

/-! ### Blocked tiles that move on -/

section Frees
variable {s v : State} {t f n m k : Nat} {d : Option Block} {e : Option BarDesc} {c : Nat → Nat → Nat}

/-- A WAIT whose flag holds its count takes it. -/
theorem moveTile_waitTakes (hb : (tile s t).block = some (.wait f n)) (held : n ≤ flagCount s t f) :
    moveTile s t = (true, [], unblock (setFlag s t f (flagCount s t f - n)) t) := by
  unfold moveTile
  dsimp only
  rw [hb]
  exact if_pos held

theorem moveTile_waitStays (hb : (tile s t).block = some (.wait f n)) (short : flagCount s t f < n) : (moveTile s t).1 = false := by
  unfold moveTile
  dsimp only
  rw [hb]
  exact congrArg Prod.fst (if_neg (Nat.not_le.2 short))

/-- A WAITP whose flag holds its count takes nothing. -/
theorem moveTile_waitpPasses (hb : (tile s t).block = some (.waitp f n)) (held : n ≤ flagCount s t f) :
    moveTile s t = (true, [], unblock s t) := by
  unfold moveTile
  dsimp only
  rw [hb]
  exact if_pos held

theorem moveTile_waitpStays (hb : (tile s t).block = some (.waitp f n)) (short : flagCount s t f < n) : (moveTile s t).1 = false := by
  unfold moveTile
  dsimp only
  rw [hb]
  exact congrArg Prod.fst (if_neg (Nat.not_le.2 short))

theorem moveTile_fencePasses (hb : (tile s t).block = some (.fence m)) (idle : maskIdle (tile s t) m = true) :
    moveTile s t = (true, [], unblock s t) := by
  unfold moveTile
  dsimp only
  rw [hb]
  exact if_pos idle

/-- The tile at the end of its program. -/
def endedTile (v : Tile) : Tile := { v with block := none, running := false, ended := true }

theorem moveTile_ends (hb : (tile s t).block = some .finish) (idle : enginesIdle (tile s t) = true) :
    moveTile s t = (true, [], setTile s t (endedTile (tile s t))) := by
  unfold moveTile
  dsimp only
  rw [hb]
  exact if_pos idle

/-- A tile whose step lifts its block, once flags were set, is free after it is pumped. -/
theorem pump_frees (h : moveTile s t = (true, [], unblock v t)) (hv : Moves s v t d e c) : Moves s (pump (k + 2) s [t]) t none none c := by
  have free := hv.next (unblock_moves v t)
  rw [pump_moves h]
  exact free.still (pump_unblocked (fun x hx => by rw [List.mem_singleton.1 hx, free.block]) t)

/-- What every flag counts once a WAIT has taken its count (R116). -/
def waitTaken (s : State) (t f n : Nat) : Nat → Nat → Nat := countSet (flagCount s) t f (flagCount s t f - n)

theorem pump_wait (hb : (tile s t).block = some (.wait f n)) (held : n ≤ flagCount s t f) :
    Moves s (pump (k + 2) s [t]) t none none (waitTaken s t f n) :=
  pump_frees (moveTile_waitTakes hb held) (setFlag_moves s t t f _)

theorem pump_waitp (hb : (tile s t).block = some (.waitp f n)) (held : n ≤ flagCount s t f) :
    Moves s (pump (k + 2) s [t]) t none none (flagCount s) :=
  pump_frees (moveTile_waitpPasses hb held) (.refl s t)

theorem pump_fence (hb : (tile s t).block = some (.fence m)) (idle : maskIdle (tile s t) m = true) :
    Moves s (pump (k + 2) s [t]) t none none (flagCount s) :=
  pump_frees (moveTile_fencePasses hb idle) (.refl s t)

/-- A tile that stays blocked is at most armed. -/
theorem pump_held (h : (moveTile s t).1 = false) : pump (k + 1) s [t] = noteArmed s t := by
  rw [pump_stays h, pump_nil]

end Frees

/-! ### Words that block their tile -/

section BlockingWord
variable {s u : State} {t w f n m : Nat} {b d : Block} {o : Option Block} {e : Option BarDesc} {c : Nat → Nat → Nat}
  {mine : Nat → Bool} {run : State → Nat → State}

/-- The state with tile `t` past its word, blocked there. -/
def heldState (s : State) (t : Nat) (d : Block) : State := setTile s t (pastWord (heldTile (tile s t) d none s.time))

theorem heldState_blocked (s : State) (t : Nat) (d : Block) : Blocked s (heldState s t d) t d none :=
  ⟨⟨_, _, rfl⟩, tile_setTile .., fun _ hx => tile_setTile_other _ _ _ _ hx⟩

theorem blockOn_heldState (hr : (tile s t).running = true) : blockOn s t d none = wake (heldState s t d) t := by
  have next := nextWord_running (s := setTile s t (heldTile (tile s t) d none s.time)) (t := t) (by rw [tile_setTile]; exact hr)
  rw [tile_setTile, setTile_setTile (by exact hr) (by exact hr)] at next
  exact congrArg (wake · t) next

/-- A checked word that blocks its tile, at decode. -/
theorem AtDecode.blocks (h : AtDecode s t w) (hm : mine w = true) (hrun : run s w = blockOn s t d none) :
    Machine.issue s t mine run = wake (heldState s t d) t :=
  (h.issue hm).trans (hrun.trans (blockOn_heldState (headWord_running h.head)))

/-- Such a word by what waking its blocked tile moves. -/
theorem AtDecode.blocks_moves (h : AtDecode s t w) (hm : mine w = true) (hrun : run s w = blockOn s t d none)
    (moves : Moves (heldState s t d) (wake (heldState s t d) t) t o e c) :
    ∃ r, ends s (Machine.issue s t mine run) = .next r ∧ BarrierAt r t o e c ∧ (tile r t).word = (tile s t).word + 1 ∧
      (tile r t).blockAt = s.time ∧ r.mem = s.mem := by
  have issued := h.blocks hm hrun
  have held := heldState_blocked s t d
  obtain ⟨_, here⟩ := moves.here
  rw [held.here] at here
  refine ⟨_, (congrArg (ends s) issued).trans (ends_noted s _ (moves.touched.trans h.inv.charged) (moves.stalled.trans h.inv.inReach)),
    moves.noted, ?_, ?_, (noteState_mem ..).trans (moves.mem.trans held.mem)⟩
  · rw [tile_noteState, here]
    rfl
  · rw [tile_noteState, here]
    rfl

/-- Waking a tile pumps it. -/
theorem wake_moves (h : ∀ k, Moves s (pump (k + 2) s [t]) t o e c) : Moves s (wake s t) t o e c := by
  obtain ⟨k, fuel⟩ := pumpFuel_eq s
  rw [wake, fuel]
  exact (h (k + 1598)).noteArmed t

/-- A tile that nothing lets go on stays blocked when it is woken. -/
theorem Blocked.stays (h : Blocked s u t d none) (still : (moveTile u t).1 = false) :
    Moves u (wake u t) t (some d) none (Machine.flagCount s) := by
  have armed := (Moves.refl u t).noteArmed t
  rw [h.here, h.flagCount] at armed
  exact wake_moves fun k => by rw [pump_held still]; exact armed

end BlockingWord

/-! ### What the words do -/

section Words
variable {s : State} {t w j f n : Nat} {jb : Job} {m : BitVec 16}

/-- A WAIT whose flag is short of its count blocks there; no flag changes. -/
theorem wait_blocks (h : AtDecode s t w) (hop : wOpcode w = 0x21) (short : flagCount s t (sFlag w) < sN w) :
    ∃ r, exec (.wait t) s = .next r ∧ (tile r t).block = some (.wait (sFlag w) (sN w)) ∧ (tile r t).blockAt = s.time ∧
      ∀ g, flagCount r t g = flagCount s t g := by
  have held := heldState_blocked s t (.wait (sFlag w) (sN w))
  obtain ⟨r, runs, at', -, since, -⟩ := h.blocks_moves (mine := opIs 0x21) (run := waitRun t) (beq_iff_eq.2 hop) rfl
    (held.stays (moveTile_waitStays (by rw [held.here]; rfl) (by rw [held.flagCount]; exact short)))
  exact ⟨r, runs, at'.block, since, at'.counts t⟩

/-- A WAIT whose flag holds its count takes it, and the tile goes on. -/
theorem wait_takes (h : AtDecode s t w) (hop : wOpcode w = 0x21) (held : sN w ≤ flagCount s t (sFlag w)) :
    ∃ r, exec (.wait t) s = .next r ∧ BarrierAt r t none none (waitTaken s t (sFlag w) (sN w)) ∧
      (tile r t).word = (tile s t).word + 1 ∧ r.mem = s.mem := by
  have blocked := heldState_blocked s t (.wait (sFlag w) (sN w))
  obtain ⟨r, runs, at', word, -, mem⟩ := h.blocks_moves (mine := opIs 0x21) (run := waitRun t) (beq_iff_eq.2 hop) rfl
    (wake_moves fun _ => pump_wait (by rw [blocked.here]; rfl) (by rw [blocked.flagCount]; exact held))
  rw [waitTaken, blocked.flagCount] at at'
  exact ⟨r, runs, at', word, mem⟩

/-- A WAITP whose flag holds its count lets the tile go on, and takes nothing. -/
theorem waitp_passes (h : AtDecode s t w) (hop : wOpcode w = 0x22) (held : sN w ≤ flagCount s t (sFlag w)) :
    ∃ r, exec (.waitp t) s = .next r ∧ BarrierAt r t none none (flagCount s) ∧ (tile r t).word = (tile s t).word + 1 ∧ r.mem = s.mem := by
  have blocked := heldState_blocked s t (.waitp (sFlag w) (sN w))
  obtain ⟨r, runs, at', word, -, mem⟩ := h.blocks_moves (mine := opIs 0x22) (run := waitpRun t) (beq_iff_eq.2 hop) rfl
    (wake_moves fun _ => pump_waitp (by rw [blocked.here]; rfl) (by rw [blocked.flagCount]; exact held))
  rw [blocked.flagCount] at at'
  exact ⟨r, runs, at', word, mem⟩

/-- A FENCE whose engines are idle lets the tile go on. -/
theorem fence_passes (h : AtDecode s t w) (hop : wOpcode w = 0x24) (idle : maskIdle (tile s t) (bits w 111 108) = true) :
    ∃ r, exec (.fence t) s = .next r ∧ (tile r t).block = none ∧ (tile r t).word = (tile s t).word + 1 ∧ r.mem = s.mem := by
  have blocked := heldState_blocked s t (.fence (bits w 111 108))
  obtain ⟨r, runs, at', word, -, mem⟩ := h.blocks_moves (mine := opIs 0x24) (run := fenceRun t) (beq_iff_eq.2 hop) rfl
    (wake_moves fun _ => pump_fence (by rw [blocked.here]; rfl) (by rw [blocked.here]; exact idle))
  exact ⟨r, runs, at'.block, word, mem⟩

/-- The state with tile `t` at the end of its program. -/
def endedState (s : State) (t : Nat) : State := setTile s t (endedTile (tile s t))

/-- A tile blocked at an END whose engines are idle is at the end of its program once it is woken. -/
theorem wake_ends (hb : (tile s t).block = some .finish) (idle : enginesIdle (tile s t) = true) :
    wake s t = noteArmed (noteArmed (endedState s t) t) t := by
  have free : (tile (endedState s t) t).block = none := by
    rw [endedState, tile_setTile]
    rfl
  obtain ⟨k, fuel⟩ := pumpFuel_eq s
  rw [wake, fuel, pump_moves (moveTile_ends hb idle), List.append_nil]
  have stays : (moveTile (endedState s t) t).1 = false := by rw [moveTile_free free]
  exact congrArg (noteArmed · t) (pump_held stays)

theorem noteArmed_mem (s : State) (t : Nat) : (noteArmed s t).mem = s.mem := by
  obtain ⟨_, h⟩ := noteArmed_rest s t
  rw [h]

theorem noteArmed_jobs (s : State) (t : Nat) : (noteArmed s t).jobs = s.jobs := by
  obtain ⟨_, h⟩ := noteArmed_rest s t
  rw [h]

/-- An END whose engines are idle ends the program of its tile. -/
theorem end_ends (h : AtDecode s t w) (hop : wOpcode w = 0x3F) (idle : enginesIdle (tile s t) = true) :
    ∃ r, exec (.endCmd t) s = .next r ∧ (tile r t).ended = true ∧ (tile r t).running = false ∧ r.mem = s.mem ∧ r.jobs = s.jobs := by
  have blocked := heldState_blocked s t .finish
  have issued := h.blocks (mine := opIs 0x3F) (run := endRun t) (d := .finish) (beq_iff_eq.2 hop) rfl
  rw [wake_ends (by rw [blocked.here]; rfl) (by rw [blocked.here]; exact idle)] at issued
  have at' : tile (noteArmed (noteArmed (endedState (heldState s t .finish) t) t) t) t = endedTile (tile (heldState s t .finish) t) := by
    rw [tile_noteArmed, tile_noteArmed, endedState, tile_setTile]
  refine ⟨_, (congrArg (ends s) issued).trans (ends_noted s _ ?_ ?_), ?_, ?_, ?_, ?_⟩
  · rw [noteArmed_touched, noteArmed_touched]
    exact h.inv.charged
  · rw [noteArmed_stalled, noteArmed_stalled]
    exact h.inv.inReach
  · rw [tile_noteState, at']
    rfl
  · rw [tile_noteState, at']
    rfl
  · rw [noteState_mem, noteArmed_mem, noteArmed_mem]
    rfl
  · rw [noteState_jobs, noteArmed_jobs, noteArmed_jobs]
    rfl

/-- A signal that lets a tile go on that waits for its flag. -/
theorem flagSignal_frees {c : Nat → Nat → Nat} (hi : s.Inv) (hf : f < 48) (hn : m ≠ 0#16) (hj : jobOf s t = some (j, jb))
    (hr : jb.running = true) (hm : s.main = .ready) (room : flagCount s t f + m.toNat ≤ 65535)
    (frees : ∀ k, Moves (setFlag s t f (flagCount s t f + m.toNat)) (pump (k + 2) (setFlag s t f (flagCount s t f + m.toNat)) [t]) t
      none none c) :
    ∃ r, exec (.flagSignal t f m) s = .next r ∧ BarrierAt r t none none c ∧ r.mem = s.mem := by
  obtain ⟨k, pumped⟩ := signal_pumps hj hr hm room
  have moves := (setFlag_moves s t t f (flagCount s t f + m.toNat)).trans (frees k)
  rw [← pumped] at moves
  obtain ⟨r, runs, at', mem, -⟩ := flagSignal_moves hi hf hn moves
  exact ⟨r, runs, at', mem⟩

/-- A signal that leaves a tile blocked changes nothing but its flag. -/
theorem flagSignal_stays (hi : s.Inv) (hf : f < 48) (hn : m ≠ 0#16) (hj : jobOf s t = some (j, jb)) (hr : jb.running = true)
    (hm : s.main = .ready) (room : flagCount s t f + m.toNat ≤ 65535)
    (stays : (moveTile (setFlag s t f (flagCount s t f + m.toNat)) t).1 = false) :
    exec (.flagSignal t f m) s = .next (noteState s (noteArmed (setFlag s t f (flagCount s t f + m.toNat)) t)) := by
  obtain ⟨k, pumped⟩ := signal_pumps hj hr hm room
  rw [exec_flagSignal hf hn, pumped, pump_held stays]
  exact ends_noted s _ ((noteArmed_touched ..).trans hi.charged) ((noteArmed_stalled ..).trans hi.inReach)

end Words

/-- Settles O19: a word blocks its tile where it is, and what the tile waits for lets it go on: at once, or by a later signal. -/
theorem waitsTakeTheirCount : Obligations.WaitsTakeTheirCount := by
  refine ⟨fun s t w j jb h _ => ⟨fun hop held => ?wait, fun hop short => wait_blocks h hop short, fun hop held => ?waitp,
    fun hop idle => fence_passes h hop idle, fun hop idle => end_ends h hop idle⟩, fun s t f n j m jb hi hj hr hm hf hn room => ?signal⟩
  case wait =>
    obtain ⟨r, runs, at', word, mem⟩ := wait_takes h hop held
    exact ⟨r, runs, at'.block, (at'.counts ..).trans (countSet_same ..), fun g hg => (at'.counts ..).trans (countSet_flag _ _ _ hg), word, mem⟩
  case waitp =>
    obtain ⟨r, runs, at', word, mem⟩ := waitp_passes h hop held
    exact ⟨r, runs, at'.block, at'.counts t, word, mem⟩
  case signal =>
    intro stays
    have set : flagCount (setFlag s t f (flagCount s t f + m.toNat)) t f = flagCount s t f + m.toNat := flagCount_setFlag ..
    have block : (tile (setFlag s t f (flagCount s t f + m.toNat)) t).block = (tile s t).block := (setFlag_moves s t t f _).block
    have other : ∀ g, g ≠ f → flagCount (setFlag s t f (flagCount s t f + m.toNat)) t g = flagCount s t g :=
      fun g hg => flagCount_setFlag_other _ _ _ _ _ _ (.inr hg)
    refine ⟨fun hb => ⟨fun enough => ?_, fun short => ?_⟩, fun hb => ⟨fun enough => ?_, fun short => ?_⟩⟩
    · obtain ⟨r, runs, at', mem⟩ := flagSignal_frees hi hf hn hj hr hm room
        fun _ => pump_wait (block.trans hb) (by rw [set]; exact enough)
      refine ⟨r, runs, at'.block, ?_, fun g hg => ?_, mem⟩
      · rw [at'.counts, waitTaken, countSet_same, set]
      · rw [at'.counts, waitTaken, countSet_flag _ _ _ hg, other g hg]
    · exact flagSignal_stays hi hf hn hj hr hm room (moveTile_waitStays (block.trans hb) (by rw [set]; exact short))
    · obtain ⟨r, runs, at', mem⟩ := flagSignal_frees hi hf hn hj hr hm room
        fun _ => pump_waitp (block.trans hb) (by rw [set]; exact enough)
      exact ⟨r, runs, at'.block, (at'.counts ..).trans set, fun g hg => (at'.counts ..).trans (other g hg), mem⟩
    · exact flagSignal_stays hi hf hn hj hr hm room (moveTile_waitpStays (block.trans hb) (by rw [set]; exact short))

end Sys2Proof.Machine

namespace Sys2Proof.Machine

/-! ## A loan decision in a part with an access left to charge (R140, R141)

The statement gives a decision in any state, one with accesses still to be charged among them, and judges its loans by the
entries as they read after the command, which charges those accesses when it ends. The count of a class whose number is out of
range stands in the place of another entry: here in that of WARM_ILIM_A, which limits the halves of a part that warms (R377). -/

/-- The number of a class whose unmarked bytes would be counted in the place of WARM_ILIM_A. -/
def strayClass : Nat := entKey 0xB010 5 - entKey 0x7201 1

/-- A part that warms, with a tile that is not quiet in half 0 and none elsewhere, 200 A as the ceiling of a half, and one access
to another part left to charge, of the class out of range. -/
def strayState : State :=
  { State.reset with
    main := .ready
    bringup := { Bringup.reset with warm := true }
    lay := { Layout.none with tiles := [0] }
    touched := [((0, 0), .remote 1024)]
    ent := [(entKey 0x5020 3, 0), (entKey 0x7000 4, strayClass), (entKey 0x7100 0x11 + strayClass, 1)]
    cons := [(entKey 0x5020 5, 200)] }

/-- The state that the decision on B-die 0 leaves. -/
def strayDecided : State :=
  decide' { advance strayState (loanDue strayState 0) with
    loanAt := SMap.put strayState.loanAt 0 (advance strayState (loanDue strayState 0)).time } 0

/-- That state with the access charged: the outcome of the command. -/
def strayOutcome : State := noteState strayState (rested strayDecided)

theorem exec_loanDecision_stray : exec (.loanDecision 0) strayState = .next strayOutcome :=
  congrArg (ends strayState) (if_pos (by decide))

/-- Under a limit of 120 A half 0 has room for a unit, and half 1 lends it one. -/
theorem strayOutcome_lends : (strayOutcome.loans.drop strayState.loans.length)[0]? = some { lender := 1, borrower := 0, seq := 0 } := by
  decide +kernel

/-- With the access charged the limit is that of its C-die, 240 A, and half 0 has no room, even without what it was lent. -/
theorem strayOutcome_full : ¬ halfLimit { strayOutcome with loans := [] } 0 < loanVal { strayOutcome with loans := [] } (0 / 4) 5 := by
  decide +kernel

/-- Refutes O22: a decision lends a unit to a half that has room for it, and the access charged with the same command raises the
limit of that half to more than its ceiling. -/
theorem not_quietTilesAndLoans : ¬ Obligations.QuietTilesAndLoans := by
  rintro ⟨-, decision, -⟩
  obtain ⟨r, runs, -, -, -, -, lent⟩ := decision strayState 0 (by decide) (.inl rfl) rfl
  obtain rfl : strayOutcome = r := Host.Outcome.next.inj (exec_loanDecision_stray.symm.trans runs)
  obtain ⟨-, room⟩ := lent.taker 0 _ strayOutcome_lends
  exact absurd room strayOutcome_full

end Sys2Proof.Machine

namespace Sys2Proof.Machine

/-! ## What a word written at its home leaves, wherever it lies (R161, R190, R239, R248)

A word of HBM is written through the cache: lines are fetched and written back, corrections noted, rows remapped. None of it
reaches the rest of the part. -/

/-- The parts of a state that no write at a home reaches. -/
def offHome (s : State) :=
  ((s.touched, s.fetches, s.ctx, s.main, s.discardCause), (s.cons, s.lay, s.ports, s.fab), fun c => (chan s c).active)

/-- Words were written at their homes from `s` to `t`: what lies off the homes stands, the entries of the fabric stand, and where
no line is on its way and no channel held, nothing is out of reach. -/
structure Homed (s t : State) : Prop where
  off : offHome t = offHome s
  entries : ∀ k, 0x800000 ≤ k → k < 0x810000 → SMap.find? t.ent k = SMap.find? s.ent k
  inReach : s.fetches = [] → (∀ c, (chan s c).active = none) → s.stalled = none → t.stalled = none

section Homed
variable {s t u : State}

theorem Homed.refl (s : State) : Homed s s := ⟨rfl, fun _ _ _ => rfl, fun _ _ h => h⟩

theorem Homed.same (h : Homed s t) (off : offHome u = offHome t) (ent : u.ent = t.ent) (stalled : u.stalled = t.stalled) : Homed s u :=
  ⟨off.trans h.off, fun k lo hi => by rw [ent]; exact h.entries k lo hi, fun f a r => stalled.trans (h.inReach f a r)⟩

theorem Homed.touched (h : Homed s t) : t.touched = s.touched := congrArg (·.1.1) h.off
theorem Homed.fetches (h : Homed s t) : t.fetches = s.fetches := congrArg (·.1.2.1) h.off
theorem Homed.ctx (h : Homed s t) : t.ctx = s.ctx := congrArg (·.1.2.2.1) h.off
theorem Homed.main (h : Homed s t) : t.main = s.main := congrArg (·.1.2.2.2.1) h.off
theorem Homed.discardCause (h : Homed s t) : t.discardCause = s.discardCause := congrArg (·.1.2.2.2.2) h.off
theorem Homed.cons (h : Homed s t) : t.cons = s.cons := congrArg (·.2.1.1) h.off
theorem Homed.lay (h : Homed s t) : t.lay = s.lay := congrArg (·.2.1.2.1) h.off
theorem Homed.ports (h : Homed s t) : t.ports = s.ports := congrArg (·.2.1.2.2.1) h.off
theorem Homed.fab (h : Homed s t) : t.fab = s.fab := congrArg (·.2.1.2.2.2) h.off
theorem Homed.active (h : Homed s t) (c : Nat) : (chan t c).active = (chan s c).active := congrFun (congrArg (·.2.2) h.off) c

theorem Homed.trans (h : Homed s t) (g : Homed t u) : Homed s u :=
  ⟨g.off.trans h.off, fun k lo hi => (g.entries k lo hi).trans (h.entries k lo hi), fun f a r =>
    g.inReach (h.fetches.trans f) (fun c => (h.active c).trans (a c)) (h.inReach f a r)⟩

/-- Events counted or noted off the fabric's entries. -/
theorem Noted.homed {ks : List Nat} (h : Noted ks s t) (hk : ∀ k ∈ ks, k < 0x800000 ∨ 0x810000 ≤ k) : Homed s t := by
  obtain ⟨⟨_, _, _, _, _, _, _, _, _, _, rfl⟩, -, entries⟩ := h
  exact ⟨rfl, fun k lo hi => entries k fun hm => by have := hk k hm; omega, fun _ _ h => h⟩

theorem setEnt_homed {i k v : Nat} (hk : entKey i k < 0x800000 ∨ 0x810000 ≤ entKey i k) (h : Homed s t) : Homed s (setEnt t i k v) :=
  h.trans ((setEnt_noted [entKey i k] t i k v (List.mem_singleton_self _)).homed (by simpa using hk))

theorem bump_homed {i k : Nat} (hk : entKey i k < 0x800000 ∨ 0x810000 ≤ entKey i k) (h : Homed s t) : Homed s (bump t i k) :=
  setEnt_homed hk h

theorem logEvent_homed {c : Nat} {d : List Byte} (h : Homed s t) : Homed s (logEvent t c d) :=
  h.trans ((logEvent_noted t c d).homed (by decide))

theorem queueRecord_homed {ty : Nat} {p : List Byte} (h : Homed s t) : Homed s (queueRecord t ty p) :=
  h.trans ((queueRecord_noted t ty p).homed (by decide))

theorem homed_of_snd {α : Type} {p : α × State} {x : α} (e : p = (x, u)) (h : Homed s p.2) : Homed s u := by
  rwa [e] at h

theorem homed_of_snd_snd_snd {α β γ : Type} {p : α × β × γ × State} {x : α} {y : β} {z : γ} (e : p = (x, y, z, u))
    (h : Homed s p.2.2.2) : Homed s u := by
  rwa [e] at h

theorem homed_ite {c : Prop} [Decidable c] (ht : Homed s t) (hu : Homed s u) : Homed s (if c then t else u) := by
  split <;> assumption

theorem homed_foldl {α : Type} {f : State → α → State} {l : List α} (h : Homed s t) (hf : ∀ v x, Homed s v → Homed s (f v x)) :
    Homed s (l.foldl f t) :=
  foldl_keeps (Homed s) f hf l t h

/-! ### Stored codewords and the repeat table -/

theorem readCode_homed {key c : Nat} {x : Upset} (h : Homed s t) : Homed s (readCode t key c x).2 := by
  unfold readCode
  split
  · split
    · exact h
    · exact h.same rfl rfl rfl
  · exact h.same rfl rfl rfl

theorem putCode_homed {key : Nat} {w : List Byte} (h : Homed s t) : Homed s (putCode t key w) := h.same rfl rfl rfl
theorem freeSoft_homed {b kind loc : Nat} (h : Homed s t) : Homed s (freeSoft t b kind loc) := h.same rfl rfl rfl
theorem dropRep_homed {b kind loc : Nat} (h : Homed s t) : Homed s (dropRep t b kind loc) := h.same rfl rfl rfl
theorem noReads_homed {a : Nat} (h : Homed s t) : Homed s (noReads t a) := h.same rfl rfl rfl

theorem repEntry_homed {b kind loc : Nat} (h : Homed s t) : Homed s (repEntry t b kind loc).2 := by
  unfold repEntry
  dsimp only
  split
  · exact h
  · split
    · exact h
    · split
      · exact dropRep_homed h
      · dsimp only
        exact logEvent_homed (bump_homed (by decide) h)

theorem repUpdate_homed {b kind loc : Nat} {errs : List (Nat × Byte)} {rewrite : State → State} (h : Homed s t)
    (hr : ∀ v, Homed s v → Homed s (rewrite v)) : Homed s (repUpdate t b kind loc errs rewrite).2 := by
  unfold repUpdate
  split
  · exact homed_of_snd ‹_› (repEntry_homed h)
  · rename_i r v e
    have entry : Homed s v := homed_of_snd e (repEntry_homed h)
    have put : ∀ q, Homed s (putRep v q) := fun _ => entry.same rfl rfl rfl
    have stepped : ∀ p : RepEntry × Bool, Homed s (if p.2 then bump (rewrite (putRep v p.1)) 0x7820 3 else putRep v p.1) :=
      fun p => homed_ite (bump_homed (by decide) (hr _ (put p.1))) (put p.1)
    dsimp only
    split
    · exact bump_homed (by decide) (stepped _)
    · exact stepped _

theorem noteVault_homed {b loc : Nat} {errs : List (Nat × Byte)} {rewrite : State → State} (h : Homed s t)
    (hr : ∀ v, Homed s v → Homed s (rewrite v)) : Homed s (noteVault t b loc errs rewrite) := by
  unfold noteVault
  split
  · exact queueRecord_homed (homed_of_snd ‹_› (repUpdate_homed h hr))
  · exact homed_of_snd ‹_› (repUpdate_homed h hr)

/-! ### Lines of the cache -/

theorem chanWrite_homed {b line sec : Nat} {w : List Byte} (h : Homed s t) : Homed s (chanWrite t b line sec w) :=
  putCode_homed (freeSoft_homed h)

theorem dropLine_homed {b line : Nat} (h : Homed s t) : Homed s (dropLine t b line) := h.same rfl rfl rfl
theorem putLine_homed {l : Line} (h : Homed s t) : Homed s (putLine t l) := h.same rfl rfl rfl
theorem mendLine_homed {b line sec : Nat} {w : List Byte} (h : Homed s t) : Homed s (mendLine t b line sec w) := h.same rfl rfl rfl

theorem writeBackSector_homed {l : Line} {x : Nat × List Byte} (h : Homed s t) : Homed s (writeBackSector t l x) := by
  unfold writeBackSector
  split
  · exact chanWrite_homed h
  · exact chanWrite_homed (noteVault_homed (bump_homed (by decide) h) fun _ => mendLine_homed)
  · exact chanWrite_homed h
  · exact chanWrite_homed (logEvent_homed (bump_homed (by decide) (bump_homed (by decide) h)))

theorem writeBack_homed {l : Line} (h : Homed s t) : Homed s (writeBack t l) := homed_foldl h fun _ _ => writeBackSector_homed

theorem fillWay_homed {l : Line} (h : Homed s t) : Homed s (fillWay t l) :=
  putLine_homed (homed_foldl h fun _ _ => freeSoft_homed)

theorem allocLine_homed {b line : Nat} {sectors : List (List Byte)} {dirty : Bool} {prot : Option Nat} {pinned : Bool}
    (h : Homed s t) : Homed s (allocLine t b line sectors dirty prot pinned).1 := by
  unfold allocLine
  split
  · exact fillWay_homed h
  · split
    · exact h
    · refine fillWay_homed ?_
      split
      · exact dropLine_homed (homed_ite (writeBack_homed h) h)
      · exact h

theorem copySector_homed {b line sec : Nat} (h : Homed s t) : Homed s (copySector t b line sec).2.2.2 := by
  unfold copySector
  split
  · exact homed_of_snd ‹_› (readCode_homed h)
  · exact bump_homed (by decide) (homed_of_snd ‹_› (readCode_homed h))
  · exact homed_of_snd ‹_› (readCode_homed h)
  · dsimp only
    exact logEvent_homed (bump_homed (by decide) (bump_homed (by decide) (homed_of_snd ‹_› (readCode_homed h))))

theorem pinSector_homed {b line sec : Nat} (h : Homed s t) : Homed s (pinSector t b line sec).2 := by
  unfold pinSector
  split
  · exact homed_of_snd_snd_snd ‹_› (copySector_homed h)
  · split
    · exact dropRep_homed (homed_of_snd ‹_› (repUpdate_homed (homed_of_snd_snd_snd ‹_› (copySector_homed h)) fun _ => putCode_homed))
    · exact homed_of_snd ‹_› (repUpdate_homed (homed_of_snd_snd_snd ‹_› (copySector_homed h)) fun _ => putCode_homed)

theorem pinLine_homed {b l : Nat} (h : Homed s t) : Homed s (pinLine t b l) := by
  unfold pinLine
  split
  · exact putLine_homed h
  · exact allocLine_homed (foldl_keeps (fun p : List (List Byte) × State => Homed s p.2) _ (fun _ _ => pinSector_homed) _ _ h)

/-! ### Channels -/

/-- A channel whose retrain stands. -/
theorem setChan_homed {c : Nat} {v : Chan} (h : Homed s t) (hv : v.active = (chan t c).active) : Homed s (setChan t c v) := by
  refine h.same ?_ rfl rfl
  have active : (fun d => (chan (setChan t c v) d).active) = fun d => (chan t d).active := funext fun d => by
    by_cases hd : d = c
    · rw [hd, chan_setChan, hv]
    · rw [chan_setChan_other _ _ _ _ hd]
  unfold offHome
  rw [active]
  rfl

theorem remapRow_homed {b ch row : Nat} {fresh : Bool} (h : Homed s t) : Homed s (remapRow t b ch row fresh) := by
  have record : ∀ (n : Nat) {v : State}, Homed s v → Homed s (if fresh then queueRecord v 2 (defectPayload n 1 b
      (8 * 2 ^ 28 + (ch % 64) * 2 ^ 21 + row)) else v) := fun _ _ h => homed_ite (queueRecord_homed h) h
  unfold remapRow
  dsimp only
  split
  · exact logEvent_homed (record 4 (setChan_homed h rfl))
  · exact logEvent_homed (record 2 (setEnt_homed (by decide) (setEnt_homed (by decide)
      (setChan_homed (homed_foldl h fun _ _ => pinLine_homed) rfl))))

theorem noteHbm_homed {b loc : Nat} {errs : List (Nat × Byte)} {rewrite : State → State} (h : Homed s t)
    (hr : ∀ v, Homed s v → Homed s (rewrite v)) : Homed s (noteHbm t b loc errs rewrite) := by
  unfold noteHbm
  split
  · exact dropRep_homed (remapRow_homed (homed_of_snd ‹_› (repUpdate_homed h hr)))
  · exact homed_of_snd ‹_› (repUpdate_homed h hr)

theorem sectorCopy_homed {b line sec : Nat} (h : Homed s t) : Homed s (sectorCopy t b line sec).2 := by
  unfold sectorCopy
  split
  · exact homed_of_snd_snd_snd ‹_› (copySector_homed h)
  · exact noteHbm_homed (homed_of_snd_snd_snd ‹_› (copySector_homed h)) fun _ => putCode_homed

/-- A line fetched to complete a write reads no sector for a request. -/
theorem fetchLine_homed {rq : Requester} {b line : Nat} (h : Homed s t) : Homed s (fetchLine t rq b line none []).2.2 := by
  unfold fetchLine
  refine foldl_keeps (fun p : RdRes × List (List Byte) × State => Homed s p.2.2) _ (fun p i hp => ?_) _ _ h
  rw [if_neg (by simp)]
  exact sectorCopy_homed hp

theorem find?_map_active {m : SMap Chan} {f : Nat × Chan → Nat × Chan} (hk : ∀ x, (f x).1 = x.1) (ha : ∀ x, (f x).2.active = x.2.active)
    (c : Nat) : (SMap.get (m.map f) c Chan.reset).active = (SMap.get m c Chan.reset).active := by
  induction m with
  | nil => rfl
  | cons x m ih =>
    have key := hk x
    have act := ha x
    obtain ⟨k, v⟩ := x
    rw [List.map_cons]
    generalize f (k, v) = y at key act
    obtain ⟨k', v'⟩ := y
    obtain rfl : k' = k := key
    simp only [SMap.get, SMap.find?] at ih ⊢
    split
    · exact act
    · exact ih

theorem wakeStack_homed {b line : Nat} (h : Homed s t) : Homed s (wakeStack t b line) := by
  unfold wakeStack wakeModule
  refine homed_ite (h.same ?_ rfl rfl) h
  refine Prod.ext rfl (Prod.ext rfl (funext fun c => find?_map_active (fun x => ?_) (fun x => ?_) c))
  · split <;> rfl
  · split <;> rfl

/-! ### A word written -/

theorem countAt_homed {how : How} {n : Nat} (hk : entKey 0x6810 n < 0x800000) (h : Homed s t) : Homed s (countAt t how n) :=
  homed_ite h (bump_homed (.inl hk) h)

theorem afterHit_homed {how : How} {a : Nat} {l : Line} {wrote : Bool} (h : Homed s t) : Homed s (afterHit t how a l wrote) := by
  unfold afterHit
  split
  · exact homed_ite (putLine_homed h) (homed_ite (dropLine_homed (writeBack_homed h)) (dropLine_homed (homed_ite
      (bump_homed (by decide) h) h)))
  · exact homed_ite (putLine_homed h) (putLine_homed h)
  · exact putLine_homed h

/-- A write that waits for its line: only that is noted. -/
theorem stall_homed {b line : Nat} (h : Homed s t) (waits : lineWaits t b line = true) : Homed s (stall t b line) := by
  have out : ¬ (s.fetches = [] ∧ ∀ c, (chan s c).active = none) := fun ⟨f, a⟩ => by
    simp [lineWaits, onItsWay, h.fetches, f, h.active, a] at waits
  refine ⟨Eq.trans ?_ h.off, fun k lo hi => Eq.trans ?_ (h.entries k lo hi), fun f a _ => absurd ⟨f, a⟩ out⟩
  · unfold stall
    split <;> rfl
  · unfold stall
    split <;> rfl

theorem writeHbm_homed {how : How} {a b line sec : Nat} {w : List Byte} (h : Homed s t) : Homed s (writeHbm t how a b line sec w) := by
  unfold writeHbm
  split
  · exact stall_homed h (by simp [lineWaits, ‹onItsWay t b line = true›])
  dsimp only
  split
  · exact afterHit_homed (countAt_homed (by decide) (freeSoft_homed (freeSoft_homed h)))
  · split
    · exact stall_homed (freeSoft_homed h) ‹_›
    · exact homed_ite (chanWrite_homed (countAt_homed (by decide) (freeSoft_homed h)))
        (allocLine_homed (fetchLine_homed (countAt_homed (by decide) (freeSoft_homed h))))

/-- A codeword written at its home, once its regulator has noted it. -/
theorem writeCode_homed {how : How} {a : Nat} {w : List Byte} : Homed (touchWrite s how a) (writeCode s how a w) := by
  have known : Homed (touchWrite s how a) (noReads (if indetAt (touchWrite s how a) a then
      { touchWrite s how a with indet := carve (touchWrite s how a).indet a } else touchWrite s how a) a) :=
    noReads_homed (homed_ite ((Homed.refl _).same rfl rfl rfl) (.refl _))
  unfold writeCode
  dsimp only
  split
  · exact putCode_homed (freeSoft_homed known)
  · exact putCode_homed known
  · exact writeHbm_homed (wakeStack_homed known)
  · exact known

end Homed

end Sys2Proof.Machine

namespace Sys2Proof.Machine

/-! ## Host writes to flag space and control space (R122, R172) -/

section ControlSpace
variable {s t : State} {a b n o f : Nat} {x : List Byte} {h : HeldReq} {g : State → State}

/-- A request that arrives while none waits is done whole. -/
theorem inTurn_alone (hw : waitingReqs s = []) : inTurn s h g = wholeOr s false h g := by
  have none' : follows s h = false := by rw [follows, hw]; rfl
  rw [inTurn, none', if_neg Bool.false_ne_true]

theorem requestParts_untouched {e : Nat} (ht : s.touched = []) : (requestParts s e).parts = [] := by
  simp [requestParts, touchParts, ht, distinct, touchers]

/-- A request that touches nothing and stalls nowhere is performed as it arrives, while none waits. -/
theorem inTurn_untouched (hw : waitingReqs s = []) (ht : (g s).touched = []) (hs : (g s).stalled = none) : inTurn s h g = g s := by
  have free : wholeOr s false h g = wholeOr s true h g := by
    unfold wholeOr
    simp [hs, requestParts_untouched ht]
  rw [inTurn_alone hw, free, wholeOr_reached ht hs]

/-- A host write to a flag word, once it reaches the part. -/
theorem exec_flagWordWrite (hw : waitingReqs s = []) (hr : hostReaches s = true) (hb : bar2Serves s = true)
    (hh : homeOf s a = .flag n o) (ht : (flagWrite s n o x).touched = []) (hs : (flagWrite s n o x).stalled = none) :
    exec (.flagWordWrite a x) s = .next (noteState s (flagWrite s n o x)) := by
  refine Eq.trans (congrArg (ends s) ?_) (ends_noted s _ ht hs)
  rw [fromHost, if_pos hr, if_pos hb, hh]
  exact inTurn_untouched hw ht hs

/-- A host write to a reduction context, once it reaches the part. -/
theorem exec_reductionContextWrite (hw : waitingReqs s = []) (hr : hostReaches s = true) (hb : bar2Serves s = true)
    (hh : homeOf s a = .ctx b n o) (ht : (ctxWrite s b n o x).touched = []) (hs : (ctxWrite s b n o x).stalled = none) :
    exec (.reductionContextWrite a x) s = .next (noteState s (ctxWrite s b n o x)) := by
  refine Eq.trans (congrArg (ends s) ?_) (ends_noted s _ ht hs)
  rw [fromHost, if_pos hr, if_pos hb, hh]
  exact inTurn_untouched hw ht hs

/-- A write of another form to flag space is dropped and counted (R122). -/
theorem flagWrite_drops (h : x.length ≠ 4 ∨ o % 4 ≠ 0 ∨ 0xC0 ≤ o ∨ 65536 ≤ leNat x ∨ leNat x = 0) :
    flagWrite s n o x = bump s 0x5040 1 := by
  refine if_neg ?_
  simp only [Bool.and_eq_true, decide_eq_true_eq, bne_iff_ne]
  omega

/-- A write of its form signals its value (R122). -/
theorem flagWrite_signals (hl : x.length = 4) (ho : o % 4 = 0) (hf : o < 0xC0) (hv : leNat x < 65536) (hz : leNat x ≠ 0) :
    flagWrite s n o x = signal s n (o / 4) (leNat x) :=
  if_pos (by simp [hl, ho, hf, hv, hz])

/-! ### Contexts -/

theorem redCtx_setCtx (s : State) (b n : Nat) (c : RedCtx) : redCtx (setCtx s b n c) b n = c := SMap.get_set_same ..

theorem redCtx_setCtx_other {b' n' : Nat} (s : State) (c : RedCtx) (h : b' * 64 + n' ≠ b * 64 + n) :
    redCtx (setCtx s b n c) b' n' = redCtx s b' n' := SMap.get_set_other _ _ _ _ _ _ h

theorem redCtx_congr (h : t.ctx = s.ctx) (b n : Nat) : redCtx t b n = redCtx s b n := by
  rw [redCtx, redCtx, h]

theorem noteState_ctx (s t : State) : (noteState s t).ctx = t.ctx := by
  obtain ⟨⟨_, _, _, _, _, _, _, _, _, _, h⟩, -, -⟩ := noteState_noted s t
  rw [h]

/-- A word written for no master. -/
theorem writeWord_homed {d : List Byte} (h : Homed s t) : Homed s (writeWord t (plain .none) a d) :=
  have unregulated : touchWrite t (plain .none) a = t := rfl
  h.trans (unregulated ▸ writeCode_homed)

theorem clearBitmaps_homed (s : State) (c : RedCtx) : Homed s (clearBitmaps s c) :=
  homed_foldl (.refl s) fun _ _ h => writeWord_homed (writeWord_homed h)

/-- A write to a whole context that is not open, with STATE 1, opens it where it meets the rules (R172). -/
theorem ctxWrite_opens (hl : x.length = 32) (ho : bits (leNat x) 185 184 = 1) (hc : (redCtx s b n).st ≠ 1)
    (h : ctxOpens s b n (leNat x) = true) :
    ctxWrite s b n 0 x = setCtx (clearBitmaps s (ctxOfWord (leNat x) 1)) b n (ctxOfWord (leNat x) 1) := by
  simp [ctxWrite, hl, ho, hc, h]

theorem ctxWrite_refuses (hl : x.length = 32) (ho : bits (leNat x) 185 184 = 1) (hc : (redCtx s b n).st ≠ 1)
    (h : ctxOpens s b n (leNat x) = false) : ctxWrite s b n 0 x = setCtx s b n (ctxOfWord (leNat x) 3) := by
  simp [ctxWrite, hl, ho, hc, h]

theorem ctxWrite_closes (hl : x.length = 32) (ho : bits (leNat x) 185 184 = 0) (hc : (redCtx s b n).st = 1) :
    ctxWrite s b n 0 x = setCtx s b n { redCtx s b n with st := 0 } := by
  simp [ctxWrite, hl, ho, hc]

end ControlSpace

/-- Settles O36: nothing waits before the write, so it is performed as it arrives; a context that opens has its bitmaps cleared,
which reaches nothing but the homes. -/
theorem controlSpaceWrites : Obligations.ControlSpaceWrites := by
  intro s a x hi hw hr hb
  refine ⟨fun t off j jb hh hl ho hf hv hz hs room => ?signals, fun t off hh other => ?drops,
    fun b n hh hl ho hc => ⟨fun opens fetches channels => ?opens, fun refused => ?refused⟩, fun b n hh hl ho hc => ?closes⟩
  case signals =>
    have wrote : flagWrite s t off x = setFlag s t (off / 4) (flagCount s t (off / 4) + leNat x) :=
      (flagWrite_signals hl ho hf hv hz).trans (hs.signal room)
    rw [← wrote]
    refine exec_flagWordWrite hw hr hb hh ?_ ?_ <;> rw [wrote]
    · exact hi.charged
    · exact hi.inReach
  case drops =>
    have wrote : flagWrite s t off x = bump s 0x5040 1 := flagWrite_drops other
    rw [← wrote]
    refine exec_flagWordWrite hw hr hb hh ?_ ?_ <;> rw [wrote]
    · exact hi.charged
    · exact hi.inReach
  case opens =>
    have wrote := ctxWrite_opens hl ho hc opens
    have cleared := clearBitmaps_homed s (ctxOfWord (leNat x) 1)
    have runs := exec_reductionContextWrite (x := x) hw hr hb hh (by rw [wrote]; exact cleared.touched.trans hi.charged)
      (by rw [wrote]; exact cleared.inReach fetches channels hi.inReach)
    refine ⟨_, runs, ?_, fun b' n' other => ?_⟩
    · rw [redCtx_congr (noteState_ctx ..), wrote, redCtx_setCtx]
    · rw [redCtx_congr (noteState_ctx ..), wrote, redCtx_setCtx_other _ _ other, redCtx_congr cleared.ctx]
  case refused =>
    have wrote := ctxWrite_refuses hl ho hc refused
    rw [← wrote]
    refine exec_reductionContextWrite hw hr hb hh ?_ ?_ <;> rw [wrote]
    · exact hi.charged
    · exact hi.inReach
  case closes =>
    have wrote := ctxWrite_closes hl ho hc
    rw [← wrote]
    refine exec_reductionContextWrite hw hr hb hh ?_ ?_ <;> rw [wrote]
    · exact hi.charged
    · exact hi.inReach

end Sys2Proof.Machine

namespace Sys2Proof.Machine

/-! ## Responses to requests of other parts (R300 to R304, Table 10.7) -/

/-! ### What sending a packet leaves -/

/-- `t` is `s` with packets sent, queued or held: what has been sent stays sent, and of the entries only the count of packets without
a route may differ. -/
structure Sent (s t : State) : Prop where
  rest : ∃ out ports fab ent, t = { s with out := out, ports := ports, fab := fab, ent := ent }
  sent : s.out <:+ t.out
  entries : ∀ k, k ≠ entKey 0x8050 8 → SMap.find? t.ent k = SMap.find? s.ent k

section Sent
variable {s t u : State} {p q vc us inp i k : Nat} {pk rq : Packet} {op status : Nat} {data : List Byte}

theorem Sent.refl (s : State) : Sent s s := ⟨⟨_, _, _, _, rfl⟩, List.suffix_rfl, fun _ _ => rfl⟩

theorem Sent.trans (h : Sent s t) (g : Sent t u) : Sent s u := by
  obtain ⟨⟨_, _, _, _, rfl⟩, hs, he⟩ := h
  obtain ⟨⟨_, _, _, _, rfl⟩, gs, ge⟩ := g
  exact ⟨⟨_, _, _, _, rfl⟩, hs.trans gs, fun k hk => (ge k hk).trans (he k hk)⟩

theorem setPort_sent (s : State) (p : Nat) (v : Port) : Sent s (setPort s p v) :=
  ⟨⟨_, _, _, _, rfl⟩, List.suffix_rfl, fun _ _ => rfl⟩

theorem send_sent (s : State) (m : Out) : Sent s { s with out := m :: s.out } :=
  ⟨⟨_, _, _, _, rfl⟩, List.suffix_cons _ _, fun _ _ => rfl⟩

theorem giveCredit_sent (s : State) (inp : Nat) (pk : Packet) : Sent s (giveCredit s inp pk) := by
  unfold giveCredit
  split
  · exact send_sent s _
  · exact .refl s

theorem holdPacket_sent (s : State) (p vc us inp : Nat) (pk : Packet) (since : Nat) : Sent s (holdPacket s p vc us inp pk since) :=
  ⟨⟨_, _, _, _, rfl⟩, List.suffix_rfl, fun _ _ => rfl⟩

/-- Flits that leave, one after the other. -/
theorem flits_sent (s : State) (p : Nat) (l : List TxFlit) : Sent s (l.foldl (fun s x => if x.full then sendFlit s p x else s) s) := by
  refine foldl_keeps (Sent s) _ (fun v x hv => ?_) l s (.refl s)
  split
  · exact hv.trans (send_sent v _)
  · exact hv

theorem sendNow_sent (s : State) (p vc us inp : Nat) (pk : Packet) : Sent s (sendNow s p vc us inp pk) :=
  (((giveCredit_sent s inp pk).trans (setPort_sent _ p _)).trans (send_sent _ _)).trans (flits_sent _ p _)

theorem emit_sent (s : State) (p vc us inp : Nat) (pk : Packet) : Sent s (emit s p vc us inp pk) := by
  unfold emit
  split
  · exact sendNow_sent ..
  · exact setPort_sent ..

theorem routePacket_sent (h : routePacket s us inp pk = .sent t) : Sent s t := by
  unfold routePacket at h
  split at h
  · cases h
    exact send_sent s _
  · dsimp only at h
    split at h
    · cases h
    · generalize (if pkIsRequest pk = true then entVc (routeEntry s (pkDst pk)) else entVc (routeEntry s (pkDst pk)) + 2) = vc at h
      split at h
      · split at h <;> cases h
        · exact holdPacket_sent ..
        · exact emit_sent ..
      · cases h
        exact holdPacket_sent ..

theorem respond_sent (s : State) (rq : Packet) (op status : Nat) (data : List Byte) : Sent s (respond s rq op status data) := by
  unfold respond
  dsimp only
  split
  · exact routePacket_sent ‹_›
  · exact ⟨⟨_, _, _, _, rfl⟩, List.suffix_rfl, fun k hk => SMap.find?_put_other _ _ _ _ hk⟩

theorem Sent.mem (h : Sent s t) : t.mem = s.mem := by
  obtain ⟨_, _, _, _, rfl⟩ := h.rest
  rfl

theorem Sent.tiles (h : Sent s t) : t.tiles = s.tiles := by
  obtain ⟨_, _, _, _, rfl⟩ := h.rest
  rfl

theorem Sent.jobs (h : Sent s t) : t.jobs = s.jobs := by
  obtain ⟨_, _, _, _, rfl⟩ := h.rest
  rfl

theorem Sent.main (h : Sent s t) : t.main = s.main := by
  obtain ⟨_, _, _, _, rfl⟩ := h.rest
  rfl

theorem Sent.discardCause (h : Sent s t) : t.discardCause = s.discardCause := by
  obtain ⟨_, _, _, _, rfl⟩ := h.rest
  rfl

theorem Sent.touched (h : Sent s t) : t.touched = s.touched := by
  obtain ⟨_, _, _, _, rfl⟩ := h.rest
  rfl

theorem Sent.stalled (h : Sent s t) : t.stalled = s.stalled := by
  obtain ⟨_, _, _, _, rfl⟩ := h.rest
  rfl

theorem Sent.sees (h : Sent s t) : Sees s t := by
  obtain ⟨_, _, _, _, rfl⟩ := h.rest
  exact ⟨rfl, rfl, rfl⟩

theorem Sent.rd (h : Sent s t) (hk : entKey i k ≠ entKey 0x8050 8) : rd t i k = rd s i k := by
  obtain ⟨_, _, _, _, e⟩ := h.rest
  have cons : t.cons = s.cons := by rw [e]
  unfold Machine.rd SMap.get
  rw [h.entries _ hk, cons]

end Sent

/-! ### Where a response goes -/

/-- The routes and the ports of `t` are those of `s`. -/
structure RoutesAs (s t : State) : Prop where
  cons : t.cons = s.cons
  lay : t.lay = s.lay
  ports : t.ports = s.ports
  held : t.fab.held = s.fab.held
  entries : ∀ k, 0x800000 ≤ k → k < 0x803000 → SMap.find? t.ent k = SMap.find? s.ent k

section Routes
variable {s t u : State} {p q vc e i k : Nat} {pk rq : Packet} {op status : Nat} {data : List Byte}

theorem RoutesAs.refl (s : State) : RoutesAs s s := ⟨rfl, rfl, rfl, rfl, fun _ _ _ => rfl⟩

theorem RoutesAs.trans (h : RoutesAs s t) (g : RoutesAs t u) : RoutesAs s u :=
  ⟨g.cons.trans h.cons, g.lay.trans h.lay, g.ports.trans h.ports, g.held.trans h.held,
    fun k lo hi => (g.entries k lo hi).trans (h.entries k lo hi)⟩

theorem Homed.routes (h : Homed s t) : RoutesAs s t := ⟨h.cons, h.lay, h.ports, congrArg Fabric.held h.fab,
  fun k lo hi => h.entries k lo (by omega)⟩

/-- Events counted or noted leave where a response goes, unless they write a routing entry. -/
theorem Noted.routes {ks : List Nat} (h : Noted ks s t) (hk : ∀ k ∈ ks, k < 0x800000 ∨ 0x803000 ≤ k) : RoutesAs s t := by
  obtain ⟨⟨_, _, _, _, _, _, _, _, _, _, rfl⟩, -, entries⟩ := h
  exact ⟨rfl, rfl, rfl, rfl, fun k lo hi => entries k fun hm => by have := hk k hm; omega⟩

theorem RoutesAs.rd (h : RoutesAs s t) (lo : 0x800000 ≤ entKey i k) (hi : entKey i k < 0x803000) : rd t i k = rd s i k := by
  unfold Machine.rd SMap.get
  rw [h.entries _ lo hi, h.cons]

theorem RoutesAs.ownAddr (h : RoutesAs s t) : ownAddr t = ownAddr s := by
  unfold Machine.ownAddr
  rw [h.rd (by decide) (by decide), h.rd (by decide) (by decide)]

theorem RoutesAs.routeEntry (h : RoutesAs s t) (dst : Nat) : routeEntry t dst = routeEntry s dst := by
  have dom : bits dst 14 8 < 128 := Nat.mod_lt _ (by decide)
  unfold Machine.routeEntry
  rw [h.rd (i := 0x8010) (k := 1) (by decide) (by decide), h.rd (i := 0x8020) (by unfold entKey; omega) (by unfold entKey; omega)]
  dsimp only
  split
  · rfl
  · split
    · exact h.rd (by unfold entKey; omega) (by unfold entKey; omega)
    · exact h.rd (by unfold entKey; omega) (by unfold entKey; omega)

theorem RoutesAs.port (h : RoutesAs s t) : port t = port s := funext fun p => by rw [Machine.port, Machine.port, h.ports]

theorem RoutesAs.portUp (h : RoutesAs s t) : portUp t = portUp s := funext fun p => by
  rw [Machine.portUp, Machine.portUp, h.port, h.lay]

theorem RoutesAs.egress (h : RoutesAs s t) (e : Nat) (adaptive : Bool) (vc : Nat) : egress t e adaptive vc = egress s e adaptive vc := by
  simp only [Machine.egress, h.portUp, h.port]

theorem RoutesAs.heldAt (h : RoutesAs s t) (p vc : Nat) : heldAt t p vc = heldAt s p vc := by
  rw [Machine.heldAt, Machine.heldAt, h.held]

theorem RoutesAs.canSend (h : RoutesAs s t) (p vc : Nat) (pk : Packet) : canSend t p vc pk = canSend s p vc pk := by
  simp only [Machine.canSend, h.port]

/-! ### The header of a response -/

/-- The packet that answers a request. -/
def responseTo (s : State) (rq : Packet) (op status : Nat) (data : List Byte) : Packet :=
  { hdr := mkHdr op true false (pkSrc rq) ((ownAddr s).getD 0) 0 (pkDomain rq) data.length 0 (pkTag rq) (status * 2 ^ 50), payload := data }

theorem respond_eq (h : routePacket s 1 16 (responseTo s rq op status data) = .sent t) : respond s rq op status data = t := by
  unfold responseTo at h
  unfold respond
  dsimp only
  rw [h]

theorem RoutesAs.responseTo (h : RoutesAs s t) : Machine.responseTo t rq op status data = Machine.responseTo s rq op status data := by
  rw [Machine.responseTo, Machine.responseTo, h.ownAddr]

theorem pkSrc_lt (pk : Packet) : pkSrc pk < 2 ^ 15 := Nat.mod_lt _ (by decide)

/-- The fields that route a response, as its header is formed. -/
theorem responseTo_fields (hop : op < 16) : pkOp (responseTo s rq op status data) = op ∧
    pkAdaptive (responseTo s rq op status data) = true ∧ pkDst (responseTo s rq op status data) = pkSrc rq := by
  have src := pkSrc_lt rq
  unfold responseTo pkOp pkAdaptive pkDst bits bit1 mkHdr
  simp only [BitVec.toNat_ofNat, if_true, Bool.false_eq_true, if_false]
  generalize hcrc _ = c
  generalize (ownAddr s).getD 0 = own
  generalize pkSrc rq = dst at src ⊢
  refine ⟨?_, ?_, ?_⟩
  · omega
  · rw [beq_iff_eq]
    omega
  · omega

/-- A response whose route is open leaves (R303, R304). -/
theorem respond_delivers (h : RoutesAs s u) (hop : 5 ≤ op ∧ op < 16) (own : ownAddr s ≠ some (pkSrc rq))
    (valid : entValid (routeEntry s (pkSrc rq)) = true)
    (route : egress s (routeEntry s (pkSrc rq)) true (entVc (routeEntry s (pkSrc rq)) + 2) = some q)
    (free : heldAt s q (entVc (routeEntry s (pkSrc rq)) + 2) = false)
    (room : canSend s q (entVc (routeEntry s (pkSrc rq)) + 2) (responseTo s rq op status data) = true) :
    Out.packet q (withVc (aged (responseTo s rq op status data) 1) (entVc (routeEntry s (pkSrc rq)) + 2)) ∈
      (respond u rq op status data).out := by
  obtain ⟨isOp, adaptive, dst⟩ := responseTo_fields (s := s) (rq := rq) (status := status) (data := data) hop.2
  have response : pkIsRequest (responseTo s rq op status data) = false := by
    rw [pkIsRequest, isOp]
    exact decide_eq_false (by omega)
  have routed : routePacket u 1 16 (responseTo s rq op status data) =
      .sent (sendNow u q (entVc (routeEntry s (pkSrc rq)) + 2) 1 16 (responseTo s rq op status data)) := by
    unfold routePacket
    rw [dst, h.ownAddr, if_neg own]
    dsimp only
    rw [h.routeEntry, valid, response, adaptive, h.egress]
    simp only [Bool.not_true, Bool.false_eq_true, if_false, route, h.heldAt, free]
    rw [emit, h.canSend, room, if_pos rfl]
  have formed := respond_eq (by rw [h.responseTo]; exact routed)
  rw [formed]
  exact (flits_sent _ q _).sent.subset List.mem_cons_self

/-- A state that follows the response has it among what was sent. -/
theorem respond_answered (h : RoutesAs s u) (hop : 5 ≤ op ∧ op < 16) (sent : (respond u rq op status data).out <:+ t.out) :
    Answered s t rq op status data := fun _ own valid route free room =>
  sent.subset (respond_delivers h hop own valid route free room)

theorem answer_answered (h : RoutesAs s u) (sent : (answer u rq status).out <:+ t.out) :
    Answered s t rq (if pkOp rq = 1 then 9 else 8) status [] :=
  respond_answered h (by split <;> decide) sent

end Routes

end Sys2Proof.Machine

namespace Sys2Proof.Machine

/-! ## Bytes written and combined word by word (R162, R168, R254) -/

/-- Words of the Vault or of operand stores are changed from `s` to `u`: each of `l` holds what `f` makes of what it held, and no word
in another place differs. -/
structure Mapped (s u : State) (l : List Nat) (f : Nat → List Byte → List Byte) : Prop where
  lay : u.lay = s.lay
  words : ∀ x ∈ l, peekWord u x = (peekWord s x).map (f x)
  others : OnlyWords s u l

section Mapped
variable {s u v : State} {a n x k key : Nat} {l : List Nat} {d w : List Byte} {f g : Nat → List Byte → List Byte} {how : How}

theorem Mapped.nil (s : State) (f : Nat → List Byte → List Byte) : Mapped s s [] f :=
  ⟨rfl, fun _ h => (nomatch h), fun _ _ _ => rfl⟩

/-- A known word changed at its home. -/
theorem Overwrites.mapped (h : Overwrites s u key (f x d)) (word : SramWord s x key d) (hl : (f x d).length = 64) : Mapped s u [x] f := by
  refine ⟨h.written.lay, fun y hy => ?_, fun y _ other => ?_⟩
  · rw [List.mem_singleton.1 hy, h.peekWord_same hl word.home word.known, word.peekWord]
    rfl
  · refine h.peekWord_other (sramKey_aligned word.home) fun e => other x List.mem_cons_self ?_
    rw [word.home, e]

/-- A word changed, and then others in other places. -/
theorem Mapped.cons (h : Mapped s u [x] f) (g : Mapped u v l f) (ha : ∀ y ∈ x :: l, y % 64 = 0) (own : OwnPlaces s (x :: l))
    (fresh : x ∉ l) : Mapped s v (x :: l) f := by
  obtain ⟨hx, hl⟩ := List.forall_mem_cons.1 ha
  have place : ∀ y, sramKey u y = sramKey s y := sramKey_of_lay h.lay
  have apart : ∀ y ∈ l, sramKey s x ≠ sramKey s y := fun y hy e =>
    fresh ((own x List.mem_cons_self).2 y (List.mem_cons_of_mem _ hy) e ▸ hy)
  refine ⟨g.lay.trans h.lay, List.forall_mem_cons.2 ⟨?_, fun y hy => ?_⟩, fun y hy other => ?_⟩
  · rw [g.others x hx fun y hy => by rw [place, place]; exact (apart y hy).symm]
    exact h.words x (List.mem_singleton_self x)
  · rw [g.words y hy, h.others y (hl y hy) fun z hz => by rw [List.mem_singleton.1 hz]; exact apart y hy]
  · obtain ⟨first, rest⟩ := List.forall_mem_cons.1 other
    rw [g.others y hy fun z hz => by rw [place, place]; exact rest z hz]
    exact h.others y hy fun z hz => by rw [List.mem_singleton.1 hz]; exact first

theorem Mapped.congr (h : Mapped s u l f) (same : ∀ x ∈ l, g x = f x) : Mapped s u l g :=
  ⟨h.lay, fun x hx => by rw [same x hx]; exact h.words x hx, h.others⟩

/-- The same change as it is seen from states that reads do not tell from these. -/
theorem Mapped.seen {o t : State} (hs : Sees o s) (h : Mapped s u l f) (ht : Sees u t) : Mapped o t l f := by
  refine ⟨ht.lay.trans (h.lay.trans hs.lay), fun x hx => ?_, fun x hx other => ?_⟩
  · rw [ht.peekWord, h.words x hx, hs.peekWord]
  · rw [ht.peekWord, h.others x hx (fun y hy => by rw [hs.sramKey, hs.sramKey]; exact other y hy), hs.peekWord]

theorem Mapped.isSome (h : Mapped s u l f) (hx : x ∈ l) (known : (peekWord s x).isSome = true) : (peekWord u x).isSome = true := by
  rw [h.words x hx, Option.isSome_map]
  exact known

/-! ### The words of a byte range -/

/-- The address of the word that holds a byte of a range is among those of the range. -/
theorem mem_wordsOf {i : Nat} (hi : i < n) : (a + i) / 64 * 64 ∈ wordsOf a n :=
  List.mem_map.2 ⟨(a + i) / 64 - a / 64, List.mem_range.2 (by omega), by omega⟩

theorem wordsOf_aligned (a n : Nat) : ∀ x ∈ wordsOf a n, x % 64 = 0 := fun x hx => by
  obtain ⟨k, -, rfl⟩ := List.mem_map.1 hx
  omega

theorem le_of_mem_wordsOf (hx : x ∈ wordsOf a n) : a / 64 * 64 ≤ x := by
  obtain ⟨k, -, rfl⟩ := List.mem_map.1 hx
  omega

/-- Each word of a range holds a byte of it. -/
theorem byte_of_mem_wordsOf (hn : 0 < n) (hx : x ∈ wordsOf a n) : ∃ i, i < n ∧ (a + i) / 64 * 64 = x := by
  obtain ⟨k, hk, rfl⟩ := List.mem_map.1 hx
  have := List.mem_range.1 hk
  exact ⟨a / 64 * 64 + 64 * k - a, by omega, by omega⟩

theorem wordsOf_one (hn : 0 < n) (h : a % 64 + n ≤ 64) : wordsOf a n = [a / 64 * 64] := by
  have one : (a % 64 + n + 63) / 64 = 1 := by omega
  rw [wordsOf, one]
  rfl

/-- The words of a range are the first and those of what follows it. -/
theorem wordsOf_cons (h : a % 64 + k = 64) (hk : k ≤ n) : wordsOf a n = a / 64 * 64 :: wordsOf (a + k) (n - k) := by
  have count : (a % 64 + n + 63) / 64 = ((a + k) % 64 + (n - k) + 63) / 64 + 1 := by omega
  rw [wordsOf, count, List.range_succ_eq_map, List.map_cons, List.map_map]
  refine congrArg₂ _ rfl (List.map_congr_left fun i _ => ?_)
  simp only [Function.comp]
  omega

/-- The words of a clean range are known. -/
theorem Clean.word (h : Clean s a n) (hn : 0 < n) (hb : a + n ≤ 2 ^ 48) (hx : x ∈ wordsOf a n) : (peekWord s x).isSome = true := by
  obtain ⟨i, hi, rfl⟩ := byte_of_mem_wordsOf hn hx
  have g := h i hi
  rwa [Nat.mod_eq_of_lt (by omega)] at g

theorem clean_of_words (h : ∀ x ∈ wordsOf a n, (peekWord s x).isSome = true) (hb : a + n ≤ 2 ^ 48) : Clean s a n := fun i hi => by
  rw [Nat.mod_eq_of_lt (by omega)]
  exact h _ (mem_wordsOf hi)

theorem OwnPlaces.of_lay (h : OwnPlaces s l) (hv : u.lay = s.lay) : OwnPlaces u l := fun y hy => by
  obtain ⟨known, own⟩ := h y hy
  refine ⟨by rw [sramKey_of_lay hv]; exact known, fun z hz e => own z hz ?_⟩
  rwa [sramKey_of_lay hv, sramKey_of_lay hv] at e

theorem OwnPlaces.tail (h : OwnPlaces s (x :: l)) : OwnPlaces s l :=
  fun _ hy => ⟨(h _ (List.mem_cons_of_mem _ hy)).1, fun z hz => (h _ (List.mem_cons_of_mem _ hy)).2 z (List.mem_cons_of_mem _ hz)⟩

/-- What is known of the words after the first stays known while only the first is changed. -/
theorem Mapped.tail_known (h : Mapped s u [x] f) (own : OwnPlaces s (x :: l)) (fresh : x ∉ l) (ha : ∀ y ∈ l, y % 64 = 0)
    (known : ∀ y ∈ l, (peekWord s y).isSome = true) : ∀ y ∈ l, (peekWord u y).isSome = true := fun y hy => by
  rw [h.others y (ha y hy) fun z hz e => ?_]
  · exact known y hy
  · rw [List.mem_singleton.1 hz] at e
    exact fresh ((own x List.mem_cons_self).2 y (List.mem_cons_of_mem _ hy) e ▸ hy)

/-! ### Bytes written -/

/-- A word with the bytes laid over it that a run `d` from address `a` on has for it. -/
def laid (a : Nat) (d : List Byte) (x : Nat) (w : List Byte) : List Byte :=
  overlay w (a - x) ((d.drop (x - a)).take (64 - (a - x)))

theorem laid_length (hw : w.length = 64) (hx : a / 64 * 64 ≤ x) : (laid a d x w).length = 64 := by
  simp only [laid, overlay, List.length_append, List.length_take, List.length_drop]
  omega

theorem getElem?_laid {i : Nat} (hw : w.length = 64) (hi : i < d.length) : (laid a d ((a + i) / 64 * 64) w)[(a + i) % 64]? = d[i]? := by
  unfold laid overlay
  rw [List.append_assoc, List.getElem?_append_right (by rw [List.length_take]; omega), List.getElem?_append_left, List.getElem?_take,
    if_pos, List.getElem?_drop]
  · congr 1
    rw [List.length_take]
    omega
  · rw [List.length_take]
    omega
  · simp only [List.length_take, List.length_drop]
    omega

/-- A run of bytes that is laid over its words reads back. -/
theorem Mapped.peekBytes (h : Mapped s u (wordsOf a d.length) (laid a d)) (known : Clean s a d.length) (hb : a + d.length ≤ 2 ^ 48) :
    peekBytes u a d.length = d := by
  refine List.ext_getElem? fun i => ?_
  by_cases hi : i < d.length
  · have word := h.words _ (mem_wordsOf hi)
    obtain ⟨w, hw⟩ := Option.isSome_iff_exists.1 (known i hi)
    rw [Nat.mod_eq_of_lt (by omega)] at hw
    rw [hw] at word
    have byte := getElem?_laid (a := a) (d := d) (length_of_peekWord hw) hi
    rw [Machine.peekBytes, List.getElem?_map, List.getElem?_range hi, Option.map_some, Nat.mod_eq_of_lt (by omega), word, Option.map_some,
      Option.getD_some, List.getD_eq_getElem?_getD, byte, List.getElem?_eq_getElem hi]
    rfl
  · rw [List.getElem?_eq_none (by rw [peekBytes_length]; omega), List.getElem?_eq_none (by omega)]

/-- Part of a known word written, or the whole of it. -/
theorem writeBytes_known {e : List Byte} (h : SramWord s (a / 64 * 64) key d) :
    ∃ y u, writeBytes s how a e = (.data y, u) ∧ Overwrites s u key (overlay d (a % 64) e) := by
  unfold writeBytes
  dsimp only
  split
  · rename_i whole
    simp only [Bool.and_eq_true, decide_eq_true_eq] at whole
    have same : overlay d (a % 64) e = e := by
      rw [overlay, whole.2, whole.1, List.take_zero, List.drop_of_length_le (by rw [h.length])]
      simp
    have place : a / 64 * 64 = a := by omega
    rw [place] at h
    exact ⟨_, _, rfl, by rw [same]; exact writeWord_known h⟩
  · obtain ⟨u, hu, wrote⟩ := modifyWord_known (how := how) (reduction := false) (f := fun x => overlay x (a % 64) e) h
    exact ⟨d, u, hu, wrote⟩

/-- A run of bytes that covers no line is written word by word. -/
theorem coversLine_sram (h : sramKey s (a / 64 * 64) = some key) (d : List Byte) : coversLine a d = false := by
  have below := lt_of_sramKey h
  have low : ¬ 0x100000000000 ≤ a := by omega
  simp [coversLine, low]

/-- Bytes written to known words, each in a place of its own, are laid over them. -/
theorem putWords_known (known : ∀ x ∈ wordsOf a d.length, (peekWord s x).isSome = true) (own : OwnPlaces s (wordsOf a d.length))
    (hd : 0 < d.length) (hk : a % 64 + d.length ≤ 64 * k) :
    ∃ u, putWords how k s a d = (.ok, u) ∧ WordsWritten s u ∧ Mapped s u (wordsOf a d.length) (laid a d) := by
  induction k generalizing s a d with
  | zero => omega
  | succ k ih =>
    have first : a / 64 * 64 ∈ wordsOf a d.length := by
      have := mem_wordsOf (a := a) hd
      rwa [Nat.add_zero] at this
    obtain ⟨w, hw⟩ := Option.isSome_iff_exists.1 (known _ first)
    obtain ⟨key, word⟩ := sramWord_of_peekWord hw
    obtain ⟨n, hn⟩ : ∃ n, n = min d.length (64 - a % 64) := ⟨_, rfl⟩
    have part : (d.take n).length = n := by
      rw [List.length_take]
      omega
    obtain ⟨_, u, wrote, laidOver⟩ := writeBytes_known (how := how) (e := d.take n) word
    have chunk : overlay w (a % 64) (d.take n) = laid a d (a / 64 * 64) w := by
      have offset : a - a / 64 * 64 = a % 64 := by omega
      have start : a / 64 * 64 - a = 0 := by omega
      have short : d.take n = d.take (64 - a % 64) := List.take_eq_take_iff.2 (by omega)
      rw [laid, offset, start, List.drop_zero, short]
    rw [chunk] at laidOver
    have mapped := laidOver.mapped (f := laid a d) word (laid_length word.length le_rfl)
    have step : putWords how (k + 1) s a d = putWords how k u (a + n) (d.drop n) := by
      have some' : d.isEmpty = false := by
        rw [List.isEmpty_eq_false_iff]
        exact List.ne_nil_of_length_pos hd
      rw [putWords, some', if_neg Bool.false_ne_true, coversLine_sram word.home, if_neg Bool.false_ne_true, ← hn]
      dsimp only
      rw [wrote]
    rw [step]
    by_cases last : d.length ≤ 64 - a % 64
    · have all : d.drop n = [] := List.drop_of_length_le (by omega)
      rw [wordsOf_one hd (by omega), all]
      exact ⟨u, by cases k <;> rfl, laidOver.written, mapped⟩
    · rw [wordsOf_cons (a := a) (k := n) (by omega) (by omega)] at known own ⊢
      have rest : (d.drop n).length = d.length - n := List.length_drop
      have aligned : ∀ y ∈ a / 64 * 64 :: wordsOf (a + n) (d.length - n), y % 64 = 0 :=
        List.forall_mem_cons.2 ⟨by omega, wordsOf_aligned _ _⟩
      have fresh : a / 64 * 64 ∉ wordsOf (a + n) (d.length - n) := fun hm => by
        have := le_of_mem_wordsOf hm
        omega
      have still := mapped.tail_known own fresh (List.forall_mem_cons.1 aligned).2 (List.forall_mem_cons.1 known).2
      obtain ⟨v, put, wrote', mapped'⟩ := ih (s := u) (a := a + n) (d := d.drop n) (by rwa [rest]) (by rw [rest]; exact own.tail.of_lay mapped.lay)
        (by omega) (by omega)
      rw [rest] at mapped'
      refine ⟨v, put, laidOver.written.trans wrote', mapped.cons (mapped'.congr fun y hy => ?_) aligned own fresh⟩
      have above := le_of_mem_wordsOf hy
      have before : a - y = 0 := by omega
      have before' : a + n - y = 0 := by omega
      have skip : n + (y - (a + n)) = y - a := by omega
      funext w
      rw [laid, laid, before, before', List.drop_drop, skip]

/-! ### Contributions combined -/

/-- A word combined with what a run of contributions `d` from address `a` on has for it. -/
def reducedBy (rop a : Nat) (d : List Byte) (x : Nat) (w : List Byte) : List Byte := reduceWord rop w ((d.drop (x - a)).take 64)

/-- Contributions of an unordered ROP to known words, each in a place of its own, are combined. -/
theorem redWords_known {rop cid : Nat} (hr : rop ≠ 5) (known : ∀ x ∈ wordsOf a d.length, (peekWord s x).isSome = true)
    (own : OwnPlaces s (wordsOf a d.length)) (ha : a % 64 = 0) (hd : d.length % 64 = 0) (hk : d.length ≤ 64 * k) :
    ∃ u, redWords how rop cid k s a d = (.ok, u) ∧ WordsWritten s u ∧ Mapped s u (wordsOf a d.length) (reducedBy rop a d) := by
  induction k generalizing s a d with
  | zero =>
    obtain rfl : d = [] := List.eq_nil_of_length_eq_zero (by omega)
    have none' : wordsOf a 0 = [] := by
      rw [wordsOf, ha]
      rfl
    exact ⟨s, rfl, .refl s, by rw [List.length_nil, none']; exact .nil s _⟩
  | succ k ih =>
    by_cases hz : d = []
    · subst hz
      have none' : wordsOf a 0 = [] := by
        rw [wordsOf, ha]
        rfl
      exact ⟨s, rfl, .refl s, by rw [List.length_nil, none']; exact .nil s _⟩
    have hd0 := List.length_pos_iff.2 hz
    have place : a / 64 * 64 = a := by omega
    have rest : (d.drop 64).length = d.length - 64 := List.length_drop
    rw [wordsOf_cons (a := a) (k := 64) (by omega) (by omega), place] at known own ⊢
    obtain ⟨w, hw⟩ := Option.isSome_iff_exists.1 (List.forall_mem_cons.1 known).1
    obtain ⟨key, word⟩ := sramWord_of_peekWord hw
    obtain ⟨u, changed, combined⟩ := modifyWord_known (how := how) (reduction := true) (f := fun x => reduceWord rop x (d.take 64)) word
    have chunk : reduceWord rop w (d.take 64) = reducedBy rop a d a w := by rw [reducedBy, Nat.sub_self, List.drop_zero]
    rw [chunk] at combined
    have mapped := combined.mapped (f := reducedBy rop a d) word (reduceWord_length _ _ word.length)
    have step : redWords how rop cid (k + 1) s a d = redWords how rop cid k u (a + 64) (d.drop 64) := by
      rw [redWords, List.isEmpty_eq_false_iff.2 hz, if_neg Bool.false_ne_true, reduceAt, if_neg hr, changed]
      rfl
    have aligned : ∀ y ∈ a :: wordsOf (a + 64) (d.length - 64), y % 64 = 0 :=
      List.forall_mem_cons.2 ⟨ha, wordsOf_aligned _ _⟩
    have fresh : a ∉ wordsOf (a + 64) (d.length - 64) := fun hm => by
      have := le_of_mem_wordsOf hm
      omega
    have still := mapped.tail_known own fresh (List.forall_mem_cons.1 aligned).2 (List.forall_mem_cons.1 known).2
    obtain ⟨v, red, wrote', mapped'⟩ := ih (s := u) (a := a + 64) (d := d.drop 64) (by rwa [rest]) (by rw [rest]; exact own.tail.of_lay mapped.lay)
      (by omega) (by omega) (by omega)
    rw [rest] at mapped'
    refine ⟨v, step.trans red, combined.written.trans wrote', mapped.cons (mapped'.congr fun y hy => ?_) aligned own fresh⟩
    have above := le_of_mem_wordsOf hy
    have skip : 64 + (y - (a + 64)) = y - a := by omega
    funext w
    rw [reducedBy, reducedBy, List.drop_drop, skip]

end Mapped

end Sys2Proof.Machine

namespace Sys2Proof.Machine

/-! ## Requests of other parts (R235, R299, R309, R313, R317) -/

section Requests
variable {s t u v : State} {p : Nat} {pk : Packet} {q : HeldReq} {g : State → State}

/-- A packet has been taken from its port, and its stream has moved on. -/
def Taken (s v : State) : Prop := ∃ out rx, v = { s with out := out, fab := { s.fab with rx := rx } }

theorem Taken.sees (h : Taken s v) : Sees s v := by
  obtain ⟨_, _, rfl⟩ := h
  exact ⟨rfl, rfl, rfl⟩

theorem Taken.routes (h : Taken s v) : RoutesAs s v := by
  obtain ⟨_, _, rfl⟩ := h
  exact ⟨rfl, rfl, rfl, rfl, fun _ _ _ => rfl⟩

theorem WordsWritten.routes (h : WordsWritten s u) : RoutesAs s u := by
  obtain ⟨_, _, _, _, rfl⟩ := h
  exact ⟨rfl, rfl, rfl, rfl, fun _ _ _ => rfl⟩

theorem Touched.routes (h : Touched s u) : RoutesAs s u := by
  obtain ⟨_, rfl⟩ := h
  exact ⟨rfl, rfl, rfl, rfl, fun _ _ _ => rfl⟩

theorem giveCredit_out (s : State) (p : Nat) (pk : Packet) : ∃ out, giveCredit s p pk = { s with out := out } := by
  unfold giveCredit
  split
  · exact ⟨_, rfl⟩
  · exact ⟨_, rfl⟩

/-- A packet in its stream's order passes the check (R309). -/
theorem streamCheck_inOrder (h : pkAdaptive pk = true ∨ pkSync pk = true ∨ SMap.find? s.fab.rx (pkSrc pk) = some (pkSeq pk, false)) :
    (streamCheck s pk).1 = none ∧ Taken s (streamCheck s pk).2 := by
  unfold streamCheck
  cases adaptive : pkAdaptive pk with
  | true => exact ⟨rfl, _, _, rfl⟩
  | false =>
    cases sync : pkSync pk with
    | true => exact ⟨rfl, _, _, rfl⟩
    | false =>
      simp only [adaptive, sync, Bool.false_eq_true, false_or] at h
      simp only [h, Bool.not_false, beq_self_eq_true, Bool.and_self, Bool.false_eq_true, if_false, if_true]
      exact ⟨trivial, _, _, rfl⟩

theorem Taken.jobTest (h : Taken s v) : jobTest v pk = jobTest s pk := by
  obtain ⟨_, _, rfl⟩ := h
  rfl

/-! ### What arrives -/

theorem exec_fabWrite (h : arrives s p pk 0 = true) : exec (.fabWrite p pk) s = ends s (requestIn (giveCredit s p pk) p pk) :=
  congrArg (ends s) (if_pos h)

theorem exec_fabRead (h : arrives s p pk 1 = true) : exec (.fabRead p pk) s = ends s (requestIn (giveCredit s p pk) p pk) :=
  congrArg (ends s) (if_pos h)

theorem exec_fabReduce (h : arrives s p pk 2 = true) : exec (.fabReduce p pk) s = ends s (requestIn (giveCredit s p pk) p pk) :=
  congrArg (ends s) (if_pos h)

theorem exec_fabSignal (h : arrives s p pk 3 = true) : exec (.fabSignal p pk) s = ends s (requestIn (giveCredit s p pk) p pk) :=
  congrArg (ends s) (if_pos h)

theorem pkOp_of_arrives {op : Nat} (h : arrives s p pk op = true) : pkOp pk = op := by
  simp only [arrives, Bool.and_eq_true, beq_iff_eq] at h
  exact h.1.1.1.1.2

theorem pkWhole_of_arrives {op : Nat} (h : arrives s p pk op = true) : pkWhole pk = true := by
  simp only [arrives, Bool.and_eq_true] at h
  exact h.1.1.2

/-- The data of a WRITE or a REDUCE are as long as its header says. -/
theorem payload_length {op : Nat} (h : arrives s p pk op = true) (data : op = 0 ∨ op = 2) : pk.payload.length = pkLen pk := by
  have whole := pkWhole_of_arrives h
  rw [pkWhole, pkOp_of_arrives h] at whole
  rcases data with rfl | rfl <;> exact beq_iff_eq.1 whole

/-- A WRITE within its limits stays in one line (Table 10.5). -/
theorem write_limits (h : badRequest pk = false) (ho : pkOp pk = 0) :
    1 ≤ pkLen pk ∧ pkAddr pk % 64 + pkLen pk ≤ 64 * 6 := by
  simp only [badRequest, ho, Bool.not_eq_false', Bool.and_eq_true, decide_eq_true_eq, beq_iff_eq] at h
  omega

theorem reduce_limits (h : badRequest pk = false) (ho : pkOp pk = 2) :
    64 ≤ pkLen pk ∧ pkLen pk ≤ 64 * 4 ∧ pkLen pk % 64 = 0 ∧ pkAddr pk % 64 = 0 := by
  simp only [badRequest, ho, Bool.not_eq_false', Bool.and_eq_true, decide_eq_true_eq, beq_iff_eq] at h
  omega

/-! ### How a request is taken in -/

/-- Outside READY nothing is performed (R313). -/
theorem requestIn_elsewhere (hold : tooOld s pk = false) (hbad : badRequest pk = false) (hm : s.main ≠ .ready) :
    requestIn s p pk = answer (if pkOp pk = 3 then dropSignal s pk else s) pk 7 := by
  simp [requestIn, hold, hbad, hm]

/-- In READY a request in its stream's order is performed where a job lets it in, and refused otherwise; a SIGNAL is applied or
dropped. -/
theorem requestIn_inOrder (hold : tooOld s pk = false) (hbad : badRequest pk = false) (hm : s.main = .ready)
    (hc : (streamCheck s pk).1 = none) : requestIn s p pk =
      if pkOp pk = 3 then inTurn (streamCheck s pk).2 (.fabric p pk) (fun v => performSignal v pk)
      else if (jobTest (streamCheck s pk).2 pk).isSome then inTurn (streamCheck s pk).2 (.fabric p pk) (fun v => performReq v p pk)
      else answer (bump (streamCheck s pk).2 0x8050 9) pk 2 := by
  have passes : streamCheck s pk = (none, (streamCheck s pk).2) := Prod.ext hc rfl
  unfold requestIn
  simp only [hold, hbad, hm, Bool.false_eq_true, if_false, bne_self_eq_false]
  rw [passes]

/-! ### A request performed -/

/-- What a command keeps of the state in which a request has been performed. -/
structure Concluded (u t : State) : Prop where
  sees : Sees u t
  sent : u.out <:+ t.out
  main : t.main = u.main
  cause : t.discardCause = u.discardCause

/-- A request that arrives while none waits, and that its regulator admits at once, is performed. -/
theorem inTurn_admitted (hw : waitingReqs s = []) (hp : s.paid = []) (h : Admits s (g s) 0) :
    ∃ ent regU, inTurn s q g = { g s with touched := [], ent := ent, regU := regU } := by
  obtain ⟨reached, admitted⟩ := h
  have owes : ∀ k, unpaid s k = k.parts := fun k => by rw [unpaid, hp]; rfl
  have near : (g s).stalled.isSome = false := by rw [reached]; rfl
  rw [inTurn_alone hw]
  unfold wholeOr
  dsimp only
  rw [near, reached]
  simp only [Bool.false_eq_true, if_false, Bool.false_or]
  by_cases hz : (requestParts (g s) 0).parts = []
  · rw [hz]
    exact ⟨_, _, rfl⟩
  · obtain ⟨free, all⟩ := admitted.resolve_left hz
    rw [owes] at all
    obtain ⟨ent, regU, charged⟩ := admitParts_rest (g s) (requestParts (g s) 0).m false (requestParts (g s) 0).parts
    have parts : (requestParts (g s) 0).parts.isEmpty = false := by simpa using hz
    rw [parts, free, Prod.ext (x := admitParts s ..) (y := (_, [])) rfl all]
    simp only [Bool.false_eq_true, if_false]
    exact ⟨ent, regU, by rw [charged, reached]⟩

theorem noteState_concluded (s u : State) : Concluded u (noteState s u) := by
  have noted := noteState_noted s u
  obtain ⟨_, _, _, _, _, _, _, _, _, _, e⟩ := noted.rest
  exact ⟨by rw [e]; exact ⟨rfl, rfl, rfl⟩, noted.sent, noted.main, noted.discardCause⟩

theorem ends_admitted (hw : waitingReqs s = []) (hp : s.paid = []) (hv : Taken s v) (h : Admits v (g v) 0) :
    ∃ t, ends s (inTurn v q g) = .next t ∧ Concluded (g v) t := by
  have waits : waitingReqs v = [] := by
    obtain ⟨_, _, rfl⟩ := hv
    exact hw
  have owed : v.paid = [] := by
    obtain ⟨_, _, rfl⟩ := hv
    exact hp
  have reached := h.1
  obtain ⟨ent, regU, e⟩ := inTurn_admitted (q := q) waits owed h
  obtain ⟨sees, sent, main, cause⟩ := noteState_concluded s { g v with touched := [], ent := ent, regU := regU }
  exact ⟨_, by rw [e]; exact ends_noted s _ rfl reached, ⟨sees.mem, sees.indet, sees.lay⟩, sent, main, cause⟩

theorem answerAs_ok (s : State) (pk : Packet) : answerAs s pk .ok = answer s pk 0 := rfl

theorem fromBuffer_kept (s : State) (rq : Requester) (a : Nat) (d : List Byte) : fromBuffer s rq a d [] = (some d, s) := rfl

theorem performReq_write (ho : pkOp pk = 0) (hu : pk.upset = [])
    (h : putWords (plain (.fabric p)) 6 v (pkAddr pk) pk.payload = (.ok, u)) : performReq v p pk = answer u pk 0 := by
  simp only [performReq, hu, fromBuffer_kept, ho, h, answerAs_ok]

theorem performReq_read {d : List Byte} (ho : pkOp pk = 1) (hu : pk.upset = [])
    (h : readBytes (plain (.fabric p)) (pkLen pk + 2) v (pkAddr pk) (pkLen pk) = (.val 0, d, u)) :
    performReq v p pk = respond u pk 9 0 d := by
  simp only [performReq, hu, fromBuffer_kept, ho, h]

theorem performReq_reduce (ho : pkOp pk = 2) (hu : pk.upset = [])
    (h : redWords (plain (.fabric p)) (bits (pkArgs pk) 57 54) (bits (pkArgs pk) 53 38) 5 v (pkAddr pk) pk.payload = (.ok, u)) :
    performReq v p pk = answer u pk 0 := by
  simp only [performReq, hu, fromBuffer_kept, ho, h, answerAs_ok]

/-! ### Data lost in the packet buffer (R235, R236) -/

/-- A discard for a lost word has begun; where responses go stands. -/
structure Loses (s t : State) : Prop where
  routes : RoutesAs s t
  main : t.main = .discarding
  cause : t.discardCause = 0x40

theorem Loses.homed (h : Loses s t) (g : Homed t u) : Loses s u :=
  ⟨h.routes.trans g.routes, g.main.trans h.main, g.discardCause.trans h.cause⟩

theorem Loses.touched (h : Loses s t) (g : Touched t u) : Loses s u := by
  refine ⟨h.routes.trans g.routes, ?_, ?_⟩ <;> obtain ⟨_, rfl⟩ := g
  · exact h.main
  · exact h.cause

theorem discardBegun_routes (s : State) (cause : Nat) : RoutesAs s (discardBegun s cause) := by
  obtain ⟨_, -, h⟩ := coveredOf_draws { s with discardEpoch := (s.discardEpoch + 1) % 2 ^ 32, discardCause := cause } cause
  unfold discardBegun
  dsimp only
  rw [h]
  exact ⟨rfl, rfl, rfl, rfl, fun _ _ _ => rfl⟩

theorem startDiscard_routes (s : State) (cause : Nat) : RoutesAs s (startDiscard s cause) :=
  (discardBegun_routes s cause).trans ((startDiscard_noted s cause).homed (by decide)).routes

theorem lostWord_loses {rq : Requester} {a : Nat} (hm : s.main = .ready) (hp : s.power ≠ .deep) : Loses s (lostWord s rq a) := by
  have noted : Noted (entKey 0x7800 6 :: logKeys) s
      (logEvent (bump s 0x7800 6) 0x7801 (leBytes 8 a ++ leBytes 2 (masterOf s rq))) :=
    ((Noted.refl _ s).bump (by decide)).log (by decide)
  have begins := classB_begins (cause := 0x40) (noted.main.trans hm) (by rw [noted.power]; exact hp)
  refine ⟨(noted.homed (by decide)).routes.trans ?_, begins.main, begins.cause⟩
  unfold lostWord classB
  split
  · exact startDiscard_routes ..
  · exact .refl _

theorem Loses.writePoison {how : How} {a : Nat} (h : Loses s t) : Loses s (writePoison t how a) :=
  ((h.homed (bump_homed (by decide) (.refl t))).touched (touch_touched _ how _)).homed writeCode_homed

/-- The first word of a run of bytes has taken more errors in a packet buffer than its check bytes can correct. -/
def BufferLost (d : List Byte) (x : Upset) : Prop :=
  rsDecode 6 (applyUpset (rsEncode 6 (d.take 64 ++ List.replicate (64 - d.length) 0#8)) x) = .uncorrectable

/-- The first word of a run of bytes with more errors than its check bytes can correct is lost. -/
theorem fromBuffer_loses {rq : Requester} {a : Nat} {d : List Byte} {x : Upset} (hd : d ≠ [])
    (hl : BufferLost d x) : fromBuffer s rq a d x = (none, lostWord s rq a) := by
  unfold BufferLost at hl
  have some' : x ≠ [] := by
    rintro rfl
    have full : (d.take 64 ++ List.replicate (64 - d.length) 0#8).length = 64 := by
      simp only [List.length_append, List.length_take, List.length_replicate]
      omega
    have kept := rsDecode_rsEncode (c := 6) (.inl rfl) full
    rw [applyUpset, List.foldl_nil, kept] at hl
    cases hl
  simp [fromBuffer, received, hl, hd, some']

/-- A request whose data are lost fails and begins a discard. -/
theorem performReq_loses (hm : v.main = .ready) (hp : v.power ≠ .deep) (hd : pk.payload ≠ [])
    (hl : BufferLost pk.payload pk.upset) : ∃ u, performReq v p pk = answer u pk 9 ∧ Loses v u := by
  have lost := lostWord_loses (rq := .fabric p) (a := pkAddr pk) hm hp
  have counted : ∀ w, Loses v w → Loses v (failedReq w) := fun w h => h.homed (bump_homed (by decide) (.refl w))
  unfold performReq
  rw [fromBuffer_loses hd hl]
  dsimp only
  split
  · exact ⟨_, rfl, counted _ lost.writePoison⟩
  · exact ⟨_, rfl, counted _ lost⟩

/-! ### A request in its stream's order, in READY -/

/-- The state once a request has been taken from its port and its stream. -/
def taken (s : State) (p : Nat) (pk : Packet) : State := (streamCheck (giveCredit s p pk) pk).2

/-- A request in its stream's order arrives in READY while none waits. -/
structure InOrder (s : State) (pk : Packet) : Prop where
  inv : s.Inv
  waits : waitingReqs s = []
  paid : s.paid = []
  young : tooOld s pk = false
  formed : badRequest pk = false
  ready : s.main = .ready
  order : pkAdaptive pk = true ∨ pkSync pk = true ∨ SMap.find? s.fab.rx (pkSrc pk) = some (pkSeq pk, false)

theorem Taken.waits (h : Taken s v) : waitingReqs v = waitingReqs s := by
  obtain ⟨_, _, rfl⟩ := h
  rfl

theorem Taken.paid (h : Taken s v) : v.paid = s.paid := by
  obtain ⟨_, _, rfl⟩ := h
  rfl

theorem Taken.main (h : Taken s v) : v.main = s.main := by
  obtain ⟨_, _, rfl⟩ := h
  rfl

theorem Taken.power (h : Taken s v) : v.power = s.power := by
  obtain ⟨_, _, rfl⟩ := h
  rfl

theorem Taken.inv (h : Taken s v) (hi : s.Inv) : v.Inv := by
  obtain ⟨_, _, rfl⟩ := h
  exact ⟨hi.form, hi.charged, hi.inReach⟩

theorem Taken.tiles (h : Taken s v) : v.tiles = s.tiles := by
  obtain ⟨_, _, rfl⟩ := h
  rfl

theorem Taken.jobs (h : Taken s v) : v.jobs = s.jobs := by
  obtain ⟨_, _, rfl⟩ := h
  rfl

theorem Taken.rd (h : Taken s v) (i k : Nat) : rd v i k = rd s i k := by
  obtain ⟨_, _, rfl⟩ := h
  rfl

theorem InOrder.passes (h : InOrder s pk) (p : Nat) : (streamCheck (giveCredit s p pk) pk).1 = none ∧ Taken s (taken s p pk) := by
  obtain ⟨out, e⟩ := giveCredit_out s p pk
  rw [taken, e]
  obtain ⟨passes, _, _, r⟩ := streamCheck_inOrder (s := { s with out := out }) h.order
  exact ⟨passes, _, _, r⟩

theorem InOrder.taken (h : InOrder s pk) (p : Nat) : Taken s (taken s p pk) := (h.passes p).2

theorem InOrder.requestIn (h : InOrder s pk) (p : Nat) : requestIn (giveCredit s p pk) p pk =
    if pkOp pk = 3 then inTurn (Machine.taken s p pk) (.fabric p pk) (fun v => performSignal v pk)
    else if (jobTest s pk).isSome then inTurn (Machine.taken s p pk) (.fabric p pk) (fun v => performReq v p pk)
    else answer (bump (Machine.taken s p pk) 0x8050 9) pk 2 := by
  have passes := (h.passes p).1
  rw [← (h.taken p).jobTest, Machine.taken]
  obtain ⟨out, e⟩ := giveCredit_out s p pk
  rw [e] at passes ⊢
  exact requestIn_inOrder h.young h.formed h.ready passes

theorem InOrder.performs (h : InOrder s pk) (ho : pkOp pk ≠ 3) (hj : (jobTest s pk).isSome = true)
    (ha : Admits (Machine.taken s p pk) (performReq (Machine.taken s p pk) p pk) 0) :
    ∃ t, ends s (Machine.requestIn (giveCredit s p pk) p pk) = .next t ∧ Concluded (performReq (Machine.taken s p pk) p pk) t := by
  rw [h.requestIn, if_neg ho, if_pos hj]
  exact ends_admitted h.waits h.paid (h.taken p) ha

/-- A WRITE that a job lets in is performed at its home and answered. -/
theorem InOrder.write (h : InOrder s pk) (arr : arrives s p pk 0 = true) (hj : (jobTest s pk).isSome = true) (hu : pk.upset = [])
    (ha : Admits (Machine.taken s p pk) (performReq (Machine.taken s p pk) p pk) 0) (clean : Clean s (pkAddr pk) (pkLen pk))
    (own : OwnPlaces s (wordsOf (pkAddr pk) (pkLen pk))) (hb : pkAddr pk + pkLen pk ≤ 2 ^ 48) :
    ∃ t, exec (.fabWrite p pk) s = .next t ∧ Clean t (pkAddr pk) (pkLen pk) ∧ peekBytes t (pkAddr pk) (pkLen pk) = pk.payload ∧
      OnlyWords s t (wordsOf (pkAddr pk) (pkLen pk)) ∧ Answered s t pk 8 0 [] := by
  have op := pkOp_of_arrives arr
  have before := (h.taken p).sees
  obtain ⟨pos, fits⟩ := write_limits h.formed op
  rw [← payload_length arr (.inl rfl)] at clean own hb pos fits ⊢
  have known := fun x hx => clean.word pos hb (x := x) hx
  obtain ⟨u, put, wrote, mapped⟩ := putWords_known (how := plain (.fabric p)) (s := Machine.taken s p pk) (k := 6)
    (fun x hx => by rw [before.peekWord]; exact known x hx) (own.of_lay before.lay) pos fits
  obtain ⟨t, ran, done⟩ := h.performs (by rw [op]; decide) hj ha
  rw [performReq_write op hu put] at done
  have seen := mapped.seen before ((respond_sent ..).sees.trans done.sees)
  refine ⟨t, (exec_fabWrite arr).trans ran, clean_of_words (fun x hx => seen.isSome hx (known x hx)) hb, seen.peekBytes clean hb,
    seen.others, ?_⟩
  have answered := answer_answered ((h.taken p).routes.trans wrote.routes) done.sent
  rwa [op] at answered

/-- A READ that a job lets in is answered with what its words hold. -/
theorem InOrder.read (h : InOrder s pk) (arr : arrives s p pk 1 = true) (hj : (jobTest s pk).isSome = true) (hu : pk.upset = [])
    (ha : Admits (Machine.taken s p pk) (performReq (Machine.taken s p pk) p pk) 0) (clean : Clean s (pkAddr pk) (pkLen pk)) :
    ∃ t, exec (.fabRead p pk) s = .next t ∧ t.mem = s.mem ∧ Answered s t pk 9 0 (peekBytes s (pkAddr pk) (pkLen pk)) := by
  have op := pkOp_of_arrives arr
  have before := (h.taken p).sees
  obtain ⟨u, got, noted⟩ := readBytes_known (how := plain (.fabric p)) (fuel := pkLen pk + 2) before clean (by omega)
  obtain ⟨t, ran, done⟩ := h.performs (by rw [op]; decide) hj ha
  rw [performReq_read op hu got] at done
  have seen := (noted.sees.trans (respond_sent ..).sees).trans done.sees
  exact ⟨t, (exec_fabRead arr).trans ran, seen.mem.trans before.mem,
    respond_answered ((h.taken p).routes.trans noted.routes) (by decide) done.sent⟩

/-- A REDUCE that a job lets in is combined into its words and answered. -/
theorem InOrder.reduce (h : InOrder s pk) (arr : arrives s p pk 2 = true) (hj : (jobTest s pk).isSome = true) (hu : pk.upset = [])
    (ha : Admits (Machine.taken s p pk) (performReq (Machine.taken s p pk) p pk) 0) (hr : bits (pkArgs pk) 57 54 ≠ 5)
    (clean : Clean s (pkAddr pk) (pkLen pk)) (own : OwnPlaces s (wordsOf (pkAddr pk) (pkLen pk)))
    (hb : pkAddr pk + pkLen pk ≤ 2 ^ 48) :
    ∃ t, exec (.fabReduce p pk) s = .next t ∧ OnlyWords s t (wordsOf (pkAddr pk) (pkLen pk)) ∧ Answered s t pk 8 0 [] ∧
      ∀ k, k < pkLen pk / 64 → peekWord t (pkAddr pk + 64 * k) = (peekWord s (pkAddr pk + 64 * k)).map (fun w =>
        reduceWord (bits (pkArgs pk) 57 54) w ((pk.payload.drop (64 * k)).take 64)) := by
  have op := pkOp_of_arrives arr
  have before := (h.taken p).sees
  obtain ⟨pos, fits, whole, aligned⟩ := reduce_limits h.formed op
  rw [← payload_length arr (.inr rfl)] at clean own hb pos fits whole ⊢
  obtain ⟨u, red, wrote, mapped⟩ := redWords_known (how := plain (.fabric p)) (s := Machine.taken s p pk) (k := 5)
    (cid := bits (pkArgs pk) 53 38) hr (fun x hx => by rw [before.peekWord]; exact clean.word (by omega) hb hx)
    (own.of_lay before.lay) aligned whole (by omega)
  obtain ⟨t, ran, done⟩ := h.performs (by rw [op]; decide) hj ha
  rw [performReq_reduce op hu red] at done
  have seen := mapped.seen before ((respond_sent ..).sees.trans done.sees)
  have answered := answer_answered ((h.taken p).routes.trans wrote.routes) done.sent
  refine ⟨t, (exec_fabReduce arr).trans ran, seen.others, by rwa [op] at answered, fun k hk => ?_⟩
  have place : (pkAddr pk + 64 * k) / 64 * 64 = pkAddr pk + 64 * k := by omega
  have word := seen.words _ (place ▸ mem_wordsOf (show 64 * k < pk.payload.length by omega))
  unfold reducedBy at word
  rwa [Nat.add_sub_cancel_left] at word

/-- A request with data that are lost in the packet buffer is answered with failure and begins a discard. -/
theorem InOrder.loses {op : Nat} (h : InOrder s pk) (arr : arrives s p pk op = true) (data : op = 0 ∨ op = 2)
    (hj : (jobTest s pk).isSome = true) (ha : Admits (Machine.taken s p pk) (performReq (Machine.taken s p pk) p pk) 0)
    (hp : s.power ≠ .deep) (hl : BufferLost pk.payload pk.upset) :
    ∃ t, ends s (Machine.requestIn (giveCredit s p pk) p pk) = .next t ∧ t.main = .discarding ∧ t.discardCause = 0x40 ∧
      Answered s t pk 8 9 [] := by
  have isOp := pkOp_of_arrives arr
  have some' : 0 < pk.payload.length := by
    rw [payload_length arr data]
    rcases data with rfl | rfl
    · exact (write_limits h.formed isOp).1
    · have := (reduce_limits h.formed isOp).1
      omega
  obtain ⟨t, ran, done⟩ := h.performs (by omega) hj ha
  obtain ⟨u, failed, lost⟩ := performReq_loses (p := p) ((h.taken p).main.trans h.ready) (by rw [(h.taken p).power]; exact hp)
    (List.length_pos_iff.1 some') hl
  rw [failed] at done
  have answered := answer_answered ((h.taken p).routes.trans lost.routes) done.sent
  rw [if_neg (by omega)] at answered
  exact ⟨t, ran, done.main.trans ((respond_sent ..).main.trans lost.main), done.cause.trans ((respond_sent ..).discardCause.trans lost.cause),
    answered⟩

/-! ### Requests answered where nothing is performed -/

/-- A response to a request for which nothing was touched ends its command. -/
theorem ends_answer {status : Nat} (charged : u.touched = []) (reached : u.stalled = none) :
    ends s (answer u pk status) = .next (noteState s (answer u pk status)) :=
  ends_noted s _ ((respond_sent ..).touched.trans charged) ((respond_sent ..).stalled.trans reached)

theorem ends_answered {status : Nat} (routes : RoutesAs s u) :
    Answered s (noteState s (answer u pk status)) pk (if pkOp pk = 1 then 9 else 8) status [] :=
  answer_answered routes (noteState_noted ..).sent

theorem rd_ends_answer {status i k : Nat} (hk : entKey i k ≠ entKey 0x8050 8) : rd (noteState s (answer u pk status)) i k = rd u i k :=
  ((noteState_noted ..).rd List.not_mem_nil).trans ((respond_sent ..).rd hk)

theorem dropSignal_noted (s : State) (pk : Packet) : Noted (entKey 0x5040 1 :: logKeys) s (dropSignal s pk) :=
  ((Noted.refl _ s).bump (by decide)).log (by decide)

theorem dropSignal_counted (h : rd v 0x5040 1 = rd s 0x5040 1) : rd (dropSignal v pk) 0x5040 1 = rd (bump s 0x5040 1) 0x5040 1 :=
  ((logEvent_noted ..).rd (by decide)).trans (rd_bump_congr (by decide) h)

/-- A request outside every job is refused and counted. -/
theorem InOrder.refused {op : Nat} (h : InOrder s pk) (arr : arrives s p pk op = true) (ho : op ≠ 3) (hj : jobTest s pk = none) :
    ∃ t, ends s (Machine.requestIn (giveCredit s p pk) p pk) = .next t ∧ rd t 0x8050 9 = rd (bump s 0x8050 9) 0x8050 9 ∧
      t.mem = s.mem ∧ Answered s t pk (if op = 1 then 9 else 8) 2 [] := by
  obtain rfl := pkOp_of_arrives arr
  have tk := h.taken p
  have inv := tk.inv h.inv
  refine ⟨_, by rw [h.requestIn, if_neg ho, hj, if_neg (by decide)]; exact ends_answer inv.charged inv.inReach, ?_, ?_, ?_⟩
  · exact (rd_ends_answer (by decide)).trans (rd_bump_congr (by decide) (tk.rd ..))
  · rw [noteState_mem]
    exact (respond_sent ..).mem.trans tk.sees.mem
  · exact ends_answered (tk.routes.trans ((bump_noted [entKey 0x8050 9] _ 0x8050 9 (by decide)).routes (by decide)))

/-- What a SIGNAL is applied or dropped with, in READY. -/
theorem InOrder.signalIn {w : State} (h : InOrder s pk) (p : Nat) (ho : pkOp pk = 3)
    (hw : performSignal (Machine.taken s p pk) pk = answer w pk 0) (charged : w.touched = []) (reached : w.stalled = none) :
    ends s (Machine.requestIn (giveCredit s p pk) p pk) = .next (noteState s (answer w pk 0)) := by
  rw [h.requestIn, if_pos ho, inTurn_untouched ((h.taken p).waits.trans h.waits), hw]
  · exact ends_answer charged reached
  · rw [hw]
    exact (respond_sent ..).touched.trans charged
  · rw [hw]
    exact (respond_sent ..).stalled.trans reached

theorem performSignal_dropped (hm : v.main = .ready) (hj : jobTest v pk = none) : performSignal v pk = answer (dropSignal v pk) pk 0 := by
  simp [performSignal, hm, hj]

theorem performSignal_signals (hm : v.main = .ready) (hj : (jobTest v pk).isSome = true) (hf : bits (pkArgs pk) 41 36 < 48) :
    performSignal v pk = answer (signal v (bits (pkArgs pk) 57 42) (bits (pkArgs pk) 41 36) (bits (pkArgs pk) 35 20)) pk 0 := by
  simp [performSignal, hm, hj, hf]

/-- A SIGNAL outside every job is dropped and counted. -/
theorem InOrder.drops (h : InOrder s pk) (p : Nat) (ho : pkOp pk = 3) (hj : jobTest s pk = none) :
    ∃ t, ends s (Machine.requestIn (giveCredit s p pk) p pk) = .next t ∧ rd t 0x5040 1 = rd (bump s 0x5040 1) 0x5040 1 ∧
      t.tiles = s.tiles ∧ t.mem = s.mem ∧ Answered s t pk 8 0 [] := by
  have tk := h.taken p
  have inv := tk.inv h.inv
  have noted := dropSignal_noted (Machine.taken s p pk) pk
  have answered := ends_answered (pk := pk) (status := 0) (tk.routes.trans (noted.routes (by decide)))
  rw [if_neg (by omega)] at answered
  refine ⟨_, h.signalIn p ho (performSignal_dropped (tk.main.trans h.ready) (tk.jobTest.trans hj)) (noted.touched.trans inv.charged)
    (noted.stalled.trans inv.inReach), (rd_ends_answer (by decide)).trans (dropSignal_counted (tk.rd ..)), ?_, ?_, answered⟩
  · rw [noteState_tiles]
    exact (respond_sent ..).tiles.trans (noted.tiles.trans tk.tiles)
  · rw [noteState_mem]
    exact (respond_sent ..).mem.trans (noted.mem.trans tk.sees.mem)

theorem setFlag_routes (s : State) (t f n : Nat) : RoutesAs s (setFlag s t f n) := ⟨rfl, rfl, rfl, rfl, fun _ _ _ => rfl⟩

theorem tile_ends_answer {status : Nat} (y : Nat) : tile (noteState s (answer u pk status)) y = tile u y := by
  rw [tile_noteState]
  exact congrArg (SMap.get · y Tile.reset) (respond_sent ..).tiles

theorem Taken.tile (h : Taken s v) (y : Nat) : tile v y = tile s y := by
  rw [Machine.tile, Machine.tile, h.tiles]

theorem Taken.signalled {x j : Nat} {jb : Job} (h : Taken s v) (hs : Signalled s x j jb) : Signalled v x j jb :=
  ⟨h.inv hs.inv, (jobOf_congr (congrArg _ (h.tile x)) h.jobs).trans hs.held, hs.running, h.main.trans hs.ready,
    by rw [h.tile]; exact hs.open'⟩

/-- A SIGNAL that a job lets in adds to its flag. -/
theorem InOrder.signals {x f n j : Nat} {jb : Job} (h : InOrder s pk) (p : Nat) (ho : pkOp pk = 3) (hj : (jobTest s pk).isSome = true)
    (hx : bits (pkArgs pk) 57 42 = x) (hf : bits (pkArgs pk) 41 36 = f) (hn : bits (pkArgs pk) 35 20 = n) (flag : f < 48)
    (hs : Signalled s x j jb) (room : flagCount s x f + n ≤ 65535) :
    ∃ t, ends s (Machine.requestIn (giveCredit s p pk) p pk) = .next t ∧ flagCount t x f = flagCount s x f + n ∧
      (∀ g, g ≠ f → flagCount t x g = flagCount s x g) ∧ (∀ y, y ≠ x → tile t y = tile s y) ∧ t.mem = s.mem ∧ t.jobs = s.jobs ∧
      Answered s t pk 8 0 [] := by
  subst hx hf hn
  have tk := h.taken p
  have inv := tk.inv h.inv
  have counts : ∀ y g, flagCount (Machine.taken s p pk) y g = flagCount s y g := fun y => flagCount_congr (congrArg _ (tk.tile y))
  have performed := performSignal_signals (tk.main.trans h.ready) (by rw [tk.jobTest]; exact hj) flag
  rw [(tk.signalled hs).signal (by rw [counts]; exact room), counts] at performed
  have answered := ends_answered (pk := pk) (status := 0) (tk.routes.trans (setFlag_routes _ (bits (pkArgs pk) 57 42)
    (bits (pkArgs pk) 41 36) (flagCount s (bits (pkArgs pk) 57 42) (bits (pkArgs pk) 41 36) + bits (pkArgs pk) 35 20)))
  rw [if_neg (by omega)] at answered
  refine ⟨_, h.signalIn p ho performed inv.charged inv.inReach, ?_, fun g other => ?_, fun y other => ?_, ?_, ?_, answered⟩
  · rw [flagCount_congr (congrArg _ (tile_ends_answer _)), flagCount_setFlag]
  · rw [flagCount_congr (congrArg _ (tile_ends_answer _)), flagCount_setFlag_other _ _ _ _ _ _ (.inr other), counts]
  · rw [tile_ends_answer, tile_setFlag_other _ _ _ other, tk.tile]
  · rw [noteState_mem]
    exact (respond_sent ..).mem.trans tk.sees.mem
  · rw [noteState_jobs]
    exact (respond_sent ..).jobs.trans tk.jobs

/-- Outside READY a request is answered and nothing is performed; a SIGNAL among them is dropped and counted. -/
theorem requestIn_targetDown (hi : s.Inv) (hold : tooOld s pk = false) (hbad : badRequest pk = false) (hm : s.main ≠ .ready) {op : Nat}
    (arr : arrives s p pk op = true) :
    ∃ t, ends s (requestIn (giveCredit s p pk) p pk) = .next t ∧ t.mem = s.mem ∧ t.tiles = s.tiles ∧
      Answered s t pk (if op = 1 then 9 else 8) 7 [] ∧ (op = 3 → rd t 0x5040 1 = rd (bump s 0x5040 1) 0x5040 1) := by
  obtain rfl := pkOp_of_arrives arr
  obtain ⟨out, e⟩ := giveCredit_out s p pk
  have tk : Taken s { s with out := out } := ⟨_, _, rfl⟩
  have inv := tk.inv hi
  rw [e, requestIn_elsewhere (s := { s with out := out }) hold hbad hm]
  by_cases ho : pkOp pk = 3
  · have noted := dropSignal_noted { s with out := out } pk
    rw [if_pos ho]
    refine ⟨_, ends_answer (noted.touched.trans inv.charged) (noted.stalled.trans inv.inReach), ?_, ?_,
      ends_answered (tk.routes.trans (noted.routes (by decide))), fun _ => (rd_ends_answer (by decide)).trans (dropSignal_counted rfl)⟩
    · rw [noteState_mem]
      exact (respond_sent ..).mem.trans noted.mem
    · rw [noteState_tiles]
      exact (respond_sent ..).tiles.trans noted.tiles
  · rw [if_neg ho]
    refine ⟨_, ends_answer inv.charged inv.inReach, ?_, ?_, ends_answered tk.routes, fun h => absurd h ho⟩
    · rw [noteState_mem]
      exact (respond_sent ..).mem
    · rw [noteState_tiles]
      exact (respond_sent ..).tiles

end Requests

/-- Settles O46: a request in order is taken from its port and its stream, and performed, refused or dropped from there; what it does
at its home is what its words' rules say, and its response follows where its route is open. -/
theorem requestsArePerformedForJobs : Obligations.RequestsArePerformedForJobs := by
  intro s p pk hi hw hp hold hbad
  refine ⟨fun hm ho hj => ⟨fun ha hu => ⟨fun arr clean own hb => ?write, fun arr clean => ?read, fun arr hr clean own hb => ?reduce⟩,
    fun ha hd hl => ⟨fun arr => ?lostWrite, fun arr => ?lostReduce⟩, fun arr hf j jb hs room => ?signal⟩,
    fun hm ho hj => ⟨fun arr => ?refusedWrite, fun arr => ?refusedRead, fun arr => ?refusedReduce, fun arr => ?dropped⟩,
    fun hm => ⟨fun arr => ?downWrite, fun arr => ?downRead, fun arr => ?downReduce, fun arr => ?downSignal⟩⟩
  case write => exact InOrder.write ⟨hi, hw, hp, hold, hbad, hm, ho⟩ arr hj hu ha clean own hb
  case read => exact InOrder.read ⟨hi, hw, hp, hold, hbad, hm, ho⟩ arr hj hu ha clean
  case reduce => exact InOrder.reduce ⟨hi, hw, hp, hold, hbad, hm, ho⟩ arr hj hu ha hr clean own hb
  case lostWrite =>
    rw [exec_fabWrite arr]
    exact InOrder.loses ⟨hi, hw, hp, hold, hbad, hm, ho⟩ arr (.inl rfl) hj ha hd hl
  case lostReduce =>
    rw [exec_fabReduce arr]
    exact InOrder.loses ⟨hi, hw, hp, hold, hbad, hm, ho⟩ arr (.inr rfl) hj ha hd hl
  case signal =>
    rw [exec_fabSignal arr]
    exact InOrder.signals ⟨hi, hw, hp, hold, hbad, hm, ho⟩ p (pkOp_of_arrives arr) hj rfl rfl rfl hf hs room
  case refusedWrite =>
    obtain ⟨t, ran, counted, mem, answered⟩ := InOrder.refused ⟨hi, hw, hp, hold, hbad, hm, ho⟩ arr (by decide) hj
    exact ⟨t, (exec_fabWrite arr).trans ran, counted, mem, answered⟩
  case refusedRead =>
    obtain ⟨t, ran, counted, mem, answered⟩ := InOrder.refused ⟨hi, hw, hp, hold, hbad, hm, ho⟩ arr (by decide) hj
    exact ⟨t, (exec_fabRead arr).trans ran, counted, mem, answered⟩
  case refusedReduce =>
    obtain ⟨t, ran, counted, mem, answered⟩ := InOrder.refused ⟨hi, hw, hp, hold, hbad, hm, ho⟩ arr (by decide) hj
    exact ⟨t, (exec_fabReduce arr).trans ran, counted, mem, answered⟩
  case dropped =>
    rw [exec_fabSignal arr]
    exact InOrder.drops ⟨hi, hw, hp, hold, hbad, hm, ho⟩ p (pkOp_of_arrives arr) hj
  case downWrite =>
    obtain ⟨t, ran, mem, tiles, answered, -⟩ := requestIn_targetDown hi hold hbad hm arr
    exact ⟨t, (exec_fabWrite arr).trans ran, mem, tiles, answered⟩
  case downRead =>
    obtain ⟨t, ran, mem, tiles, answered, -⟩ := requestIn_targetDown hi hold hbad hm arr
    exact ⟨t, (exec_fabRead arr).trans ran, mem, tiles, answered⟩
  case downReduce =>
    obtain ⟨t, ran, mem, tiles, answered, -⟩ := requestIn_targetDown hi hold hbad hm arr
    exact ⟨t, (exec_fabReduce arr).trans ran, mem, tiles, answered⟩
  case downSignal =>
    obtain ⟨t, ran, mem, tiles, answered, counted⟩ := requestIn_targetDown hi hold hbad hm arr
    exact ⟨t, (exec_fabSignal arr).trans ran, counted rfl, mem, tiles, answered⟩

end Sys2Proof.Machine

namespace Sys2Proof.Machine

/-! ## The invariant after every step -/

/-- A part that arrives at its regulator is admitted or waits there, and what was touched stands as it did. -/
theorem partArrives_touched (s : State) (m eng : Nat) (p : PartTarget) (forced : Bool) :
    (partArrives s m eng p forced).touched = s.touched := by
  unfold partArrives
  split <;> rfl

/-- What was touched has been charged when all its parts have arrived. -/
theorem chargeAll_touched (s : State) (e : Nat) (forced : Bool) : (chargeAll s e forced).touched = [] := by
  unfold chargeAll
  split
  · exact List.isEmpty_iff.1 ‹_›
  · exact foldl_keeps (fun t : State => t.touched = []) _ (fun _ _ h => (partArrives_touched ..).trans h) _ _ rfl

/-- In the outcome of a command nothing is left to charge, and nothing is noted as out of reach. -/
theorem ends_rests {s t u : State} (h : ends s t = .next u) : u.touched = [] ∧ u.stalled = none := by
  have noted := ends_next s t u h
  exact ⟨noted.touched.trans (chargeAll_touched t 0 false), noted.stalled⟩

/-- Every command but a refresh, which changes nothing, concludes in a state between commands. -/
theorem exec_concludes (c : Instr) (s : State) : exec c s = .next s ∨ ∃ t, exec c s = ends s t := by
  cases c
  case hbmRefresh => exact .inl rfl
  all_goals exact .inr ⟨_, rfl⟩

/-- Every command keeps the invariant. -/
theorem exec_keeps_inv {c : Instr} {s t : State} (hi : s.Inv) (h : exec c s = .next t) : t.Inv := by
  have form : Memory.wf t.mem := by
    obtain ⟨u, hu, leads⟩ := exec_leads c s
    obtain rfl : t = u := Host.Outcome.next.inj (h.symm.trans hu)
    exact leads.form hi.form
  rcases exec_concludes c s with e | ⟨u, e⟩
  · obtain rfl : s = t := Host.Outcome.next.inj (e.symm.trans h)
    exact hi
  · obtain ⟨charged, inReach⟩ := ends_rests (e.symm.trans h)
    exact ⟨form, charged, inReach⟩

/-- Settles O3: the front command keeps the invariant, and a block that idles does nothing. -/
theorem stepKeepsInvariant : Obligations.StepKeepsInvariant := by
  intro s t hi h
  unfold step at h
  cases hp : s.pending with
  | nil =>
    rw [hp] at h
    obtain rfl : s = t := Host.Outcome.next.inj h
    exact hi
  | cons c r =>
    rw [hp] at h
    exact exec_keeps_inv (s := { s with pending := r }) ⟨hi.form, hi.charged, hi.inReach⟩ h

end Sys2Proof.Machine

namespace Sys2Proof.Machine

/-! ## Places of words (R153 to R155, R187, R188) -/

section Placed
variable (s : State) {a b e h : Nat}

/-- The keys of words are injective in their coordinates, and those of the three kinds of storage lie apart. -/
theorem vaultKey_inj {b x w b' x' w' : Nat} (hx : x < 528) (hx' : x' < 528) (hw : w < 65536) (hw' : w' < 65536)
    (hk : vaultKey b x w = vaultKey b' x' w') : b = b' ∧ x = x' ∧ w = w' := by
  unfold vaultKey at hk
  omega

theorem opstoreKey_inj {t w t' w' : Nat} (hw : w < 16384) (hw' : w' < 16384) (hk : opstoreKey t w = opstoreKey t' w') :
    t = t' ∧ w = w' := by
  unfold opstoreKey at hk
  omega

theorem hbmKey_inj {c n c' n' : Nat} (hn : n < 2 ^ 25) (hn' : n' < 2 ^ 25) (hk : hbmKey c n = hbmKey c' n') : c = c' ∧ n = n' := by
  unfold hbmKey at hk
  omega

theorem vaultKey_lt_opstoreKey {b x w : Nat} (t w' : Nat) (hb : b < 6) (hx : x < 528) (hw : w < 65536) :
    vaultKey b x w < opstoreKey t w' := by
  unfold vaultKey opstoreKey
  omega

theorem opstoreKey_lt_hbmKey {t w : Nat} (c n : Nat) (ht : t < 3072) (hw : w < 16384) : opstoreKey t w < hbmKey c n := by
  unfold opstoreKey hbmKey
  omega

/-- A shared-pool address goes round the six B-dies page by page, and round the slices of its die (R153). -/
theorem homeOf_shared (hs : a < sharedBytes s) (ha : a < 0x001000000000) :
    homeOf s a = .vault (a / 4096 % 6) (slice s (a / 4096 % 6) (a / 4096 / 6 % s.lay.p))
      ((a / 4096 / 6 / s.lay.p * 4096 + a % 4096) / 64) := by
  unfold homeOf
  rw [if_pos ha, if_pos hs]

/-- A die-local address goes round the slices of its die in blocks of 256 bytes, above their shared shares (R154). -/
theorem homeOf_dieLocal (hb : b < 6) (he : e < dieBytes s) (hw : e < 2 ^ 32) :
    homeOf s (0x001000000000 + b * 2 ^ 32 + e) =
      .vault b (slice s b (e / 256 % s.lay.p)) ((s.lay.ps * 2 ^ 18 + (e / (256 * s.lay.p) * 256 + e % 256)) / 64) := by
  have above : ¬ 0x001000000000 + b * 2 ^ 32 + e < 0x001000000000 := by omega
  have below : 0x001000000000 + b * 2 ^ 32 + e < 0x001800000000 := by omega
  have die : (0x001000000000 + b * 2 ^ 32 + e - 0x001000000000) / 0x100000000 = b := by omega
  have off : (0x001000000000 + b * 2 ^ 32 + e) % 0x100000000 = e := by omega
  unfold homeOf
  rw [if_neg above, if_pos below]
  dsimp only
  rw [die, off, if_pos ⟨hb, he⟩]
  rfl

/-- An HBM address has its home in the home range of its die, by lines of four sectors (R187). -/
theorem homeOf_hbm (hb : b < 6) (hr : h < hbmRange s b) (hw : h < 2 ^ 37) :
    homeOf s (0x100000000000 + b * 2 ^ 37 + h) = .hbm b (h / 256) (h % 256 / 64) := by
  have above : ∀ c ≤ 0x100000000000, ¬ 0x100000000000 + b * 2 ^ 37 + h < c := by omega
  have below : 0x100000000000 + b * 2 ^ 37 + h < 0x200000000000 := by omega
  have die : (0x100000000000 + b * 2 ^ 37 + h - 0x100000000000) / 0x2000000000 = b := by omega
  have off : (0x100000000000 + b * 2 ^ 37 + h - 0x100000000000) % 0x2000000000 = h := by omega
  unfold homeOf
  rw [if_neg (above _ (by decide)), if_neg (above _ (by decide)), if_neg (above _ (by decide)), if_neg (above _ (by decide)),
    if_pos below]
  dsimp only
  rw [die, off, if_pos ⟨hb, hr⟩]

/-- The lines of a home range go round its active channels (R188). -/
theorem lineKey_round (b h : Nat) : lineKey s b (h / 256) (h % 256 / 64) =
    hbmKey ((dieChans s b).getD (h / 256 % (dieChans s b).length) 0) ((h / 256 / (dieChans s b).length * 256 + h % 256) / 64) := by
  unfold lineKey lineChan lineSector
  congr 1
  omega

end Placed

/-- Settles O8: a word stored is read back and stays in its place, places are told apart by their coordinates, and addresses have
the homes that the interleave gives. -/
theorem memoryKeepsWordsApart : Obligations.MemoryKeepsWordsApart := by
  refine ⟨fun m k w hm hw => ⟨storedAt_storeAt hw, storeAt_wf m k w hm, storeAt_sameBut m k w⟩,
    ⟨fun b x w b' x' w' => vaultKey_inj, fun t w t' w' => opstoreKey_inj, fun c n c' n' => hbmKey_inj,
      fun b x w t w' c n hb hx hw ht hw' => ⟨vaultKey_lt_opstoreKey t w' hb hx hw, opstoreKey_lt_hbmKey c n ht hw'⟩⟩,
    fun s a => homeOf_shared s, fun s b e => homeOf_dieLocal s, fun s b h hb hr hw => ⟨homeOf_hbm s hb hr hw, lineKey_round s b h⟩⟩

end Sys2Proof.Machine

namespace Sys2Proof.Machine

/-! ## Reductions and atomics at a home (R168 to R170, R175, Table 5.6) -/

/-! ### Numbers and their bytes -/

/-- The number that little-endian bytes hold is the number they were made of, as far as they hold it. -/
@[simp] theorem leNat_leBytes (n v : Nat) : leNat (leBytes n v) = v % 256 ^ n := by
  induction n generalizing v with
  | zero => simp [leBytes, leNat, Nat.mod_one]
  | succ n ih => rw [leBytes, leNat, ih, BitVec.toNat_ofNat, pow_succ' 256, Nat.mod_mul]

/-- Bytes show no more of a number than they hold. -/
theorem leBytes_mod (n v : Nat) : leBytes n (v % 256 ^ n) = leBytes n v := by
  induction n generalizing v with
  | zero => rfl
  | succ n ih =>
    have low : BitVec.ofNat 8 (v % 256 ^ (n + 1)) = BitVec.ofNat 8 v := by
      apply BitVec.eq_of_toNat_eq
      simp only [BitVec.toNat_ofNat]
      exact Nat.mod_mod_of_dvd v (Dvd.intro_left _ (pow_succ 256 n).symm)
    rw [leBytes, leBytes, low, pow_succ', Nat.mod_mul_right_div_self, ih]

/-! ### Words element by element -/

/-- Chunks of one length put together are found each in its place. -/
theorem take_drop_flatMap_range {n m i : Nat} {g : Nat → List Byte} (hg : ∀ j, (g j).length = n) (hi : i < m) :
    (((List.range m).flatMap g).drop (n * i)).take n = g i := by
  induction m with
  | zero => omega
  | succ m ih =>
    have before : ((List.range m).flatMap g).length = n * m := by simp [List.length_flatMap, hg, mul_comm]
    rw [List.range_succ, List.flatMap_append, List.flatMap_singleton]
    rcases Nat.lt_succ_iff_lt_or_eq.1 hi with h | rfl
    · have room : n * i + n ≤ n * m := by
        rw [← Nat.mul_succ]
        exact Nat.mul_le_mul_left n h
      rw [List.drop_append_of_le_length (by omega), List.take_append_of_le_length (by rw [List.length_drop]; omega), ih h]
    · rw [← before, List.drop_left, List.take_of_length_le (by rw [hg])]

/-- Element `i` of `n` bytes of a word. -/
def wordElem (n i : Nat) (w : List Byte) : Nat := leNat ((w.drop (n * i)).take n)

theorem wordElem_lt (n i : Nat) (w : List Byte) : wordElem n i w < 256 ^ n :=
  (leNat_lt _).trans_le (Nat.pow_le_pow_right (by decide) (List.length_take_le ..))

/-- Words mapped element by element: each element is what the function makes of the two. -/
theorem wordElem_zipElems {n i : Nat} {f : Nat → Nat → Nat} {x y : List Byte} (hi : i < 64 / n)
    (hf : f (wordElem n i x) (wordElem n i y) < 256 ^ n) : wordElem n i (zipElems n f x y) = f (wordElem n i x) (wordElem n i y) := by
  rw [wordElem, zipElems, take_drop_flatMap_range (fun _ => leBytes_length ..) hi, leNat_leBytes, mul_comm i n]
  exact Nat.mod_eq_of_lt hf

/-- The same for a function of machine words. -/
theorem wordElem_zipElems_toNat {n i w : Nat} (g : BitVec w → BitVec w → BitVec w) (x y : List Byte) (hw : 256 ^ n = 2 ^ w)
    (hi : i < 64 / n) : wordElem n i (zipElems n (fun a b => (g (BitVec.ofNat w a) (BitVec.ofNat w b)).toNat) x y) =
      (g (BitVec.ofNat w (wordElem n i x)) (BitVec.ofNat w (wordElem n i y))).toNat :=
  wordElem_zipElems hi (hw ▸ BitVec.isLt _)

theorem signedOf_smin (a b : Nat) : signedOf 32 (smin a b) = min (signedOf 32 a) (signedOf 32 b) := by
  unfold smin
  split <;> omega

theorem signedOf_smax (a b : Nat) : signedOf 32 (smax a b) = max (signedOf 32 a) (signedOf 32 b) := by
  unfold smax
  split <;> omega

theorem smin_lt {a b m : Nat} (ha : a < m) (hb : b < m) : smin a b < m := by
  unfold smin
  split <;> assumption

theorem smax_lt {a b m : Nat} (ha : a < m) (hb : b < m) : smax a b < m := by
  unfold smax
  split <;> assumption

/-! ### Reductions at their home -/

section Homes
variable {s t u : State} {rq : Requester} {a o key rop : Nat} {d x : List Byte} {c : HAcc} {how : How}

/-- A reduction that is not ordered is its word changed in place. -/
theorem performAcc_red (data : BitVec 512) (hr : rop ≠ 5)
    (h : modifyWord s (atHome (redAcc rq a rop data)) a true (fun x => reduceWord rop x (leBytes 64 data.toNat)) = (.data d, u)) :
    performAcc s false (redAcc rq a rop data) = answerHome u (redAcc rq a rop data) false true [] := by
  unfold atHome redAcc at h
  unfold performAcc redAcc reduceAt
  dsimp only at h ⊢
  rw [if_neg hr, h]
  rfl

/-- A reduction stores the combined word and no other, and is answered as done (R168). -/
theorem homeAccess_reduces (data : BitVec 512) (hr : rop ≠ 5) (hi : s.Inv) (hs : homesServe s = true) (ha : a % 64 = 0)
    (h : SramWord s a key d) : ∃ t, ends s (homeAccess s (redAcc rq a rop data)) = .next t ∧
      SramWord t a key (reduceWord rop d (leBytes 64 data.toNat)) ∧ SameBut key s.mem t.mem ∧
      Out.home rq a false true [] ∈ t.out ∧ t.cons = s.cons ∧ t.main = s.main := by
  obtain ⟨u, changed, stored⟩ := h.modified (how := atHome (redAcc rq a rop data)) rfl true
    (f := fun x => reduceWord rop x (leBytes 64 data.toNat)) (reduceWord_length rop _ h.length)
  have formed : (redAcc rq a rop data).formed = true := by simp [HAcc.formed, redAcc, ha]
  exact homeAccess_stores (o := 0) hi formed rfl hs h.home ha (by decide) rfl (performAcc_red data hr changed) stored

/-- Each reduction in place is an access to its word with its ROP, none of them ordered. -/
theorem exec_reductions {r : (Requester → Nat → BitVec 512 → Instr) × Nat} (hr : r ∈ reductions) :
    r.2 ≠ 5 ∧ ∀ rq a data s, exec (r.1 rq a data) s = ends s (homeAccess s (redAcc rq a r.2 data)) := by
  simp only [reductions, List.mem_cons, List.not_mem_nil, or_false] at hr
  rcases hr with rfl | rfl | rfl | rfl | rfl | rfl | rfl | rfl | rfl <;> exact ⟨by decide, fun _ _ _ _ => rfl⟩

end Homes

/-- Settles O24: every ROP changes its word in place by what it makes of the word's elements. -/
theorem reductionsCombineInPlace : Obligations.ReductionsCombineInPlace := by
  refine ⟨fun r s rq a key d data hr hi hs ha h => ?_, fun x y i _ _ => ?_⟩
  · obtain ⟨unordered, runs⟩ := exec_reductions hr
    rw [runs]
    exact homeAccess_reduces data unordered hi hs ha h
  · have lt4 := fun w => wordElem_lt 4 i w
    refine ⟨fun hi => wordElem_zipElems (n := 4) (f := fun a b => (a + b) % 2 ^ 32) hi (Nat.mod_lt _ (Nat.two_pow_pos 32)),
      fun hi => wordElem_zipElems (n := 8) (f := fun a b => (a + b) % 2 ^ 64) hi (Nat.mod_lt _ (Nat.two_pow_pos 64)),
      fun hi => wordElem_zipElems_toNat (n := 16) wideAdd x y rfl hi, fun hi => wordElem_zipElems_toNat (n := 2) bf16Add x y rfl hi,
      fun hi => wordElem_zipElems_toNat (n := 4) f32Add x y rfl hi, fun hi => ?min, fun hi => ?max,
      fun hi => wordElem_zipElems_toNat (n := 4) f32Min x y rfl hi, fun hi => wordElem_zipElems_toNat (n := 4) f32Max x y rfl hi⟩
    case min =>
      exact (congrArg (signedOf 32) (wordElem_zipElems (n := 4) (f := smin) hi (smin_lt (lt4 x) (lt4 y)))).trans (signedOf_smin ..)
    case max =>
      exact (congrArg (signedOf 32) (wordElem_zipElems (n := 4) (f := smax) hi (smax_lt (lt4 x) (lt4 y)))).trans (signedOf_smax ..)

end Sys2Proof.Machine

namespace Sys2Proof.Machine

/-! ### Compare-and-swap and fetch-add (R168, R175) -/

section Atomics
variable {s t u : State} {rq : Requester} {a b o key old n : Nat} {d x : List Byte} {c : HAcc} {how : How} {wide : Bool}
  {f : Nat → Option Nat}

/-- How many bytes an atomic access changes. -/
def atomSize (wide : Bool) : Nat := if wide then 8 else 4

theorem atomSize_cases (wide : Bool) : atomSize wide = 4 ∨ atomSize wide = 8 := by
  cases wide
  · exact .inl rfl
  · exact .inr rfl

/-- A naturally aligned access stays in its word. -/
theorem atom_inside (ho : o < 64) (hn : o % atomSize wide = 0) : o + atomSize wide ≤ 64 := by
  rcases atomSize_cases wide with e | e <;> rw [e] at hn ⊢ <;> omega

theorem aligned_atom (ha : a % 64 = 0) (hn : o % atomSize wide = 0) : (a + o) % atomSize wide = 0 := by
  rcases atomSize_cases wide with e | e <;> rw [e] at hn ⊢ <;> omega

/-- The old value that an atomic access answers. -/
def oldAt (wide : Bool) (o : Nat) (d : List Byte) : Nat := leNat ((d.drop o).take (atomSize wide))

/-- What an atomic access leaves in its word: new bytes where there are any. -/
def atomWord (wide : Bool) (f : Nat → Option Nat) (o : Nat) (d : List Byte) : List Byte :=
  (f (oldAt wide o d)).elim d (fun v => overlay d o (leBytes (atomSize wide) v))

/-- Compare-and-swap leaves the new value's bytes where the old value is the comparand. -/
theorem atomWord_swapIf (cmp swap : Nat) : atomWord wide (swapIf wide cmp swap) o d =
    if oldAt wide o d = cmp % 2 ^ (8 * atomSize wide) then overlay d o (leBytes (atomSize wide) swap) else d := by
  have bits : 2 ^ (if wide = true then 64 else 32) = 2 ^ (8 * atomSize wide) := by cases wide <;> rfl
  have bytes : 2 ^ (8 * atomSize wide) = 256 ^ atomSize wide := by rw [pow_mul]; rfl
  unfold atomWord swapIf
  dsimp only
  rw [bits]
  split
  · rw [Option.elim_some, bytes, leBytes_mod]
  · rfl

/-- Fetch-add leaves the bytes of the wrapping sum. -/
theorem atomWord_addTo (v : Nat) :
    atomWord wide (addTo wide v) o d = overlay d o (leBytes (atomSize wide) (oldAt wide o d + v)) := by
  have bits : 2 ^ (if wide = true then 64 else 32) = 256 ^ atomSize wide := by cases wide <;> rfl
  rw [atomWord, addTo, Option.elim_some, bits, leBytes_mod]

theorem atomWord_length (hd : d.length = 64) (ho : o + atomSize wide ≤ 64) : (atomWord wide f o d).length = 64 := by
  unfold atomWord
  cases f (oldAt wide o d) with
  | none => exact hd
  | some v => exact overlay_length hd (by rw [leBytes_length]; exact ho)

/-- A word written holds its data, and no other has changed. -/
theorem Overwrites.stored (h : Overwrites s u key x) (word : SramWord s a key d) (hx : x.length = 64)
    (ht : u.touched = s.touched) : WordStored s u a key x := by
  obtain ⟨_, held⟩ := sramWord_of_peekWord (h.peekWord_same hx word.home word.known)
  obtain rfl := Option.some.inj ((sramKey_congr h.written.lay word.home).symm.trans held.home)
  have same := storeAt_sameBut s.mem key (rsEncode 6 x)
  rw [← h.mem] at same
  obtain ⟨_, _, _, _, rfl⟩ := h.written
  exact ⟨held, same, rfl, rfl, ht, rfl⟩

theorem SramWord.noReads (h : SramWord s a key d) (b : Nat) : SramWord (noReads s b) a key d := h.seen ⟨rfl, rfl, rfl⟩

/-- An atomic access to a known word answers the old value, and writes the word with what it makes of it or leaves it. -/
theorem atomicAt_known (h : SramWord s a key d) (ha : a % 64 = 0) (ho : o < 64) :
    ∃ u, atomicAt s how (a + o) wide f = (.data d, oldAt wide o d, u) ∧ (how.free = true → u.touched = s.touched) ∧
      ((f (oldAt wide o d) = none ∧ WordsWritten s u ∧ u.mem = s.mem) ∨
        ((f (oldAt wide o d)).isSome = true ∧ Overwrites s u key (atomWord wide f o d))) := by
  have place : (a + o) / 64 * 64 = a := by omega
  have inside : (a + o) % 64 = o := by omega
  obtain ⟨how', e⟩ : ∃ k, k = { how with hint := Hint.stream, prio := 0 } := ⟨_, rfl⟩
  have noted : Touched (Machine.noReads s a) (touchModify (Machine.noReads s a) how' a false) := touch_touched _ how' _
  obtain ⟨v, hv⟩ : ∃ v, v = touchModify (Machine.noReads s a) how' a false := ⟨_, rfl⟩
  have free : how.free = true → v.touched = s.touched := fun hf => by
    rw [hv, touchModify_free (by rw [e]; exact hf)]
    rfl
  have word : SramWord v a key d := hv ▸ (h.noReads a).seen noted.sees
  have written : WordsWritten s v := by
    obtain ⟨_, ht⟩ := noted
    exact ⟨_, _, _, _, by rw [hv, ht]; rfl⟩
  have mem : v.mem = s.mem := by rw [hv]; exact noted.sees.mem
  unfold atomicAt
  dsimp only
  have value : leNat ((d.drop o).take (if wide = true then 8 else 4)) = oldAt wide o d := rfl
  rw [place, inside, ← e, ← hv, word.read rfl]
  dsimp only
  rw [value, atomWord]
  cases f (oldAt wide o d) with
  | none => exact ⟨v, rfl, free, .inl ⟨rfl, written, mem⟩⟩
  | some x =>
    have wrote := writeWord_known (how := how'.writeHalf) (x := overlay d o (leBytes (atomSize wide) x)) word
    refine ⟨_, rfl, fun hf => ?_, .inr ⟨rfl, written.trans wrote.written, wrote.mem.trans (by rw [mem]; rfl)⟩⟩
    obtain ⟨_, _, _, e', -⟩ := writeCode_stores (how := how'.writeHalf) word.home rfl (rsEncode 6 (overlay d o (leBytes (atomSize wide) x)))
    exact (congrArg State.touched e').trans (free hf)

/-- Where it is not noted for a regulator, that is all it changes. -/
theorem atomicAt_stored (h : SramWord s a key d) (ha : a % 64 = 0) (ho : o + atomSize wide ≤ 64) (hf : how.free = true) :
    ∃ u, atomicAt s how (a + o) wide f = (.data d, oldAt wide o d, u) ∧ WordStored s u a key (atomWord wide f o d) := by
  have in' : o < 64 := by rcases atomSize_cases wide with e | e <;> omega
  obtain ⟨u, hu, touched, kept | wrote⟩ := atomicAt_known (how := how) (wide := wide) (f := f) h ha in'
  · obtain ⟨none', written, mem⟩ := kept
    have same : atomWord wide f o d = d := by rw [atomWord, none']; rfl
    have held := h.seen ⟨mem, written.indet, written.lay⟩
    refine ⟨u, hu, ?_⟩
    rw [same]
    have touched := touched hf
    obtain ⟨_, _, _, _, rfl⟩ := written
    exact ⟨held, fun x _ => congrArg (storedByte · x) mem, rfl, rfl, touched, rfl⟩
  · exact ⟨u, hu, wrote.2.stored h (atomWord_length h.length ho) (touched hf)⟩

/-- An access whose performing stores a word and answers, up to the change of the visible state. -/
theorem homeAccess_answers (hi : s.Inv) (hf : c.formed = true) (hr : c.isRead = false) (hs : homesServe s = true)
    (hk : sramKey s a = some key) (ha : a % 64 = 0) (ho : o < 64) (hc : c.a = a + o)
    (hp : performAcc s false c = answerHome u c false true x) (hu : WordStored s u a key d) :
    ∃ t, ends s (homeAccess s c) = .next t ∧ SramWord t a key d ∧ SameBut key s.mem t.mem ∧ Out.home c.rq c.a false true x ∈ t.out := by
  have unread : arrived s c = s := by simp [arrived, hr]
  have answered := hu.noted (answerHome_noted u c false true x)
  have ht := answered.touched.trans hi.charged
  have hl := answered.stalled.trans hi.inReach
  have served := homeAccess_sram hf hs hk ha ho hc ((congrArg (performAcc · false c) unread).trans hp) ht hl
  have noted := noteState_noted s (answerHome u c false true x)
  have stored := answered.noted noted
  exact ⟨_, by rw [served, ends_noted s _ ht hl], stored.word, stored.others, noted.sent.subset (List.mem_cons_self ..)⟩

/-- Compare-and-swap and fetch-add as they arrive at a home. -/
def casAcc (rq : Requester) (a : Nat) (wide : Bool) (cmp swap : Nat) : HAcc :=
  { rq := rq, a := a, hint := .normal, op := .cas wide cmp swap }
def addAcc (rq : Requester) (a : Nat) (wide : Bool) (v : Nat) : HAcc := { rq := rq, a := a, hint := .normal, op := .fetchAdd wide v }

theorem performAcc_cas {cmp swap : Nat}
    (h : atomicAt s (atHome (casAcc rq b wide cmp swap)) b wide (swapIf wide cmp swap) = (.data d, old, u)) :
    performAcc s false (casAcc rq b wide cmp swap) = answerHome u (casAcc rq b wide cmp swap) false true (leBytes (atomSize wide) old) := by
  unfold atHome casAcc at h
  unfold performAcc casAcc
  dsimp only at h ⊢
  rw [h]
  rfl

theorem performAcc_fetchAdd {v : Nat}
    (h : atomicAt s (atHome (addAcc rq b wide v)) b wide (addTo wide v) = (.data d, old, u)) :
    performAcc s false (addAcc rq b wide v) = answerHome u (addAcc rq b wide v) false true (leBytes (atomSize wide) old) := by
  unfold atHome addAcc at h
  unfold performAcc addAcc
  dsimp only at h ⊢
  rw [h]
  rfl

/-- An atomic access at a known word stores what it makes of the old value, and answers that. -/
theorem homeAccess_atomic (hi : s.Inv) (hs : homesServe s = true) (ha : a % 64 = 0) (ho : o < 64) (hn : o % atomSize wide = 0)
    (h : SramWord s a key d) (hf : c.formed = true) (hr : c.isRead = false) (hc : c.a = a + o)
    (hp : ∀ {u}, atomicAt s (atHome c) (a + o) wide f = (.data d, oldAt wide o d, u) →
      performAcc s false c = answerHome u c false true (leBytes (atomSize wide) (oldAt wide o d))) :
    ∃ t, ends s (homeAccess s c) = .next t ∧ SramWord t a key (atomWord wide f o d) ∧ SameBut key s.mem t.mem ∧
      Out.home c.rq c.a false true (leBytes (atomSize wide) (oldAt wide o d)) ∈ t.out := by
  obtain ⟨u, hu, stored⟩ := atomicAt_stored (how := atHome c) (f := f) h ha (atom_inside ho hn) rfl
  exact homeAccess_answers hi hf hr hs h.home ha ho hc (hp hu) stored

end Atomics

/-- Settles O26: both read their word, write what they make of the old value, and answer it. -/
theorem atomicsAnswerOldValue : Obligations.AtomicsAnswerOldValue := by
  intro s rq a o key d wide x y n hi hs ha ho hn h old
  have formed : (a + o) % atomSize wide = 0 := aligned_atom ha hn
  obtain ⟨t, swaps, word, others, answered⟩ := homeAccess_atomic (c := casAcc rq (a + o) wide x.toNat y.toNat) hi hs ha ho hn h
    (decide_eq_true formed) rfl rfl performAcc_cas
  obtain ⟨u, adds, word', others', answered'⟩ := homeAccess_atomic (c := addAcc rq (a + o) wide x.toNat) hi hs ha ho hn h
    (decide_eq_true formed) rfl rfl performAcc_fetchAdd
  rw [atomWord_swapIf] at word
  rw [atomWord_addTo] at word'
  exact ⟨t, u, swaps, adds, word, word', others, others', answered, answered'⟩

end Sys2Proof.Machine

namespace Sys2Proof.Machine

/-! ## A BAR2 read whose class has a number out of range (R216, R260)

The statement takes any entries. The count of a class whose number is out of range stands in the place of another entry: here in
that of EXPECT_PORTS. Charging a BAR2 read of that class then names a port that is not up as expected, DEV_STATE changes, and an
MSI-X vector follows the completion. -/

/-- The number of a class whose unmarked bytes would be counted in the place of EXPECT_PORTS. -/
def countedClass : Nat := entKey 0x8000 3 - entKey 0x7201 1

/-- A range register that gives the first word that class, and EXPECT_PORTS. -/
def countedEntries : SMap Nat :=
  [(entKey 0x7010 1, 0), (entKey 0x7010 2, 63), (entKey 0x7010 3, countedClass), (entKey 0x7010 4, 1), (entKey 0x8000 3, 0)]

theorem countedEntries_key : ∀ e ∈ countedEntries, e.1 < 0x702000 ∨ e.1 = 0x800003 := by decide +kernel

/-- A part in READY that expects no port, with the first word of its shared pool stored and of that class, a ceiling of that class
for every master, and vector 0 unmasked. -/
def countedState : State :=
  { State.reset with
    main := .ready
    everReady := true
    link := { HostLink.reset with l0 := true, everL0 := true, perst := false }
    lay := { Layout.none with p := 1, ps := 1, slices := List.replicate 6 [0] }
    mem := storeAt [] (vaultKey 0 0 0) (rsEncode 6 (List.replicate 64 0#8))
    msixTable := [(0, 0)]
    ent := countedEntries ++ (List.range 161).map (fun m => (entKey (0x7100 + m) (0x11 + countedClass), 1)) }

theorem countedState_inv : countedState.Inv := ⟨storeAt_wf _ _ _ List.Pairwise.nil, by decide +kernel, by decide +kernel⟩

theorem countedState_word : SramWord countedState 0 (vaultKey 0 0 0) (List.replicate 64 0#8) := by
  have len : (rsEncode 6 (List.replicate 64 0#8)).length = 70 := by rw [rsEncode_length (.inl rfl), List.length_replicate]
  have stored := storedAt_storeAt (m := []) (k := vaultKey 0 0 0) (w := rsEncode 6 (List.replicate 64 0#8)) (by omega)
  rw [len] at stored
  exact ⟨by decide +kernel, by decide +kernel, _, stored, rsDecode_rsEncode (.inl rfl) List.length_replicate⟩

/-- The class of an address is 0 or that of a range register. -/
theorem classOf_mem (s : State) (a : Nat) : classOf s a ∈ 0 :: (List.range 16).map (fun i => rd (inForce s) (0x7010 + i) 3) := by
  unfold classOf
  dsimp only
  split
  · exact List.mem_cons_self
  · split
    · rename_i i found
      exact List.mem_cons_of_mem _ (List.mem_map_of_mem (List.mem_of_find?_eq_some found))
    · exact List.mem_cons_self

/-- The classes that a part can have in that state: those of host memory and of other parts, and those of addresses. -/
def countedClasses : List Nat := rd (inForce countedState) 0x7000 3 :: rd (inForce countedState) 0x7000 4 ::
  0 :: (List.range 16).map (fun i => rd (inForce countedState) (0x7010 + i) 3)

theorem countedClasses_range : ∀ k ∈ countedClasses, k < 16 ∨ k = countedClass := by decide +kernel

theorem partClass_countedState (p : PartTarget) : partClass countedState p ∈ countedClasses := by
  have address : ∀ a, classOf countedState a ∈ countedClasses := fun a =>
    List.mem_cons_of_mem _ (List.mem_cons_of_mem _ (classOf_mem countedState a))
  cases p with
  | hostMem => exact List.mem_cons_self
  | remote => exact List.mem_cons_of_mem _ List.mem_cons_self
  | _ => exact address _

/-- Every ceiling of Table 7.1 has a default above zero. -/
theorem findRow_ceiling {i u : Nat} (hi : 0x7100 ≤ i ∧ i ≤ 0x71A0) (hu : 0x11 ≤ u ∧ u ≤ 0x20) :
    ∃ r, findRow i u = some r ∧ r.acc ≠ .cons ∧ 0 < r.dflt := by
  have rows : ∀ r ∈ entRows, r.lo ≤ 0x71A0 → 0x7100 ≤ r.hi → r.slo ≤ 0x20 → 0x11 ≤ r.shi → r.acc ≠ .cons ∧ 0 < r.dflt := by
    decide +kernel
  have there : ⟨0x7100, 0x71A0, 0x11, 0x20, 3, .rws, 0xFFFFFFFF, .p, false⟩ ∈ entRows := by decide +kernel
  cases found : findRow i u with
  | none =>
    have missed := List.find?_eq_none.1 found _ there
    simp only [Bool.and_eq_true, decide_eq_true_eq] at missed
    omega
  | some r =>
    have covers := List.find?_some found
    simp only [Bool.and_eq_true, decide_eq_true_eq] at covers
    exact ⟨r, rfl, rows r (List.mem_of_find?_eq_some found) (by omega) (by omega) (by omega) (by omega)⟩

/-- No entry has a subindex of more than a byte. -/
theorem findRow_wide {i u : Nat} (hu : 256 ≤ u) : findRow i u = none := by
  have rows : ∀ r ∈ entRows, r.shi < 256 := by decide +kernel
  refine List.find?_eq_none.2 fun r hr => ?_
  have := rows r hr
  simp only [Bool.and_eq_true, decide_eq_true_eq]
  omega

/-- What is listed for a key, or given for one that is not listed, is above zero. -/
theorem SMap.get_pos {m : SMap Nat} {k d : Nat} (listed : ∀ e ∈ m, e.1 = k → 0 < e.2) (given : 0 < d ∨ ∃ e ∈ m, e.1 = k) :
    0 < SMap.get m k d := by
  induction m with
  | nil => simpa [SMap.get, SMap.find?] using given
  | cons x m ih =>
    obtain ⟨j, v⟩ := x
    obtain ⟨first, rest⟩ := List.forall_mem_cons.1 listed
    unfold SMap.get SMap.find?
    split
    · exact first ‹_›
    · refine ih rest (given.imp_right fun ⟨e, he, hk⟩ => ⟨e, (List.mem_cons.1 he).resolve_left ?_, hk⟩)
      rintro rfl
      exact absurd hk ‹_›

/-- Every master has a ceiling above zero in every class that a part can have. -/
theorem ceilOf_countedState {m k : Nat} (hm : m < 161) (hk : k ∈ countedClasses) : 0 < ceilOf countedState m k := by
  have now : inForce countedState = countedState := if_pos (by decide)
  have range := countedClasses_range k hk
  have listed : ∀ e ∈ countedState.ent, e.1 = entKey (0x7100 + m) (0x11 + k) → 0 < e.2 := fun e he same => by
    rcases List.mem_append.1 he with he | he
    · have key := countedEntries_key e he
      unfold entKey at same
      rcases range with small | rfl
      · omega
      · unfold countedClass entKey at same
        omega
    · obtain ⟨_, -, rfl⟩ := List.mem_map.1 he
      exact Nat.one_pos
  rw [ceilOf, now]
  rcases range with small | rfl
  · obtain ⟨r, row, acc, pos⟩ := findRow_ceiling (i := 0x7100 + m) (u := 0x11 + k) (by omega) (by omega)
    unfold rd
    rw [row]
    dsimp only
    rw [if_neg acc]
    exact SMap.get_pos listed (.inl pos)
  · have there : (entKey (0x7100 + m) (0x11 + countedClass), 1) ∈ countedState.ent :=
      List.mem_append_right _ (List.mem_map_of_mem (List.mem_range.2 hm))
    unfold rd
    rw [findRow_wide (by decide)]
    exact SMap.get_pos listed (.inr ⟨_, there, rfl⟩)

theorem countedState_waits : NothingWaits countedState :=
  ⟨by decide +kernel, by decide +kernel, by decide +kernel, fun _ p hm =>
    decide_eq_true (ceilOf_countedState hm (partClass_countedState p))⟩

/-- What has been sent after a command. -/
def sentBy (r : Res) : List Out :=
  match r with
  | .next t => t.out
  | _ => []

/-- The read is completed, its charge is counted in the place of EXPECT_PORTS, and the host is told of the change. -/
theorem countedState_sends : sentBy (exec (.bar2Read ⟨false, 0⟩ 1 ⟨0, 0, []⟩) countedState) = [.msix 0, .cpl 0 false [0#8]] := by
  decide +kernel

/-- Refutes O35: the completion of a BAR2 read is not the last that the host is sent, where charging the read changes DEV_STATE. -/
theorem not_bar2ReachesDeviceMemory : ¬ Obligations.Bar2ReachesDeviceMemory := by
  rintro ⟨-, aperture⟩
  obtain ⟨reads, -, -⟩ := aperture countedState 0 0 0 _ 0 _ countedState_inv countedState_waits (by decide) (by decide) rfl (by decide)
    countedState_word
  obtain ⟨t, runs, sent, -⟩ := reads 1 0 (by decide) (by decide) (by decide)
  have told := countedState_sends
  rw [runs] at told
  have same : [Out.msix 0, Out.cpl 0 false [0#8]] = Out.cpl 0 false [0#8] :: [] := told.symm.trans sent
  exact absurd same (by decide)

end Sys2Proof.Machine

namespace Sys2Proof.Machine

/-! ### Ordered adds (R171 to R173)

A context's number of contributors is bounded in no state of the model: with 1,025 of them the arrival bit of the last stands past
the two words of the bitmap, in the slot of the first contributor, whose contribution it overwrites. -/

section Ordered
variable {s : State} {how : How} {a cid k : Nat} {c : RedCtx} {d : List Byte}

/-- Known words are read one after the other, and nothing changes. -/
theorem readWords_known {n : Nat} {g : Nat → List Byte} (hf : how.free = true) (known : ∀ i < n, peekWord s (a + i * 64) = some (g i)) :
    readWords s how a n = (.ok, (List.range n).map g, s) := by
  induction n with
  | zero => rfl
  | succ n ih =>
    rw [readWords, ih fun i hi => known i (by omega)]
    dsimp only
    rw [readWord_data (known n (by omega)), touchRead_free hf, List.range_succ, List.map_append]
    rfl

/-- The last contribution to arrive is stored with its arrival bit, and the word is finished. -/
theorem contribute_last {bm : List (List Byte)} {area : Nat} (covers : ctxOf s a = some (k, c))
    (harea : area = c.hold + (a - c.target) / 64 * (c.contributors + 2) * 64) (hcid : cid < c.contributors)
    (bitmap : readWords s how area 2 = (.ok, bm, s)) (missing : bit1 (leNat bm.flatten) cid = false)
    (last : (List.range c.contributors).all (fun i => bit1 (leNat bm.flatten + 2 ^ cid) i) = true) :
    contribute s how a cid d = finishWord (writeWord (writeWord s how (area + (cid + 2) * 64) d) how (area + cid / 512 * 64)
      (leBytes 64 ((leNat bm.flatten + 2 ^ cid) / 2 ^ (cid / 512 * 512) % 2 ^ 512))) how k a (area + 128) := by
  unfold contribute
  rw [covers]
  dsimp only
  rw [if_neg (by omega), ← harea, bitmap]
  dsimp only
  rw [missing, if_neg Bool.false_ne_true, if_pos last]

/-- A word whose contributions are known is summed in their order. -/
theorem finishWord_known {slots : Nat} {w : List Byte} {g : Nat → List Byte} (hf : how.free = true)
    (ctx : SMap.get s.ctx k RedCtx.reset = c) (unsignalled : c.sigaddr = 0) (word : peekWord s a = some w)
    (known : ∀ i < c.contributors, peekWord s (slots + i * 64) = some (g i)) : ∃ done,
    finishWord s how k a slots = (.ok, setCtx (writeWord s how a (((List.range c.contributors).map g).foldl (reduceWord 4) w))
      (k / 64) (k % 64) done) := by
  unfold finishWord
  rw [ctx, readWord_data word, touchRead_free hf]
  dsimp only
  rw [readWords_known hf known]
  dsimp only
  split
  · simp only [unsignalled]
    exact ⟨_, rfl⟩
  · exact ⟨_, rfl⟩

end Ordered

/-! #### The state with 1,025 contributors -/

/-- Memory whose first `n` words of the first operand store hold what `f` says. -/
def filled (f : Nat → List Byte) : Nat → List Host.Cell
  | 0 => []
  | n + 1 => storeAt (filled f n) (opstoreKey 0 n) (rsEncode 6 (f n))

theorem filled_wf (f : Nat → List Byte) (n : Nat) : Memory.wf (filled f n) := by
  induction n with
  | zero => exact List.Pairwise.nil
  | succ n ih => exact storeAt_wf _ _ _ ih

theorem opstoreKey_aligned (t w : Nat) : opstoreKey t w % 128 = 0 := Nat.mul_mod_left ..

theorem storedAt_filled {f : Nat → List Byte} (len : ∀ i, (f i).length = 64) {n i : Nat} (hi : i < n) :
    storedAt (filled f n) (opstoreKey 0 i) 70 = some (rsEncode 6 (f i)) := by
  have code : (rsEncode 6 (f i)).length = 70 := by rw [rsEncode_length (.inl rfl), len]
  induction n with
  | zero => omega
  | succ n ih =>
    rw [filled]
    rcases Nat.lt_succ_iff_lt_or_eq.1 hi with before | rfl
    · have apart : opstoreKey 0 i ≠ opstoreKey 0 n := by
        unfold opstoreKey
        omega
      rw [storedAt_storeAt_other (opstoreKey_aligned ..) (opstoreKey_aligned ..) apart, ih before]
    · exact code ▸ storedAt_storeAt (by omega)

/-- The context: the first word of the store its target, its hold area behind it, and one contributor too many. -/
def wideCtx : RedCtx := { RedCtx.reset with st := 1, nM1 := 1024, target := 0x002000000000, hold := 0x002000000040 }

/-- Every arrival bit is set; the first contribution is a one, all others and the word itself are zero. -/
def oneWord : List Byte := leBytes 64 0x3F800000
def zeroWord : List Byte := List.replicate 64 0#8
def wideWord (i : Nat) : List Byte := if i = 1 ∨ i = 2 then List.replicate 64 0xFF#8 else if i = 3 then oneWord else zeroWord

def wideState : State :=
  { State.reset with lay := { Layout.none with tiles := [0] }, ctx := [(0, wideCtx)], mem := filled wideWord 1028 }

/-- The address of word `i` of the store. -/
def storeWord (i : Nat) : Nat := 0x002000000000 + i * 64

theorem wideWord_length (i : Nat) : (wideWord i).length = 64 := by
  unfold wideWord
  split
  · exact List.length_replicate
  · split
    · exact leBytes_length ..
    · exact List.length_replicate

theorem wideWord_late {i : Nat} (hi : 4 ≤ i) : wideWord i = zeroWord := by
  rw [wideWord, if_neg (by omega), if_neg (by omega)]

theorem wideState_inv : wideState.Inv := ⟨filled_wf _ _, rfl, rfl⟩

theorem wideState_homed : homesServe wideState = true := rfl

theorem sramKey_wideState {i : Nat} (hi : i < 16384) : sramKey wideState (storeWord i) = some (opstoreKey 0 i) := by
  have tiles : tileCount wideState = 1 := rfl
  have home : homeOf wideState (storeWord i) = .opstore 0 i := by
    unfold homeOf storeWord
    rw [if_neg (by omega), if_neg (by omega), if_neg (by omega), if_pos (by omega)]
    dsimp only
    rw [tiles, if_pos (by omega)]
    congr 1 <;> omega
  rw [sramKey, home]

theorem wideState_word {i : Nat} (hi : i < 1028) : SramWord wideState (storeWord i) (opstoreKey 0 i) (wideWord i) :=
  ⟨rfl, sramKey_wideState (by omega), _, storedAt_filled wideWord_length hi, rsDecode_rsEncode (.inl rfl) (wideWord_length i)⟩

theorem peekWord_wideState {i : Nat} (hi : i < 1028) : peekWord wideState (storeWord i) = some (wideWord i) := (wideState_word hi).peekWord

/-- The words of the bitmap are all ones. -/
theorem leNat_ones : ∀ n, leNat (List.replicate n 0xFF#8) = 2 ^ (8 * n) - 1
  | 0 => rfl
  | n + 1 => by
    have low : (0xFF#8).toNat = 255 := rfl
    have pos : 1 ≤ 2 ^ (8 * n) := Nat.one_le_two_pow
    have next : 2 ^ (8 * (n + 1)) = 256 * 2 ^ (8 * n) := by rw [Nat.mul_succ, pow_add, mul_comm]; norm_num
    rw [List.replicate_succ, leNat, leNat_ones n, low, next]
    omega

theorem bit1_eq_testBit (m i : Nat) : bit1 m i = m.testBit i := by
  rw [bit1, Nat.testBit_eq_decide_div_mod_eq]
  rfl

/-- The bits of a bitmap of which all are set: the next is not, and setting it sets them all. -/
theorem bit1_ones (n i : Nat) : bit1 (2 ^ n - 1) i = decide (i < n) := by rw [bit1_eq_testBit, Nat.testBit_two_pow_sub_one]

theorem ones_add (n : Nat) : 2 ^ n - 1 + 2 ^ n = 2 ^ (n + 1) - 1 := by
  have pos : 1 ≤ 2 ^ n := Nat.one_le_two_pow
  rw [pow_succ]
  omega

theorem bitmap_value {n : Nat} (hn : n = 1024) : leNat (wideWord 1 ++ wideWord 2) = 2 ^ n - 1 := by
  have words : wideWord 1 ++ wideWord 2 = List.replicate 128 0xFF#8 := by decide
  subst hn
  rw [words, leNat_ones]

theorem bitmap_missing {n : Nat} (hn : n = 1024) : bit1 (leNat (wideWord 1 ++ wideWord 2)) n = false := by
  rw [bitmap_value hn, bit1_ones, decide_eq_false_iff_not]
  exact lt_irrefl n

theorem bitmap_last {n : Nat} (hn : n = 1024) :
    (List.range wideCtx.contributors).all (fun i => bit1 (leNat (wideWord 1 ++ wideWord 2) + 2 ^ n) i) = true := by
  have few : wideCtx.contributors = n + 1 := hn ▸ rfl
  rw [bitmap_value hn, ones_add, List.all_eq_true]
  intro i hi
  rw [bit1_ones, decide_eq_true_eq, ← few]
  exact List.mem_range.1 hi

/-- The last arrival bit alone stands in the word after the bitmap. -/
theorem arrival_bit (n : Nat) : (2 ^ n - 1 + 2 ^ n) / 2 ^ n % 2 ^ 512 = 1 := by
  have pos : 1 ≤ 2 ^ n := Nat.one_le_two_pow
  have one : (2 ^ n - 1 + 2 ^ n) / 2 ^ n = 1 := Nat.div_eq_of_lt_le (by omega) (by omega)
  rw [one]
  exact Nat.mod_eq_of_lt (Nat.one_lt_two_pow (by decide))

/-- The fold over words of zeros leaves a word that a zero changes not. -/
theorem foldl_zeros {x : List Byte} (h : reduceWord 4 x zeroWord = x) (n : Nat) :
    (List.replicate n zeroWord).foldl (reduceWord 4) x = x := by
  induction n with
  | zero => rfl
  | succ n ih => rw [List.replicate_succ, List.foldl_cons, h, ih]

/-! #### What the last contribution does there -/

/-- The words of the store, with the context open and nothing left to charge. -/
structure Holds (s : State) (f : Nat → List Byte) : Prop where
  words : ∀ i < 1028, SramWord s (storeWord i) (opstoreKey 0 i) (f i)
  ctx : s.ctx = [(0, wideCtx)]
  charged : s.touched = []
  inReach : s.stalled = none

/-- How the home of a contribution accesses the words of its context. -/
def wideHow : How := { rq := .none, hint := .stream, prio := 0, narrow := false, free := true }

theorem Holds.write {s : State} {f : Nat → List Byte} {j : Nat} {x : List Byte} (h : Holds s f) (hj : j < 1028) (hx : x.length = 64) :
    Holds (writeWord s wideHow (storeWord j) x) (Function.update f j x) := by
  have wrote := writeWord_known (how := wideHow) (x := x) (h.words j hj)
  have stored := writeWord_stores (how := wideHow) (d := x) (h.words j hj).home rfl hx
  have kept : (writeWord s wideHow (storeWord j) x).ctx = s.ctx := by
    obtain ⟨_, _, _, _, e⟩ := wrote.written
    rw [e]
  refine ⟨fun i hi => ?_, kept.trans h.ctx, stored.touched.trans h.charged, stored.stalled.trans h.inReach⟩
  rcases eq_or_ne i j with rfl | ne
  · rw [Function.update_self]
    exact stored.word
  · have apart : sramKey s (storeWord i) ≠ some (opstoreKey 0 j) := by
      rw [(h.words i hi).home]
      unfold opstoreKey
      intro e
      have := Option.some.inj e
      omega
    rw [Function.update_of_ne ne]
    obtain ⟨key, word⟩ := sramWord_of_peekWord ((wrote.peekWord_other (opstoreKey_aligned ..) apart).trans (h.words i hi).peekWord)
    obtain rfl := Option.some.inj (((sramKey_of_lay wrote.written.lay _).trans (h.words i hi).home).symm.trans word.home)
    exact word

theorem wideState_holds : Holds wideState wideWord := ⟨fun _ => wideState_word, rfl, rfl, rfl⟩

/-- The words after the contribution and its arrival bit are stored: the bit stands where the first contribution was. -/
def lateWord : Nat → List Byte := Function.update (Function.update wideWord 1027 zeroWord) 3 (leBytes 64 1)

theorem late_holds : Holds (writeWord (writeWord wideState wideHow (storeWord 1027) zeroWord) wideHow (storeWord 3) (leBytes 64 1)) lateWord :=
  (wideState_holds.write (by decide) List.length_replicate).write (by decide) (leBytes_length ..)

theorem lateWord_slot (i : Nat) : lateWord (i + 1 + 3) = zeroWord := by
  unfold lateWord
  rw [Function.update_of_ne (by omega)]
  rcases eq_or_ne (i + 1 + 3) 1027 with e | ne
  · rw [e, Function.update_self]
  · rw [Function.update_of_ne ne, wideWord_late (by omega)]

theorem lateWords : (List.range wideCtx.contributors).map (fun i => lateWord (i + 3)) = leBytes 64 1 :: List.replicate 1024 zeroWord := by
  generalize hn : 1024 = n
  have few : wideCtx.contributors = n + 1 := hn ▸ rfl
  have first : lateWord (0 + 3) = leBytes 64 1 := Function.update_self ..
  rw [few, List.range_succ_eq_map, List.map_cons, List.map_map, first]
  exact congrArg (leBytes 64 1 :: ·) (List.eq_replicate_iff.2 ⟨by rw [List.length_map, List.length_range], fun x hx => by
    obtain ⟨i, -, rfl⟩ := List.mem_map.1 hx
    exact lateWord_slot i⟩)

/-- The sum that the model makes, and the one of the contributions as they were sent. -/
theorem late_sum : ((List.range wideCtx.contributors).map (fun i => lateWord (i + 3))).foldl (reduceWord 4) zeroWord = leBytes 64 1 := by
  have first : reduceWord 4 zeroWord (leBytes 64 1) = leBytes 64 1 := by decide +kernel
  rw [lateWords, List.foldl_cons, first]
  exact foldl_zeros (by decide +kernel) 1024

theorem contribute_late {n : Nat} (hn : n = 1024) : ∃ u done,
    contribute wideState wideHow (storeWord 0) n zeroWord = (.ok, setCtx u 0 0 done) ∧ Holds u (Function.update lateWord 0 (leBytes 64 1)) := by
  have bitmap : readWords wideState wideHow (storeWord 1) 2 = (.ok, [wideWord 1, wideWord 2], wideState) :=
    readWords_known (g := fun i => wideWord (i + 1)) rfl fun i hi => by
      have place : storeWord 1 + i * 64 = storeWord (i + 1) := by unfold storeWord; omega
      rw [place]
      exact peekWord_wideState (by omega)
  have flat : [wideWord 1, wideWord 2].flatten = wideWord 1 ++ wideWord 2 := by simp
  have late := contribute_last (d := zeroWord) (k := 0) (c := wideCtx) (area := storeWord 1) (a := storeWord 0) rfl rfl
    (hn ▸ Nat.lt_succ_self _) bitmap (flat ▸ bitmap_missing hn) (flat ▸ bitmap_last hn)
  have slot : storeWord 1 + (n + 2) * 64 = storeWord 1027 := by unfold storeWord; omega
  have bits : storeWord 1 + n / 512 * 64 = storeWord 3 := by unfold storeWord; omega
  have shift : n / 512 * 512 = n := by omega
  have after : storeWord 1 + 128 = storeWord 3 := rfl
  rw [flat, bitmap_value hn, slot, bits, shift, arrival_bit, after] at late
  have sum := finishWord_known (how := wideHow) (k := 0) (c := wideCtx) (slots := storeWord 3) (g := fun i => lateWord (i + 3)) rfl
    (by rw [late_holds.ctx]; rfl) rfl (late_holds.words 0 (by decide)).peekWord fun i hi => by
      have place : storeWord 3 + i * 64 = storeWord (i + 3) := by unfold storeWord; omega
      have few : i < 1025 := hi
      rw [place]
      exact (late_holds.words (i + 3) (by omega)).peekWord
  have zero : lateWord 0 = zeroWord := rfl
  rw [zero, late_sum] at sum
  obtain ⟨done, sum⟩ := sum
  exact ⟨_, done, late.trans sum, late_holds.write (by decide) (leBytes_length ..)⟩

/-- A contribution as it arrives at its home. -/
def orderedAcc (rq : Requester) (a cid : Nat) (data : BitVec 512) : HAcc :=
  { rq := rq, a := a, hint := .normal, op := .ordered cid (leBytes 64 data.toNat) }

theorem performAcc_ordered {s u : State} {a cid : Nat} {data : BitVec 512} {r : CRes}
    (h : contribute s wideHow a cid (leBytes 64 data.toNat) = (r, u)) :
    performAcc s false (orderedAcc .none a cid data) = endModify r u (orderedAcc .none a cid data) [] := by
  unfold performAcc orderedAcc reduceAt
  dsimp only
  rw [if_pos rfl, touchModify_free rfl]
  unfold wideHow at h
  rw [h]

theorem leBytes_zero : ∀ n, leBytes n 0 = List.replicate n 0#8
  | 0 => rfl
  | n + 1 => by rw [leBytes, Nat.zero_div, leBytes_zero n, List.replicate_succ]

theorem noData : leBytes 64 (0#512).toNat = zeroWord := by rw [BitVec.toNat_zero, leBytes_zero, zeroWord]

/-- The word the command leaves is the sum that the model makes. -/
theorem exec_late {n : Nat} (hn : n = 1024) : ∃ t, exec (.redFp32OrderedAdd .none (storeWord 0) n 0#512) wideState = .next t ∧
    peekWord t (storeWord 0) = some (leBytes 64 1) := by
  obtain ⟨u, done, late, held⟩ := contribute_late hn
  have performed := performAcc_ordered (data := 0#512) (noData ▸ late)
  have formed : (orderedAcc .none (storeWord 0) n 0#512).formed = true := by simp [HAcc.formed, orderedAcc, storeWord]
  have served := homeAccess_sram (o := 0) (c := orderedAcc .none (storeWord 0) n 0#512) formed wideState_homed
    (sramKey_wideState (i := 0) (by decide)) rfl (by decide) rfl performed held.charged held.inReach
  have noted := noteState_noted wideState (endModify .ok (setCtx u 0 0 done) (orderedAcc .none (storeWord 0) n 0#512) [])
  refine ⟨_, (congrArg (ends wideState) served).trans (ends_noted _ _ held.charged held.inReach), ?_⟩
  have word := (held.words 0 (by decide)).seen
    (t := endModify .ok (setCtx u 0 0 done) (orderedAcc .none (storeWord 0) n 0#512) []) ⟨rfl, rfl, rfl⟩
  exact (word.noted noted).peekWord

/-- The sum of the contributions as they were sent is a one. -/
theorem sent_sum {n : Nat} (hn : n = 1024) : (List.range wideCtx.contributors).foldl
    (fun y i => reduceWord 4 y (if i = n then leBytes 64 (0#512).toNat else (peekWord wideState (storeWord 1 + (i + 2) * 64)).getD []))
    zeroWord = oneWord := by
  have word : ∀ i < n + 1, (if i = n then zeroWord else (peekWord wideState (storeWord 1 + (i + 2) * 64)).getD []) =
      wideWord (i + 3) := fun i hi => by
    have place : storeWord 1 + (i + 2) * 64 = storeWord (i + 3) := by unfold storeWord; omega
    rw [place, peekWord_wideState (by omega)]
    split
    · exact (wideWord_late (by omega)).symm
    · rfl
  have few : wideCtx.contributors = n + 1 := hn ▸ rfl
  have sent : (List.range (n + 1)).map (fun i => wideWord (i + 3)) = oneWord :: List.replicate n zeroWord := by
    rw [List.range_succ_eq_map, List.map_cons, List.map_map]
    exact congrArg (oneWord :: ·) (List.eq_replicate_iff.2 ⟨by rw [List.length_map, List.length_range], fun x hx => by
      obtain ⟨i, -, rfl⟩ := List.mem_map.1 hx
      exact wideWord_late (Nat.le_add_left 4 i)⟩)
  have first : reduceWord 4 zeroWord oneWord = oneWord := by decide +kernel
  rw [noData, few]
  refine Eq.trans (List.foldl_ext _ _ _ fun y i hi => congrArg (reduceWord 4 y) (word i (List.mem_range.1 hi))) ?_
  rw [← List.foldl_map (f := fun i => wideWord (i + 3)) (g := reduceWord 4), sent, List.foldl_cons, first]
  exact foldl_zeros (by decide +kernel) n

theorem wideState_keys {n : Nat} (hn : n = 1024) :
    ((storeWord 0 :: storeWord 1 :: (storeWord 1 + 64) :: (List.range wideCtx.contributors).map (fun i => storeWord 1 + (i + 2) * 64)).map
      (sramKey wideState)).Nodup := by
  have few : wideCtx.contributors = n + 1 := hn ▸ rfl
  have listed : storeWord 0 :: storeWord 1 :: (storeWord 1 + 64) :: (List.range wideCtx.contributors).map (fun i => storeWord 1 + (i + 2) * 64) =
      (List.range (n + 4)).map storeWord := by
    rw [few, List.range_succ_eq_map (n := n + 3), List.range_succ_eq_map (n := n + 2), List.range_succ_eq_map (n := n + 1)]
    simp only [List.map_cons, List.map_map]
    refine congrArg (_ :: _ :: _ :: ·) (List.map_congr_left fun i _ => ?_)
    simp only [Function.comp_apply, storeWord]
    omega
  rw [listed, List.map_map]
  refine List.Nodup.map_on (fun i hi j hj e => ?_) List.nodup_range
  have hi' := List.mem_range.1 hi
  have hj' := List.mem_range.1 hj
  have keys : some (opstoreKey 0 i) = some (opstoreKey 0 j) :=
    (sramKey_wideState (by omega)).symm.trans (e.trans (sramKey_wideState (by omega)))
  exact (opstoreKey_inj (by omega) (by omega) (Option.some.inj keys)).2

/-- Refutes O25: with 1,025 contributors to a word, all but the last arrived, the last adds its own arrival bit in place of the first
contribution, and leaves the sum 2^-149 where the contributions add up to 1. -/
theorem not_orderedAddWaitsForAll : ¬ Obligations.OrderedAddWaitsForAll := by
  intro h
  obtain ⟨n, hn⟩ : ∃ n, n = 1024 := ⟨_, rfl⟩
  have place : ∀ i, storeWord 1 + (i + 2) * 64 = storeWord (i + 3) := fun i => by unfold storeWord; omega
  have known : ∀ i < 1028, (peekWord wideState (storeWord i)).isSome = true := fun i hi => by
    rw [peekWord_wideState hi]
    rfl
  have bitmap : (peekWord wideState (storeWord 1)).getD [] ++ (peekWord wideState (storeWord 1 + 64)).getD [] =
      wideWord 1 ++ wideWord 2 := by
    have second : storeWord 1 + 64 = storeWord 2 := rfl
    rw [second, peekWord_wideState (by decide), peekWord_wideState (by decide)]
    rfl
  have slots : ∀ i < wideCtx.contributors, (peekWord wideState (storeWord 1 + (i + 2) * 64)).isSome = true := fun i hi => by
    have few : i < 1025 := hi
    rw [place]
    exact known _ (by omega)
  have missing := bitmap_missing hn
  have arrived := bitmap_last hn
  rw [← bitmap] at missing arrived
  have slot : sramKey wideState (storeWord 1 + (n + 2) * 64) = some (opstoreKey 0 (n + 3)) := by
    rw [place]
    exact sramKey_wideState (by omega)
  have home : (sramKey wideState (storeWord 0)).isSome = true := congrArg Option.isSome (sramKey_wideState (by decide))
  have aligned : (storeWord 1 + (n + 2) * 64) % 64 = 0 := by unfold storeWord; omega
  obtain ⟨-, last⟩ := (h wideState .none (storeWord 0) n 0 wideCtx 0#512 wideState_inv wideState_homed rfl home).1 rfl rfl
    (hn ▸ Nat.lt_succ_self _) ⟨known 1 (by decide), known 2 (by decide)⟩ missing (congrArg Option.isSome slot)
  obtain ⟨t, ran, -, sum, -⟩ := last arrived rfl (known 0 (by decide)) aligned (fun i hi _ => slots i hi) (wideState_keys hn)
  obtain ⟨t', ran', left⟩ := exec_late hn
  obtain rfl := Host.Outcome.next.inj (ran.symm.trans ran')
  have held : (peekWord wideState (storeWord 0)).getD [] = zeroWord := congrArg (Option.getD · []) (peekWord_wideState (by decide))
  have sent := sent_sum hn
  rw [← held] at sent
  exact absurd (Option.some.inj (left.symm.trans (sum.trans (congrArg some sent)))) (by decide)

end Sys2Proof.Machine

namespace Sys2Proof.Machine

/-! ## Faults inside the package (R181, R325, R344, R347) -/

section Faults
variable {s t u : State} {l : List (Nat × Job)} {onPath : Bool}

/-- What the part keeps while all its jobs end without a completion. -/
structure JobsDropping (s t : State) : Prop where
  time : t.time = s.time
  mem : t.mem = s.mem
  touched : t.touched = s.touched
  stalled : t.stalled = s.stalled

theorem JobsDropping.refl (s : State) : JobsDropping s s := ⟨rfl, rfl, rfl, rfl⟩

theorem JobsDropping.trans (h : JobsDropping s t) (g : JobsDropping t u) : JobsDropping s u :=
  ⟨g.time.trans h.time, g.mem.trans h.mem, g.touched.trans h.touched, g.stalled.trans h.stalled⟩

theorem endJob_dropping (s : State) (j : Nat) : JobsDropping s (endJob s j) := by
  cases hj : SMap.find? s.jobs j with
  | none =>
    rw [endJob, hj]
    exact .refl s
  | some jb =>
    obtain ⟨_, _, _, _, _, _, _, _, h⟩ := endJob_rest hj
    rw [h]
    exact ⟨rfl, rfl, rfl, rfl⟩

/-- The jobs of a list ended one after the other, as `dropJobs` does. -/
def cutJobs (l : List (Nat × Job)) (s : State) : State := l.foldl (fun s j => endJob s j.1) s

theorem cutJobs_dropping (l : List (Nat × Job)) (s : State) : JobsDropping s (cutJobs l s) :=
  foldl_keeps (JobsDropping s) _ (fun u j h => h.trans (endJob_dropping u j.1)) l s (.refl s)

/-- None of the jobs of the list is left. -/
theorem cutJobs_jobs {p : Nat × Job} (h : p ∈ (cutJobs l s).jobs) : p ∈ s.jobs ∧ ∀ q ∈ l, p.1 ≠ q.1 := by
  induction l generalizing s with
  | nil => exact ⟨h, fun _ hq => nomatch hq⟩
  | cons j l ih =>
    obtain ⟨left, others⟩ := ih h
    have erased : p ∈ SMap.erase s.jobs j.1 := endJob_jobs s j.1 ▸ left
    exact ⟨SMap.mem_erase _ _ _ erased, List.forall_mem_cons.2 ⟨key_ne_of_mem_erase erased, others⟩⟩

theorem cutJobs_all (s : State) : (cutJobs s.jobs s).jobs = [] := by
  refine List.eq_nil_iff_forall_not_mem.2 fun p hp => ?_
  obtain ⟨left, others⟩ := cutJobs_jobs hp
  exact others p left rfl

theorem dropJobs_dropping (s : State) : JobsDropping s (dropJobs s) :=
  (cutJobs_dropping s.jobs s).trans ⟨rfl, rfl, rfl, rfl⟩

theorem dropJobs_jobs (s : State) : (dropJobs s).jobs = [] := cutJobs_all s

theorem undoDiscard_dropping (s : State) : JobsDropping s (undoDiscard s) := by
  unfold undoDiscard
  split
  · split <;> exact ⟨rfl, rfl, rfl, rfl⟩
  · exact .refl s

/-- FAULTED has been entered from `s`: its jobs have ended without a completion, and memory is as it was. -/
structure Faults (s : State) (onPath : Bool) (t : State) : Prop where
  main : t.main = .faulted
  jobs : t.jobs = []
  comps : t.comps = []
  resetAt : t.resetAt = s.time
  offPath : t.offPath = !onPath
  keeps : JobsDropping s t

theorem Faults.noted {ks : List Nat} (h : Faults s onPath t) (n : Noted ks t u) : Faults s onPath u := by
  obtain ⟨⟨_, _, _, _, _, _, _, _, _, _, rfl⟩, -, -⟩ := n
  exact ⟨h.main, h.jobs, h.comps, h.resetAt, h.offPath, h.keeps.trans ⟨rfl, rfl, rfl, rfl⟩⟩

theorem enterFaulted_faults (s : State) (onPath : Bool) : Faults s onPath (enterFaulted s onPath) := by
  have kept := (undoDiscard_dropping s).trans (dropJobs_dropping (undoDiscard s))
  unfold enterFaulted setMain
  refine Faults.noted ?_ (devEvent_noted [] _ 1)
  exact ⟨rfl, dropJobs_jobs _, rfl, rfl, rfl, kept.trans ⟨rfl, rfl, rfl, rfl⟩⟩

/-- A class-C fault in READY enters FAULTED, unless one off the forwarding path leads to TRANSIT (Table 16.2). -/
theorem classC_ready (hm : s.main = .ready) (hk : rd s 0x8040 2 ≠ 1) (onPath : Bool) : classC s onPath = enterFaulted s onPath := by
  rw [classC, hm]
  exact if_neg (by simp [hk])

/-- A command that logs a fault and raises it. -/
theorem ends_classC (hi : s.Inv) (hm : s.main = .ready) (hk : rd s 0x8040 2 ≠ 1) (n : Noted logKeys s u) (onPath : Bool) :
    ∃ t, ends s (classC u onPath) = .next t ∧
      (t.main = .faulted ∧ t.jobs = [] ∧ t.comps = [] ∧ t.resetAt = s.time ∧ t.mem = s.mem) ∧ t.offPath = !onPath := by
  have unset : rd u 0x8040 2 ≠ 1 := by rwa [n.rd (by decide)]
  have f := enterFaulted_faults u onPath
  have kept : JobsDropping s u := ⟨n.time, n.mem, n.touched, n.stalled⟩
  have f' := f.noted (noteState_noted s _)
  refine ⟨_, ?_, ⟨f'.main, f'.jobs, f'.comps, f'.resetAt.trans kept.time, (kept.trans f'.keeps).mem⟩, f'.offPath⟩
  rw [classC_ready (n.main.trans hm) unset]
  exact ends_noted s _ ((kept.trans f.keeps).touched.trans hi.charged) ((kept.trans f.keeps).stalled.trans hi.inReach)

theorem diesRun_ready (hm : s.main = .ready) : diesRun s = true := by
  rw [diesRun, hm]
  rfl

end Faults

/-! ### A port that leaves service -/

/-- From `s` to `t` port `p` trains with nothing queued at it, and jobs and memory are kept. -/
structure Trains (p : Nat) (s t : State) : Prop where
  main : t.main = s.main
  jobs : t.jobs = s.jobs
  mem : t.mem = s.mem
  touched : t.touched = s.touched
  stalled : t.stalled = s.stalled
  phase : (port t p).phase = .training
  empty : (port t p).txWait = []

section Ports
variable {s t u : State} {p q e vc us inp : Nat} {pk : Packet} {adaptive : Bool}

theorem Trains.down (h : Trains p s t) : portUp t p = false := by
  rw [portUp, h.phase]
  rfl

theorem Trains.noted {ks : List Nat} (h : Trains p s t) (n : Noted ks t u) : Trains p s u := by
  obtain ⟨⟨_, _, _, _, _, _, _, _, _, _, rfl⟩, -, -⟩ := n
  exact ⟨h.main, h.jobs, h.mem, h.touched, h.stalled, h.phase, h.empty⟩

/-- Packets sent, queued or held elsewhere leave the port as it is. -/
theorem Trains.sent (h : Trains p s t) (g : Sent t u) (same : port u p = port t p) : Trains p s u :=
  ⟨g.main.trans h.main, g.jobs.trans h.jobs, g.mem.trans h.mem, g.touched.trans h.touched, g.stalled.trans h.stalled,
    same ▸ h.phase, same ▸ h.empty⟩

/-- The one of two ports with more credits, the earlier where they have as many (R303). -/
def wider (s : State) (vc : Nat) (m : Option Nat) (p : Nat) : Option Nat :=
  match m with
  | none => some p
  | some b => if (port s p).credits.getD vc 0 > (port s b).credits.getD vc 0 then some p else some b

theorem wider_eq (s : State) (vc : Nat) (m : Option Nat) (p : Nat) : wider s vc m p = some p ∨ wider s vc m p = m := by
  cases m with
  | none => exact .inl rfl
  | some b =>
    rw [wider]
    exact ite_eq_or_eq ..

theorem foldl_wider {l : List Nat} {m : Option Nat} (h : l.foldl (wider s vc) m = some q) : q ∈ l ∨ m = some q := by
  induction l generalizing m with
  | nil => exact .inr h
  | cons x l ih =>
    rcases ih h with there | here
    · exact .inl (List.mem_cons_of_mem x there)
    · rcases wider_eq s vc m x with e | e <;> rw [e] at here
      · exact .inl (Option.some.inj here ▸ List.mem_cons_self)
      · exact .inr here

theorem egress_adaptive (s : State) (e vc : Nat) :
    egress s e true vc = ((entPorts e).filter (portUp s)).foldl (wider s vc) none := rfl

/-- A packet leaves by a port that is up. -/
theorem portUp_of_egress (h : egress s e adaptive vc = some q) : portUp s q = true := by
  cases adaptive with
  | true =>
    rw [egress_adaptive] at h
    rcases foldl_wider h with there | here
    · exact (List.mem_filter.1 there).2
    · cases here
  | false =>
    unfold egress at h
    simp only [Bool.false_eq_true, if_false] at h
    split at h <;> cases h
    assumption

theorem giveCredit_port (s : State) (inp : Nat) (pk : Packet) : port (giveCredit s inp pk) = port s := by
  unfold giveCredit
  split <;> rfl

theorem flits_port (s : State) (q : Nat) (l : List TxFlit) :
    port (l.foldl (fun s x => if x.full then sendFlit s q x else s) s) = port s := by
  refine foldl_keeps (fun v => port v = port s) _ (fun v x hv => ?_) l s rfl
  split
  · exact hv
  · exact hv

theorem emit_port_other (h : p ≠ q) : port (emit s q vc us inp pk) p = port s p := by
  unfold emit
  split
  · unfold sendNow
    dsimp only
    rw [flits_port]
    exact (port_setPort_other _ q p _ h).trans (congrFun (giveCredit_port s inp pk) p)
  · exact port_setPort_other _ q p _ h

/-- A routed packet does not touch a port that is down. -/
theorem routePacket_port (h : routePacket s us inp pk = .sent t) (down : portUp s p = false) : port t p = port s p := by
  unfold routePacket at h
  split at h
  · cases h
    rfl
  · dsimp only at h
    split at h
    · cases h
    · generalize (if pkIsRequest pk = true then entVc (routeEntry s (pkDst pk)) else entVc (routeEntry s (pkDst pk)) + 2) = vc at h
      split at h
      · rename_i q leaves
        have other : p ≠ q := fun e => by
          rw [e, portUp_of_egress leaves] at down
          cases down
        split at h <;> cases h
        · rfl
        · exact emit_port_other other
      · cases h
        rfl

theorem Trains.drawFree (h : Trains p s t) : Trains p s (drawFree t).2 :=
  ⟨h.main, h.jobs, h.mem, h.touched, h.stalled, h.phase, h.empty⟩

theorem Trains.freeBytes (h : Trains p s t) (n : Nat) : Trains p s (freeBytes t n).2 := by
  induction n with
  | zero => exact h
  | succ n ih => exact ih.drawFree

theorem Trains.notify (h : Trains p s t) : Trains p s (notify t p) := by
  have marked : Trains p s (setPort t p { port t p with notified := some t.time }) :=
    ⟨h.main, h.jobs, h.mem, h.touched, h.stalled, by rw [port_setPort]; exact h.phase, by rw [port_setPort]; exact h.empty⟩
  unfold Machine.notify
  dsimp only
  refine iteInduction (motive := Trains p s) (fun _ => h) fun _ => foldl_keeps (Trains p s) _ (fun v d hv => ?_) _ _ marked
  have drawn := hv.drawFree.freeBytes (1 + (Machine.drawFree v).1 % 252)
  split
  · rename_i w routed
    exact drawn.sent (routePacket_sent routed) (routePacket_port routed drawn.down)
  · exact drawn

theorem Trains.setScale (h : Trains p s t) (r f : Nat × Nat) : Trains p s (setScale t r f) := by
  have scaled : ∀ m, Trains p s { t with scale := m } := fun m =>
    ⟨h.main, h.jobs, h.mem, h.touched, h.stalled, h.phase, h.empty⟩
  unfold Machine.setScale
  dsimp only
  split
  · exact h
  · exact (((scaled _).noted (bump_noted [entKey 0x7310 4] _ _ _ (by decide))).noted
      (setEnt_noted [entKey 0x7310 3] _ _ _ _ (by decide))).noted (logEvent_noted _ _ _)

theorem Trains.rescale (h : Trains p s t) (rs : List (Nat × Nat)) : Trains p s (rescale t rs) :=
  foldl_keeps (Trains p s) _ (fun _ r hv => hv.setScale r _) rs t h

theorem Trains.portChanged (h : Trains p s t) : Trains p s (portChanged t p) :=
  ((h.noted (logEvent_noted _ _ _)).rescale _).notify

theorem Trains.holdQueued (h : Trains p s t) : Trains p s (holdQueued t p) := by
  have kept : Machine.holdQueued t p = setPort t p { port t p with txWait := [] } := by
    unfold Machine.holdQueued
    rw [h.empty]
    rfl
  rw [kept]
  exact ⟨h.main, h.jobs, h.mem, h.touched, h.stalled, by rw [port_setPort]; exact h.phase, by rw [port_setPort]⟩

/-- A port that leaves service trains again; the part and its jobs run on. -/
theorem leaveService_trains (h : (port s p).txWait = []) : Trains p s (leaveService s p) := by
  have trains : Trains p s (setPort s p { port s p with phase := .training, width := 0, failed := 0, resume := true }) :=
    ⟨rfl, rfl, rfl, rfl, rfl, by rw [port_setPort], by rw [port_setPort]; exact h⟩
  exact (trains.noted (bump_noted [entKey 0x8050 2] _ _ _ (by decide))).portChanged.holdQueued

end Ports

/-- Settles O50: each fault in the package is logged and raised; an optical site's port leaves service and trains. -/
theorem packageFaultsEndService : Obligations.PackageFaultsEndService := by
  intro s hi hm hp
  have runs := diesRun_ready hm
  have awake : (s.power != .deep) = true := by rw [hp]; rfl
  refine ⟨fun hk => ⟨fun die source hd lo hs => ?pll, fun there => ?host, fun site there => ?guest,
    fun cdie die row col link exists' present known => ?router⟩, fun p there empty => ?optical⟩
  case pll =>
    have on : (pllRuns s source && die < 6 && 1 ≤ source && source ≤ 3) = true := by simp [pllRuns, runs, awake, hd, lo, hs]
    change ∃ t, execPllLockLoss die source s = _ ∧ _
    rw [execPllLockLoss, if_pos on]
    exact ends_classC hi hm hk (logEvent_noted s _ _) true
  case host =>
    have on : (diesRun s && s.power != .deep && s.bringup.guests.contains 16) = true := by rw [runs, awake, there]; rfl
    change ∃ t, execHostSiteLinkLost s = _ ∧ _
    rw [execHostSiteLinkLost, if_pos on]
    exact ends_classC hi hm hk (logEvent_noted s _ _) false
  case guest =>
    have on : (diesRun s && s.bringup.guests.contains site) = true := by rw [runs, there]; rfl
    have path : (!decide (site < 16)) = decide (16 ≤ site) := by rw [← decide_not, decide_eq_decide]; omega
    change ∃ t, execGuestResetRequest site s = _ ∧ _
    rw [execGuestResetRequest, if_pos on, ← path]
    exact ends_classC hi hm hk (logEvent_noted s _ _) _
  case router =>
    have on : (diesRun s && routerExists cdie die row col && (!cdie || cdiePresent s die) && (link < 4 || link = 255)) = true := by
      have there : (!cdie || cdiePresent s die) = true := by cases cdie <;> simp [present]
      have named : (decide (link < 4) || decide (link = 255)) = true := by simpa using known
      rw [runs, exists', there, named]
      rfl
    change ∃ t, execRouterOrMeshLinkFailed cdie die row col link s = _ ∧ _
    rw [execRouterOrMeshLinkFailed, if_pos on]
    obtain ⟨t, raised, faulted, path⟩ := ends_classC hi hm hk ((queueRecord_noted s 2 _).trans (logEvent_noted _ _ _)) (!cdie)
    exact ⟨t, raised, faulted, path.trans (Bool.not_not cdie)⟩
  case optical =>
    have on : (diesRun s && s.power != .deep && s.lay.ports.contains p) = true := by rw [runs, awake, there]; rfl
    have same : ∀ {u}, Noted logKeys s u → port u p = port s p := fun n => by
      obtain ⟨⟨_, _, _, _, _, _, _, _, _, _, rfl⟩, -, -⟩ := n
      rfl
    obtain ⟨u, hu, n⟩ : ∃ u, u = logEvent s 0x9005 (leBytes 1 p) ∧ Noted logKeys s u := ⟨_, rfl, logEvent_noted _ _ _⟩
    have queued : (port u p).txWait = [] := by rw [same n, empty]
    obtain ⟨v, hv, down⟩ : ∃ v, v = (if portUp u p then leaveService u p else
        setPort u p { port u p with phase := .training, retryAt := none }) ∧ Trains p u v := by
      refine ⟨_, rfl, iteInduction (fun _ => leaveService_trains queued) fun _ => ?_⟩
      exact ⟨rfl, rfl, rfl, rfl, rfl, by rw [port_setPort], by rw [port_setPort]; exact queued⟩
    have after := down.noted (noteState_noted s v)
    refine ⟨noteState s v, ?_, after.phase, after.main.trans (n.main.trans hm), after.jobs.trans n.jobs, after.mem.trans n.mem⟩
    change execOpticalSiteLinkDown p s = _
    rw [execOpticalSiteLinkDown, if_pos on, ← hu]
    dsimp only
    rw [← hv]
    exact ends_noted s v (down.touched.trans (n.touched.trans hi.charged)) (down.stalled.trans (n.stalled.trans hi.inReach))

end Sys2Proof.Machine

namespace Sys2Proof.Machine

/-! ## A broadcast whose destinations overlap (R166)

The slice-local pools of consecutive tiles lie 4 MiB apart, but nothing bounds the size that the layout gives them. Where it is more,
two destinations of one broadcast share words, and no state can hold the source's bytes in both. -/

/-! ### Words moved one by one -/

section Words
variable {s v : State} {jb : Job} {how : How} {a dst key : Nat} {x y : List Byte} {b : RBuf}

/-- The last word read is no help for the word at `a`. -/
def Fresh (b : RBuf) (a : Nat) : Prop := ∀ x r k, b = some (x, r, k) → x ≠ a ∧ k = none

theorem readBuf_fresh (hb : Fresh b a) (hl : how.hint ≠ .last) (h : peekWord s a = some x) :
    readBuf how b s a = (.data x, some (a, .data x, none), touchRead s how a) := by
  have kept : dropped s how a = none := if_neg hl
  unfold readBuf
  rw [readWord_data h, kept]
  match b, hb with
  | none, _ => rfl
  | some (z, r, k), hb =>
    obtain ⟨ne, rfl⟩ := hb z r k rfl
    exact if_neg ne

/-- A word of a mover's source is read in one access. -/
theorem copySource_word (hb : Fresh b a) (hl : how.hint ≠ .last) (h : peekWord s a = some x) (ha : a % 64 = 0) (hw : a < 2 ^ 48)
    (ok : allowed s jb false how.hint a (a + 64 - 1) = true) :
    copySource s jb how b a dst 64 false = (.val 0, some x, false, some (a, .data x, none), touchRead s how a) := by
  have word : (a % 2 ^ 48) / 64 * 64 = a := by omega
  have offset : a % 2 ^ 48 % 64 = 0 := by omega
  have whole : (x.drop 0).take 64 ++ [] = x := by
    rw [List.append_nil, List.drop_zero, List.take_of_length_le (length_of_peekWord h).le]
  unfold copySource
  rw [ok, if_neg (by decide), readBytesB, if_neg (by decide)]
  dsimp only
  rw [word, offset, readBuf_fresh hb hl h]
  dsimp only
  rw [readBytesB]
  simp only [Nat.sub_zero, min_self, Nat.sub_self, if_true, Bool.false_eq_true, if_false, whole]

/-- A word is stored by a mover in one access. -/
theorem storeCopy_word (h : sramKey s a = some key) (hx : x.length = 64) (ha : a % 64 = 0)
    (ok : allowed s jb true how.hint a (a + 64 - 1) = true) :
    storeCopy s jb how a [(some x, 64)] = (.val 0, writeWord s how a x) := by
  have low := lt_of_sramKey h
  have control : ¬ (0x200000000000 ≤ a ∧ a < 0x200000106000) := by omega
  have line : decide (0x100000000000 ≤ a) = false := decide_eq_false (by omega)
  have written : writeBytes s how a x = (.data x, writeWord s how a x) := if_pos (by simp [hx, ha])
  unfold storeCopy
  simp only [List.foldl_cons, List.foldl_nil, Nat.zero_add]
  rw [if_neg (by decide), if_neg control, ok, if_neg (by decide), storeParts, line]
  simp only [Bool.false_and, Bool.false_eq_true, if_false, written]
  rfl

end Words

/-! ### The state -/

/-- A broadcast of 4 MiB and a word, from word 131,073 of the operand stores, to offset 0 of the slice-local pools numbered 8,192 and
8,193, whose addresses are those of the operand stores of tiles 0 and 4 (Table 5.2). -/
def castDesc : Nat := 2 * 2 ^ 270 + 2 ^ 273 + 2 * 2 ^ 208 + 8192 * 2 ^ 192 + 0x400040 * 2 ^ 128 + 0x002000800040

/-- Its job holds those two tiles, and one output window over all of device memory. -/
def castJob : Job :=
  { q := 0, slot := 0, desc := 8192 * 2 ^ 240 + 2 * 2 ^ 256, running := true, fault := none, owins := [(0, 2 ^ 48, false)], qwins := [],
    movers := [(castDesc, .running 0)] }

/-- All words are zero but the last of the source. -/
def castWord (i : Nat) : List Byte := if i = 196609 then List.replicate 64 0xFF#8 else zeroWord

/-- Sixteen tiles, with slice-local pools of 4.25 MiB. -/
def castBase : State :=
  { State.reset with main := .ready, lay := { Layout.none with tiles := List.replicate 16 0, pl := 17 }, jobs := [(0, castJob)],
                     mem := filled castWord 196610 }

/-- What the broadcast touches from its word `i` on, `k` words, before what has been touched already. -/
def castTouches : Nat → Nat → List ((Nat × Nat) × Touch) → List ((Nat × Nat) × Touch)
  | 0, _, l => l
  | k + 1, i, l => castTouches k (i + 1) (((96, 0), .word true (storeWord (65536 + i))) :: ((96, 0), .word true (storeWord i)) ::
      ((96, 0), .word false (storeWord (131073 + i))) :: l)

def castParts : ReqParts := requestParts { castBase with touched := castTouches 65537 0 [] } 0

/-- The mover's regulator has admitted all of it before. -/
def castState : State := { castBase with paid := [(paidKey castParts.m castParts.eng, castParts.parts)] }

def castHow : How := mHow 0 0 castDesc

theorem castDesc_op : mOp castDesc = 2 ∧ mSrc castDesc = storeWord 131073 ∧ mDst castDesc = 0 ∧ mLen castDesc = 0x400040 := by decide +kernel

theorem castDesc_sides : mShost castDesc = false ∧ mDhost castDesc = false ∧ mSrem castDesc = false ∧ mDrem castDesc = false := by
  decide +kernel

theorem castDesc_hint : mHint castDesc = .normal := by decide +kernel

theorem castDesc_tiles : bits castDesc 223 208 = 2 ∧ bits castDesc 207 192 = 8192 ∧ bit1 castDesc 273 = true := by decide +kernel

theorem castBases : bcastBases castState castDesc = [(storeWord 0, 0x440000), (storeWord 65536, 0x440000)] := by decide +kernel

theorem castJob_tiles : jobTiles castJob = [8192, 8193] := by decide +kernel

theorem castWord_length (i : Nat) : (castWord i).length = 64 := by
  unfold castWord
  split <;> exact List.length_replicate

theorem castState_inv : castState.Inv := ⟨filled_wf _ _, rfl, rfl⟩

theorem sramKey_castState {i : Nat} (hi : i < 262144) : sramKey castState (storeWord i) = some (opstoreKey 0 i) := by
  have tiles : tileCount castState = 16 := rfl
  have home : homeOf castState (storeWord i) = .opstore (i / 16384) (i % 16384) := by
    unfold homeOf storeWord
    rw [if_neg (by omega), if_neg (by omega), if_neg (by omega), if_pos (by omega)]
    dsimp only
    rw [tiles, if_pos (by omega)]
    exact congrArg₂ Loc.opstore (by omega) (by omega)
  have key : opstoreKey (i / 16384) (i % 16384) = opstoreKey 0 i := by unfold opstoreKey; omega
  rw [sramKey, home]
  exact congrArg some key

theorem peekWord_castState {i : Nat} (hi : i < 196610) : peekWord castState (storeWord i) = some (castWord i) :=
  SramWord.peekWord ⟨rfl, sramKey_castState (by omega), _, storedAt_filled castWord_length hi, rsDecode_rsEncode (.inl rfl) (castWord_length i)⟩

/-- The job may access all of device memory. -/
theorem allowed_castJob {v : State} (wr : Bool) {lo hi : Nat} (h : hi < 2 ^ 48) : allowed v castJob wr .normal lo hi = true := by
  have window : deviceWins castJob = [(0, 2 ^ 48 - 1)] := rfl
  have line : (Hint.normal == Hint.last) = false := rfl
  have inside : decide (hi ≤ 2 ^ 48 - 1) = true := decide_eq_true (by omega)
  unfold allowed covered regions inWindows
  rw [window, line]
  simp only [Bool.false_and, Bool.false_eq_true, if_false, List.cons_append, List.any_cons, Nat.zero_le, decide_true, Bool.true_and,
    inside, Bool.true_or]

/-! ### What the broadcast touches -/

/-- The state as the broadcast changes it: words written, all of them known, and `l` touched. -/
structure Casts (v : State) (l : List ((Nat × Nat) × Touch)) : Prop where
  written : WordsWritten castState v
  known : ∀ i < 196610, (peekWord v (storeWord i)).isSome = true
  touched : v.touched = l

theorem castState_casts : Casts castState [] := ⟨.refl _, fun _ hi => by rw [peekWord_castState hi]; rfl, rfl⟩

section Casts
variable {v : State} {l : List ((Nat × Nat) × Touch)} {i k : Nat} {x : List Byte} {b : RBuf}

/-- What the mover touches is noted for its master. -/
theorem Casts.touch (h : Casts v l) (x : Touch) : touch v castHow x = { v with touched := ((96, 0), x) :: l } := by
  obtain ⟨⟨_, _, _, _, rfl⟩, -, rfl⟩ := h
  rfl

theorem inHbm_storeWord (hi : i < 196610) : inHbm (storeWord i) = false := decide_eq_false (by unfold storeWord; omega)

theorem Casts.read (h : Casts v l) (hi : i < 196610) :
    Casts (touchRead v castHow (storeWord i)) (((96, 0), .word false (storeWord i)) :: l) := by
  have noted : Touched v (touchRead v castHow (storeWord i)) := touch_touched v castHow _
  refine ⟨h.written.trans (touched_written noted), fun j hj => by rw [noted.sees.peekWord]; exact h.known j hj, ?_⟩
  rw [touchRead, inHbm_storeWord hi, h.touch]
  rfl

theorem Casts.write (h : Casts v l) (hi : i < 196610) (hx : x.length = 64) :
    Casts (writeWord v castHow (storeWord i) x) (((96, 0), .word true (storeWord i)) :: l) := by
  obtain ⟨d, hd⟩ := Option.isSome_iff_exists.1 (h.known i hi)
  obtain ⟨key, word⟩ := sramWord_of_peekWord hd
  have wrote := writeWord_known (how := castHow) (x := x) word
  have touched : (writeWord v castHow (storeWord i) x).touched = (touchWrite v castHow (storeWord i)).touched := writeCode_homed.touched
  refine ⟨h.written.trans wrote.written, fun j hj => wrote.isSome_peekWord hx (sramKey_aligned word.home) (h.known j hj), ?_⟩
  rw [touched, touchWrite, inHbm_storeWord hi, h.touch]
  rfl

theorem Casts.place (h : Casts v l) (hi : i < 196610) : sramKey v (storeWord i) = some (opstoreKey 0 i) :=
  (sramKey_of_lay h.written.lay _).trans (sramKey_castState (by omega))

theorem castHow_hint : castHow.hint = .normal := by
  rw [castHow, mHow, castDesc_hint]

theorem storeWord_aligned (i : Nat) : storeWord i % 64 = 0 := by unfold storeWord; omega

theorem allowed_cast {v : State} (wr : Bool) (hi : i < 196610) :
    allowed v castJob wr castHow.hint (storeWord i) (storeWord i + 64 - 1) = true := by
  rw [castHow_hint]
  exact allowed_castJob wr (by unfold storeWord; omega)

/-- One word of the source stored in both destinations. -/
theorem Casts.store (h : Casts v l) (hi : i < 65537) (hx : x.length = 64) :
    ∃ u, bcastWord castJob castHow castDesc (some x) (bcastBases castState castDesc) (i * 64) v = (.val 0, u) ∧
      Casts u (((96, 0), .word true (storeWord (65536 + i))) :: ((96, 0), .word true (storeWord i)) :: l) := by
  obtain ⟨-, -, dst, -⟩ := castDesc_op
  have low : storeWord 0 + 0 + i * 64 = storeWord i := by unfold storeWord; omega
  have high : storeWord 65536 + 0 + i * 64 = storeWord (65536 + i) := by unfold storeWord; omega
  have first := h.write (i := i) (by omega) hx
  refine ⟨_, ?_, first.write (i := 65536 + i) (by omega) hx⟩
  rw [castBases, bcastWord, dst]
  dsimp only
  rw [low, storeCopy_word (h.place (by omega)) hx (storeWord_aligned i) (allowed_cast true (by omega))]
  dsimp only
  rw [bcastWord, dst]
  dsimp only
  rw [high, storeCopy_word (first.place (by omega)) hx (storeWord_aligned _) (allowed_cast true (by omega))]
  rfl

/-- Word for word, the broadcast touches what `castTouches` lists. -/
theorem Casts.go (h : Casts v l) (hk : i + k ≤ 65537) (hb : ∀ j, i ≤ j → Fresh b (storeWord (131073 + j))) :
    ∃ u, bcastWords castJob castHow castDesc (bcastBases castState castDesc) k (i * 64) b false v = (.done, u) ∧ Casts u (castTouches k i l) := by
  induction k generalizing v l i b with
  | zero => exact ⟨v, rfl, h⟩
  | succ k ih =>
    obtain ⟨-, src, -, -⟩ := castDesc_op
    have word : storeWord 131073 + i * 64 = storeWord (131073 + i) := by unfold storeWord; omega
    have next : i * 64 + 64 = (i + 1) * 64 := by omega
    obtain ⟨x, hx⟩ := Option.isSome_iff_exists.1 (h.known (131073 + i) (by omega))
    have got := copySource_word (dst := 0) (hb i le_rfl) (by rw [castHow_hint]; decide) hx (storeWord_aligned _) (by unfold storeWord; omega)
      (allowed_cast (v := v) false (by omega))
    obtain ⟨u, stored, casts⟩ := (h.read (i := 131073 + i) (by omega)).store (i := i) (by omega) (length_of_peekWord hx)
    obtain ⟨w, rest, done⟩ := ih (b := some (storeWord (131073 + i), .data x, none)) casts (i := i + 1) (by omega) fun j hj y r c e => by
      cases e
      exact ⟨by unfold storeWord; omega, rfl⟩
    refine ⟨w, ?_, done⟩
    rw [bcastWords, src, word, got]
    dsimp only
    rw [stored]
    dsimp only
    rw [next]
    exact rest

end Casts

/-- The destinations may all be written and have room. -/
theorem cast_allowed : (bcastBases castState castDesc).any
    (fun b => !allowed castState castJob true .normal (b.1 + 0) (b.1 + 0 + 0x400040 - 1)) = false := by
  rw [castBases, List.any_eq_false]
  intro b hb
  have ok : allowed castState castJob true .normal (b.1 + 0) (b.1 + 0 + 0x400040 - 1) = true := by
    simp only [List.mem_cons, List.not_mem_nil, or_false] at hb
    rcases hb with rfl | rfl <;> exact allowed_castJob true (by unfold storeWord; omega)
  rw [ok]
  decide

theorem cast_room : (bcastBases castState castDesc).any (fun b => decide (b.2 < 0 + 0x400040)) = false := by
  rw [castBases]
  decide +kernel

theorem cast_tiles : ((List.range 2).map (fun k => 8192 + k)).any (fun t => !(jobTiles castJob).contains t) = false := by
  rw [castJob_tiles]
  decide +kernel

theorem bcastWork_cast {n : Nat} (hn : n = 65537) :
    bcastWork 0 0 castDesc castJob castState = bcastWords castJob castHow castDesc (bcastBases castState castDesc) n 0 none false castState := by
  obtain ⟨op, -, dst, len⟩ := castDesc_op
  obtain ⟨count, first, -⟩ := castDesc_tiles
  have words : 0x400040 / 64 = n := hn ▸ rfl
  unfold bcastWork
  dsimp only
  rw [count, first, len, dst, cast_tiles, cast_room, cast_allowed, words, if_neg (by decide), if_neg (by decide), castHow]

theorem moverDoes_bcast {s : State} {j i d : Nat} {jb : Job} (h : mOp d = 2) : moverDoes j i d jb s = (bcastWork j i d jb s).2 := by
  rw [moverDoes, h]
  rfl

/-- The whole broadcast. -/
theorem castState_does {n : Nat} (hn : n = 65537) : Casts (moverDoes 0 0 castDesc castJob castState) (castTouches n 0 []) := by
  obtain ⟨op, -⟩ := castDesc_op
  obtain ⟨u, runs, casts⟩ := castState_casts.go (i := 0) (k := n) (b := none) (by omega) fun _ _ _ _ _ e => nomatch e
  rw [Nat.zero_mul, ← bcastWork_cast hn] at runs
  rw [moverDoes_bcast op, runs]
  exact casts

/-! ### Its regulator -/

section Parts
variable (s : State) (mem : List Host.Cell) (repeats : List RepEntry) (recent : List (Nat × Nat × Requester))
  (touched : List ((Nat × Nat) × Touch)) (paid : SMap (List PartTarget))

/-- `s` with what a mover that writes words changes, and with parts paid for. -/
def rewritten : State := { s with mem := mem, repeats := repeats, recent := recent, touched := touched, paid := paid }

theorem inForce_rewritten : inForce (rewritten s mem repeats recent touched paid) = rewritten (inForce s) mem repeats recent touched paid := by
  unfold inForce rewritten
  dsimp only
  split <;> rfl

theorem partClass_rewritten : partClass (rewritten s mem repeats recent touched paid) = partClass s := by
  funext p
  have entries : ∀ i k, rd (rewritten (inForce s) mem repeats recent touched paid) i k = rd (inForce s) i k := fun _ _ => rfl
  have listed : (rewritten (inForce s) mem repeats recent touched paid).ent = (inForce s).ent := rfl
  have address : ∀ a, classOf (rewritten s mem repeats recent touched paid) a = classOf s a := fun a => by
    rw [classOf, classOf, inForce_rewritten]
    simp only [entries, listed]
  cases p <;> simp only [partClass, address, inForce_rewritten, entries]

theorem homeKey_rewritten : homeKey (rewritten s mem repeats recent touched paid) = homeKey s := by
  funext p
  cases p <;> rfl

/-- The parts of what was touched depend on what was touched, the layout and the entries. -/
theorem joinPart_rewritten (p : PartTarget) (l : List PartTarget) :
    joinPart (rewritten s mem repeats recent touched paid) p l = joinPart s p l := by
  induction l with
  | nil => rfl
  | cons q l ih => rw [joinPart, joinPart, ih, homeKey_rewritten, partClass_rewritten]

theorem requestParts_rewritten (e : Nat) :
    requestParts (rewritten s mem repeats recent touched paid) e = requestParts { s with touched := touched } e := by
  have same : divide (rewritten s mem repeats recent touched paid) = divide { s with touched := touched } := funext fun us => by
    unfold divide
    refine List.foldl_ext _ _ _ fun l p _ => (joinPart_rewritten s mem repeats recent touched paid p l).trans ?_
    exact (joinPart_rewritten s s.mem s.repeats s.recent touched s.paid p l).symm
  unfold requestParts touchParts
  rw [same]
  rfl

end Parts

theorem foldl_erase_self : ∀ l : List PartTarget, l.foldl List.erase l = []
  | [] => rfl
  | p :: l => by rw [List.foldl_cons, List.erase_cons_head, foldl_erase_self l]

/-- What has been paid for in full is not admitted again. -/
theorem unpaid_paid (s : State) (k : ReqParts) : unpaid { s with paid := [(paidKey k.m k.eng, k.parts)] } k = [] := by
  have paid : SMap.get [(paidKey k.m k.eng, k.parts)] (paidKey k.m k.eng) [] = k.parts := by simp [SMap.get, SMap.find?]
  rw [unpaid, paid, foldl_erase_self]

theorem castState_admits {n : Nat} (hn : n = 65537) : Admits castState (moverDoes 0 0 castDesc castJob castState) 0 := by
  obtain ⟨⟨mem, repeats, recent, l, does⟩, -, touched⟩ := castState_does hn
  rw [does] at touched ⊢
  dsimp only at touched
  subst touched
  have parts : castParts = requestParts { castBase with touched := castTouches n 0 [] } 0 := by rw [castParts, hn]
  refine ⟨rfl, .inr ?_⟩
  have same := requestParts_rewritten castBase mem repeats recent (castTouches n 0 []) castState.paid 0
  rw [← parts] at same
  have whole : requestParts { castState with mem := mem, repeats := repeats, recent := recent, touched := castTouches n 0 [] } 0 = castParts :=
    same
  have paid : unpaid castState castParts = [] := unpaid_paid castBase castParts
  rw [whole, paid]
  exact ⟨rfl, rfl⟩

/-! ### The contradiction -/

section Places
variable {s : State} {a n i : Nat}

theorem peekBytes_at (hi : i < n) :
    (peekBytes s a n)[i]? = some (((peekWord s ((a + i) % 2 ^ 48 / 64 * 64)).getD []).getD ((a + i) % 64) 0#8) := by
  rw [peekBytes, List.getElem?_map, List.getElem?_range hi]
  rfl

theorem exists_storeWord {x c : Nat} (hx : x ∈ wordsOf (storeWord c) n) : ∃ i < c + (n + 63) / 64, x = storeWord i := by
  obtain ⟨k, hk, rfl⟩ := List.mem_map.1 hx
  have few := List.mem_range.1 hk
  exact ⟨c + k, by unfold storeWord at few; omega, by unfold storeWord; omega⟩

end Places

/-- Every word of a range of the operand stores is one of them, in a place of its own. -/
theorem ownPlaces_castState {l : List Nat} (h : ∀ x ∈ l, ∃ i < 262144, x = storeWord i) : OwnPlaces castState l := fun x hx => by
  obtain ⟨i, hi, rfl⟩ := h x hx
  refine ⟨by rw [sramKey_castState hi]; rfl, fun y hy e => ?_⟩
  obtain ⟨k, hk, rfl⟩ := h y hy
  rw [sramKey_castState hi, sramKey_castState hk] at e
  have keys := Option.some.inj e
  unfold opstoreKey at keys
  unfold storeWord
  omega

theorem permitted_castState (wr : Bool) {c n : Nat} (h : storeWord c + n ≤ 2 ^ 48) : Permitted castState castJob wr .normal (storeWord c) n :=
  ⟨h, fun o k hk ho => allowed_castJob wr (by omega)⟩

theorem clean_castState : Clean castState (storeWord 131073) 0x400040 := fun i hi => by
  have place : (storeWord 131073 + i) % 2 ^ 48 / 64 * 64 = storeWord (131073 + i / 64) := by unfold storeWord; omega
  rw [place, peekWord_castState (by omega)]
  rfl

/-- The source begins with a byte of zeros, and its last word with one of ones. -/
theorem castState_firstByte : (peekBytes castState (storeWord 131073) 0x400040)[0]? = some 0#8 := by
  have place : (storeWord 131073 + 0) % 2 ^ 48 / 64 * 64 = storeWord 131073 := by decide
  rw [peekBytes_at (by decide), place, peekWord_castState (by decide)]
  decide +kernel

theorem castState_lastByte : (peekBytes castState (storeWord 131073) 0x400040)[65536 * 64]? = some 0xFF#8 := by
  have place : (storeWord 131073 + 65536 * 64) % 2 ^ 48 / 64 * 64 = storeWord 196609 := by decide
  rw [peekBytes_at (by decide), place, peekWord_castState (by decide)]
  decide +kernel

/-- The words of the source and of both destinations. -/
theorem cast_places : ∀ x ∈ wordsOf (storeWord 131073) 0x400040 ++
    [(storeWord 0, 0x440000), (storeWord 65536, 0x440000)].flatMap (fun b => wordsOf (b.1 + 0) 0x400040),
    ∃ i < 262144, x = storeWord i := by
  intro x hx
  simp only [List.flatMap_cons, List.flatMap_nil, List.append_nil, Nat.add_zero, List.mem_append] at hx
  rcases hx with hx | hx | hx <;> obtain ⟨i, hi, rfl⟩ := exists_storeWord hx <;> exact ⟨i, by omega, rfl⟩

/-- Refutes O39: a broadcast to two slice-local pools of more than 4 MiB is given destinations that share words, and the bytes of its
source that belong there differ. -/
theorem not_moversRunDescriptors : ¬ Obligations.MoversRunDescriptors := by
  intro h
  obtain ⟨op, src, dst, len⟩ := castDesc_op
  obtain ⟨shost, dhost, srem, drem⟩ := castDesc_sides
  obtain ⟨count, first, -⟩ := castDesc_tiles
  obtain ⟨-, runs, -⟩ := h castState 0 0 castJob castDesc 0 castState_inv rfl rfl rfl
  obtain ⟨-, -, casts, -⟩ := runs rfl (by decide) rfl (castState_admits rfl) shost dhost srem drem
  rw [src, dst, len, castDesc_hint, castBases, count, first] at casts
  have tiles : ∀ k, k < 2 → (jobTiles castJob).contains (8192 + k) = true := by
    rw [castJob_tiles]
    decide
  have dests : ∀ b ∈ [(storeWord 0, 0x440000), (storeWord 65536, 0x440000)],
      0 + 0x400040 ≤ b.2 ∧ Permitted castState castJob true .normal (b.1 + 0) 0x400040 ∧ Disjoint (storeWord 131073) (b.1 + 0) 0x400040 := by
    intro b hb
    simp only [List.mem_cons, List.not_mem_nil, or_false] at hb
    rcases hb with rfl | rfl <;>
      exact ⟨by decide, permitted_castState true (by unfold storeWord; omega), .inr (by unfold storeWord; omega)⟩
  obtain ⟨t, -, shares, -⟩ := casts op rfl rfl ⟨permitted_castState false (by unfold storeWord; omega), clean_castState⟩ tiles dests
    (ownPlaces_castState cast_places)
  have low := (shares (storeWord 0, 0x440000) List.mem_cons_self).2
  have high := (shares (storeWord 65536, 0x440000) (List.mem_cons_of_mem _ List.mem_cons_self)).2
  have meets : (storeWord 0 + 0 + 65536 * 64) = storeWord 65536 + 0 + 0 := by decide
  have same := congrArg (·[65536 * 64]?) low
  dsimp only at same
  rw [peekBytes_at (by decide), meets, ← peekBytes_at (a := storeWord 65536 + 0) (i := 0) (n := 0x400040) (by decide), high,
    castState_firstByte, castState_lastByte] at same
  exact absurd same (by decide)

end Sys2Proof.Machine

namespace Sys2Proof.Machine

/-! ## Commands behind WO entries (R192, R201, R325, R382, R386 to R388, R417, R423, R429, R439) -/

/-! ### Messages on their way -/

section Told
variable {s t u : State}

/-- `t` is `s` with messages sent or waiting for the host link: of all else nothing differs. -/
def Told (s t : State) : Prop := ∃ devEvents msixPba out waiting,
  t = { s with devEvents := devEvents, msixPba := msixPba, out := out, link := { s.link with waiting := waiting } }

theorem Told.trans (h : Told s t) (g : Told t u) : Told s u := by
  obtain ⟨_, _, _, _, rfl⟩ := h
  obtain ⟨_, _, _, _, rfl⟩ := g
  exact ⟨_, _, _, _, rfl⟩

theorem sendVector_told (s : State) (v : Nat) : Told s (sendVector s v) := by
  unfold sendVector hostSend
  split
  · exact ⟨_, _, _, _, rfl⟩
  · split <;> exact ⟨_, _, _, _, rfl⟩

theorem devEvent_told (s : State) (bit : Nat) : Told s (devEvent s bit) := by
  have set : Told s { s with devEvents := s.devEvents + 2 ^ bit } := ⟨_, _, _, _, rfl⟩
  have same : Told s s := ⟨_, _, _, _, rfl⟩
  unfold devEvent
  exact iteInduction (motive := Told s) (fun _ => same) fun _ => iteInduction (fun _ => same) fun _ => set.trans (sendVector_told _ 0)

theorem noteState_told (s t : State) : Told t (noteState s t) := by
  unfold noteState
  split
  · exact devEvent_told t 1
  · exact ⟨_, _, _, _, rfl⟩

/-- A response put into the mailbox ends BUSY. -/
theorem mbxDone_told (s : State) (msg : List Byte) :
    Told { s with mbx := { s.mbx with busy := none, done := true, resp := putBytes s.mbx.resp 0 msg } } (mbxDone s msg) := by
  unfold mbxDone
  dsimp only
  split
  · exact ⟨_, _, _, _, rfl⟩
  · exact sendVector_told _ _

/-- A response delivered at once. -/
theorem catDeliver_told (s : State) (tr : Transport) (msg : List Byte) : ∃ mbx, Told { s with mbx := mbx } (catDeliver s tr 0 msg) := by
  cases tr
  case mailbox => exact ⟨_, mbxDone_told s msg⟩
  all_goals exact ⟨s.mbx, _, _, _, _, rfl⟩

end Told

/-! ### A command written to its entry -/

section Command
variable {s u : State} {tr : Transport} {tag : BitVec 8} {idx sub n v : Nat} {acc : Acc}

/-- The row of an entry that the part defines. -/
def entryRow (idx sub : Nat) : EntRow := (findRow idx sub).getD default

/-- The entry takes values of `n` bytes under an access class. -/
abbrev TakesValue (idx sub n : Nat) (acc : Acc) : Prop :=
  findRow idx sub = some (entryRow idx sub) ∧ (entryRow idx sub).acc = acc ∧ (entryRow idx sub).ty < 8 ∧ tySize (entryRow idx sub).ty = n ∧
    (idx < 65536 ∧ 0 < sub ∧ sub < 256) ∧ 0 < n ∧ n ≤ 8

/-- A request on an available transport is answered at once: nothing is outstanding on it, and no staging context has expired. -/
structure Prompt (s : State) (tr : Transport) : Prop where
  reached : available s tr = true
  fresh : stagesDue s = []
  idle : s.mbx.busy = none
  room : (owing s tr).length < 8

theorem MayCommand.prompt (h : MayCommand s tr) : Prompt s tr := ⟨h.reached, h.fresh, h.idle.1, h.idle.2⟩

theorem writeReq_fields (entry : TakesValue idx sub n acc) :
    (writeReq tag idx sub n v).index.toNat = idx ∧ (writeReq tag idx sub n v).sub.toNat = sub ∧
      (writeReq tag idx sub n v).sub ≠ 0#8 ∧ (writeReq tag idx sub n v).length.toNat = n := by
  obtain ⟨-, -, -, -, ⟨hi, lo, hs⟩, -, hn⟩ := entry
  have named : (writeReq tag idx sub n v).sub.toNat = sub := by
    simp only [writeReq, BitVec.toNat_ofNat]
    omega
  refine ⟨?_, named, fun e => ?_, ?_⟩
  · simp only [writeReq, BitVec.toNat_ofNat]
    omega
  · rw [e] at named
    exact lo.ne named
  · simp only [writeReq, BitVec.toNat_ofNat]
    omega

/-- A value written to an entry that is served reaches the entry as it is. -/
theorem serveNow_write (entry : TakesValue idx sub n acc) (hv : v < 256 ^ n) (served : entryBlock s tr (entryRow idx sub) idx sub = none) :
    (serveNow s tr .write (writeReq tag idx sub n v)).2.2 = (writeValue s tr (entryRow idx sub) idx sub v).2 := by
  obtain ⟨index, named, numbered, size⟩ := writeReq_fields (tag := tag) (v := v) entry
  obtain ⟨found, -, scalar, width, -, lo, hi⟩ := entry
  have data : (writeReq tag idx sub n v).data = leBytes n v := rfl
  have header : headerOk .write (writeReq tag idx sub n v) = true := by
    simp only [headerOk, within, size, data, leBytes_length]
    simp [writeReq]
    omega
  have written : writeEntry s tr (writeReq tag idx sub n v) (entryRow idx sub) = writeValue s tr (entryRow idx sub) idx sub v := by
    unfold writeEntry
    dsimp only
    rw [index, named, size, data, leNat_leBytes, Nat.mod_eq_of_lt hv, if_neg (by omega), if_neg scalar.ne, width]
    simp [writeReq]
  unfold serveNow
  rw [if_neg (by simp [header]), if_neg numbered, index, named, found]
  unfold serveEntry
  dsimp only
  rw [index, named, served]
  exact congrArg Prod.snd written

/-- A command written to its entry: the value acts, and a response is on its way. -/
theorem cmdWrite_prompt (h : Prompt s tr) (entry : TakesValue idx sub n acc) (hv : v < 256 ^ n)
    (served : entryBlock s tr (entryRow idx sub) idx sub = none) :
    ∃ msg, cmdWrite s tr tag idx sub n v = catDeliver (writeValue s tr (entryRow idx sub) idx sub v).2 tr 0 msg := by
  have settled : mbxSettle s = s := by rw [mbxSettle, h.idle]
  have fresh : expireStages s = s := by rw [expireStages, h.fresh]; rfl
  unfold cmdWrite arrive request
  rw [if_pos h.reached, settled, if_neg (by simp [h.idle]), if_neg (not_le.2 h.room), serve, fresh]
  dsimp only
  rw [← serveNow_write (tag := tag) entry hv served]
  exact ⟨_, rfl⟩

/-- The outcome of such a command: the state in which its value has acted, with the response on its way. -/
theorem ends_cmdWrite (hi : s.Inv) (h : Prompt s tr) (entry : TakesValue idx sub n acc) (hv : v < 256 ^ n)
    (served : entryBlock s tr (entryRow idx sub) idx sub = none) (acts : (writeValue s tr (entryRow idx sub) idx sub v).2 = u)
    (touched : u.touched = s.touched) (stalled : u.stalled = s.stalled) :
    ∃ mbx t, ends s (cmdWrite s tr tag idx sub n v) = .next t ∧ Told { u with mbx := mbx } t := by
  obtain ⟨msg, done⟩ := cmdWrite_prompt (tag := tag) h entry hv served
  obtain ⟨mbx, told⟩ := catDeliver_told u tr msg
  rw [acts] at done
  refine ⟨mbx, _, ends_noted s _ ?_ ?_, done ▸ told.trans (noteState_told s _)⟩ <;> rw [done] <;> obtain ⟨_, _, _, _, e⟩ := told <;> rw [e]
  · exact touched.trans hi.charged
  · exact stalled.trans hi.inReach

/-- An entry of the main domain that is not the Inventory's is served with its domain. -/
theorem entryBlock_serves {row : EntRow} (serves : mainBlock s = none) (other : isInventory idx sub = false) :
    entryBlock s tr row idx sub = none := by
  unfold entryBlock
  split
  · rfl
  · rw [serves, other]
    rfl

theorem writeValue_wo (entry : TakesValue idx sub n .wo) (may : isResetCmd idx sub = true ∨ mayWrite s tr = true) :
    writeValue s tr (entryRow idx sub) idx sub v = woWrite s tr idx sub v := by
  obtain ⟨-, wo, -⟩ := entry
  unfold writeValue
  rw [wo]
  exact if_pos (by simpa using may)

/-- A command of a source that may write, while the main domain is served. -/
theorem command_acts (hi : s.Inv) (h : MayCommand s tr) (entry : TakesValue idx sub n .wo) (other : isInventory idx sub = false)
    (hv : v < 256 ^ n) (acts : (woWrite s tr idx sub v).2 = u) (touched : u.touched = s.touched) (stalled : u.stalled = s.stalled) :
    ∃ mbx t, ends s (cmdWrite s tr tag idx sub n v) = .next t ∧ Told { u with mbx := mbx } t :=
  ends_cmdWrite hi h.prompt entry hv (entryBlock_serves h.serves other) (by rw [writeValue_wo entry (.inr h.allowed), acts]) touched stalled

end Command

/-! ### RESET_CMD (R410, R429) -/

section Commands
variable {s : State} {tr : Transport} {tag : BitVec 8}

/-- In READY a value that resets is noted with its time. -/
theorem resetCmd_noted {v : Nat} (right : resetRight s tr = true) (key : v / 2 ^ 8 = 0x5EC700) (scope : v % 2 ^ 8 ≤ 7)
    (hm : s.main = .ready) : Noted logKeys { s with resetReq := some s.time } (resetCmd s tr v).2 := by
  have logged : (resetCmd s tr v).2 =
      logEvent { s with resetReq := some s.time } 0xF001 (leBytes 1 (trCode tr) ++ leBytes 1 (v % 256)) := by
    unfold resetCmd
    dsimp only
    rw [if_neg (by omega), if_neg (by simp [right]), hm]
  rw [logged]
  exact logEvent_noted _ _ _

/-- In STANDBY it starts bring-up, where PERST_N is released. -/
theorem resetCmd_starts {v : Nat} (right : resetRight s tr = true) (key : v / 2 ^ 8 = 0x5EC700) (scope : v % 2 ^ 8 ≤ 7)
    (hm : s.main = .standby) (released : s.link.perst = false) : (resetCmd s tr v).2 = startBringup s s.time := by
  unfold resetCmd
  dsimp only
  rw [if_neg (by omega), if_neg (by simp [right]), hm]
  exact congrArg Prod.snd (if_neg (by simp [released]))

theorem resetCmd_ready (hi : s.Inv) (h : Prompt s tr) {v : BitVec 32} (right : resetRight s tr = true) (key : v.toNat / 2 ^ 8 = 0x5EC700)
    (scope : v.toNat % 2 ^ 8 ≤ 7) (hm : s.main = .ready) :
    ∃ t, exec (.resetCmd tr tag v) s = .next t ∧ t.resetReq = some s.time ∧ t.main = .ready ∧ t.jobs = s.jobs ∧ t.mem = s.mem := by
  have entry : TakesValue 0xF010 1 4 .wo := by decide
  obtain ⟨u, acts, n⟩ : ∃ u, (resetCmd s tr v.toNat).2 = u ∧ Noted logKeys { s with resetReq := some s.time } u :=
    ⟨_, rfl, resetCmd_noted right key scope hm⟩
  obtain ⟨mbx, t, ran, told⟩ := ends_cmdWrite (tag := tag) (u := u) hi h entry v.isLt
    (entryBlock_serves (by rw [mainBlock, hm]) (by decide)) (by rw [writeValue_wo entry (.inl rfl)]; exact acts) n.touched n.stalled
  refine ⟨t, ran, ?_⟩
  obtain ⟨_, _, _, _, rfl⟩ := told
  obtain ⟨⟨_, _, _, _, _, _, _, _, _, _, rfl⟩, -, -⟩ := n
  exact ⟨rfl, hm, rfl, rfl⟩

theorem startBringup_starts (s : State) (start : Nat) : (startBringup s start).main = .bringup ∧ (startBringup s start).bringup.step = 1 ∧
    (startBringup s start).touched = s.touched ∧ (startBringup s start).stalled = s.stalled := by
  unfold startBringup
  exact iteInduction (motive := fun t : State => t.main = .bringup ∧ t.bringup.step = 1 ∧ t.touched = s.touched ∧ t.stalled = s.stalled)
    (fun _ => ⟨rfl, rfl, rfl, rfl⟩) fun _ => ⟨rfl, rfl, rfl, rfl⟩

theorem resetCmd_standby (hi : s.Inv) (h : Prompt s .cons) {v : BitVec 32} (key : v.toNat / 2 ^ 8 = 0x5EC700)
    (scope : v.toNat % 2 ^ 8 ≤ 7) (hm : s.main = .standby) (released : s.link.perst = false) :
    ∃ t, exec (.resetCmd .cons tag v) s = .next t ∧ t.main = .bringup ∧ t.bringup.step = 1 := by
  have entry : TakesValue 0xF010 1 4 .wo := by decide
  obtain ⟨main, step, touched, stalled⟩ := startBringup_starts s s.time
  obtain ⟨mbx, t, ran, told⟩ := ends_cmdWrite (tag := tag) (u := startBringup s s.time) hi h entry v.isLt rfl
    (by rw [writeValue_wo entry (.inl rfl)]; exact resetCmd_starts rfl key scope hm released) touched stalled
  refine ⟨t, ran, ?_⟩
  obtain ⟨_, _, _, _, rfl⟩ := told
  exact ⟨main, step⟩

/-! ### PERSIST_CLEAR (R437, R439) -/

theorem logRecord_live (s : State) (code : Nat) (d : List Byte) : (logRecord s code d).live = s.live := by
  have told : ∀ v : State, (devEvent v 2).live = v.live := fun v => by
    obtain ⟨_, _, _, _, e⟩ := devEvent_told v 2
    rw [e]
  exact iteInduction (motive := fun t : State => t.live = s.live) (fun _ => told _) fun _ => told _

theorem slotRecord_live (s : State) (r : LRec) : (slotRecord s r).live = s.live := by
  unfold slotRecord
  refine iteInduction (motive := fun t : State => t.live = s.live) (fun _ => rfl) fun _ => ?_
  dsimp only
  split
  · exact logRecord_live _ _ _
  · rfl

/-- A PERSIST_CLEAR takes every persisted value out of the live set. -/
theorem queueRecord_clear_live (s : State) (p : List Byte) : (queueRecord s 5 p).live = s.live.filter (fun x => x.ty != 3) := by
  unfold queueRecord defectsFull
  dsimp only
  exact slotRecord_live _ _

theorem persistClear_ends (hi : s.Inv) (h : MayCommand s tr) : ∃ t, exec (.persistClear tr tag 0xC1EA#32) s = .next t ∧
    (∀ x ∈ t.live, x ∈ s.live ∧ x.ty ≠ 3) ∧ t.cons = s.cons ∧ t.mem = s.mem := by
  obtain ⟨u, acts, left, n⟩ : ∃ u, (persistClear s 0xC1EA).2 = u ∧ u.live = s.live.filter (fun x => x.ty != 3) ∧ Noted logKeys s u :=
    ⟨_, rfl, queueRecord_clear_live s _, queueRecord_noted s 5 _⟩
  obtain ⟨mbx, t, ran, told⟩ := command_acts (tag := tag) (idx := 0xF020) (sub := 1) (n := 4) hi h (by decide) (by decide)
    (by decide) acts n.touched n.stalled
  refine ⟨t, ran, ?_⟩
  obtain ⟨_, _, _, _, rfl⟩ := told
  refine ⟨fun x hx => ?_, n.cons, n.mem⟩
  have kept : x ∈ s.live.filter (fun x => x.ty != 3) := left ▸ hx
  simpa using kept

/-! ### POWER_REQ (R386 to R388) -/

/-- Out of DEEP, leaving SLEEP leads to RUN. -/
theorem leaveSleep_runs (awake : s.power ≠ .deep) : ∃ woken chans, leaveSleep s = { s with power := .run, woken := woken, chans := chans } := by
  unfold leaveSleep
  split
  · exact ⟨_, _, rfl⟩
  · have run : s.power = .run := by
      cases e : s.power
      · rfl
      · exact absurd e ‹_›
      · exact absurd e awake
    exact ⟨s.woken, s.chans, by rw [← run]⟩

theorem powerReqRun_runs (hi : s.Inv) (h : MayCommand s tr) (awake : s.power ≠ .deep) :
    ∃ t, exec (.powerReqRun tr tag) s = .next t ∧ t.power = .run ∧ t.deepPending = false ∧ t.mem = s.mem := by
  obtain ⟨woken, chans, acts⟩ := leaveSleep_runs (s := { s with deepPending := false }) awake
  obtain ⟨mbx, t, ran, told⟩ := command_acts (tag := tag) (idx := 0xA030) (sub := 2) (n := 1) (v := 0) hi h (by decide) (by decide)
    (by decide) acts rfl rfl
  refine ⟨t, ran, ?_⟩
  obtain ⟨_, _, _, _, rfl⟩ := told
  exact ⟨rfl, rfl, rfl⟩

theorem powerReqSleep_sleeps (hi : s.Inv) (h : MayCommand s tr) (hm : s.main = .ready) (run : s.power = .run) (jobs : s.jobs = [])
    (none' : descPending s = false) :
    ∃ t, exec (.powerReqSleep tr tag) s = .next t ∧ t.power = .sleep ∧ t.loans = [] ∧ t.reclaims = [] ∧ t.mem = s.mem := by
  have acts : (powerSleep s).2 = enterSleep s := congrArg Prod.snd (if_pos (by simp [hm, run, jobs, none']))
  obtain ⟨mbx, t, ran, told⟩ := command_acts (tag := tag) (idx := 0xA030) (sub := 2) (n := 1) (v := 1) hi h (by decide) (by decide)
    (by decide) acts rfl rfl
  refine ⟨t, ran, ?_⟩
  obtain ⟨_, _, _, _, rfl⟩ := told
  exact ⟨rfl, rfl, rfl, rfl⟩

theorem powerReqDeep_waits (hi : s.Inv) (h : MayCommand s tr) (hm : s.main = .ready) (run : s.power = .run) (first : s.deepPending = false)
    (jobs : s.jobs.any (fun (j : Nat × Job) => j.2.holds) = false) (queues : s.queues.any (fun (q : Nat × Queue) => q.2.enabled) = false) :
    ∃ t, exec (.powerReqDeep tr tag) s = .next t ∧ t.deepPending = true ∧ t.power = .run ∧ t.mem = s.mem := by
  have acts : (powerDeep s).2 = { s with deepPending := true } := by
    unfold powerDeep leaveSleep
    simp [hm, run, first, jobs, queues]
  obtain ⟨mbx, t, ran, told⟩ := command_acts (tag := tag) (idx := 0xA030) (sub := 2) (n := 1) (v := 2) hi h (by decide) (by decide)
    (by decide) acts rfl rfl
  refine ⟨t, ran, ?_⟩
  obtain ⟨_, _, _, _, rfl⟩ := told
  exact ⟨rfl, run, rfl⟩

/-! ### FAB_TRANSIT_REQ (R325) -/

theorem portsTrain_dropping (s : State) : JobsDropping s (portsTrain s) := by
  unfold portsTrain
  exact foldl_keeps (JobsDropping s) _ (fun v p hv => by split; exacts [hv.trans ⟨rfl, rfl, rfl, rfl⟩, hv]) _ s (.refl s)

theorem leaveDeep_dropping (s : State) : JobsDropping s (leaveDeep s) := by
  have awake : ∀ chans, JobsDropping s { s with power := .run, chans := chans } := fun _ => ⟨rfl, rfl, rfl, rfl⟩
  exact (awake _).trans (portsTrain_dropping _)

/-- TRANSIT has been entered: its jobs have ended, and nothing is lent. -/
structure InTransit (s t : State) : Prop where
  main : t.main = .transit
  jobs : t.jobs = []
  loans : t.loans = []
  keeps : JobsDropping s t

theorem InTransit.noted {t u : State} {ks : List Nat} (h : InTransit s t) (n : Noted ks t u) : InTransit s u := by
  obtain ⟨⟨_, _, _, _, _, _, _, _, _, _, rfl⟩, -, -⟩ := n
  exact ⟨h.main, h.jobs, h.loans, h.keeps.trans ⟨rfl, rfl, rfl, rfl⟩⟩

theorem enterTransit_inTransit (s : State) (trigger transport : Nat) : InTransit s (enterTransit s trigger transport) := by
  obtain ⟨u, hu, kept⟩ : ∃ u, u = (if s.power = .deep then portsTrain s else s) ∧ JobsDropping s u :=
    ⟨_, rfl, iteInduction (fun _ => portsTrain_dropping s) fun _ => .refl s⟩
  have dropped := (kept.trans (undoDiscard_dropping u)).trans (dropJobs_dropping (undoDiscard u))
  unfold enterTransit setMain
  rw [← hu]
  refine InTransit.noted (InTransit.noted ?_ (devEvent_noted [] _ 1)) (logEvent_noted _ _ _)
  exact ⟨rfl, dropJobs_jobs _, rfl, dropped.trans ⟨rfl, rfl, rfl, rfl⟩⟩

theorem fabTransitReq_ends (hi : s.Inv) (h : MayCommand s tr) (hm : s.main = .ready) (right : resetRight s tr = true) :
    ∃ t, exec (.fabTransitReq tr tag 1#8) s = .next t ∧ t.main = .transit ∧ t.jobs = [] ∧ t.loans = [] ∧ t.cons = s.cons := by
  obtain ⟨u, hu, left, cons⟩ : ∃ u, u = (if s.power = .deep then leaveDeep s else s) ∧ JobsDropping s u ∧ u.cons = s.cons :=
    ⟨_, rfl, iteInduction (fun _ => leaveDeep_dropping s) fun _ => .refl s, iteInduction (motive := fun u : State => u.cons = s.cons)
      (fun _ => (leaveDeep_onward (K := ⟨True, True⟩) (.refl s)).cons trivial) fun _ => rfl⟩
  have acts : (transitReq s tr 1).2 = enterTransit u 0 (trCode tr) := by
    unfold transitReq
    simp [right, hm, ← hu]
  have entered := enterTransit_inTransit u 0 (trCode tr)
  have kept := left.trans entered.keeps
  have same := ((enterTransit_onward (K := ⟨True, True⟩) (trigger := 0) (transport := trCode tr) (.refl u)).cons trivial).trans cons
  obtain ⟨mbx, t, ran, told⟩ := command_acts (tag := tag) (idx := 0x8040) (sub := 1) (n := 1) hi h (by decide) (by decide)
    (by decide) acts kept.touched kept.stalled
  refine ⟨t, ran, ?_⟩
  obtain ⟨_, _, _, _, rfl⟩ := told
  exact ⟨entered.main, entered.jobs, entered.loans, same⟩

/-! ### KEEP_RELEASE and RETRAIN_REQ (R192, R201) -/

theorem keepRelease_releases (hi : s.Inv) (h : MayCommand s tr) {v : BitVec 8} (hv : v.toNat ≤ 15) :
    ∃ t, exec (.keepRelease tr tag v) s = .next t ∧ (∀ l ∈ t.lines, l.prot ≠ some v.toNat) ∧ t.lines.length = s.lines.length ∧
      t.mem = s.mem ∧ t.jobs = s.jobs := by
  have acts : (keepRelease s v.toNat).2 =
      { s with lines := s.lines.map (fun l => if l.prot = some v.toNat then { l with prot := none } else l) } :=
    congrArg Prod.snd (if_neg (by omega))
  obtain ⟨mbx, t, ran, told⟩ := command_acts (tag := tag) (idx := 0x6810) (sub := 4) (n := 1) hi h (by decide) (by decide)
    v.isLt acts rfl rfl
  refine ⟨t, ran, ?_⟩
  obtain ⟨_, _, _, _, rfl⟩ := told
  refine ⟨fun l hl => ?_, List.length_map .., rfl, rfl⟩
  obtain ⟨x, -, rfl⟩ := List.mem_map.1 hl
  split
  · exact nofun
  · assumption

theorem retrainReq_waits (hi : s.Inv) (h : MayCommand s tr) (hm : s.main = .ready) {v : BitVec 16}
    (active : s.lay.chans.contains v.toNat = true) (hv : v.toNat ≤ 383) (idle : (chan s v.toNat).wait = none)
    (rests : (chan s v.toNat).active = none) :
    ∃ t, exec (.retrainReq tr tag v) s = .next t ∧ (chan t v.toNat).wait = some 1 ∧ (∀ c, c ≠ v.toNat → chan t c = chan s c) ∧
      t.mem = s.mem ∧ t.jobs = s.jobs := by
  have acts : (retrainReq s v.toNat).2 =
      { s with chans := SMap.put s.chans v.toNat { chan s v.toNat with wait := some 1 } } := by
    unfold chan at idle rests
    unfold retrainReq
    rw [if_neg (by omega), if_neg (by simp [hm]), if_neg (by rw [active]; decide)]
    exact congrArg Prod.snd (if_neg (by simp [idle, rests]))
  obtain ⟨mbx, t, ran, told⟩ := command_acts (tag := tag) (idx := 0x6830) (sub := 3) (n := 2) hi h (by decide) (by decide)
    v.isLt acts rfl rfl
  refine ⟨t, ran, ?_⟩
  obtain ⟨_, _, _, _, rfl⟩ := told
  exact ⟨congrArg Chan.wait (SMap.get_put_same ..), fun c hc => SMap.get_put_other _ _ _ _ _ hc, rfl, rfl⟩

/-! ### SHUTDOWN_CLEAR (R382) -/

theorem shutdown_of_cooled (h : cooled s = true) : s.main = .shutdown := by
  unfold cooled at h
  split at h
  · exact beq_iff_eq.1 (Bool.and_eq_true_iff.1 h).1
  · cases h

theorem consNote_noted (s : State) (key v : Nat) : Noted (entKey 0xC000 5 :: logKeys) s (consNote s key v) :=
  (bump_noted _ s 0xC000 5 List.mem_cons_self).log fun _ => List.mem_cons_of_mem _

theorem shutdownClear_clears (hi : s.Inv) (fresh : stagesDue s = []) (idle : s.mbx.busy = none) (room : (owing s .cons).length < 8)
    (cool : cooled s = true) :
    ∃ t, exec (.shutdownClear .cons tag 0xA5#8) s = .next t ∧ t.main = .standby ∧ t.con.faultN = false ∧ t.mem = s.mem := by
  have entry : TakesValue 0xB040 2 1 .cons := by decide
  obtain ⟨u, acts, n⟩ : ∃ u, (shutdownClear s 0xA5).2 = u ∧
      Noted (entKey 0xC000 5 :: logKeys) { s with main := .standby, con := { s.con with faultN := false, coolAt := none } } u :=
    ⟨_, congrArg Prod.snd (if_pos (by simp [cool])), consNote_noted _ _ _⟩
  obtain ⟨mbx, t, ran, told⟩ := ends_cmdWrite (tag := tag) (u := u) hi ⟨by simp [available, shutdown_of_cooled cool], fresh, idle, room⟩ entry
    (by decide : 0xA5 < 256 ^ 1) rfl acts n.touched n.stalled
  refine ⟨t, ran, ?_⟩
  obtain ⟨_, _, _, _, rfl⟩ := told
  obtain ⟨⟨_, _, _, _, _, _, _, _, _, _, rfl⟩, -, -⟩ := n
  exact ⟨rfl, rfl, rfl⟩

/-! ### The doorbell of the mailbox (R423, Table 14.6) -/

/-- A doorbell write of 1 serves the request and puts its response into MBX_RESP. -/
theorem mbxDoorbell_answers (idle : s.mbx.busy = none) (reached : hostReaches s = true) :
    let a := serveMessage s .mailbox (mbxMessage s)
    ∃ t, exec (.mbxDoorbell ⟨1#32, 0⟩) s = .next t ∧ t.mbx.done = true ∧ t.mbx.resp = putBytes a.2.mbx.resp 0 a.1 := by
  intro a
  have settled : mbxSettle s = s := by rw [mbxSettle, idle]
  have door : mbxDoor s 1 0 = mbxDone a.2 a.1 := by
    unfold mbxDoor
    dsimp only
    rw [settled, idle]
    rfl
  have told := mbxDone_told a.2 a.1
  obtain ⟨_, _, _, _, charged⟩ := chargeAll_rest (mbxDone a.2 a.1) 0 false
  have same : (noteState s (rested (mbxDone a.2 a.1))).mbx = (mbxDone a.2 a.1).mbx := by
    obtain ⟨_, _, _, _, e⟩ := noteState_told s (rested (mbxDone a.2 a.1))
    rw [e, rested, charged]
  have answered : (mbxDone a.2 a.1).mbx = { a.2.mbx with busy := none, done := true, resp := putBytes a.2.mbx.resp 0 a.1 } := by
    obtain ⟨_, _, _, _, e⟩ := told
    rw [e]
  refine ⟨noteState s (rested (mbxDone a.2 a.1)), ?_, ?_, ?_⟩
  · change ends s (if hostReaches s then mbxDoor s 1 0 else s) = _
    rw [if_pos reached, door]
    rfl
  · rw [same, answered]
  · rw [same, answered]

/-- A doorbell write of another value does nothing. -/
theorem mbxDoorbell_other (hi : s.Inv) (idle : s.mbx.busy = none) {v : BitVec 32} (ns : Nat) (hv : v ≠ 1#32) :
    exec (.mbxDoorbell ⟨v, ns⟩) s = .next s := by
  have other : v.toNat ≠ 1 := fun e => hv (BitVec.eq_of_toNat_eq e)
  have settled : mbxSettle s = s := by rw [mbxSettle, idle]
  have door : mbxDoor s v.toNat ns = s := by
    unfold mbxDoor
    dsimp only
    rw [settled, idle]
    exact if_neg other
  change ends s (if hostReaches s then mbxDoor s v.toNat ns else s) = _
  rw [door, ite_self]
  exact ends_same s s hi.charged hi.inReach rfl

end Commands

/-- Settles O59: each command by the value written to its entry, with the response on its way; the mailbox's doorbell serves at once. -/
theorem commandEntriesAct : Obligations.CommandEntriesAct := by
  intro s tr tag hi fresh idle room
  refine ⟨fun v reached right key scope => ⟨fun hm => ?_, fun con hm released => ?_⟩, fun h hm => ?_, fun con cool => ?_, fun reached => ?_⟩
  · exact resetCmd_ready hi ⟨reached, fresh, idle, room⟩ right key scope hm
  · subst con
    exact resetCmd_standby hi ⟨reached, fresh, idle, room⟩ key scope hm released
  · exact ⟨persistClear_ends hi h, powerReqRun_runs hi h, powerReqSleep_sleeps hi h hm, powerReqDeep_waits hi h hm,
      fabTransitReq_ends hi h hm, fun _ => keepRelease_releases hi h, fun _ => retrainReq_waits hi h hm⟩
  · subst con
    exact shutdownClear_clears hi fresh idle room cool
  · exact ⟨mbxDoorbell_answers idle reached, fun _ ns => mbxDoorbell_other hi idle ns⟩

end Sys2Proof.Machine

namespace Sys2Proof

/-- A table whose values are changed in place. -/
theorem SMap.find?_map {α : Type} {m : SMap α} {g : Nat × α → Nat × α} (hk : ∀ x, (g x).1 = x.1) (k : Nat) :
    SMap.find? (m.map g) k = (SMap.find? m k).map (fun v => (g (k, v)).2) := by
  induction m with
  | nil => rfl
  | cons x m ih =>
    obtain ⟨j, v⟩ := x
    have key : g (j, v) = (j, (g (j, v)).2) := Prod.ext (hk _) rfl
    rw [List.map_cons, key]
    simp only [SMap.find?]
    split
    · rename_i e
      rw [← e]
      rfl
    · exact ih

end Sys2Proof

namespace Sys2Proof.Machine

/-! ## HBM channels (R184, R201 to R205, R464) -/

section Channels
variable {s t u : State} {ch c : Nat}

theorem Noted.chan {ks : List Nat} (h : Noted ks s t) (c : Nat) : chan t c = chan s c := by
  obtain ⟨⟨_, _, _, _, _, _, _, _, _, _, rfl⟩, -, -⟩ := h
  rfl

theorem Noted.behind {ks : List Nat} (h : Noted ks s t) : t.behind = s.behind := by
  obtain ⟨⟨_, _, _, _, _, _, _, _, _, _, rfl⟩, -, -⟩ := h
  rfl

/-! ### What waits for nothing -/

/-- With no engine at work the engines leave the part as it is. -/
theorem enginesAll_idle (h : ∀ n e, currentOf (tile s n) e = none) : enginesAll s = s :=
  List.foldl_fixed' (fun n => enginesGo_idle s n (h n)) _

theorem performBehind_none (h : s.behind = []) : performBehind s = s := by
  unfold performBehind
  rw [h]
  change { s with behind := [] } = s
  rw [← h]

/-! ### Scale factors -/

/-- The entries that the start and the end of a retrain count in: theirs, and those of scaling and logging. -/
def retrainKeys : List Nat := [entKey 0x6830 4, entKey 0x6830 5, entKey 0x7310 3, entKey 0x7310 4] ++ logKeys

/-- `t` is `s` with scale factors computed again and events counted and noted. -/
def Rescaled (s t : State) : Prop := ∃ scale, Noted retrainKeys { s with scale := scale } t

theorem Noted.rescaled (h : Noted retrainKeys s t) : Rescaled s t := ⟨s.scale, h⟩

theorem Rescaled.noted (h : Rescaled s t) {ks : List Nat} (n : Noted ks t u) (hk : ∀ k ∈ ks, k ∈ retrainKeys) : Rescaled s u :=
  h.imp fun _ g => g.trans (n.mono hk)

theorem Rescaled.chan (h : Rescaled s t) (c : Nat) : chan t c = chan s c := h.elim fun _ n => n.chan c
theorem Rescaled.time (h : Rescaled s t) : t.time = s.time := h.elim fun _ n => n.time
theorem Rescaled.mem (h : Rescaled s t) : t.mem = s.mem := h.elim fun _ n => n.mem
theorem Rescaled.tiles (h : Rescaled s t) : t.tiles = s.tiles := h.elim fun _ n => n.tiles
theorem Rescaled.behind (h : Rescaled s t) : t.behind = s.behind := h.elim fun _ n => n.behind
theorem Rescaled.touched (h : Rescaled s t) : t.touched = s.touched := h.elim fun _ n => n.touched
theorem Rescaled.stalled (h : Rescaled s t) : t.stalled = s.stalled := h.elim fun _ n => n.stalled

theorem Rescaled.setScale (h : Rescaled s t) (r f : Nat × Nat) : Rescaled s (setScale t r f) := by
  have scaled : ∀ m, Rescaled s { t with scale := m } := fun m => by
    obtain ⟨_, ⟨_, _, _, _, _, _, _, _, _, _, rfl⟩, sent, entries⟩ := h
    exact ⟨m, ⟨_, _, _, _, _, _, _, _, _, _, rfl⟩, sent, entries⟩
  unfold Machine.setScale
  dsimp only
  split
  · exact h
  · exact (scaled _).noted (((bump_noted retrainKeys _ 0x7310 4 (by decide)).set (by decide)).log (by decide)) fun _ => id

theorem Rescaled.rescale (h : Rescaled s t) (rs : List (Nat × Nat)) : Rescaled s (rescale t rs) :=
  foldl_keeps (Rescaled s) _ (fun _ r hv => hv.setScale r _) rs t h

/-- The outcome of a command that ends in such a state. -/
theorem ends_rescaled (hi : s.Inv) (h : Rescaled u t) (touched : u.touched = s.touched) (stalled : u.stalled = s.stalled) :
    ∃ v, ends s t = .next v ∧ Rescaled u v :=
  ⟨_, ends_noted s t (h.touched.trans (touched.trans hi.charged)) (h.stalled.trans (stalled.trans hi.inReach)),
    h.noted (noteState_noted s t) nofun⟩

/-! ### Self-refresh (R354, R464) -/

theorem wakeModule_rest (s : State) (m : Nat) : ∃ woken chans, wakeModule s m = { s with woken := woken, chans := chans } := by
  unfold wakeModule
  split <;> exact ⟨_, _, rfl⟩

/-- The channels of a stack taken out of self-refresh. -/
theorem chan_unrefreshed (s : State) (m c : Nat) (woken : SMap Nat) : chan { s with
      woken := woken, chans := s.chans.map (fun x => if x.1 / 32 = m then (x.1, { x.2 with selfRefresh := false }) else x) } c =
    if c / 32 = m then { chan s c with selfRefresh := false } else chan s c := by
  unfold Machine.chan SMap.get
  dsimp only
  rw [SMap.find?_map (fun x => by split <;> rfl)]
  by_cases here : c / 32 = m
  · cases SMap.find? s.chans c <;> simp [here, Chan.reset]
  · simp [here]

/-- In SLEEP every channel of a stack that is woken is out of self-refresh. -/
theorem chan_wakeModule (s : State) (m c : Nat) : chan (wakeModule s m) c =
    if s.power = .sleep ∧ c / 32 = m then { chan s c with selfRefresh := false } else chan s c := by
  unfold wakeModule
  by_cases wakes : (decide (s.power = .sleep) && ((List.range 32).any (fun i => (Machine.chan s (32 * m + i)).selfRefresh) ||
      (SMap.find? s.woken m).isSome)) = true
  · have asleep : s.power = .sleep := by simpa using (Bool.and_eq_true_iff.1 wakes).1
    rw [if_pos wakes, chan_unrefreshed]
    simp only [asleep, true_and]
  · rw [if_neg wakes]
    split
    · rename_i here
      obtain ⟨asleep, rfl⟩ := here
      have off : (Machine.chan s c).selfRefresh = false := by
        by_contra on
        refine wakes (Bool.and_eq_true_iff.2 ⟨decide_eq_true asleep, Bool.or_eq_true_iff.2 (.inl ?_)⟩)
        refine List.any_eq_true.2 ⟨c % 32, List.mem_range.2 (Nat.mod_lt _ (by decide)), ?_⟩
        rw [Nat.div_add_mod c 32]
        exact Bool.eq_true_of_not_eq_false on
      rw [← off]
    · rfl

/-! ### Parity errors (R184, R201) -/

/-- The parity errors of a channel within the last second. -/
def freshErrors (s : State) (ch : Nat) : List (Nat × Nat) :=
  (chan s ch).parity.filter (fun e => decide (s.time < e.1 + 1000000000))

/-- How many parity errors the channel had within the last second. -/
def freshCount (s : State) (ch : Nat) : Nat := (freshErrors s ch).foldl (fun m e => m + e.2) 0

/-- The triggers of a channel within the last 10 s. -/
def freshTriggers (s : State) (ch : Nat) : List Nat :=
  (chan s ch).triggers.filter (fun x => decide (s.time < x + 10000000000))

theorem parityErrors_below {k n : Nat} (hn : 0 < n) (h : freshCount s ch + n < rd s 0x6830 1) :
    parityErrors (k + 1) s ch n = setChan s ch { chan s ch with parity := freshErrors s ch ++ [(s.time, n)] } := by
  have room : n < rd s 0x6830 1 - freshCount s ch := by omega
  unfold parityErrors
  exact (if_pos room).trans (by rw [if_neg hn.ne']; rfl)

/-- Errors that fill the threshold are a trigger, and none of them is left over. -/
theorem parityErrors_reach {k n : Nat} (hn : 0 < n) (h : freshCount s ch + n = rd s 0x6830 1) :
    parityErrors (k + 1) s ch n =
      if channelsRun (parityTrigger s ch) then parityErrors k (parityTrigger s ch) ch 0 else parityTrigger s ch := by
  have full : ¬ n < rd s 0x6830 1 - freshCount s ch := by omega
  have left : n - max 1 (rd s 0x6830 1 - freshCount s ch) = 0 := by omega
  rw [parityErrors]
  refine (if_neg full).trans ?_
  change (if channelsRun (parityTrigger s ch) then
    parityErrors k (parityTrigger s ch) ch (n - max 1 (rd s 0x6830 1 - freshCount s ch)) else _) = _
  rw [left]

theorem parityErrors_none {k : Nat} (empty : (chan s ch).parity = []) (h : 0 < rd s 0x6830 1) :
    parityErrors (k + 1) s ch 0 = setChan s ch { chan s ch with parity := [] } := by
  unfold parityErrors
  dsimp only
  rw [empty]
  exact if_pos h

/-- The channel with a trigger now: its errors are gone and a retrain is pending. -/
def withTrigger (s : State) (ch : Nat) : State :=
  setChan s ch { chan s ch with parity := [], triggers := freshTriggers s ch ++ [s.time], wait := some ((chan s ch).wait.getD 0) }

theorem parityTrigger_retrains (h : (freshTriggers s ch).length < 2) : parityTrigger s ch = withTrigger s ch := by
  refine if_neg ?_
  have few : (freshTriggers s ch ++ [s.time]).length < 3 := by simp; omega
  exact not_le.2 few

theorem parityTrigger_fails (h : 2 ≤ (freshTriggers s ch).length) : parityTrigger s ch = channelFail (withTrigger s ch) ch := by
  refine if_pos ?_
  have many : 3 ≤ (freshTriggers s ch ++ [s.time]).length := by simp; omega
  exact many

/-! ### A channel that fails (R205) -/

/-- A class-C fault off the forwarding path in READY or in a discard enters FAULTED, unless it leads to TRANSIT (Table 16.2). -/
theorem classC_serving (hm : s.main = .ready ∨ s.main = .discarding) (hk : rd s 0x8040 2 ≠ 1) (onPath : Bool) :
    classC s onPath = enterFaulted s onPath := by
  rcases hm with hm | hm <;> rw [classC, hm] <;> exact if_neg (by simp [hk])

theorem main_of_channelsRun (h : channelsRun s = true) : s.main = .ready ∨ s.main = .discarding := by
  simp only [channelsRun, Bool.and_eq_true, Bool.or_eq_true, beq_iff_eq] at h
  exact h.1

/-- A failed channel takes the part to FAULTED: every job has ended. -/
theorem channelFail_faults (hm : s.main = .ready ∨ s.main = .discarding) (hk : rd s 0x8040 2 ≠ 1) :
    (channelFail s ch).main = .faulted ∧ (channelFail s ch).jobs = [] ∧ JobsDropping s (channelFail s ch) := by
  obtain ⟨v, u, fails, n⟩ : ∃ v u, channelFail s ch = classC u false ∧ Noted logKeys (setChan s ch v) u :=
    ⟨_, _, rfl, (queueRecord_noted _ 2 _).trans (logEvent_noted _ _ _)⟩
  have kept : JobsDropping s u := ⟨n.time, n.mem, n.touched, n.stalled⟩
  have unset : rd u 0x8040 2 ≠ 1 := by rwa [n.rd (by decide)]
  have f := enterFaulted_faults u false
  rw [fails, classC_serving (by rwa [n.main]) unset]
  exact ⟨f.main, f.jobs, kept.trans f.keeps⟩

/-- The outcome of a command that ends with it. -/
theorem ends_channelFail (hi : s.Inv) (hm : u.main = .ready ∨ u.main = .discarding) (hk : rd u 0x8040 2 ≠ 1)
    (touched : u.touched = s.touched) (stalled : u.stalled = s.stalled) :
    ∃ t, ends s (channelFail u ch) = .next t ∧ t.main = .faulted ∧ t.jobs = [] := by
  obtain ⟨main, jobs, kept⟩ := channelFail_faults (ch := ch) hm hk
  exact ⟨_, ends_noted s _ (kept.touched.trans (touched.trans hi.charged)) (kept.stalled.trans (stalled.trans hi.inReach)),
    (noteState_main _ _).trans main, (noteState_jobs _ _).trans jobs⟩

/-! ### The commands -/

section Parity
variable {n : Nat}

theorem execHbmParityTrigger_on (run : channelsRun s = true) (active : s.lay.chans.contains ch = true) (hn : 0 < n) :
    exec (.hbmParityTrigger ⟨ch, n⟩) s = ends s (parityErrors (n + 1) s ch n) := by
  change ends s (if channelsRun s && s.lay.chans.contains ch && decide (0 < n) then parityErrors (n + 1) s ch n else s) = _
  rw [if_pos (by rw [run, active, decide_eq_true hn]; rfl)]

/-- Errors below the threshold are noted with their time. -/
theorem hbmParityTrigger_counts (hi : s.Inv) (run : channelsRun s = true) (active : s.lay.chans.contains ch = true) (hn : 0 < n)
    (h : freshCount s ch + n < rd s 0x6830 1) : exec (.hbmParityTrigger ⟨ch, n⟩) s =
      .next (noteState s (setChan s ch { chan s ch with parity := freshErrors s ch ++ [(s.time, n)] })) := by
  rw [execHbmParityTrigger_on run active hn, parityErrors_below hn h]
  exact ends_noted s _ hi.charged hi.inReach

/-- Errors that reach it make a retrain pending. -/
theorem hbmParityTrigger_retrains (hi : s.Inv) (run : channelsRun s = true) (active : s.lay.chans.contains ch = true) (hn : 0 < n)
    (h : freshCount s ch + n = rd s 0x6830 1) (few : (freshTriggers s ch).length < 2) :
    ∃ t, exec (.hbmParityTrigger ⟨ch, n⟩) s = .next t ∧ (chan t ch).wait = some ((chan s ch).wait.getD 0) ∧
      s.time ∈ (chan t ch).triggers ∧ (chan t ch).parity = [] ∧ (∀ c, c ≠ ch → chan t c = chan s c) ∧ t.mem = s.mem := by
  obtain ⟨k, rfl⟩ := Nat.exists_eq_succ_of_ne_zero hn.ne'
  have again : parityErrors (k + 1) (withTrigger s ch) ch 0 = setChan (withTrigger s ch) ch { chan (withTrigger s ch) ch with parity := [] } :=
    parityErrors_none (by rw [withTrigger, chan_setChan]) (by omega : 0 < rd s 0x6830 1)
  have same : { chan (withTrigger s ch) ch with parity := [] } = chan (withTrigger s ch) ch := by rw [withTrigger, chan_setChan]
  rw [same] at again
  have reached : parityErrors (k + 1 + 1) s ch (k + 1) = setChan (withTrigger s ch) ch (chan (withTrigger s ch) ch) := by
    rw [parityErrors_reach hn h, parityTrigger_retrains few, ← again]
    exact if_pos run
  have n := noteState_noted s (setChan (withTrigger s ch) ch (chan (withTrigger s ch) ch))
  have here : ∀ c, chan (noteState s (setChan (withTrigger s ch) ch (chan (withTrigger s ch) ch))) c = chan (withTrigger s ch) c := fun c => by
    rw [n.chan]
    by_cases e : c = ch
    · rw [e, chan_setChan]
    · exact chan_setChan_other _ _ _ _ e
  refine ⟨_, ?_, ?_, ?_, ?_, fun c hc => ?_, n.mem⟩
  · rw [execHbmParityTrigger_on run active hn, reached]
    exact ends_noted s _ hi.charged hi.inReach
  · rw [here, withTrigger, chan_setChan]
  · rw [here, withTrigger, chan_setChan]
    exact List.mem_append_right _ (List.mem_singleton_self _)
  · rw [here, withTrigger, chan_setChan]
  · rw [here, withTrigger, chan_setChan_other _ _ _ _ hc]

/-- The third trigger within 10 s fails the channel. -/
theorem hbmParityTrigger_fails (hi : s.Inv) (run : channelsRun s = true) (active : s.lay.chans.contains ch = true) (hn : 0 < n)
    (h : freshCount s ch + n = rd s 0x6830 1) (many : 2 ≤ (freshTriggers s ch).length) (hk : rd s 0x8040 2 ≠ 1) :
    ∃ t, exec (.hbmParityTrigger ⟨ch, n⟩) s = .next t ∧ t.main = .faulted ∧ t.jobs = [] := by
  have serving : (withTrigger s ch).main = .ready ∨ (withTrigger s ch).main = .discarding := main_of_channelsRun run
  have ended : channelsRun (channelFail (withTrigger s ch) ch) = false := by
    rw [channelsRun, (channelFail_faults serving hk).1]
    rfl
  rw [execHbmParityTrigger_on run active hn, parityErrors_reach hn h, parityTrigger_fails many, if_neg (by simp [ended])]
  exact ends_channelFail hi serving hk rfl rfl

end Parity

/-! ### Retrains (R202 to R205, R464) -/

section Retrain
variable {due at' ns : Nat}

/-- The channel with a retrain that starts now. -/
def retraining (s : State) (ch trig : Nat) : Chan :=
  { chan s ch with wait := none, active := some s.time, trig := trig, last := some s.time }

/-- The part when a retrain of the channel starts, which is due from then on, with its stack out of self-refresh. -/
def wokenFor (s : State) (ch due : Nat) : State := wakeModule (advance s due) (ch / 32)

theorem wokenFor_rest (s : State) (ch due : Nat) : ∃ woken chans, wokenFor s ch due = { advance s due with woken := woken, chans := chans } :=
  wakeModule_rest _ _

theorem chan_wokenFor (s : State) (ch due c : Nat) : chan (wokenFor s ch due) c =
    if s.power = .sleep ∧ c / 32 = ch / 32 then { chan s c with selfRefresh := false } else chan s c :=
  chan_wakeModule (advance s due) (ch / 32) c

/-- A retrain that is due starts where none of its stack runs and none below waits. -/
theorem retrainGo_starts (hd : retrainDue s ch = some due) (rests : ∀ c, c / 32 = ch / 32 → (chan s c).active = none)
    (lowest : ∀ c, c / 32 = ch / 32 → c < ch → (chan s c).wait = none) :
    ∃ trig, Rescaled (setChan (wokenFor s ch due) ch (retraining (wokenFor s ch due) ch trig)) (retrainGo s ch) := by
  have stack : ∀ c ∈ (List.range 32).map (· + ch / 32 * 32), c / 32 = ch / 32 := fun c hc => by
    obtain ⟨i, hi, rfl⟩ := List.mem_map.1 hc
    have := List.mem_range.1 hi
    omega
  have rest : ((List.range 32).map (· + ch / 32 * 32)).any (fun c => (chan s c).active.isSome) = false :=
    List.any_eq_false.2 fun c hc => by simp [rests c (stack c hc)]
  obtain ⟨trig, goes⟩ : ∃ trig, retrainGo s ch = rescale (logEvent (bump (setChan (wokenFor s ch due) ch
      (retraining (wokenFor s ch due) ch trig)) 0x6830 4) 0x6801 (leBytes 2 ch ++ leBytes 1 trig)) [(5, ch)] := by
    refine ⟨(chan s ch).wait.getD 0, ?_⟩
    unfold retrainGo
    rw [hd]
    refine if_neg ?_
    rw [rest, Bool.false_or, Bool.not_eq_true, List.any_eq_false]
    intro c hc
    by_cases below : c < ch
    · have idle : retrainDue s c = none := by rw [retrainDue, lowest c (stack c hc) below]
      simp [idle]
    · simp [below]
  have counted : ∀ v : State, Noted retrainKeys v (bump v 0x6830 4) := fun v => bump_noted _ v 0x6830 4 (by decide)
  rw [goes]
  exact ⟨trig, ((counted _).log (by decide)).rescaled.rescale _⟩

theorem retrainStart_starts (hi : s.Inv) (run : channelsRun s = true) (active : s.lay.chans.contains ch = true)
    (hd : retrainDue s ch = some due) (rests : ∀ c, c / 32 = ch / 32 → (chan s c).active = none)
    (lowest : ∀ c, c / 32 = ch / 32 → c < ch → (chan s c).wait = none) :
    ∃ t, exec (.retrainStart ch) s = .next t ∧ (chan t ch).active = some (max s.time due) ∧ (chan t ch).wait = none ∧
      t.time = max s.time due ∧ (∀ c, c / 32 ≠ ch / 32 ∨ s.power ≠ .sleep → c ≠ ch → chan t c = chan s c) ∧
      (s.power = .sleep → ∀ c, c / 32 = ch / 32 → (chan t c).selfRefresh = false ∧
        (c ≠ ch → chan t c = { chan s c with selfRefresh := false })) ∧ t.mem = s.mem := by
  obtain ⟨trig, r⟩ := retrainGo_starts hd rests lowest
  obtain ⟨woken, chans, woke⟩ := wokenFor_rest s ch due
  have now : (wokenFor s ch due).time = max s.time due := by rw [woke]; rfl
  obtain ⟨t, ran, h⟩ := ends_rescaled hi r (by rw [woke]; rfl) (by rw [woke]; rfl)
  have here : chan t ch = retraining (wokenFor s ch due) ch trig := (h.chan ch).trans (chan_setChan ..)
  have other : ∀ c, c ≠ ch → chan t c = chan (wokenFor s ch due) c := fun c hc => (h.chan c).trans (chan_setChan_other _ _ _ _ hc)
  refine ⟨t, ?_, ?_, ?_, ?_, fun c apart hc => ?_, fun asleep c hc => ⟨?_, fun hne => ?_⟩, ?_⟩
  · change ends s (if channelsRun s && s.lay.chans.contains ch then retrainGo s ch else s) = _
    rw [if_pos (by rw [run, active]; rfl)]
    exact ran
  · rw [here, ← now]
    rfl
  · rw [here]
    rfl
  · exact h.time.trans now
  · rw [other c hc, chan_wokenFor, if_neg (by tauto)]
  · by_cases e : c = ch
    · rw [e, here, retraining, chan_wokenFor, if_pos ⟨asleep, rfl⟩]
    · rw [other c e, chan_wokenFor, if_pos ⟨asleep, hc⟩]
  · rw [other c hne, chan_wokenFor, if_pos ⟨asleep, hc⟩]
  · exact h.mem.trans (by rw [woke]; rfl)

/-- A retrain that succeeds gives the channel back; nothing waited for it. -/
theorem retrainEnd_frees (hi : s.Inv) (ha : (chan s ch).active = some at') (held : (chan s ch).held = []) (behind : s.behind = [])
    (idle : ∀ n e, currentOf (tile s n) e = none) (hn : ns ≤ 30000) :
    ∃ t, exec (.retrainEnd ch true ns) s = .next t ∧ (chan t ch).active = none ∧ t.time = max s.time (at' + ns) ∧
      (∀ c, c ≠ ch → chan t c = chan s c) ∧ t.mem = s.mem := by
  obtain ⟨u, hu⟩ : ∃ u, u = setChan (advance s (at' + ns)) ch { chan s ch with active := none, held := [] } := ⟨_, rfl⟩
  obtain ⟨v, hv, r⟩ : ∃ v, v = rescale (logEvent (raise u 0x6830 5 ns) 0x6802 (leBytes 2 ch ++ leBytes 4 ns)) [(5, ch)] ∧ Rescaled u v := by
    have noted : Noted retrainKeys u (raise u 0x6830 5 ns) := setEnt_noted _ u 0x6830 5 _ (by decide)
    exact ⟨_, rfl, (noted.log (by decide)).rescaled.rescale _⟩
  have rests : enginesAll (performBehind v) = v := by
    have tiles : ∀ n, tile v n = tile s n := fun n => by rw [tile, r.tiles, hu]; rfl
    rw [performBehind_none (r.behind.trans (by rw [hu]; exact behind)), enginesAll_idle fun n e => by rw [tiles]; exact idle n e]
  have done : retrainDone s ch true ns = v := by
    unfold retrainDone
    rw [ha]
    change enginesAll (performBehind ((chan s ch).held.foldl (fun s h => perform s true h) _)) = v
    rw [held, List.foldl_nil]
    exact hu ▸ hv ▸ rests
  obtain ⟨t, ran, h⟩ := ends_rescaled hi r (by rw [hu]; rfl) (by rw [hu]; rfl)
  refine ⟨t, ?_, ?_, ?_, fun c hc => ?_, ?_⟩
  · change ends s (if ns ≤ 30000 then retrainDone s ch true ns else s) = _
    rw [if_pos hn, done]
    exact ran
  · rw [h.chan, hu, chan_setChan]
  · exact h.time.trans (by rw [hu]; rfl)
  · rw [h.chan, hu, chan_setChan_other _ _ _ _ hc]
    rfl
  · exact h.mem.trans (by rw [hu]; rfl)

/-- A retrain without success fails the channel. -/
theorem retrainEnd_fails (hi : s.Inv) (run : channelsRun s = true) (ha : (chan s ch).active = some at') (hn : ns ≤ 30000)
    (hk : rd s 0x8040 2 ≠ 1) : ∃ t, exec (.retrainEnd ch false ns) s = .next t ∧ t.main = .faulted ∧ t.jobs = [] := by
  have done : retrainDone s ch false ns = channelFail (advance s (at' + ns)) ch := by
    unfold retrainDone
    rw [ha]
    rfl
  change ∃ t, ends s (if ns ≤ 30000 then retrainDone s ch false ns else s) = _ ∧ _
  rw [if_pos hn, done]
  exact ends_channelFail hi (main_of_channelsRun run) hk rfl rfl

end Retrain
end Channels

/-- Settles O28: errors below the threshold are noted, at it a retrain waits or the channel fails; the start and the end of a
retrain are those of the one channel. -/
theorem retrainsStartAndEnd : Obligations.RetrainsStartAndEnd := by
  intro s ch hi run active _ l sum recent
  exact ⟨fun n hn below => hbmParityTrigger_counts hi run active hn below,
    fun n hn full => ⟨hbmParityTrigger_retrains hi run active hn full, hbmParityTrigger_fails hi run active hn full⟩,
    fun due => retrainStart_starts hi run active, fun at' ns => retrainEnd_frees hi, fun at' ns ha => retrainEnd_fails hi run ha⟩

end Sys2Proof.Machine

namespace Sys2Proof.Machine

/-! ## HBM line fetches, refresh and idle stacks (R184, R190, R354) -/

section LineFetch
variable {s : State} {a b line way sec : Nat} {rq : Requester} {d : Nat → List Byte}

/-! ### Sectors from their channel -/

/-- The four sectors of a line are stored without an error. -/
def LineStored (s : State) (b line : Nat) (d : Nat → List Byte) : Prop :=
  ∀ i, i < 4 → ∃ w, storedAt s.mem (lineKey s b line i) 72 = some w ∧ rsDecode 8 w = .clean (d i)

theorem LineStored.length (h : LineStored s b line d) (hs : sec < 4) : (d sec).length = 64 := by
  obtain ⟨w, stored, clean⟩ := h sec hs
  rw [eq_take_of_rsDecode_clean clean, List.length_take, length_of_storedAt stored]
  rfl

theorem LineStored.readCode (h : LineStored s b line d) (hs : sec < 4) :
    readCode s (lineKey s b line sec) 8 [] = (.clean (d sec), s) := by
  obtain ⟨w, stored, clean⟩ := h sec hs
  simp [Machine.readCode, stored, clean]

theorem LineStored.readChan (h : LineStored s b line d) (hs : sec < 4) (rq : Requester) :
    readChan s rq b line sec [] = (.data (d sec), s) := by
  unfold Machine.readChan
  dsimp only
  rw [h.readCode hs]

theorem LineStored.sectorCopy (h : LineStored s b line d) (hs : sec < 4) : sectorCopy s b line sec = (rsEncode 6 (d sec), s) := by
  have copied : copySector s b line sec = (rsEncode 6 (d sec), d sec, [], s) := by
    unfold copySector
    rw [h.readCode hs]
  unfold Machine.sectorCopy
  rw [copied]

/-- What the cache holds of the four sectors. -/
def cachedSectors (d : Nat → List Byte) : List (List Byte) := (List.range 4).map (fun i => rsEncode 6 (d i))

theorem LineStored.fillSectors (h : LineStored s b line d) (held : List HAcc) :
    fillSectors s b line held [] = (cachedSectors d, [], s) := by
  have each : ∀ (f : List (List Byte) × List Nat × State → Nat → List (List Byte) × List Nat × State),
      (∀ x i, i < 4 → f (x, [], s) i = (x ++ [rsEncode 6 (d i)], [], s)) →
      (List.range 4).foldl f ([], [], s) = (cachedSectors d, [], s) := fun f hf => by
    change f (f (f (f ([], [], s) 0) 1) 2) 3 = _
    rw [hf _ 0 (by decide), hf _ 1 (by decide), hf _ 2 (by decide), hf _ 3 (by decide)]
    rfl
  unfold Machine.fillSectors
  refine each _ fun x i hi => ?_
  dsimp only
  split
  · rw [ite_self, h.readChan hi]
    rfl
  · rw [h.sectorCopy hi]

/-! ### The line in the cache -/

theorem fillWay_rest (s : State) (l : Line) : ∃ repeats, fillWay s l = putLine { s with repeats := repeats } l := by
  obtain ⟨repeats, freed⟩ : ∃ repeats, (List.range 4).foldl (fun s i => freeSoft s l.b 1 (lineLoc s l i)) s = { s with repeats := repeats } :=
    foldl_keeps (fun u => ∃ repeats, u = { s with repeats := repeats }) _ (by rintro _ i ⟨_, rfl⟩; exact ⟨_, rfl⟩) _ _ ⟨s.repeats, rfl⟩
  exact ⟨repeats, congrArg (putLine · l) freed⟩

theorem findLine_putLine (s : State) (l : Line) : findLine (putLine s l) l.b l.line = some l := by
  simp [findLine, putLine]

/-- The line that is allocated for a read. -/
def fetchedLine (b line way : Nat) (d : Nat → List Byte) : Line :=
  { b := b, line := line, way := way, dirty := false, prot := none, pinned := false, sectors := cachedSectors d }

theorem allocLine_free (out : findLine s b line = none) (free : victimWay s b line = some (way, none)) :
    (allocLine s b line (cachedSectors d) false none false).1 = fillWay s (fetchedLine b line way d) := by
  unfold allocLine
  rw [out, free]
  rfl

/-- The access that a line is fetched for. -/
def fetchingRead (rq : Requester) (a : Nat) : HAcc := { rq := rq, a := a, hint := .normal, op := .read [] [] }

theorem cachedSectors_getD (hs : sec < 4) : (cachedSectors d).getD sec [] = rsEncode 6 (d sec) := by
  simp [cachedSectors, hs]

theorem cachedSectors_set (hs : sec < 4) : (cachedSectors d).set sec (rsEncode 6 (d sec)) = cachedSectors d := by
  have same : (cachedSectors d)[sec]'(by simpa [cachedSectors] using hs) = rsEncode 6 (d sec) := by simp [cachedSectors]
  rw [← same, List.set_getElem_self]

/-- A read that was counted as a miss finds its line and leaves it the most recently used. -/
theorem readHbm_fetched {how : How} (arrived : s.fetches = []) (here : findLine s b line = some (fetchedLine b line way d))
    (hs : sec < 4) (full : (d sec).length = 64) (counted : how.half = true) (hint : how.hint = .normal) :
    readHbm s how a b line sec [] = (.data (d sec), putLine s (fetchedLine b line way d)) := by
  have known : onItsWay s b line = false := by rw [onItsWay, arrived]; rfl
  unfold readHbm
  rw [known, here]
  dsimp only [fetchedLine, applyUpset, List.foldl_nil, if_false, Bool.false_eq_true]
  rw [cachedSectors_getD hs, rsDecode_rsEncode (.inl rfl) full, cachedSectors_set hs]
  simp [afterHit, countAt, counted, hint]

theorem performAcc_fetched (arrived : s.fetches = []) (run : s.power = .run) (known : s.indet = [])
    (home : homeOf s a = .hbm b line sec) (hs : sec < 4) (full : (d sec).length = 64)
    (here : findLine s b line = some (fetchedLine b line way d)) :
    performAcc s true (fetchingRead rq a) =
      answerHome (noteRead (putLine s (fetchedLine b line way d)) (fetchingRead rq a)) (fetchingRead rq a) false true (d sec) := by
  have awake : wakeStack s b line = s := if_neg (by simp [run])
  have determinate : indetAt s a = false := by rw [indetAt, known]; rfl
  have read : ∀ how : How, how.free = true → how.half = true → how.hint = .normal →
      readWord s how a [] = (.data (d sec), putLine s (fetchedLine b line way d)) := fun how free counted hint => by
    unfold readWord
    rw [touchRead_free free, settle_known determinate]
    dsimp only
    rw [home]
    dsimp only
    rw [awake, readHbm_fetched arrived here hs full counted hint]
  unfold performAcc fetchingRead
  dsimp only
  rw [read _ rfl rfl rfl]
  unfold endRead
  dsimp only
  rw [received_sent full]

/-! ### The fetch that ends -/

/-- A read released behind its line, where it charges nothing and finds nothing out of reach. -/
theorem releaseHeld_performs {t : State} {c : HAcc} (performed : performAcc s true c = t) (charged : t.touched = [])
    (inReach : t.stalled = none) : releaseHeld s [] true [.acc c] = t := by
  have whole := wholeOr_reached (h := .acc c) (f := fun s => performAcc s true c) (performed ▸ charged) (performed ▸ inReach)
  unfold releaseHeld
  dsimp only
  rw [List.contains_nil, Bool.and_false, if_neg Bool.false_ne_true, if_pos rfl, whole]
  exact performed

/-- The fetch of a line, with the access it was for. -/
def fetchFor (b line : Nat) (c : HAcc) : Fetch := { b := b, line := line, held := [.acc c] }

/-- The only fetch under way ends with its line not in the cache. -/
theorem lineFill_allocates {u : State} {r : List (List Byte) × List Nat × State} {c : HAcc} (normal : c.hint = .normal)
    (one : s.fetches = [fetchFor b line c]) (hu : { s with fetches := [] } = u) (out : findLine u b line = none)
    (hr : fillSectors u b line [c] [] = r) : lineFill s b line [] =
      releaseHeld (allocLine r.2.2 b line r.1 false none false).1 r.2.1 true [.acc c] := by
  have mine : sameLine b line (fetchFor b line c) = true := by simp [sameLine, fetchFor]
  have unprotected : ∀ v how, how.hint = c.hint → keepProt v how b line c.a = none := fun v how e => by
    simp [keepProt, e, normal]
  unfold lineFill
  rw [one, List.find?_cons_of_pos mine, List.filter_cons_of_neg (by simp [mine]), List.filter_nil]
  dsimp only
  rw [hu, out]
  dsimp only [fetchFor, accsOf, List.filterMap_cons, List.filterMap_nil, List.head?_cons, Option.map_some, Option.getD_some]
  rw [hr, unprotected _ _ rfl]
  rfl

/-- The part once the fetch has ended and the read is answered, with the repeat table as the writing of the line left it. -/
def answered (s : State) (repeats : List RepEntry) (l : Line) (c : HAcc) (d : List Byte) : State :=
  answerHome (noteRead (putLine (putLine { s with fetches := [], repeats := repeats } l) l) c) c false true d

theorem putLine_rest (s : State) (l : Line) : ∃ lines, putLine s l = { s with lines := lines } := ⟨_, rfl⟩

theorem noteRead_rest (s : State) (c : HAcc) : ∃ recent, noteRead s c = { s with recent := recent } := ⟨_, rfl⟩

theorem answered_rest (s : State) (repeats : List RepEntry) (l : Line) (c : HAcc) (d : List Byte) : ∃ lines recent,
    answered s repeats l c d = { s with
      fetches := [], repeats := repeats, lines := lines, recent := recent, out := .home c.rq c.a false true d :: s.out } := by
  obtain ⟨_, first⟩ := putLine_rest { s with fetches := [], repeats := repeats } l
  obtain ⟨lines, second⟩ := putLine_rest (putLine { s with fetches := [], repeats := repeats } l) l
  obtain ⟨recent, noted⟩ := noteRead_rest (putLine (putLine { s with fetches := [], repeats := repeats } l) l) c
  exact ⟨lines, recent, by rw [answered, noted, second, first, answerHome]⟩

theorem findLine_answered (s : State) (repeats : List RepEntry) (l : Line) (c : HAcc) (d : List Byte) :
    findLine (answered s repeats l c d) l.b l.line = some l := by
  have same : (answered s repeats l c d).lines = (putLine (putLine { s with fetches := [], repeats := repeats } l) l).lines := rfl
  unfold findLine
  rw [same]
  exact findLine_putLine _ l

theorem lineFill_answers (hi : s.Inv) (run : s.power = .run) (known : s.indet = [])
    (one : s.fetches = [fetchFor b line (fetchingRead rq a)]) (home : homeOf s a = .hbm b line sec)
    (hs : sec < 4) (out : findLine s b line = none) (free : victimWay s b line = some (way, none))
    (stored : LineStored s b line d) : ∃ repeats, lineFill s b line [] =
      answered s repeats (fetchedLine b line way d) (fetchingRead rq a) (d sec) := by
  obtain ⟨u, hu⟩ : ∃ u, { s with fetches := [] } = u := ⟨_, rfl⟩
  have absent : findLine u b line = none := by rw [← hu]; exact out
  have vacant : victimWay u b line = some (way, none) := by rw [← hu]; exact free
  have still : LineStored u b line d := by rw [← hu]; exact stored
  obtain ⟨repeats, filled⟩ := fillWay_rest u (fetchedLine b line way d)
  have performed : performAcc (putLine { u with repeats := repeats } (fetchedLine b line way d)) true (fetchingRead rq a) =
      answered s repeats (fetchedLine b line way d) (fetchingRead rq a) (d sec) := by
    rw [performAcc_fetched (d := d) (b := b) (line := line) (way := way) (sec := sec) (by rw [← hu]; rfl) (by rw [← hu]; exact run)
      (by rw [← hu]; exact known) (by rw [← hu]; exact home) hs (stored.length hs) (findLine_putLine _ (fetchedLine b line way d)),
      ← hu, answered]
  obtain ⟨_, _, rest⟩ := answered_rest s repeats (fetchedLine b line way d) (fetchingRead rq a) (d sec)
  refine ⟨repeats, ?_⟩
  rw [lineFill_allocates rfl one hu absent (still.fillSectors _), allocLine_free absent vacant, filled]
  refine releaseHeld_performs performed ?_ ?_
  · rw [rest]
    exact hi.charged
  · rw [rest]
    exact hi.inReach

/-- A line fetch that ends is charged to no engine, and no command waited behind it. -/
theorem hbmLineFill_answers (hi : s.Inv) (run : s.power = .run) (known : s.indet = []) (idle : ∀ n e, currentOf (tile s n) e = none)
    (behind : s.behind = []) (one : s.fetches = [fetchFor b line (fetchingRead rq a)]) (home : homeOf s a = .hbm b line sec)
    (hs : sec < 4) (out : findLine s b line = none) (free : victimWay s b line = some (way, none)) (stored : LineStored s b line d) :
    ∃ repeats, exec (.hbmLineFill b line ⟨[], false⟩) s =
      .next (noteState s (answered s repeats (fetchedLine b line way d) (fetchingRead rq a) (d sec))) := by
  obtain ⟨repeats, filled⟩ := lineFill_answers hi run known one home hs out free stored
  obtain ⟨t, ht⟩ : ∃ t, answered s repeats (fetchedLine b line way d) (fetchingRead rq a) (d sec) = t := ⟨_, rfl⟩
  obtain ⟨lines, recent, rest⟩ := answered_rest s repeats (fetchedLine b line way d) (fetchingRead rq a) (d sec)
  rw [ht] at filled rest
  have here : s.fetches.any (sameLine b line) = true := by simp [one, sameLine, fetchFor]
  refine ⟨repeats, ?_⟩
  change ends s (if s.fetches.any (sameLine b line) then enginesAll (performBehind (lineFill s b line [])) else s) = _
  rw [if_pos here, filled, performBehind_none (by rw [rest]; exact behind), enginesAll_idle (by rw [rest]; exact idle), ht]
  exact ends_noted _ _ (by rw [rest]; exact hi.charged) (by rw [rest]; exact hi.inReach)

end LineFetch

/-! ### Idle stacks (R354) -/

/-- The channels of a stack put into self-refresh. -/
def refreshed (m : Nat) (chans : SMap Chan) : SMap Chan :=
  chans.map (fun c => if c.1 / 32 = m then (c.1, { c.2 with selfRefresh := true }) else c)

theorem selfRefresh_of_mem_refreshed {m : Nat} {chans : SMap Chan} {c : Nat × Chan} (h : c ∈ refreshed m chans) (here : c.1 / 32 = m) :
    c.2.selfRefresh = true := by
  obtain ⟨x, -, rfl⟩ := List.mem_map.1 h
  split
  · rfl
  · next other => exact absurd (by rwa [if_neg other] at here) other

/-- A woken stack with no retrain running goes back to self-refresh 1 ms after it was woken. -/
theorem selfRefreshIdle_sleeps {s : State} {m at' : Nat} (woken : SMap.find? s.woken m = some at')
    (idle : ∀ c, c / 32 = m → (chan s c).active = none) : selfRefreshIdle s m =
      { advance s (at' + 1000000) with woken := SMap.erase s.woken m, chans := refreshed m s.chans } := by
  have untrained : (List.range 32).any (fun i => (chan s (32 * m + i)).active.isSome) = false := by
    refine List.any_eq_false.2 fun i hi => ?_
    have small := List.mem_range.1 hi
    simp [idle (32 * m + i) (by omega)]
  unfold selfRefreshIdle
  rw [untrained, woken]
  rfl

/-- Settles O27: the state after each of the three commands is found in full, and the clauses are read off it. -/
theorem lineFetchesEnd : Obligations.LineFetchesEnd := by
  unfold Obligations.LineFetchesEnd
  refine ⟨fun s b line a way rq d hi _ run known idle behind one home out free stored => ?_, fun _ _ => rfl, ?_⟩
  · obtain ⟨repeats, ended⟩ := hbmLineFill_answers hi run known idle behind one home (by omega) out free stored
    obtain ⟨lines, recent, rest⟩ := answered_rest s repeats (fetchedLine b line way d) (fetchingRead rq a) (d (a % 256 / 64))
    have found := findLine_answered s repeats (fetchedLine b line way d) (fetchingRead rq a) (d (a % 256 / 64))
    obtain ⟨devEvents, msixPba, sent, waiting, told⟩ :=
      noteState_told s (answered s repeats (fetchedLine b line way d) (fetchingRead rq a) (d (a % 256 / 64)))
    refine ⟨_, ended, ?_, ?_, ?_, (noteState_noted s _).sent.subset ?_⟩
    · rw [told, rest]
    · rw [told, rest]
    · rw [told]
      exact congrArg (Option.map (·.sectors)) found
    · rw [rest]
      exact List.mem_cons_self
  · intro s m at' asleep woken idle
    have done : exec (.hbmSelfRefreshIdle m) s = ends s (selfRefreshIdle s m) := congrArg (ends s) (if_pos asleep)
    obtain ⟨ent, regU, regWait, touched, charged⟩ := chargeAll_rest (selfRefreshIdle s m) 0 false
    obtain ⟨devEvents, msixPba, sent, waiting, told⟩ := noteState_told s (rested (selfRefreshIdle s m))
    refine ⟨_, done, ?_⟩
    rw [told, rested, charged, selfRefreshIdle_sleeps woken idle]
    exact ⟨SMap.find?_erase_same _ _, le_max_right _ _, le_max_left _ _, fun _ => selfRefresh_of_mem_refreshed, rfl⟩

end Sys2Proof.Machine
